-- ==== Sys2Proof/Word.lean ====
section
/-!
DEFINITION. The word types of the ZK-640: bytes, 64-bit scalar words, 32-bit slot words, 128-bit bundles.
-/
namespace Sys2Proof

/-- A byte of Slate or global memory (R3). -/
abbrev Byte := BitVec 8

/-- A scalar register or a staging word (R17). -/
abbrev Word := BitVec 64

/-- A slot of a bundle, or a purlin instruction (R56, R398). -/
abbrev Slot := BitVec 32

/-- The FLAGS bits of R32, bit 0 NV to bit 9 CNF. -/
abbrev Flags := BitVec 10

end Sys2Proof
end

