-- ==== Sys2Proof/Machine/Bits.lean ====
section
/-!
DEFINITION. Bit fields, sign extension and little-endian byte order (R3): the helpers that the decoder and the meanings
share.
-/
namespace Sys2Proof

/-- Bits [lo + len - 1 : lo] of a bit vector. -/
def fld {n : Nat} (lo len : Nat) (w : BitVec n) : BitVec len := w.extractLsb' lo len

/-- Bits [lo + len - 1 : lo] of a bit vector, as a number. -/
def fldN {n : Nat} (lo len : Nat) (w : BitVec n) : Nat := (w.extractLsb' lo len).toNat

/-- Bit i. -/
def bitAt {n : Nat} (i : Nat) (w : BitVec n) : Bool := w.getLsbD i

/-- Bits [lo + len - 1 : lo] of w replaced by x. -/
def putFld {n : Nat} (lo len : Nat) (x : Nat) (w : BitVec n) : BitVec n :=
  (w &&& ~~~ (((BitVec.ofNat n (2 ^ len - 1))) <<< lo)) ||| ((BitVec.ofNat n (x % 2 ^ len)) <<< lo)

/-- The bits of a field, sign-extended to 64 bits (R63). -/
def sext64 {n : Nat} (w : BitVec n) : BitVec 64 := w.signExtend 64

/-- Field of a Nat taken as a bit string. -/
def natFld (lo len x : Nat) : Nat := (x >>> lo) % 2 ^ len

/-- The signed value of the low n bits of x. -/
def toSigned (n x : Nat) : Int :=
  if x % 2 ^ n < 2 ^ (n - 1) then ((x % 2 ^ n : Nat) : Int) else ((x % 2 ^ n : Nat) : Int) - ((2 ^ n : Nat) : Int)

/-- A number as its n bytes, least significant first (R3). -/
def bytesOf : Nat → Nat → List Byte
  | 0, _ => []
  | n + 1, x => BitVec.ofNat 8 x :: bytesOf n (x / 256)

/-- The number that bytes hold, least significant first (R3). -/
def ofBytes : List Byte → Nat
  | [] => 0
  | b :: r => b.toNat + 256 * ofBytes r

/-- The first n bytes of a list, missing ones as zero. -/
def takeBytes : Nat → List Byte → List Byte
  | 0, _ => []
  | n + 1, [] => 0 :: takeBytes n []
  | n + 1, b :: r => b :: takeBytes n r
/-- n bytes of a list from offset o, missing ones as zero. -/
def bytesAt (o n : Nat) (l : List Byte) : List Byte := takeBytes n (l.drop o)

/-- The number in n bytes of a list at offset o. -/
def numAt (o n : Nat) (l : List Byte) : Nat := ofBytes (bytesAt o n l)

/-- x rounded down, and up, to a multiple of n. -/
def alignDown (n x : Nat) : Nat := x / n * n
def alignUp (n x : Nat) : Nat := (x + n - 1) / n * n
def ceilDiv (x n : Nat) : Nat := (x + n - 1) / n

/-- The numbers lo, lo + 1, .. below hi. -/
def span (lo hi : Nat) : List Nat := (List.range (hi - lo)).map (lo + ·)

/-- The number of set bits of x among its low n bits. -/
def popcount (n : Nat) (x : Nat) : Nat := (List.range n).foldl (fun s i => if x.testBit i then s + 1 else s) 0

/-- A bit vector of n bits from a predicate on bit numbers. -/
def maskOf (n : Nat) (f : Nat → Bool) : BitVec n :=
  BitVec.ofNat n ((List.range n).foldl (fun acc i => if f i then acc + 2 ^ i else acc) 0)

/-- CRC-64 with the polynomial of ECMA-182 (R346, R373), from 0, most significant bit first (log 30). -/
def crc64Step (crc : BitVec 64) (b : BitVec 8) : BitVec 64 :=
  (List.range 8).foldl (fun c _ => if c.msb then (c <<< 1) ^^^ 0x42F0E1EBA9EA3693#64 else c <<< 1)
    (crc ^^^ (b.zeroExtend 64 <<< 56))
def crc64 (l : List Byte) : BitVec 64 := l.foldl crc64Step 0

end Sys2Proof
end

