-- ==== Sys2Proof/Machine/Sparse.lean ====
section
/-!
DEFINITION. Tables by number (association lists, rising keys, first match) and memories: lists of (address, byte)
cells in canonical form, addresses strictly rising and no cell equal to zero, which is what an unlisted byte reads as.
-/
namespace Sys2Proof.Machine

/-- A table from numbers, sparse. -/
abbrev Tab (α : Type) := List (Nat × α)

/-- The entry at k, or d. -/
def tabGet {α : Type} (d : α) (t : Tab α) (k : Nat) : α :=
  match t with
  | [] => d
  | x :: r => if x.1 = k then x.2 else tabGet d r k

/-- The entry at k, if there is one. -/
def tabFind {α : Type} (t : Tab α) (k : Nat) : Option α :=
  match t with
  | [] => none
  | x :: r => if x.1 = k then some x.2 else tabFind r k

/-- The table with the entry at k set. -/
def tabPut {α : Type} (t : Tab α) (k : Nat) (v : α) : Tab α :=
  match t with
  | [] => [(k, v)]
  | x :: r => if k < x.1 then (k, v) :: x :: r else if x.1 = k then (k, v) :: r else x :: tabPut r k v

/-- The table without its entries at k. -/
def tabDel {α : Type} (t : Tab α) (k : Nat) : Tab α := t.filter fun x => x.1 != k

/-- The least number at or above k that no entry has (searched among one more number than there are entries). -/
def tabFree {α : Type} (t : Tab α) (k : Nat) : Nat :=
  ((List.range (t.length + 1)).map (k + ·)).foldr (fun n acc => if (tabFind t n).isNone then n else acc) k

/-- Bytes of a memory, in canonical form. -/
abbrev Mem := List Host.Cell

/-- The byte at an address; an unlisted byte is zero. -/
def memGet (m : Mem) (a : Nat) : Byte :=
  match m with
  | [] => 0
  | x :: r => if x.1 = a then x.2 else memGet r a

/-- The cells of bytes placed at a, zeros left out. -/
def memCells (a : Nat) (bs : List Byte) : Mem :=
  match bs with
  | [] => []
  | b :: r => if b = 0 then memCells (a + 1) r else (a, b) :: memCells (a + 1) r

/-- The memory with the bytes written from a upward. -/
def memWrite (m : Mem) (a : Nat) (bs : List Byte) : Mem :=
  m.filter (fun c => decide (c.1 < a)) ++ (memCells a bs ++ m.filter fun c => decide (a + bs.length ≤ c.1))

/-- The cells of [a, a + n). -/
def memPart (m : Mem) (a n : Nat) : Mem := m.filter fun c => decide (a ≤ c.1) && decide (c.1 < a + n)
/-- Bytes from a upward, by blocks of 128; n bounds the blocks. -/
def memBlocks (m : Mem) (a len : Nat) : Nat → List Byte
  | 0 => []
  | n + 1 =>
    let w := memPart m a 128
    (List.range (min 128 len)).map (fun i => memGet w (a + i)) ++ memBlocks m (a + 128) (len - 128) n
/-- The n bytes from a upward. -/
def memRead (m : Mem) (a n : Nat) : List Byte := memBlocks (memPart m a n) a n ((n + 127) / 128)

/-- A little-endian number of n bytes (R3). -/
def memNum (m : Mem) (a n : Nat) : Nat := ofBytes (memRead m a n)

/-- n bytes copied from src to dst within a memory. -/
def memCopy (m : Mem) (src dst n : Nat) : Mem :=
  let part := (m.filter fun c => decide (src ≤ c.1) && decide (c.1 < src + n)).map fun c => (c.1 - src + dst, c.2)
  m.filter (fun c => decide (c.1 < dst)) ++ (part ++ m.filter fun c => decide (dst + n ≤ c.1))

/-- Addresses strictly rising from lo, and no zero byte listed. -/
def memSorted (lo : Nat) (m : Mem) : Bool :=
  match m with
  | [] => true
  | x :: r => decide (lo ≤ x.1) && x.2 != 0 && memSorted (x.1 + 1) r

/-- The canonical form. -/
def memWf (m : Mem) : Bool := memSorted 0 m

/-- A vector's entry, and the vector with an entry set; out of range, d and no change. -/
def vget {α : Type} {n : Nat} (v : Vector α n) (i : Nat) (d : α) : α := if h : i < n then v[i] else d
def vput {α : Type} {n : Nat} (v : Vector α n) (i : Nat) (x : α) : Vector α n := v.setIfInBounds i x

/-- A vector from a function on numbers. -/
def vgen {α : Type} (n : Nat) (f : Nat → α) : Vector α n := ⟨((List.range n).map f).toArray, by simp⟩

/-- Set membership and insertion for lists without repeats, in rising order. -/
def setHas (l : List Nat) (n : Nat) : Bool := l.contains n
def setAdd (l : List Nat) (n : Nat) : List Nat :=
  match l with
  | [] => [n]
  | x :: r => if n < x then n :: x :: r else if n = x then x :: r else x :: setAdd r n
def setDel (l : List Nat) (n : Nat) : List Nat := l.filter (· != n)

end Sys2Proof.Machine
end

