-- ==== Sys2Proof/Machine/Float.lean ====
section
/-!
DEFINITION. Floating-point formats and their arithmetic (R96 to R105): values as exact dyadic numbers, one rounding of
an exact quotient, the flags of R102, conversions of R103 and R104.
-/
namespace Sys2Proof.Machine

-- The FLAGS bits (R32).
def fNV : Flags := 1
def fDZ : Flags := 2
def fOF : Flags := 4
def fUF : Flags := 8
def fNX : Flags := 16
def fNFP : Flags := 32
def fNFC : Flags := 64
def fSAT : Flags := 128
def fAOV : Flags := 256
def fCNF : Flags := 512

/-- A flag when a condition holds. -/
def fIf (b : Bool) (f : Flags) : Flags := if b then f else 0

/-- A binary format: exponent bits, fraction bits (R96). -/
structure Fmt where
  eb : Nat
  fb : Nat
  deriving DecidableEq, Repr

def fp32 : Fmt := ⟨8, 23⟩
def bf16 : Fmt := ⟨8, 7⟩
def fp16 : Fmt := ⟨5, 10⟩

/-- The format of a floating-point view (R168): 0 FP32, 1 BF16, 2 FP16. -/
def viewFmt (t : Nat) : Fmt := if t = 1 then bf16 else if t = 2 then fp16 else fp32

def Fmt.bias (f : Fmt) : Nat := 2 ^ (f.eb - 1) - 1
def Fmt.width (f : Fmt) : Nat := f.eb + f.fb + 1
/-- The exponent of the smallest normal and of the smallest subnormal. -/
def Fmt.emin (f : Fmt) : Int := 1 - (f.bias : Int)
def Fmt.qmin (f : Fmt) : Int := f.emin - (f.fb : Int)
/-- All-ones exponent field. -/
def Fmt.eall (f : Fmt) : Nat := 2 ^ f.eb - 1
/-- The canonical NaN (R99). -/
def Fmt.nan (f : Fmt) : Nat := f.eall * 2 ^ f.fb + 2 ^ (f.fb - 1)
def Fmt.sign (f : Fmt) (neg : Bool) : Nat := if neg then 2 ^ (f.eb + f.fb) else 0
def Fmt.inf (f : Fmt) (neg : Bool) : Nat := f.sign neg + f.eall * 2 ^ f.fb
def Fmt.maxFin (f : Fmt) (neg : Bool) : Nat := f.sign neg + f.eall * 2 ^ f.fb - 1

/-- A value: NaN, an infinity, or (-1)^neg * m * 2^e. -/
inductive Val where
  | nan
  | inf (neg : Bool)
  | fin (neg : Bool) (m : Nat) (e : Int)
  deriving DecidableEq, Repr

def Val.finite : Val → Bool
  | .fin _ _ _ => true
  | _ => false
def Val.isNan : Val → Bool
  | .nan => true
  | _ => false
def Val.neg? : Val → Bool
  | .nan => false
  | .inf n => n
  | .fin n _ _ => n
def Val.isZero : Val → Bool
  | .fin _ m _ => m == 0
  | _ => false
def Val.negate : Val → Val
  | .nan => .nan
  | .inf n => .inf !n
  | .fin n m e => .fin (!n) m e
def Val.abs : Val → Val
  | .nan => .nan
  | .inf _ => .inf false
  | .fin _ m e => .fin false m e

/-- The value of a pattern (R96). -/
def unpack (f : Fmt) (x : Nat) : Val :=
  let frac := x % 2 ^ f.fb
  let ex := x / 2 ^ f.fb % 2 ^ f.eb
  let neg := x.testBit (f.eb + f.fb)
  if ex = f.eall then (if frac = 0 then .inf neg else .nan)
  else if ex = 0 then .fin neg frac f.qmin
  else .fin neg (2 ^ f.fb + frac) ((ex : Int) - (f.bias : Int) - (f.fb : Int))

/-- The value of an FP8 E4M3 pattern (R97). -/
def unpack8 (x : Nat) : Val :=
  let frac := x % 8
  let ex := x / 8 % 16
  let neg := x.testBit 7
  if ex = 15 ∧ frac = 7 then .nan
  else if ex = 0 then .fin neg frac (-9)
  else .fin neg (8 + frac) ((ex : Int) - 10)

/-- n * 2^k as a quotient of naturals: numerator and denominator after scaling by 2^k. -/
def scaleUp (n : Nat) (k : Int) : Nat := n <<< k.toNat
/-- floor(log2 (n / d)) for n, d > 0. -/
def log2Quot (n d : Nat) : Int :=
  let g : Int := (n.log2 : Int) - (d.log2 : Int)
  -- n / d lies between 2^(g - 1) and 2^(g + 1)
  if scaleUp d g ≤ scaleUp n (-g) then g else g - 1

/-- The directions of R101: 0 RNE, 1 RZ, 2 RU, 3 RD. Does a magnitude with integer part k and remainder r of d round
away from zero? -/
def roundsUp (rnd : Nat) (neg : Bool) (k r d : Nat) : Bool :=
  if r = 0 then false
  else
    match rnd with
    | 0 => decide (d < 2 * r) || (decide (d = 2 * r) && k % 2 == 1)
    | 1 => false
    | 2 => !neg
    | _ => neg

/-- |x| = n / d * 2^e rounded to a multiple of 2^q: the multiple, and whether it is inexact. -/
def roundAt (rnd : Nat) (neg : Bool) (n d : Nat) (e q : Int) : Nat × Bool :=
  let nn := scaleUp n (e - q)
  let dd := scaleUp d (q - e)
  let k := nn / dd
  let r := nn % dd
  (if roundsUp rnd neg k r dd then k + 1 else k, r != 0)

/-- The pattern of k * 2^q in a format, k below 2^(fb + 1) or equal to it; q at least qmin. -/
def packAt (f : Fmt) (neg : Bool) (k : Nat) (q : Int) : Nat :=
  -- adding the exponent step to k makes a carry into the exponent field right
  if k < 2 ^ f.fb then f.sign neg + k
  else f.sign neg + ((q - f.qmin).toNat) * 2 ^ f.fb + k

/-- The overflow result of R102. -/
def overflowTo (f : Fmt) (rnd : Nat) (neg : Bool) : Nat :=
  match rnd with
  | 0 => f.inf neg
  | 1 => f.maxFin neg
  | 2 => if neg then f.maxFin true else f.inf false
  | _ => if neg then f.inf true else f.maxFin false

/-- An exact value (-1)^neg * n / d * 2^e rounded once into a format, with OF, UF, NX and, for an infinity, NFP
(R101, R102). -/
def roundQuot (f : Fmt) (rnd : Nat) (neg : Bool) (n d : Nat) (e : Int) : Nat × Flags :=
  if n = 0 then (f.sign neg, 0)
  else
    let l := log2Quot n d + e
    let q := max (l - (f.fb : Int)) f.qmin
    let (k, inx) := roundAt rnd neg n d e q
    let bits := packAt f neg k q
    if bits ≥ f.inf neg then
      let b := overflowTo f rnd neg
      (b, fOF ||| fNX ||| fIf (b == f.inf neg) fNFP)
    else (bits, fIf inx fNX ||| fIf (inx && decide (l < f.emin)) fUF)

/-- A value rounded into a format; NaN and infinities carry no flag of their own. -/
def roundVal (f : Fmt) (rnd : Nat) : Val → Nat × Flags
  | .nan => (f.nan, 0)
  | .inf n => (f.inf n, 0)
  | .fin n m e => roundQuot f rnd n m 1 e

/-- The integer x * 2^(e - q), for q at most e. -/
def alignInt (neg : Bool) (m : Nat) (e q : Int) : Int :=
  let k : Int := (scaleUp m (e - q) : Int)
  if neg then -k else k

/-- The exact sum of two finite values (zero: the sign rule of R177 under the direction rnd). -/
def addFin (rnd : Nat) (n1 : Bool) (m1 : Nat) (e1 : Int) (n2 : Bool) (m2 : Nat) (e2 : Int) : Val :=
  let q := min e1 e2
  let x := alignInt n1 m1 e1 q + alignInt n2 m2 e2 q
  if x = 0 then .fin (if m1 = 0 ∧ m2 = 0 ∧ n1 = n2 then n1 else rnd == 3) 0 0
  else .fin (decide (x < 0)) x.natAbs q

/-- The exact sum and NV (R102): infinities of unlike signs. -/
def addVal (rnd : Nat) : Val → Val → Val × Flags
  | .nan, _ => (.nan, 0)
  | _, .nan => (.nan, 0)
  | .inf a, .inf b => if a = b then (.inf a, 0) else (.nan, fNV)
  | .inf a, .fin _ _ _ => (.inf a, 0)
  | .fin _ _ _, .inf b => (.inf b, 0)
  | .fin n1 m1 e1, .fin n2 m2 e2 => (addFin rnd n1 m1 e1 n2 m2 e2, 0)

/-- The exact product and NV: 0 times an infinity. -/
def mulVal : Val → Val → Val × Flags
  | .nan, _ => (.nan, 0)
  | _, .nan => (.nan, 0)
  | .inf a, .inf b => (.inf (a != b), 0)
  | .inf a, .fin n m _ => if m = 0 then (.nan, fNV) else (.inf (a != n), 0)
  | .fin n m _, .inf b => if m = 0 then (.nan, fNV) else (.inf (n != b), 0)
  | .fin n1 m1 e1, .fin n2 m2 e2 => (.fin (n1 != n2) (m1 * m2) (e1 + e2), 0)

/-- NFC when an operand is not finite, NFP when all are and the result is not. -/
def opFlags (f : Fmt) (ops : List Val) (bits : Nat) : Flags :=
  let allFin := ops.all Val.finite
  fIf (!allFin) fNFC ||| fIf (allFin && !(unpack f bits).finite) fNFP

/-- Rounding of an exact result, with the flags of R102. -/
def finish (f : Fmt) (rnd : Nat) (ops : List Val) (r : Val × Flags) : Nat × Flags :=
  let x := roundVal f rnd r.1
  (x.1, x.2 ||| r.2 ||| opFlags f ops x.1)

/-- A + B, A * B, A * B + C on patterns. -/
def fAdd (f : Fmt) (rnd : Nat) (x y : Nat) : Nat × Flags :=
  let a := unpack f x
  let b := unpack f y
  finish f rnd [a, b] (addVal rnd a b)
def fSub (f : Fmt) (rnd : Nat) (x y : Nat) : Nat × Flags :=
  let a := unpack f x
  let b := unpack f y
  finish f rnd [a, b] (addVal rnd a b.negate)
def fMul (f : Fmt) (rnd : Nat) (x y : Nat) : Nat × Flags :=
  let a := unpack f x
  let b := unpack f y
  finish f rnd [a, b] (mulVal a b)
/-- A * B + C with one rounding; ng negates the product, sub the addend. -/
def fFma (f : Fmt) (rnd : Nat) (ng sub : Bool) (x y z : Nat) : Nat × Flags :=
  let a := unpack f x
  let b := unpack f y
  let c := unpack f z
  let p := mulVal a b
  let pv := if ng then p.1.negate else p.1
  let s := addVal rnd pv (if sub then c.negate else c)
  finish f rnd [a, b, c] (s.1, s.2 ||| p.2)

/-- Order of two values that are not NaN: less than; -0.0 equals +0.0. -/
def valInt (q : Int) : Val → Int
  | .fin n m e => alignInt n m e q
  | _ => 0
def valLt : Val → Val → Bool
  | .nan, _ => false
  | _, .nan => false
  | .inf a, .inf b => a && !b
  | .inf a, .fin _ _ _ => a
  | .fin _ _ _, .inf b => !b
  | .fin n1 m1 e1, .fin n2 m2 e2 =>
    let q := min e1 e2
    decide (alignInt n1 m1 e1 q < alignInt n2 m2 e2 q)
def valEq (a b : Val) : Bool := !a.isNan && !b.isNan && !(valLt a b) && !(valLt b a)

/-- Order with -0.0 below +0.0 (R178). -/
def valLtZ (a b : Val) : Bool := valLt a b || (a.isZero && b.isZero && a.neg? && !b.neg?)

/-- The lesser and the greater (R178). -/
def fMin (f : Fmt) (x y : Nat) : Nat × Flags :=
  let a := unpack f x
  let b := unpack f y
  (if a.isNan || b.isNan then f.nan else if valLtZ b a then y else x, fIf (!a.finite || !b.finite) fNFC)
def fMax (f : Fmt) (x y : Nat) : Nat × Flags :=
  let a := unpack f x
  let b := unpack f y
  (if a.isNan || b.isNan then f.nan else if valLtZ a b then y else x, fIf (!a.finite || !b.finite) fNFC)

/-- Sign changes (R178). -/
def fSetSign (f : Fmt) (neg : Bool) (x : Nat) : Nat × Flags :=
  let a := unpack f x
  if a.isNan then (f.nan, fNFC) else (x % 2 ^ (f.eb + f.fb) + f.sign neg, fIf (!a.finite) fNFC)
def fAbs (f : Fmt) (x : Nat) : Nat × Flags := fSetSign f false x
def fNeg (f : Fmt) (x : Nat) : Nat × Flags := fSetSign f (!x.testBit (f.eb + f.fb)) x

/-- max(min(A, |B|), -|B|) (R177, R178). -/
def fClamp (f : Fmt) (x y : Nat) : Nat × Flags :=
  let a := unpack f x
  let b := unpack f y
  if a.isNan || b.isNan then (f.nan, fNFC)
  else
    let yp := y % 2 ^ (f.eb + f.fb)
    let lo := (fMin f x yp).1
    ((fMax f lo (yp + f.sign true)).1, fIf (!a.finite || !b.finite) fNFC)

/-- Comparisons (R148, R180): the bit and the flags. NV is for the ordered comparisons other than EQ. -/
def fCompare (f : Fmt) (cond : Nat) (x y : Nat) : Bool × Flags :=
  let a := unpack f x
  let b := unpack f y
  let un := a.isNan || b.isNan
  let nfc := fIf (!a.finite || !b.finite) fNFC
  let nv := fIf un fNV
  match cond with
  | 0 => (valEq a b, nfc)
  | 1 => (un || !(valEq a b), nfc)
  | 2 => (valLt a b, nfc ||| nv)
  | 3 => (valLt a b || valEq a b, nfc ||| nv)
  | 4 => (valLt b a, nfc ||| nv)
  | 5 => (valLt b a || valEq a b, nfc ||| nv)
  | _ => (un, nfc)

/-- FP8 E4M3 (R103) of an exact quotient. -/
def packAt8 (neg : Bool) (k : Nat) (q : Int) : Nat :=
  let s := if neg then 128 else 0
  if k < 8 then s + k else s + ((q + 9).toNat) * 8 + k
def satFp8Quot (rnd : Nat) (f8nan : Bool) (neg : Bool) (n d : Nat) (e : Int) : Nat × Flags :=
  let s := if neg then 128 else 0
  if n = 0 then (s, 0)
  else
    let l := log2Quot n d + e
    let q := max (l - 3) (-9)
    let (k, inx) := roundAt rnd neg n d e q
    -- |y| = k * 2^q above 448 = 7 * 2^6
    if scaleUp k (q + 9) > 448 * 512 then
      if f8nan then (0x7F, fOF ||| fNX ||| fNFP) else (s + 0x7E, fOF ||| fNX)
    else (packAt8 neg k q, fIf inx fNX ||| fIf (inx && decide (l < -6)) fUF)
def satFp8 (rnd : Nat) (f8nan : Bool) : Val → Nat × Flags
  | .nan => (0x7F, fNFC)
  | .inf n => ((if n then 128 else 0) + 0x7E, fNFC ||| fOF)
  | .fin n m e => satFp8Quot rnd f8nan n m 1 e

/-- x / s rounded once into FP8, s a positive finite value (R106). -/
def satFp8Div (rnd : Nat) (x : Val) (sm : Nat) (se : Int) : Nat × Flags :=
  match x with
  | .fin n m e => satFp8Quot rnd false n m sm (e - se)
  | v => satFp8 rnd false v

/-- A value to an integer of w bits, signed or not (R104, R149): pattern and flags. -/
def valToInt (rnd : Nat) (signed : Bool) (w : Nat) (v : Val) : Nat × Flags :=
  let hi : Int := if signed then (2 : Int) ^ (w - 1) - 1 else (2 : Int) ^ w - 1
  let lo : Int := if signed then -((2 : Int) ^ (w - 1)) else 0
  let pat := fun (x : Int) => (x % (2 : Int) ^ w).toNat
  match v with
  | .nan => (0, fNV ||| fNFC)
  | .inf n => (pat (if n then lo else hi), fSAT ||| fNX ||| fNFC)
  | .fin n m e =>
    let (k, inx) := roundAt rnd n m 1 e 0
    let x : Int := if n then -(k : Int) else (k : Int)
    if x < lo then (pat lo, fSAT ||| fNX) else if hi < x then (pat hi, fSAT ||| fNX) else (pat x, fIf inx fNX)

/-- An integer to a format (R104). -/
def intToFmt (f : Fmt) (rnd : Nat) (x : Int) : Nat × Flags :=
  roundQuot f rnd (decide (x < 0)) x.natAbs 1 0

/-- One floating-point pattern into another format (R104). -/
def cvtFmt (src dst : Fmt) (rnd : Nat) (x : Nat) : Nat × Flags :=
  let v := unpack src x
  let r := roundVal dst rnd v
  (r.1, r.2 ||| fIf (!v.finite) fNFC)

/-- FP8 into a format: exact; NFC for NaN only (R104). -/
def cvtFrom8 (dst : Fmt) (x : Nat) : Nat × Flags :=
  let v := unpack8 x
  ((roundVal dst 0 v).1, fIf v.isNan fNFC)

/-- q * s decoded to FP32 (R105), with the flags of R102. -/
def decode8 (rnd : Nat) (q : Nat) (s : BitVec 32) : Nat × Flags :=
  let a := unpack8 q
  let b := unpack fp32 s.toNat
  finish fp32 rnd [a, b] (mulVal a b)

/-- Saturation of an integer to w signed bits, with SAT (R100). -/
def satInt (w : Nat) (x : Int) : Int × Flags :=
  let hi : Int := (2 : Int) ^ (w - 1) - 1
  let lo : Int := -((2 : Int) ^ (w - 1))
  if x < lo then (lo, fSAT) else if hi < x then (hi, fSAT) else (x, 0)

/-- The block quantisation rule of R106 on FP32 patterns: FP8 patterns, the scale, the flags of the elements. -/
def absMax (xs : List Nat) : Val :=
  xs.foldl (fun acc x =>
    let v := (unpack fp32 x).abs
    if v.finite && valLt acc v then v else acc) (.fin false 0 0)
def quantScale (xs : List Nat) : BitVec 32 :=
  match absMax xs with
  | .fin _ m e =>
    let s := (roundQuot fp32 0 false m 448 e).1
    BitVec.ofNat 32 (if s < 0x00800000 then 0x00800000 else s)
  | _ => 0x00800000
def quantiseBlock (rnd : Nat) (xs : List Nat) : List (Nat × Flags) × BitVec 32 :=
  let s := quantScale xs
  match unpack fp32 s.toNat with
  | .fin _ sm se => (xs.map fun x => satFp8Div rnd (unpack fp32 x) sm se, s)
  | _ => ([], s)

end Sys2Proof.Machine
end

