-- ==== Sys2Proof/Syntax.lean ====
section
/-!
DEFINITION. The instructions of the ZK-640: one constructor for each row of the opcode table. The first four groups
are the slots of a bundle (S, X, V, M and C units), then the purlin instructions, then the steps of the part and of its
hosts, which carry what their initiator chooses (a request, a message, a context number).
-/
namespace Sys2Proof

/-- A 64-byte translation request (R299), less its OP word, which is the constructor's. -/
structure XReq where
  job : BitVec 32
  va : BitVec 64
  count : BitVec 32
  size : BitVec 32
  entry : BitVec 64
  caddr : BitVec 64
  cval : BitVec 64
  /-- The 16 reserved bytes at 0x30. -/
  rsvd : BitVec 128
  /-- 0 and 1: the window of a host port; 2: the management core's own window. -/
  win : Nat
  deriving DecidableEq, Repr

/-- A 64-byte launch-control request (R343), less its OP word. -/
structure LReq where
  queue : BitVec 32
  seq : BitVec 64
  caddr : BitVec 64
  cval : BitVec 64
  rsvd : BitVec 256
  port : Nat
  deriving DecidableEq, Repr

/-- A 64-byte purlin request (R411), less its OP word. -/
structure PReq where
  job : BitVec 32
  arg : BitVec 64
  flow : BitVec 32
  region : BitVec 32
  fsize : BitVec 32
  setw : BitVec 32
  caddr : BitVec 64
  cval : BitVec 64
  rsvd : BitVec 128
  win : Nat
  deriving DecidableEq, Repr

/-- A 16-byte fault reply (R355). -/
structure FReply where
  token : BitVec 16
  job : BitVec 32
  /-- Bits [31:16] of the first word and the bits of the second word other than ACTION. -/
  rsvd : BitVec 78
  deriving DecidableEq, Repr

/-- A Ridge message: the header flit of R376 and its payload. -/
structure Msg where
  dst : Nat
  src : Nat
  vc : BitVec 4
  kind : BitVec 4
  cls : BitVec 4
  job : BitVec 32
  flow : BitVec 32
  offset : BitVec 64
  aux : BitVec 64
  mask : BitVec 128
  payload : List Byte
  /-- The port on which it arrived or by which it leaves; 31 is local delivery (R380). -/
  port : Nat
  /-- A reserved byte of the header was not zero (R377). -/
  bad : Bool
  /-- An error reply (R380). -/
  err : Bool
  /-- The port and the channel on which a message that is passing through arrived; none for one that begins here (R378). -/
  came : Option (Nat × BitVec 4)
  /-- The payload is poisoned (R357). -/
  poison : Bool
  /-- What the rules have a Ridge know of a message that its header has no place for (log 37); 0 for most. -/
  note : BitVec 128
  /-- The requester's number of a request, which the reply gives back: a Ridge tells its outstanding requests apart (log 37). -/
  tag : Nat
  deriving DecidableEq, Repr

/-- How a matrix pass ends (R227, R228). -/
inductive PassOutcome where
  | good        -- no residue disagrees
  | residue     -- a residue disagrees
  | uncorrect   -- an uncorrectable error in an operand
  deriving DecidableEq, Repr

/-- The Timetable's choice of a place for a group (R329; a COSCHED launch places all its groups at once): the cluster, the Slate base, the contexts of its tasks
(2 x core + context), the first cluster bell and the first package bell. -/
structure Place where
  cluster : Nat
  slbase : Nat
  ctxs : List Nat
  cbell : Nat
  pbell : Nat
  deriving DecidableEq, Repr

/-- The instructions and steps of the ZK-640, one constructor for each row of the opcode table. -/
inductive Instr where
  -- S unit (R77, R78)
  | add (p : BitVec 3) (d a b : BitVec 6)
  | addi (p : BitVec 3) (d a : BitVec 6) (imm : BitVec 14)
  | sub (p : BitVec 3) (d a b : BitVec 6)
  | mul (p : BitVec 3) (d a b : BitVec 6)
  | mulhs (p : BitVec 3) (d a b : BitVec 6)
  | mulhz (p : BitVec 3) (d a b : BitVec 6)
  | divs (p : BitVec 3) (d a b : BitVec 6)
  | divz (p : BitVec 3) (d a b : BitVec 6)
  | rems (p : BitVec 3) (d a b : BitVec 6)
  | remz (p : BitVec 3) (d a b : BitVec 6)
  | and (p : BitVec 3) (d a b : BitVec 6)
  | or (p : BitVec 3) (d a b : BitVec 6)
  | xor (p : BitVec 3) (d a b : BitVec 6)
  | andn (p : BitVec 3) (d a b : BitVec 6)
  | shl (p : BitVec 3) (d a b : BitVec 6)
  | shrs (p : BitVec 3) (d a b : BitVec 6)
  | shrz (p : BitVec 3) (d a b : BitVec 6)
  | rotl (p : BitVec 3) (d a b : BitVec 6)
  | mins (p : BitVec 3) (d a b : BitVec 6)
  | minz (p : BitVec 3) (d a b : BitVec 6)
  | maxs (p : BitVec 3) (d a b : BitVec 6)
  | maxz (p : BitVec 3) (d a b : BitVec 6)
  | clz (p : BitVec 3) (d a : BitVec 6)
  | ctz (p : BitVec 3) (d a : BitVec 6)
  | popc (p : BitVec 3) (d a : BitVec 6)
  | bfx (p : BitVec 3) (d a b : BitVec 6) (sx : Bool)
  | bfi (p : BitVec 3) (d a b : BitVec 6)
  | mov (p : BitVec 3) (d a : BitVec 6)
  | movi (p : BitVec 3) (d : BitVec 6) (imm : BitVec 19)
  | movhi (p : BitVec 3) (d : BitVec 6) (q : BitVec 2) (val : BitVec 16)
  | sel (p : BitVec 3) (d a b : BitVec 6) (n : BitVec 3)
  | cmp (p cd : BitVec 3) (a b : BitVec 6) (cond : BitVec 3)
  | cand (p cd ca cb : BitVec 3)
  | cor (p cd ca cb : BitVec 3)
  | cxor (p cd ca cb : BitVec 3)
  | lea (p : BitVec 3) (d a b : BitVec 6) (n : BitVec 3)
  | tidx (p : BitVec 3) (d a b : BitVec 6) (g : BitVec 2)
  | lds (p : BitVec 3) (d a : BitVec 6) (sz : BitVec 2) (sx fb : Bool) (imm : BitVec 10)
  | sts (p : BitVec 3) (d a : BitVec 6) (sz : BitVec 2) (imm : BitVec 10)
  | amos (p : BitVec 3) (d a b : BitVec 6) (op : BitVec 3)
  | stg (p : BitVec 3) (e : BitVec 4) (a : BitVec 6)
  | crd (p : BitVec 3) (d : BitVec 6) (crn : BitVec 7)
  | cwr (p : BitVec 3) (d : BitVec 6) (crn : BitVec 7)
  | fadd (p : BitVec 3) (d a b : BitVec 6) (sub : Bool)
  | fmul (p : BitVec 3) (d a b : BitVec 6)
  | ffma (p : BitVec 3) (d a b : BitVec 6) (neg : Bool)
  | fcmp (p cd : BitVec 3) (a b : BitVec 6) (cond : BitVec 3)
  | fcvt (p : BitVec 3) (d a : BitVec 6) (kind : BitVec 3)
  -- X unit (R79, R80)
  | br (c : BitVec 3) (n : Bool) (off : BitVec 23)
  | jmp (off : BitVec 23)
  | jmpr (c : BitVec 3) (n : Bool) (a : BitVec 6)
  | call (off : BitVec 23)
  | ret (c : BitVec 3) (n : Bool)
  | loop (a : BitVec 6) (len : BitVec 9)
  | arm (a b : BitVec 6) (keep : Bool) (t : BitVec 16)
  | arrive (a b : BitVec 6) (scope : BitVec 2)
  | wait (a b : BitVec 6) (scope : BitVec 2)
  | trap (code : BitVec 27)
  | seg (id : BitVec 27)
  | cropen (off : BitVec 27)
  -- Landing of results and taking of contexts (R72, R73, R161, R351); ctx numbers a context of the package
  | boundedResultLands (ctx idx : Nat)
  | scoreboardedResultCompletes (ctx idx : Nat)
  | pendingTrapTaken (ctx : Nat)
  | taskExited (ctx : Nat)
  | debugHalt (ctx : Nat)
  -- V unit (R81, R82)
  | vadd (t : BitVec 3) (d a b : BitVec 5) (k : BitVec 3) (m : Bool)
  | vsub (t : BitVec 3) (d a b : BitVec 5) (k : BitVec 3) (m : Bool)
  | vmul (t : BitVec 3) (d a b : BitVec 5) (k : BitVec 3) (m : Bool)
  | vfma (t : BitVec 3) (d a b : BitVec 5) (k : BitVec 3) (m : Bool)
  | vfms (t : BitVec 3) (d a b : BitVec 5) (k : BitVec 3) (m : Bool)
  | vmin (t : BitVec 3) (d a b : BitVec 5) (k : BitVec 3) (m : Bool)
  | vmax (t : BitVec 3) (d a b : BitVec 5) (k : BitVec 3) (m : Bool)
  | vabs (t : BitVec 3) (d a : BitVec 5) (k : BitVec 3) (m : Bool)
  | vneg (t : BitVec 3) (d a : BitVec 5) (k : BitVec 3) (m : Bool)
  | vclamp (t : BitVec 3) (d a b : BitVec 5) (k : BitVec 3) (m : Bool)
  | vfn (t : BitVec 3) (d a fn : BitVec 5) (k : BitVec 3) (m : Bool)
  | vcmp (t kd : BitVec 3) (a b : BitVec 5) (cc : BitVec 3)
  | vsel (d a b : BitVec 5) (k : BitVec 3)
  | kand (kd ka kb : BitVec 3)
  | kor (kd ka kb : BitVec 3)
  | knot (kd ka : BitVec 3)
  | vand (t : BitVec 3) (d a b : BitVec 5) (k : BitVec 3) (m : Bool)
  | vor (t : BitVec 3) (d a b : BitVec 5) (k : BitVec 3) (m : Bool)
  | vxor (t : BitVec 3) (d a b : BitVec 5) (k : BitVec 3) (m : Bool)
  | vshl (t : BitVec 3) (d a b : BitVec 5) (k : BitVec 3) (m : Bool)
  | vshr (t : BitVec 3) (d a b : BitVec 5) (k : BitVec 3) (m : Bool)
  | viadd (t : BitVec 3) (d a b : BitVec 5) (k : BitVec 3) (m : Bool)
  | vimul (t : BitVec 3) (d a b : BitVec 5) (k : BitVec 3) (m : Bool)
  | vcvt (t : BitVec 3) (d a : BitVec 5) (src : BitVec 3) (part : BitVec 2) (k : BitVec 3) (m : Bool)
  | vqnt (d a b : BitVec 5) (h : Bool)
  | vdq (d a : BitVec 5) (q : BitVec 2) (k : BitVec 3) (m : Bool)
  | vscr (t : BitVec 3) (d a b : BitVec 5) (k : BitVec 3) (m : Bool)
  | vscc (t : BitVec 3) (d a b : BitVec 5) (k : BitVec 3) (m : Bool)
  | vbias (t : BitVec 3) (d a b : BitVec 5) (k : BitVec 3) (m : Bool)
  | vbcr (t : BitVec 3) (d a : BitVec 5) (imm : BitVec 8)
  | vbcc (t : BitVec 3) (d a : BitVec 5) (imm : BitVec 8)
  | vrotr (t : BitVec 3) (d a : BitVec 5) (imm : BitVec 8)
  | vrotc (t : BitVec 3) (d a : BitVec 5) (imm : BitVec 8)
  | vredr (t : BitVec 3) (d a : BitVec 5) (op : BitVec 2)
  | vredc (t : BitVec 3) (d a : BitVec 5) (op : BitVec 2)
  | vshuf (t : BitVec 3) (d a b : BitVec 5) (k : BitVec 3) (m : Bool)
  | vshfr (t : BitVec 3) (d a b : BitVec 5) (k : BitVec 3) (m : Bool)
  | vhaar (d a : BitVec 5) (lv : BitVec 3) (h : BitVec 3) (th : Bool)
  | vihaar (d a : BitVec 5)
  | vthr (d a : BitVec 5) (h : BitVec 3)
  | vtag (d a : BitVec 5) (tag : BitVec 8)
  | vmov (d a : BitVec 5) (k : BitVec 3) (m : Bool)
  | vsplat (t : BitVec 3) (d : BitVec 5) (sa : BitVec 6) (k : BitVec 3) (m : Bool)
  | viota (t : BitVec 3) (d : BitVec 5) (mode : BitVec 2)
  | vins (t : BitVec 3) (d : BitVec 5) (sa sb : BitVec 6)
  | vext (t : BitVec 3) (d : BitVec 5) (sa sb : BitVec 6)
  | vld (t : BitVec 3) (d : BitVec 5) (sa sb : BitVec 6) (k : BitVec 3) (m : Bool)
  | vst (t : BitVec 3) (d : BitVec 5) (sa sb : BitVec 6) (k : BitVec 3)
  | vldt (t : BitVec 3) (d : BitVec 5) (sa : BitVec 6)
  | vstt (t : BitVec 3) (d : BitVec 5) (sa sb : BitVec 6)
  | vpush (t : BitVec 3) (d : BitVec 5) (sa : BitVec 6) (k : BitVec 3)
  | vpop (t : BitVec 3) (d : BitVec 5) (sa sb : BitVec 6)
  | vflags (sa sb : BitVec 6)
  -- M unit (R83, R84)
  | mma (p acc : BitVec 3) (v : BitVec 5) (s1 s2 : BitVec 6) (o : Bool)
  | mmas (p acc : BitVec 3) (s1 s2 : BitVec 6) (o : Bool)
  | mmat (p acc : BitVec 3) (v : BitVec 5) (s1 s2 : BitVec 6) (o : Bool)
  | mmah (p acc : BitVec 3) (v : BitVec 5) (s1 s2 : BitVec 6) (o : Bool)
  | mldb (p : BitVec 3) (s1 s2 : BitVec 6) (o : Bool)
  | mclr (p acc : BitVec 3) (o : Bool)
  | macc (p acc src : BitVec 3)
  | mcfg (p : BitVec 3) (s1 : BitVec 6)
  | mdrn (p acc : BitVec 3) (v : BitVec 5) (s1 : BitVec 6) (o : Bool)
  | mdrns (p acc : BitVec 3) (opts : BitVec 5) (s1 s2 : BitVec 6) (o : Bool)
  | mrep (p : BitVec 3) (count : BitVec 16)
  -- The matrix engine (R211 to R228); core numbers a core of the package
  | matrixInstructionBegins (core ctx : Nat)
  | matrixPass (core ctx : Nat) (out : PassOutcome)
  | matrixOperationCompletes (core ctx : Nat)
  | mcfgApplied (core : Nat)
  -- C unit (R86, R87, R234)
  | cpy (p : BitVec 3) (g : BitVec 2) (cls xf : BitVec 4) (md : BitVec 9)
  | cpys (p : BitVec 3) (g : BitVec 2) (cls xf : BitVec 4) (md : BitVec 9)
  | tbind (p : BitVec 3) (g : BitVec 2) (cls : BitVec 4) (slot : BitVec 3)
  | tcpy (p : BitVec 3) (g : BitVec 2) (cls xf : BitVec 4) (slot : BitVec 3) (dir : Bool)
  | gath (p : BitVec 3) (g : BitVec 2) (cls xf : BitVec 4)
  | scat (p : BitVec 3) (g : BitVec 2) (cls xf : BitVec 4)
  | ramo (p : BitVec 3) (g : BitVec 2) (cls : BitVec 4) (op : BitVec 3) (ret : Bool)
  | pfch (p : BitVec 3) (g : BitVec 2) (cls : BitVec 4) (tgt : Bool)
  | migr (p : BitVec 3) (g : BitVec 2) (cls : BitVec 4)
  | fence (p : BitVec 3) (scope : BitVec 2) (mask : BitVec 16)
  | rel (p : BitVec 3) (scope : BitVec 2) (mask : BitVec 16)
  | tlbi (p : BitVec 3)
  | chsnd (p : BitVec 3) (g : BitVec 2) (cls : BitVec 4)
  | chrcv (p : BitVec 3) (g : BitVec 2) (cls : BitVec 4)
  | coll (p : BitVec 3) (g : BitVec 2) (cls : BitVec 4) (kind : BitVec 3) (op : BitVec 2) (ty : BitVec 3)
  | rshd (p : BitVec 3) (g : BitVec 2) (cls : BitVec 4) (m : BitVec 4)
  | ckcut (p : BitVec 3) (g : BitVec 2) (cls : BitVec 4)
  | qpush (p : BitVec 3) (g : BitVec 2) (cls : BitVec 4) (tile : Bool)
  | sete (p : BitVec 3) (g : BitVec 2) (cls : BitVec 4)
  | bmode (p : BitVec 3) (g : BitVec 2) (cls : BitVec 4) (mode : BitVec 2)
  -- The copy engines and the walker; eng numbers a copy engine of the package (2 x core + engine)
  | copyCommandBegins (eng : Nat)
  | copySectorTransfer (eng : Nat)
  | copyCommandCompletes (eng : Nat)
  | bmodeBegins (eng : Nat)
  | clusterCacheEviction (cluster gid idx : Nat)
  | translationWalk (cluster idx : Nat)
  -- The Timetable (R317 to R346)
  | launchRecordSubmit (port offset : Nat) (data : List Byte)
  | headRecordCheck (q : Nat)
  | groupPlacement (q : Nat) (pl : List Place)
  | recordReserving (q : Nat)
  | tileRecordConsumed (q : Nat)
  | launchCompletes (l : Nat)
  | preemptionRequest (ctx : Nat)
  | preemptionTaken (ctx : Nat)
  | taskOut (ctx : Nat)
  | stubOverrun (ctx : Nat)
  | contextRestore (idx ctx : Nat)
  | groupDisplacement (idx : Nat)
  | replicationVote (l : Nat)
  | displace (r : LReq)
  | resume (r : LReq)
  | abort (r : LReq)
  | map (r : XReq)
  | unmap (r : XReq)
  | protect (r : XReq)
  | inval (r : XReq)
  | unfwd (r : XReq)
  | migrationPage (eng : Nat)
  | migrationPageLands (idx : Nat)
  | faultReplyRestart (r : FReply)
  | faultReplyCancel (r : FReply)
  | faultRingRecordEnters (job : BitVec 32)
  -- The Ridge (R375 to R394, R444)
  | collectiveDoneSend (comm : Nat)
  | flitCrcError (port vc : Nat)
  | linkDown (port : Nat)
  | laneRetire (port : Nat)
  | collectiveChunkStart (eng : Nat)
  | collectiveChunkEnd (eng : Nat)
  | reshardStepBegins (comm : Nat)
  | regulatedRequestBegins (jobIdx k n : Nat)
  -- Purlin runs and requests (R396, R411)
  | purlinKernelRun (bind proc : Nat)
  | purlinWatchdog (proc : Nat)
  | load (r : PReq)
  | unload (r : PReq)
  | bind (r : PReq)
  | unbind (r : PReq)
  | unbindCompletes (bind : Nat)
  -- Purlin instructions (R398 to R408)
  | padd (d a b : BitVec 4)
  | psub (d a b : BitVec 4)
  | pand (d a b : BitVec 4)
  | por (d a b : BitVec 4)
  | pxor (d a b : BitVec 4)
  | pshl (d a b : BitVec 4)
  | pshr (d a b : BitVec 4) (s : Bool)
  | pcmp (d a b : BitVec 4) (cond : BitVec 3)
  | psel (d a b c : BitVec 4)
  | pmov (d a : BitVec 4)
  | pmovi (d : BitVec 4) (imm : BitVec 22)
  | pbr (c : BitVec 4) (mode : BitVec 2) (off : BitVec 10)
  | ploop (src : BitVec 2) (len : BitVec 10) (count : BitVec 14)
  | pmld (k : Bool) (reg a : BitVec 4) (inc : Bool) (off : BitVec 16)
  | pmst (k : Bool) (reg a : BitVec 4) (inc : Bool) (off : BitVec 16)
  | pfld (k : Bool) (reg a : BitVec 4) (inc : Bool) (off : BitVec 16)
  | pfst (k : Bool) (reg a : BitVec 4) (inc : Bool) (off : BitVec 16)
  | pvadd (d a b t : BitVec 3)
  | pvmax (d a b t : BitVec 3)
  | pvmul (d a b t : BitVec 3)
  | pvacc (a b : BitVec 4) (t : BitVec 3) (op : BitVec 2) (inc : Bool)
  | pvnf (a t : BitVec 3)
  | pvcvt (d a t u : BitVec 3) (h : Bool)
  | pfwd (a : BitVec 4)
  | preply (a b c : BitVec 4)
  | ptrap (code : BitVec 22)
  -- Checkpoints (R368 to R374); sparing and tests (R364 to R367)
  | cutPageCopy (jobIdx : Nat)
  | checkpointDrain (jobIdx : Nat)
  | checkpointRestore (jobIdx : Nat) (peers : List (List Byte))
  | testSlice (core : Nat) (pass : Bool)
  | coreRemap (core : Nat)
  -- Reset, hosts and register writes (R455 to R465)
  | functionLevelReset (port : Nat)
  | apertureRead (port offset len : Nat)
  | apertureWrite (port offset : Nat) (data : List Byte)
  | jobTableWrite (offset : Nat) (data : BitVec 64)
  | queueTableWrite (port offset : Nat) (data : BitVec 64)
  | channelTableWrite (chan : Nat) (data : BitVec 256)
  | communicatorTableWrite (comm : Nat) (data : BitVec 512)
  | qsplitWrite (data : BitVec 64)
  | routeTableWrite (dst : Nat) (data : BitVec 64)
  | ridgecfgWrite (data : BitVec 64)
  | registerWrite (port offset : Nat) (data : List Byte)
  -- Whole bundles (R76, R58)
  | illegalEncoding (info : BitVec 64)
  | endToEndCreditReturn (chan : Bool) (num peer n : Nat)
  | spareRemap (cls idx : Nat)
  -- Rows that carry no operand. A received message (R377) is the head of the receive queue of the state.
  | yield
  | exit
  | tret
  | crclose
  | nop
  | translationRequestCompletes
  | sectorReadRequest
  | readReply
  | sectorWrite
  | writeAcknowledge
  | atomicRequest
  | atomicReply
  | bellEventArrive
  | bellEventReady
  | bellEventComplete
  | channelMessageSegment
  | collectivePiece
  | collectiveDone
  | collectiveFinish
  | purlinReply
  | controlAndRouting
  | checkpointTransfer
  | regulatorRefill
  | pdrop
  | pdone
  | thermalThrottle
  | thermalShutdown
  | packageReset
  | fillerBundle
  deriving DecidableEq, Repr

end Sys2Proof
end

