-- ==== Sys2Proof/Decode.lean ====
section
/-!
DEFINITION. The decoder: slots with their header groups (R56 to R66, R77 to R87), whole bundles (R76), purlin words
(R398, R399), and the 64-byte and 16-byte requests of the host windows (R299, R343, R355, R411). After it the encoder,
from the same formats. Every refusal has a name.
-/
namespace Sys2Proof

/-- Why bits are no instruction. The first eleven are the REASON codes 0 to 10 of R76. -/
inductive Reject where
  | reservedUnit | headerOutside | unassignedOpcode | reservedField | reservedValue | slotLimit | headerError
  | fillerBits | tileConflict | controlRegister | illegalUse
  | purlinWord      -- no purlin instruction (R399, R412)
  | requestOp       -- a reserved OP or ACTION of a request (R299, R343, R355, R411)
  | shape           -- bits that are no slot, bundle or purlin word
  deriving DecidableEq, Repr

/-- The REASON code of R76. -/
def Reject.reason : Reject → Nat
  | .reservedUnit => 0 | .headerOutside => 1 | .unassignedOpcode => 2 | .reservedField => 3 | .reservedValue => 4
  | .slotLimit => 5 | .headerError => 6 | .fillerBits => 7 | .tileConflict => 8 | .controlRegister => 9
  | .illegalUse => 10 | .purlinWord => 2 | .requestOp => 2 | .shape => 2

/-- A slot word with its 9-bit header group (R61); hdr says whether slot 0 is a header. -/
structure SlotBits where
  w : BitVec 32
  g : BitVec 9
  hdr : Bool
  deriving DecidableEq, Repr

namespace SlotBits
variable (f : SlotBits)
/-- X1 and X2 of the header group (R61, R62). -/
def x1 : BitVec 1 := fld 6 1 f.g
def x2 : BitVec 1 := fld 5 1 f.g
def imx : BitVec 5 := fld 0 5 f.g
def op : BitVec 7 := fld 22 7 f.w
/-- The predicate of S, M and C slots, and the condition C of X slots. -/
def p : BitVec 3 := fld 19 3 f.w
-- S-unit fields (R77)
def d : BitVec 6 := f.x1 ++ fld 14 5 f.w
def a : BitVec 6 := f.x2 ++ fld 9 5 f.w
def b : BitVec 6 := fld 3 6 f.w
def fn : BitVec 3 := fld 0 3 f.w
/-- A of SC and SG: the only, hence first, scalar field. -/
def a1 : BitVec 6 := f.x1 ++ fld 9 5 f.w
def cd : BitVec 3 := fld 16 3 f.w
def w1514 : BitVec 2 := fld 14 2 f.w
def ca : BitVec 3 := fld 13 3 f.w
def cb : BitVec 3 := fld 10 3 f.w
def sz : BitVec 2 := fld 7 2 f.w
def sx : Bool := bitAt 6 f.w
def fb : Bool := bitAt 5 f.w
def crn : BitVec 7 := fld 7 7 f.w
-- Immediates (R63, R127)
def imm14 : BitVec 14 := if f.hdr then f.imx ++ fld 0 9 f.w else (fld 0 9 f.w).signExtend 14
def imm19s : BitVec 19 := if f.hdr then f.imx ++ fld 0 14 f.w else (fld 0 14 f.w).signExtend 19
def imm19z : BitVec 19 := if f.hdr then f.imx ++ fld 0 14 f.w else (fld 0 14 f.w).zeroExtend 19
def imm10 : BitVec 10 := if f.hdr then f.imx ++ fld 0 5 f.w else (fld 0 5 f.w).signExtend 10
def off23 : BitVec 23 := if f.hdr then f.imx ++ fld 0 18 f.w else (fld 0 18 f.w).signExtend 23
def imm17 : BitVec 17 := if f.hdr then f.imx ++ fld 0 12 f.w else (fld 0 12 f.w).zeroExtend 17
def imm27z : BitVec 27 := if f.hdr then f.imx ++ fld 0 22 f.w else (fld 0 22 f.w).zeroExtend 27
def imm27s : BitVec 27 := if f.hdr then f.imx ++ fld 0 22 f.w else (fld 0 22 f.w).signExtend 27
-- X-unit fields (R79)
def xn : Bool := bitAt 18 f.w
def xa : BitVec 6 := f.x1 ++ fld 13 5 f.w
def ka : BitVec 6 := f.x1 ++ fld 17 5 f.w
def kb : BitVec 6 := f.x2 ++ fld 12 5 f.w
-- V-unit fields (R81)
def vd : BitVec 5 := fld 17 5 f.w
def va : BitVec 5 := fld 12 5 f.w
def vb : BitVec 5 := fld 7 5 f.w
def k : BitVec 3 := fld 4 3 f.w
def t : BitVec 3 := fld 1 3 f.w
def m : Bool := bitAt 0 f.w
def kd : BitVec 3 := fld 17 3 f.w
def kka : BitVec 3 := fld 12 3 f.w
def kkb : BitVec 3 := fld 7 3 f.w
def imm8 : BitVec 8 := fld 4 8 f.w
def sa : BitVec 6 := f.x1 ++ fld 12 5 f.w
def sb : BitVec 6 := f.x2 ++ fld 7 5 f.w
-- M-unit fields (R83)
def acc : BitVec 3 := fld 16 3 f.w
def mv : BitVec 5 := fld 11 5 f.w
def s1 : BitVec 6 := f.x1 ++ fld 6 5 f.w
def s2 : BitVec 6 := f.x2 ++ fld 1 5 f.w
-- C-unit fields (R86)
def g2 : BitVec 2 := fld 17 2 f.w
def cls : BitVec 4 := fld 13 4 f.w
def xf : BitVec 4 := fld 9 4 f.w
def md : BitVec 9 := fld 0 9 f.w
end SlotBits

/-- A legal instruction, or REASON 3 for a nonzero reserved field, or REASON 4 for a reserved value (R76). -/
def legal (reserved badValue : Bool) (i : Instr) : Except Reject Instr :=
  if reserved then .error .reservedField else if badValue then .error .reservedValue else .ok i

/-- As `legal`, with REASON 9 for a control-register number that R30 does not let the instruction name. -/
def legalCr (reserved badNumber : Bool) (i : Instr) : Except Reject Instr :=
  if reserved then .error .reservedField else if badNumber then .error .controlRegister else .ok i

/-- The control-register numbers of R30: all of 0x00 to 0x7F but 0x2F, 0x3E and 0x3F. -/
def crListed (n : BitVec 7) : Bool := !(n == 0x2F || n == 0x3E || n == 0x3F)

/-- The registers that R30 marks RO. -/
def crReadOnly (n : BitVec 7) : Bool :=
  n.toNat < 0x10 || (0x29 ≤ n.toNat && n.toNat ≤ 0x2E) || n == 0x33 || n == 0x34

/-- Columns of a view (R168); 0 for the reserved codes. -/
def viewCols (t : BitVec 3) : Nat :=
  match t.toNat with
  | 0 => 64 | 1 => 128 | 2 => 128 | 3 => 256 | 4 => 256 | 5 => 64 | _ => 0

/-- A valid tag (R23); the reserved bits [7:6] are no part of it (R22). -/
def tagValid (tag : BitVec 8) : Bool :=
  (fld 0 2 tag == 0 && fld 2 3 tag == 0 && !(bitAt 5 tag)) ||
    (fld 0 2 tag == 1 && 1 ≤ (fld 2 3 tag).toNat && (fld 2 3 tag).toNat ≤ 4)
/-- A tag as VTAG may write it: valid (R23, R194), its reserved bits [7:6] zero. R23 does not name those bits; that a nonzero one is
a tag not valid, and so an illegal instruction with REASON 4, is the model's choice (log 77). -/
def tagLegal (tag : BitVec 8) : Bool := fld 6 2 tag == 0 && tagValid tag

/-- R184: both views defined, and PART below the ratio of their column counts. -/
def vcvtLegal (t src : BitVec 3) (part : BitVec 2) : Bool :=
  t.toNat ≤ 5 && src.toNat ≤ 5 &&
    part.toNat * Nat.min (viewCols t) (viewCols src) < Nat.max (viewCols t) (viewCols src)

/-- R239: the transform options that a CPY's transform does not take must be 0. -/
def cpyMdReserved (xf : BitVec 4) (md : BitVec 9) : Bool :=
  if xf == 1 || xf == 6 then fld 3 6 md != 0 else if xf == 5 then false else fld 1 8 md != 0

/-- R234, R239: transforms 0 to 7, ESIZE and EF not 11. -/
def cpyLegal (xf : BitVec 4) (md : BitVec 9) : Bool :=
  xf.toNat ≤ 7 && !((xf == 1 || xf == 5 || xf == 6) && fld 1 2 md == 3)

/-- R255: kind 7, op 11 and types 110, 111 are reserved; FP8 and INT8 belong to ALLRED and REDSCT (DEDUCED, log 22). -/
def collLegal (kind : BitVec 3) (o : BitVec 2) (ty : BitVec 3) : Bool :=
  kind != 7 && o != 3 && ty.toNat ≤ 5 && !((ty == 3 || ty == 4) && kind.toNat > 1)

/-- The S-unit opcodes (R78): reserved fields (REASON 3) before reserved values (REASON 4). -/
def decodeS (f : SlotBits) : Except Reject Instr :=
  match f.op.toNat with
  | 0x01 => legal (f.fn != 0) (false) (.add f.p f.d f.a f.b)
  | 0x02 => legal (false) (false) (.addi f.p f.d f.a f.imm14)
  | 0x03 => legal (f.fn != 0) (false) (.sub f.p f.d f.a f.b)
  | 0x04 => legal (f.fn != 0) (false) (.mul f.p f.d f.a f.b)
  | 0x05 => legal (f.fn != 0) (false) (.mulhs f.p f.d f.a f.b)
  | 0x06 => legal (f.fn != 0) (false) (.mulhz f.p f.d f.a f.b)
  | 0x07 => legal (f.fn != 0) (false) (.divs f.p f.d f.a f.b)
  | 0x08 => legal (f.fn != 0) (false) (.divz f.p f.d f.a f.b)
  | 0x09 => legal (f.fn != 0) (false) (.rems f.p f.d f.a f.b)
  | 0x0A => legal (f.fn != 0) (false) (.remz f.p f.d f.a f.b)
  | 0x0B => legal (f.fn != 0) (false) (.and f.p f.d f.a f.b)
  | 0x0C => legal (f.fn != 0) (false) (.or f.p f.d f.a f.b)
  | 0x0D => legal (f.fn != 0) (false) (.xor f.p f.d f.a f.b)
  | 0x0E => legal (f.fn != 0) (false) (.andn f.p f.d f.a f.b)
  | 0x0F => legal (f.fn != 0) (false) (.shl f.p f.d f.a f.b)
  | 0x10 => legal (f.fn != 0) (false) (.shrs f.p f.d f.a f.b)
  | 0x11 => legal (f.fn != 0) (false) (.shrz f.p f.d f.a f.b)
  | 0x12 => legal (f.fn != 0) (false) (.rotl f.p f.d f.a f.b)
  | 0x13 => legal (f.fn != 0) (false) (.mins f.p f.d f.a f.b)
  | 0x14 => legal (f.fn != 0) (false) (.minz f.p f.d f.a f.b)
  | 0x15 => legal (f.fn != 0) (false) (.maxs f.p f.d f.a f.b)
  | 0x16 => legal (f.fn != 0) (false) (.maxz f.p f.d f.a f.b)
  | 0x17 => legal (f.fn != 0 || f.b != 0) (false) (.clz f.p f.d f.a)
  | 0x18 => legal (f.fn != 0 || f.b != 0) (false) (.ctz f.p f.d f.a)
  | 0x19 => legal (f.fn != 0 || f.b != 0) (false) (.popc f.p f.d f.a)
  | 0x1A => legal (false) (f.fn.toNat > 1) (.bfx f.p f.d f.a f.b (bitAt 0 f.fn))
  | 0x1B => legal (f.fn != 0) (false) (.bfi f.p f.d f.a f.b)
  | 0x1C => legal (f.fn != 0 || f.b != 0) (false) (.mov f.p f.d f.a)
  | 0x1D => legal (false) (false) (.movi f.p f.d f.imm19s)
  | 0x1E => legal (false) (bitAt 18 f.imm19z) (.movhi f.p f.d (fld 16 2 f.imm19z) (fld 0 16 f.imm19z))
  | 0x1F => legal (false) (false) (.sel f.p f.d f.a f.b f.fn)
  | 0x20 => legal (f.w1514 != 0) (f.fn == 7) (.cmp f.p f.cd f.a1 f.b f.fn)
  | 0x21 => legal (fld 0 10 f.w != 0) (false) (.cand f.p f.cd f.ca f.cb)
  | 0x22 => legal (fld 0 10 f.w != 0) (false) (.cor f.p f.cd f.ca f.cb)
  | 0x23 => legal (fld 0 10 f.w != 0) (false) (.cxor f.p f.cd f.ca f.cb)
  | 0x24 => legal (false) (false) (.lea f.p f.d f.a f.b f.fn)
  | 0x25 => legal (bitAt 2 f.fn) (false) (.tidx f.p f.d f.a f.b (fld 0 2 f.fn))
  | 0x26 => legal (f.sz == 3 && f.sx) (false) (.lds f.p f.d f.a f.sz f.sx f.fb f.imm10)
  | 0x27 => legal (f.sx || f.fb) (false) (.sts f.p f.d f.a f.sz f.imm10)
  | 0x28 => legal (false) (f.fn == 7) (.amos f.p f.d f.a f.b f.fn)
  | 0x29 => legal (bitAt 14 f.w || fld 0 9 f.w != 0) (false) (.stg f.p (fld 15 4 f.w) f.a1)
  | 0x2A => legalCr (fld 0 7 f.w != 0) (!(crListed f.crn)) (.crd f.p f.d f.crn)
  | 0x2B => legalCr (fld 0 7 f.w != 0) (!(crListed f.crn) || crReadOnly f.crn) (.cwr f.p f.d f.crn)
  | 0x2C => legal (false) (f.fn.toNat > 1) (.fadd f.p f.d f.a f.b (bitAt 0 f.fn))
  | 0x2D => legal (false) (f.fn != 0) (.fmul f.p f.d f.a f.b)
  | 0x2E => legal (false) (f.fn.toNat > 1) (.ffma f.p f.d f.a f.b (bitAt 0 f.fn))
  | 0x2F => legal (f.w1514 != 0) (f.fn.toNat > 4) (.fcmp f.p f.cd f.a1 f.b f.fn)
  | 0x30 => legal (f.b != 0) (false) (.fcvt f.p f.d f.a f.fn)
  | _ => .error .unassignedOpcode

/-- The X-unit opcodes (R80): reserved fields (REASON 3) before reserved values (REASON 4). -/
def decodeX (f : SlotBits) : Except Reject Instr :=
  match f.op.toNat with
  | 0x01 => legal (false) (false) (.br f.p f.xn f.off23)
  | 0x02 => legal (f.p != 0 || f.xn) (false) (.jmp f.off23)
  | 0x03 => legal (fld 0 13 f.w != 0) (false) (.jmpr f.p f.xn f.xa)
  | 0x04 => legal (f.p != 0 || f.xn) (false) (.call f.off23)
  | 0x05 => legal (fld 0 13 f.w != 0 || f.xa != 0) (false) (.ret f.p f.xn)
  | 0x06 => legal (fld 0 8 f.w != 0) (false) (.loop f.ka (fld 8 9 f.w))
  | 0x07 => legal (false) (false) (.arm f.ka f.kb (bitAt 16 f.imm17) (fld 0 16 f.imm17))
  | 0x08 => legal (fld 2 15 f.imm17 != 0) (false) (.arrive f.ka f.kb (fld 0 2 f.imm17))
  | 0x09 => legal (fld 2 15 f.imm17 != 0) (false) (.wait f.ka f.kb (fld 0 2 f.imm17))
  | 0x0A => legal (f.imm27z != 0) (false) (.yield)
  | 0x0B => legal (f.imm27z != 0) (false) (.exit)
  | 0x0C => legal (false) (false) (.trap f.imm27z)
  | 0x0D => legal (f.imm27z != 0) (false) (.tret)
  | 0x0E => legal (false) (false) (.seg f.imm27z)
  | 0x0F => legal (false) (false) (.cropen f.imm27s)
  | 0x10 => legal (f.imm27z != 0) (false) (.crclose)
  | 0x11 => legal (f.imm27z != 0) (false) (.nop)
  | _ => .error .unassignedOpcode

/-- The V-unit opcodes (R82): reserved fields (REASON 3) before reserved values (REASON 4). -/
def decodeV (f : SlotBits) : Except Reject Instr :=
  match f.op.toNat with
  | 0x01 => legal (false) (f.t.toNat > 2) (.vadd f.t f.vd f.va f.vb f.k f.m)
  | 0x02 => legal (false) (f.t.toNat > 2) (.vsub f.t f.vd f.va f.vb f.k f.m)
  | 0x03 => legal (false) (f.t.toNat > 2) (.vmul f.t f.vd f.va f.vb f.k f.m)
  | 0x04 => legal (false) (f.t.toNat > 2) (.vfma f.t f.vd f.va f.vb f.k f.m)
  | 0x05 => legal (false) (f.t.toNat > 2) (.vfms f.t f.vd f.va f.vb f.k f.m)
  | 0x06 => legal (false) (f.t.toNat > 2) (.vmin f.t f.vd f.va f.vb f.k f.m)
  | 0x07 => legal (false) (f.t.toNat > 2) (.vmax f.t f.vd f.va f.vb f.k f.m)
  | 0x08 => legal (f.vb != 0) (f.t.toNat > 2) (.vabs f.t f.vd f.va f.k f.m)
  | 0x09 => legal (f.vb != 0) (f.t.toNat > 2) (.vneg f.t f.vd f.va f.k f.m)
  | 0x0A => legal (false) (f.t.toNat > 2) (.vclamp f.t f.vd f.va f.vb f.k f.m)
  | 0x0B => legal (false) (f.t.toNat > 2 || f.vb.toNat > 10) (.vfn f.t f.vd f.va f.vb f.k f.m)
  | 0x0C => legal (fld 20 2 f.w != 0 || f.m) ((f.t != 0 && f.t != 5) || f.k == 7 || (f.t == 5 && f.k == 6)) (.vcmp f.t f.kd f.va f.vb f.k)
  | 0x0D => legal (f.m) (f.t != 0) (.vsel f.vd f.va f.vb f.k)
  | 0x0E => legal (fld 20 2 f.w != 0 || fld 15 2 f.w != 0 || fld 10 2 f.w != 0 || fld 0 7 f.w != 0) (false) (.kand f.kd f.kka f.kkb)
  | 0x0F => legal (fld 20 2 f.w != 0 || fld 15 2 f.w != 0 || fld 10 2 f.w != 0 || fld 0 7 f.w != 0) (false) (.kor f.kd f.kka f.kkb)
  | 0x10 => legal (fld 20 2 f.w != 0 || fld 15 2 f.w != 0 || fld 10 2 f.w != 0 || fld 0 7 f.w != 0 || f.kkb != 0) (false) (.knot f.kd f.kka)
  | 0x11 => legal (false) (f.t != 0 && f.t != 5) (.vand f.t f.vd f.va f.vb f.k f.m)
  | 0x12 => legal (false) (f.t != 0 && f.t != 5) (.vor f.t f.vd f.va f.vb f.k f.m)
  | 0x13 => legal (false) (f.t != 0 && f.t != 5) (.vxor f.t f.vd f.va f.vb f.k f.m)
  | 0x14 => legal (false) (f.t != 4 && f.t != 5) (.vshl f.t f.vd f.va f.vb f.k f.m)
  | 0x15 => legal (false) (f.t != 4 && f.t != 5) (.vshr f.t f.vd f.va f.vb f.k f.m)
  | 0x16 => legal (false) (f.t != 4 && f.t != 5) (.viadd f.t f.vd f.va f.vb f.k f.m)
  | 0x17 => legal (false) (f.t != 4 && f.t != 5) (.vimul f.t f.vd f.va f.vb f.k f.m)
  | 0x18 => legal (false) (!(vcvtLegal f.t (fld 7 3 f.w) (fld 10 2 f.w))) (.vcvt f.t f.vd f.va (fld 7 3 f.w) (fld 10 2 f.w) f.k f.m)
  | 0x19 => legal (f.k != 0) (f.t != 3) (.vqnt f.vd f.va f.vb f.m)
  | 0x1A => legal (fld 9 3 f.w != 0) (f.t != 0) (.vdq f.vd f.va (fld 7 2 f.w) f.k f.m)
  | 0x1B => legal (false) (f.t.toNat > 2) (.vscr f.t f.vd f.va f.vb f.k f.m)
  | 0x1C => legal (false) (f.t.toNat > 2) (.vscc f.t f.vd f.va f.vb f.k f.m)
  | 0x1D => legal (false) (f.t.toNat > 2) (.vbias f.t f.vd f.va f.vb f.k f.m)
  | 0x1E => legal (f.m || f.imx != 0) (f.t.toNat > 5 || f.imm8.toNat > 15) (.vbcr f.t f.vd f.va f.imm8)
  | 0x1F => legal (f.m || f.imx != 0) (f.t.toNat > 5 || f.imm8.toNat ≥ viewCols f.t) (.vbcc f.t f.vd f.va f.imm8)
  | 0x20 => legal (f.m || f.imx != 0) (f.t.toNat > 5 || f.imm8.toNat > 15) (.vrotr f.t f.vd f.va f.imm8)
  | 0x21 => legal (f.m || f.imx != 0) (f.t.toNat > 5 || f.imm8.toNat ≥ viewCols f.t) (.vrotc f.t f.vd f.va f.imm8)
  | 0x22 => legal (f.m || f.imx != 0 || fld 2 6 f.imm8 != 0) ((f.t.toNat > 2 && f.t != 5) || fld 0 2 f.imm8 == 3) (.vredr f.t f.vd f.va (fld 0 2 f.imm8))
  | 0x23 => legal (f.m || f.imx != 0 || fld 2 6 f.imm8 != 0) ((f.t.toNat > 2 && f.t != 5) || fld 0 2 f.imm8 == 3) (.vredc f.t f.vd f.va (fld 0 2 f.imm8))
  | 0x24 => legal (false) (f.t.toNat > 5) (.vshuf f.t f.vd f.va f.vb f.k f.m)
  | 0x25 => legal (false) (f.t.toNat > 5) (.vshfr f.t f.vd f.va f.vb f.k f.m)
  | 0x26 => legal (f.m || f.imx != 0 || bitAt 7 f.imm8 || (!(bitAt 6 f.imm8) && fld 3 3 f.imm8 != 0)) (f.t != 0 || fld 0 3 f.imm8 == 0 || (fld 0 3 f.imm8).toNat > 4) (.vhaar f.vd f.va (fld 0 3 f.imm8) (fld 3 3 f.imm8) (bitAt 6 f.imm8))
  | 0x27 => legal (f.m || f.imx != 0 || f.imm8 != 0) (f.t != 0) (.vihaar f.vd f.va)
  | 0x28 => legal (f.m || f.imx != 0 || fld 3 5 f.imm8 != 0) (f.t != 0) (.vthr f.vd f.va (fld 0 3 f.imm8))
  | 0x29 => legal (f.m || f.imx != 0) (f.t != 0 || !(tagLegal f.imm8)) (.vtag f.vd f.va f.imm8)
  | 0x2A => legal (f.vb != 0) (f.t != 0) (.vmov f.vd f.va f.k f.m)
  | 0x2B => legal (f.sb != 0) (f.t.toNat > 5) (.vsplat f.t f.vd f.sa f.k f.m)
  | 0x2C => legal (f.k != 0 || f.m) (f.t.toNat > 5) (.vins f.t f.vd f.sa f.sb)
  | 0x2D => legal (f.k != 0 || f.m) (f.t.toNat > 5) (.vext f.t f.vd f.sa f.sb)
  | 0x2E => legal (f.m || f.imx != 0 || f.va != 0 || fld 2 6 f.imm8 != 0) ((f.t != 0 && f.t != 5) || fld 0 2 f.imm8 == 3) (.viota f.t f.vd (fld 0 2 f.imm8))
  | 0x2F => legal (false) (f.t.toNat > 5) (.vld f.t f.vd f.sa f.sb f.k f.m)
  | 0x30 => legal (f.m) (f.t.toNat > 5) (.vst f.t f.vd f.sa f.sb f.k)
  | 0x31 => legal (f.sb != 0 || f.k != 0 || f.m) (f.t.toNat > 3) (.vldt f.t f.vd f.sa)
  | 0x32 => legal (f.k != 0 || f.m) (f.t.toNat > 3) (.vstt f.t f.vd f.sa f.sb)
  | 0x33 => legal (f.sb != 0 || f.m) (f.t.toNat > 5) (.vpush f.t f.vd f.sa f.k)
  | 0x34 => legal (f.k != 0 || f.m) (f.t.toNat > 5) (.vpop f.t f.vd f.sa f.sb)
  | 0x35 => legal (f.vd != 0 || f.k != 0 || f.m) (f.t != 0) (.vflags f.sa f.sb)
  | _ => .error .unassignedOpcode

/-- The M-unit opcodes (R84): reserved fields (REASON 3) before reserved values (REASON 4). -/
def decodeM (f : SlotBits) : Except Reject Instr :=
  match f.op.toNat with
  | 0x01 => legal (false) (false) (.mma f.p f.acc f.mv f.s1 f.s2 f.m)
  | 0x02 => legal (f.mv != 0) (false) (.mmas f.p f.acc f.s1 f.s2 f.m)
  | 0x03 => legal (false) (false) (.mmat f.p f.acc f.mv f.s1 f.s2 f.m)
  | 0x04 => legal (false) (false) (.mmah f.p f.acc f.mv f.s1 f.s2 f.m)
  | 0x05 => legal (f.acc != 0 || f.mv != 0) (false) (.mldb f.p f.s1 f.s2 f.m)
  | 0x06 => legal (f.mv != 0 || f.s1 != 0 || f.s2 != 0) (false) (.mclr f.p f.acc f.m)
  | 0x07 => legal (fld 14 2 f.w != 0 || f.s1 != 0 || f.s2 != 0 || f.m) (false) (.macc f.p f.acc (fld 11 3 f.w))
  | 0x08 => legal (f.acc != 0 || f.mv != 0 || f.s2 != 0 || f.m) (false) (.mcfg f.p f.s1)
  | 0x09 => legal (f.s2 != 0) (false) (.mdrn f.p f.acc f.mv f.s1 f.m)
  | 0x0A => legal (false) (fld 3 2 f.mv == 3) (.mdrns f.p f.acc f.mv f.s1 f.s2 f.m)
  | 0x0B => legal (fld 0 3 f.w != 0) (false) (.mrep f.p (fld 3 16 f.w))
  | _ => .error .unassignedOpcode

/-- The C-unit opcodes (R87): reserved fields (REASON 3) before reserved values (REASON 4). -/
def decodeC (f : SlotBits) : Except Reject Instr :=
  match f.op.toNat with
  | 0x01 => legal (cpyMdReserved f.xf f.md) (!(cpyLegal f.xf f.md)) (.cpy f.p f.g2 f.cls f.xf f.md)
  | 0x02 => legal (fld 3 6 f.md != 0) (f.xf.toNat > 2 || fld 1 2 f.md == 3) (.cpys f.p f.g2 f.cls f.xf f.md)
  | 0x03 => legal (fld 3 6 f.md != 0) (f.xf != 0) (.tbind f.p f.g2 f.cls (fld 0 3 f.md))
  | 0x04 => legal (fld 4 5 f.md != 0) (!(f.xf == 0 || (f.xf == 2 && !(bitAt 3 f.md)))) (.tcpy f.p f.g2 f.cls f.xf (fld 0 3 f.md) (bitAt 3 f.md))
  | 0x05 => legal (f.md != 0) (f.xf != 0 && f.xf != 2) (.gath f.p f.g2 f.cls f.xf)
  | 0x06 => legal (f.md != 0) (f.xf != 0 && f.xf != 2) (.scat f.p f.g2 f.cls f.xf)
  | 0x07 => legal (fld 4 5 f.md != 0) (f.xf != 0 || fld 0 3 f.md == 7) (.ramo f.p f.g2 f.cls (fld 0 3 f.md) (bitAt 3 f.md))
  | 0x08 => legal (fld 1 8 f.md != 0) (f.xf != 0) (.pfch f.p f.g2 f.cls (bitAt 0 f.md))
  | 0x09 => legal (f.md != 0) (f.xf != 0) (.migr f.p f.g2 f.cls)
  | 0x0A => legal (bitAt 16 f.w) (false) (.fence f.p (fld 17 2 f.w) (fld 0 16 f.w))
  | 0x0B => legal (bitAt 16 f.w) (false) (.rel f.p (fld 17 2 f.w) (fld 0 16 f.w))
  | 0x0C => legal (fld 0 19 f.w != 0) (false) (.tlbi f.p)
  | 0x0D => legal (f.md != 0) (f.xf != 0) (.chsnd f.p f.g2 f.cls)
  | 0x0E => legal (f.md != 0) (f.xf != 0) (.chrcv f.p f.g2 f.cls)
  | 0x0F => legal (bitAt 8 f.md || ((fld 0 3 f.md).toNat > 1 && fld 3 2 f.md != 0)) (f.xf != 0 || !(collLegal (fld 0 3 f.md) (fld 3 2 f.md) (fld 5 3 f.md))) (.coll f.p f.g2 f.cls (fld 0 3 f.md) (fld 3 2 f.md) (fld 5 3 f.md))
  | 0x10 => legal (fld 4 5 f.md != 0) (f.xf != 0) (.rshd f.p f.g2 f.cls (fld 0 4 f.md))
  | 0x11 => legal (f.md != 0) (f.xf != 0) (.ckcut f.p f.g2 f.cls)
  | 0x12 => legal (fld 1 8 f.md != 0) (f.xf != 0) (.qpush f.p f.g2 f.cls (bitAt 0 f.md))
  | 0x13 => legal (f.md != 0) (f.xf != 0) (.sete f.p f.g2 f.cls)
  | 0x14 => legal (fld 2 7 f.md != 0) (f.xf != 0 || fld 0 2 f.md == 3) (.bmode f.p f.g2 f.cls (fld 0 2 f.md))
  | _ => .error .unassignedOpcode

/-- What a slot that is no header holds. -/
inductive SlotContent where
  | filler
  | instr (i : Instr)
  deriving DecidableEq, Repr

/-- How many scalar fields the format of an opcode has for X1 and X2, and whether it has an immediate for IMX
(R61, R77, R79, R81, R83, R86, R127). For an opcode that is not assigned the model takes two scalar fields in S and M, an
immediate in X, and none in V; for a reserved unit none (log 65). -/
def slotShape (u : BitVec 3) (op : BitVec 7) : Nat × Bool :=
  match u.toNat with
  | 0 =>
    if op == 0x02 then (2, true)
    else if op == 0x1D || op == 0x1E then (1, true)
    else if op == 0x26 || op == 0x27 then (2, true)
    else if op == 0x20 || op == 0x2F || op == 0x29 || op == 0x2A || op == 0x2B then (1, false)
    else if op == 0x21 || op == 0x22 || op == 0x23 then (0, false)
    else (2, false)
  | 1 =>
    if op == 0x01 || op == 0x02 || op == 0x04 then (0, true)
    else if op == 0x03 || op == 0x05 || op == 0x06 then (1, false)
    else if op == 0x07 || op == 0x08 || op == 0x09 then (2, true)
    else (0, true)
  | 2 =>
    if (0x1E ≤ op.toNat && op.toNat ≤ 0x23) || (0x26 ≤ op.toNat && op.toNat ≤ 0x29) || op == 0x2E then (0, true)
    else if 0x2B ≤ op.toNat && op.toNat ≤ 0x35 then (2, false)
    else (0, false)
  | 3 => if op == 0x0B then (0, false) else (2, false)
  | _ => (0, false)

/-- One slot that is not slot 0's header (R57, R58). -/
def decodeSlot (f : SlotBits) : Except Reject SlotContent :=
  match (fld 29 3 f.w).toNat with
  | 0 => (decodeS f).map .instr
  | 1 => (decodeX f).map .instr
  | 2 => (decodeV f).map .instr
  | 3 => (decodeM f).map .instr
  | 4 => (decodeC f).map .instr
  | 5 => .error .headerOutside
  | 6 => if fld 0 29 f.w == 0 then .ok .filler else .error .fillerBits
  | _ => .error .reservedUnit

/-- Is this word a header (R57)? -/
def isHeader (w : BitVec 32) : Bool := fld 29 3 w == 5

/-- The group of slot n (R61); zero when slot 0 is no header. -/
def headerGroup (w0 : BitVec 32) (n : Nat) : BitVec 9 :=
  if isHeader w0 then
    match n with
    | 1 => fld 0 9 w0 | 2 => fld 9 9 w0 | 3 => fld 18 9 w0 | _ => 0
  else 0

/-- A header group that is wrong for its slot (R76, REASON 6). -/
def groupError (w : BitVec 32) (g : BitVec 9) : Bool :=
  let sh := slotShape (fld 29 3 w) (fld 22 7 w)
  if fld 29 3 w == 6 then g != 0
  else (bitAt 8 g && bitAt 7 g) || (bitAt 6 g && sh.1 == 0) || (bitAt 5 g && decide (sh.1 < 2)) ||
    (fld 0 5 g != 0 && !sh.2)

/-- A decoded slot of a bundle: its number, its loop-edge flags (R64) and its instruction. -/
structure BSlot where
  n : Nat
  first : Bool
  last : Bool
  i : Instr
  deriving DecidableEq, Repr

/-- A decoded bundle: the slots that hold instructions, and the slot faults of the encoding, each with its slot. -/
structure Bundle where
  slots : List BSlot
  faults : List (Nat × Reject)
  deriving DecidableEq, Repr

/-- Slot n of a bundle (R56). -/
def bundleSlot (b : BitVec 128) (n : Nat) : BitVec 32 := fld (32 * n) 32 b

/-- How many slots of a bundle name the unit u; a header and fillers count against no limit (R66). -/
def unitCount (b : BitVec 128) (u : Nat) : Nat :=
  ((List.range 4).filter fun n => (fld 29 3 (bundleSlot b n)).toNat == u).length

/-- R66. -/
def overLimit (b : BitVec 128) : Bool :=
  decide (unitCount b 0 > 2) || decide (unitCount b 1 > 1) || decide (unitCount b 2 > 2) ||
    decide (unitCount b 3 > 1) || decide (unitCount b 4 > 2)

/-- What slot n of a bundle adds to the decoded bundle. -/
def decodeInto (b : BitVec 128) (acc : Bundle) (n : Nat) : Bundle :=
  let w0 := bundleSlot b 0
  let w := bundleSlot b n
  if n == 0 && isHeader w0 then
    if fld 27 2 w0 != 0 || [1, 2, 3].any (fun j => groupError (bundleSlot b j) (headerGroup w0 j)) then
      { acc with faults := acc.faults ++ [(0, .headerError)] }
    else acc
  else
    let g := headerGroup w0 n
    match decodeSlot ⟨w, g, isHeader w0⟩ with
    | .error r => { acc with faults := acc.faults ++ [(n, r)] }
    | .ok .filler => acc
    | .ok (.instr i) => { acc with slots := acc.slots ++ [⟨n, bitAt 8 g, bitAt 7 g, i⟩] }

/-- A bundle with its slot faults; REASON 5 and 8 belong to the bundle and are added where they are judged. -/
def decodeBundle (b : BitVec 128) : Bundle := (List.range 4).foldl (decodeInto b) ⟨[], []⟩

/-- TRAPINFO of an illegal bundle (R76): the lowest faulting slot, its lowest REASON; without a slot fault REASON 5
before 8, with WHOLE set. -/
def illegalInfo (faults : List (Nat × Reject)) (exceeds tile : Bool) : Option (BitVec 64) :=
  let best := faults.foldl (fun (acc : Option (Nat × Nat)) x =>
    match acc with
    | none => some (x.1, x.2.reason)
    | some y => if x.1 < y.1 || (x.1 == y.1 && decide (x.2.reason < y.2)) then some (x.1, x.2.reason) else acc) none
  match best with
  | some (sl, r) => some (BitVec.ofNat 64 (r * 256 + sl))
  | none =>
    if exceeds then some (BitVec.ofNat 64 (5 * 256 + 8))
    else if tile then some (BitVec.ofNat 64 (8 * 256 + 8)) else none

/-- The one instruction that a 128-bit bundle stands for, where it stands for one: a bundle of fillers, an illegal
bundle, or a bundle with a single instruction slot. -/
def decodeBundleOne (b : BitVec 128) : Option Instr :=
  let d := decodeBundle b
  match illegalInfo d.faults (overLimit b) false with
  | some info => some (.illegalEncoding info)
  | none =>
    match d.slots with
    | [] => some .fillerBundle
    | [x] => some x.i
    | _ => none

/-- The element types that purlin instructions take (R398). -/
def pType (t : BitVec 3) : Bool := t == 0 || t == 1 || t == 2 || t == 5

/-- A legal purlin word (R412: an illegal one is refused when its kernel is loaded). -/
def legalP (ok : Bool) (i : Instr) : Except Reject Instr := if ok then .ok i else .error .purlinWord

/-- R405: the types differ, and H is 0 between FP32 and INT32 and between BF16 and FP16. -/
def pvcvtLegal (t u : BitVec 3) (h : Bool) : Bool :=
  pType t && pType u && t != u && (!h || (viewCols t != viewCols u))

/-- A purlin instruction word (R398, R399). -/
def decodePurlin (w : BitVec 32) : Except Reject Instr :=
  let d : BitVec 4 := fld 22 4 w
  let a : BitVec 4 := fld 18 4 w
  let b : BitVec 4 := fld 14 4 w
  let rr := legalP (fld 0 14 w == 0)
  let vd : BitVec 3 := fld 23 3 w
  let va : BitVec 3 := fld 20 3 w
  let vb : BitVec 3 := fld 17 3 w
  let vt : BitVec 3 := fld 14 3 w
  let k := bitAt 25 w
  let reg : BitVec 4 := if k then fld 21 4 w else (0#1 ++ fld 21 3 w)
  let pm := legalP (k || !(bitAt 24 w))
  let ma : BitVec 4 := fld 17 4 w
  let inc := bitAt 16 w
  let off : BitVec 16 := fld 0 16 w
  match (fld 26 6 w).toNat with
  | 0x01 => rr (.padd d a b)
  | 0x02 => rr (.psub d a b)
  | 0x03 => rr (.pand d a b)
  | 0x04 => rr (.por d a b)
  | 0x05 => rr (.pxor d a b)
  | 0x06 => rr (.pshl d a b)
  | 0x07 => legalP (fld 0 13 w == 0) (.pshr d a b (bitAt 13 w))
  | 0x08 => legalP (fld 0 11 w == 0 && decide ((fld 11 3 w).toNat ≤ 5)) (.pcmp d a b (fld 11 3 w))
  | 0x09 => legalP (fld 0 10 w == 0) (.psel d a b (fld 10 4 w))
  | 0x0A => legalP (fld 0 18 w == 0) (.pmov d a)
  | 0x0B => .ok (.pmovi d (fld 0 22 w))
  | 0x0C => legalP (fld 10 10 w == 0 && fld 20 2 w != 3 && (fld 20 2 w != 2 || d == 0) && fld 0 10 w != 0)
      (.pbr d (fld 20 2 w) (fld 0 10 w))
  | 0x0D => legalP (fld 24 2 w == 0 || (fld 24 2 w == 1 && fld 0 14 w == 0))
      (.ploop (fld 24 2 w) (fld 14 10 w) (fld 0 14 w))
  | 0x0E => pm (.pmld k reg ma inc off)
  | 0x0F => pm (.pmst k reg ma inc off)
  | 0x10 => pm (.pfld k reg ma inc off)
  | 0x11 => pm (.pfst k reg ma inc off)
  | 0x12 => legalP (fld 0 14 w == 0 && pType vt) (.pvadd vd va vb vt)
  | 0x13 => legalP (fld 0 14 w == 0 && pType vt) (.pvmax vd va vb vt)
  | 0x14 => legalP (fld 0 14 w == 0 && pType vt) (.pvmul vd va vb vt)
  | 0x15 => legalP (fld 0 12 w == 0 && pType (fld 15 3 w) && fld 13 2 w != 3)
      (.pvacc d a (fld 15 3 w) (fld 13 2 w) (bitAt 12 w))
  | 0x16 => legalP (fld 0 14 w == 0 && pType vt && vd == 0 && vb == 0) (.pvnf va vt)
  | 0x17 => legalP (fld 0 10 w == 0 && vb == 0 && pvcvtLegal vt (fld 11 3 w) (bitAt 10 w))
      (.pvcvt vd va vt (fld 11 3 w) (bitAt 10 w))
  | 0x18 => legalP (fld 0 22 w == 0) (.pfwd d)
  | 0x19 => legalP (fld 0 26 w == 0) .pdrop
  | 0x1A => rr (.preply d a b)
  | 0x1B => legalP (fld 0 26 w == 0) .pdone
  | 0x1C => legalP (d == 0) (.ptrap (fld 0 22 w))
  | _ => .error .purlinWord

/-- The fields of a 64-byte translation request, numbered from its byte 0 (R299). -/
def xreqOf (win : Nat) (b : BitVec 512) : XReq :=
  { job := fld 32 32 b, va := fld 64 64 b, count := fld 128 32 b, size := fld 160 32 b, entry := fld 192 64 b,
    caddr := fld 256 64 b, cval := fld 320 64 b, rsvd := fld 384 128 b, win := win }

/-- A translation request (R299); a reserved OP ends with status 2, which `decodeXlate` says by name. -/
def decodeXlate (win : Nat) (b : BitVec 512) : Except Reject Instr :=
  match (fld 0 32 b).toNat with
  | 1 => .ok (.map (xreqOf win b))
  | 2 => .ok (.unmap (xreqOf win b))
  | 3 => .ok (.protect (xreqOf win b))
  | 4 => .ok (.inval (xreqOf win b))
  | 5 => .ok (.unfwd (xreqOf win b))
  | _ => .error .requestOp

/-- A launch-control request (R343). -/
def lreqOf (port : Nat) (b : BitVec 512) : LReq :=
  { queue := fld 32 32 b, seq := fld 64 64 b, caddr := fld 128 64 b, cval := fld 192 64 b, rsvd := fld 256 256 b,
    port := port }

def decodeLaunchCtl (port : Nat) (b : BitVec 512) : Except Reject Instr :=
  match (fld 0 32 b).toNat with
  | 1 => .ok (.displace (lreqOf port b))
  | 2 => .ok (.resume (lreqOf port b))
  | 3 => .ok (.abort (lreqOf port b))
  | _ => .error .requestOp

/-- A purlin request (R411). -/
def preqOf (win : Nat) (b : BitVec 512) : PReq :=
  { job := fld 32 32 b, arg := fld 64 64 b, flow := fld 128 32 b, region := fld 160 32 b, fsize := fld 192 32 b,
    setw := fld 224 32 b, caddr := fld 256 64 b, cval := fld 320 64 b, rsvd := fld 384 128 b, win := win }

def decodePurlinReq (win : Nat) (b : BitVec 512) : Except Reject Instr :=
  match (fld 0 32 b).toNat with
  | 1 => .ok (.load (preqOf win b))
  | 2 => .ok (.unload (preqOf win b))
  | 3 => .ok (.bind (preqOf win b))
  | 4 => .ok (.unbind (preqOf win b))
  | _ => .error .requestOp

/-- A fault reply (R355); ACTION 0 and 3 are ignored by the part. -/
def freplyOf (b : BitVec 128) : FReply :=
  { token := fld 0 16 b, job := fld 32 32 b, rsvd := fld 66 62 b ++ fld 16 16 b }

def decodeFaultReply (b : BitVec 128) : Except Reject Instr :=
  match (fld 64 2 b).toNat with
  | 1 => .ok (.faultReplyRestart (freplyOf b))
  | 2 => .ok (.faultReplyCancel (freplyOf b))
  | _ => .error .requestOp

/-- The instruction read from nbits bits, numbered as the opcode table numbers them: a purlin word, or a bundle. -/
def decodeTableWord (nbits w : Nat) : Option Instr :=
  if nbits ≤ 32 then (decodePurlin (BitVec.ofNat 32 w)).toOption
  else decodeBundleOne (BitVec.ofNat 128 w)

-- The encoder.

/-- An encoded instruction: a slot word with its header group, or a purlin word. -/
inductive Enc where
  | slot (w : BitVec 32) (g : BitVec 9)
  | purlin (w : BitVec 32)
  deriving DecidableEq, Repr

def b1 (x : Bool) : BitVec 1 := if x then 1 else 0
def b01 (x : Bool) : BitVec 3 := if x then 1 else 0

/-- The header group of a slot: F = L = 0, X1, X2 and IMX (R61). -/
def encG (x1 x2 : BitVec 1) (imx : BitVec 5) : BitVec 9 := 0#2 ++ x1 ++ x2 ++ imx

-- The formats of R77.
def encSR (op : BitVec 7) (p : BitVec 3) (d a b : BitVec 6) (fn : BitVec 3) : Enc :=
  .slot (0#3 ++ op ++ p ++ fld 0 5 d ++ fld 0 5 a ++ b ++ fn) (encG (fld 5 1 d) (fld 5 1 a) 0)
def encSI (op : BitVec 7) (p : BitVec 3) (d a : BitVec 6) (imm : BitVec 14) : Enc :=
  .slot (0#3 ++ op ++ p ++ fld 0 5 d ++ fld 0 5 a ++ fld 0 9 imm) (encG (fld 5 1 d) (fld 5 1 a) (fld 9 5 imm))
def encSL (op : BitVec 7) (p : BitVec 3) (d : BitVec 6) (imm : BitVec 19) : Enc :=
  .slot (0#3 ++ op ++ p ++ fld 0 5 d ++ fld 0 14 imm) (encG (fld 5 1 d) 0 (fld 14 5 imm))
def encSM (op : BitVec 7) (p : BitVec 3) (d a : BitVec 6) (sz : BitVec 2) (sx fb : Bool) (imm : BitVec 10) : Enc :=
  .slot (0#3 ++ op ++ p ++ fld 0 5 d ++ fld 0 5 a ++ sz ++ b1 sx ++ b1 fb ++ fld 0 5 imm)
    (encG (fld 5 1 d) (fld 5 1 a) (fld 5 5 imm))
def encSC (op : BitVec 7) (p cd : BitVec 3) (a b : BitVec 6) (cond : BitVec 3) : Enc :=
  .slot (0#3 ++ op ++ p ++ cd ++ 0#2 ++ fld 0 5 a ++ b ++ cond) (encG (fld 5 1 a) 0 0)
def encSK (op : BitVec 7) (p cd ca cb : BitVec 3) : Enc :=
  .slot (0#3 ++ op ++ p ++ cd ++ ca ++ cb ++ 0#10) 0
def encSG (op : BitVec 7) (p : BitVec 3) (e : BitVec 4) (a : BitVec 6) : Enc :=
  .slot (0#3 ++ op ++ p ++ e ++ 0#1 ++ fld 0 5 a ++ 0#9) (encG (fld 5 1 a) 0 0)
def encSX (op : BitVec 7) (p : BitVec 3) (d : BitVec 6) (crn : BitVec 7) : Enc :=
  .slot (0#3 ++ op ++ p ++ fld 0 5 d ++ crn ++ 0#7) (encG (fld 5 1 d) 0 0)
-- The formats of R79.
def encXB (op : BitVec 7) (c : BitVec 3) (n : Bool) (off : BitVec 23) : Enc :=
  .slot (1#3 ++ op ++ c ++ b1 n ++ fld 0 18 off) (encG 0 0 (fld 18 5 off))
def encXR (op : BitVec 7) (c : BitVec 3) (n : Bool) (a : BitVec 6) : Enc :=
  .slot (1#3 ++ op ++ c ++ b1 n ++ fld 0 5 a ++ 0#13) (encG (fld 5 1 a) 0 0)
def encXL (op : BitVec 7) (a : BitVec 6) (len : BitVec 9) : Enc :=
  .slot (1#3 ++ op ++ fld 0 5 a ++ len ++ 0#8) (encG (fld 5 1 a) 0 0)
def encXK (op : BitVec 7) (a b : BitVec 6) (imm : BitVec 17) : Enc :=
  .slot (1#3 ++ op ++ fld 0 5 a ++ fld 0 5 b ++ fld 0 12 imm) (encG (fld 5 1 a) (fld 5 1 b) (fld 12 5 imm))
def encXT (op : BitVec 7) (imm : BitVec 27) : Enc :=
  .slot (1#3 ++ op ++ fld 0 22 imm) (encG 0 0 (fld 22 5 imm))
-- The formats of R81.
def encVR (op : BitVec 7) (d a b : BitVec 5) (k t : BitVec 3) (m : Bool) : Enc :=
  .slot (2#3 ++ op ++ d ++ a ++ b ++ k ++ t ++ b1 m) 0
def encVC (op : BitVec 7) (kd : BitVec 3) (a b : BitVec 5) (cc t : BitVec 3) : Enc :=
  .slot (2#3 ++ op ++ 0#2 ++ kd ++ a ++ b ++ cc ++ t ++ 0#1) 0
def encVK (op : BitVec 7) (kd ka kb : BitVec 3) : Enc :=
  .slot (2#3 ++ op ++ 0#2 ++ kd ++ 0#2 ++ ka ++ 0#2 ++ kb ++ 0#7) 0
def encVI (op : BitVec 7) (d a : BitVec 5) (imm : BitVec 8) (t : BitVec 3) : Enc :=
  .slot (2#3 ++ op ++ d ++ a ++ imm ++ t ++ 0#1) 0
def encVS (op : BitVec 7) (v : BitVec 5) (sa sb : BitVec 6) (k t : BitVec 3) (m : Bool) : Enc :=
  .slot (2#3 ++ op ++ v ++ fld 0 5 sa ++ fld 0 5 sb ++ k ++ t ++ b1 m) (encG (fld 5 1 sa) (fld 5 1 sb) 0)
-- The formats of R83 and R86.
def encMX (op : BitVec 7) (p acc : BitVec 3) (v : BitVec 5) (s1 s2 : BitVec 6) (o : Bool) : Enc :=
  .slot (3#3 ++ op ++ p ++ acc ++ v ++ fld 0 5 s1 ++ fld 0 5 s2 ++ b1 o) (encG (fld 5 1 s1) (fld 5 1 s2) 0)
def encMP (op : BitVec 7) (p : BitVec 3) (count : BitVec 16) : Enc :=
  .slot (3#3 ++ op ++ p ++ count ++ 0#3) 0
def encCC (op : BitVec 7) (p : BitVec 3) (g : BitVec 2) (cls xf : BitVec 4) (md : BitVec 9) : Enc :=
  .slot (4#3 ++ op ++ p ++ g ++ cls ++ xf ++ md) 0
def encCF (op : BitVec 7) (p : BitVec 3) (scope : BitVec 2) (mask : BitVec 16) : Enc :=
  .slot (4#3 ++ op ++ p ++ scope ++ 0#1 ++ mask) 0
-- The formats of R398.
def encPR (op : BitVec 6) (d a b : BitVec 4) (low : BitVec 14) : Enc := .purlin (op ++ d ++ a ++ b ++ low)
def encPM (op : BitVec 6) (k : Bool) (reg a : BitVec 4) (inc : Bool) (off : BitVec 16) : Enc :=
  .purlin (op ++ b1 k ++ reg ++ a ++ b1 inc ++ off)
def encPV (op : BitVec 6) (d a b t : BitVec 3) (low : BitVec 14) : Enc := .purlin (op ++ d ++ a ++ b ++ t ++ low)

/-- The encoding of an instruction that has one; the steps of the part and of its hosts have none. -/
def encode : Instr → Option Enc
  | .add p d a b => some (encSR 1 p d a b 0)
  | .sub p d a b => some (encSR 3 p d a b 0)
  | .mul p d a b => some (encSR 4 p d a b 0)
  | .mulhs p d a b => some (encSR 5 p d a b 0)
  | .mulhz p d a b => some (encSR 6 p d a b 0)
  | .divs p d a b => some (encSR 7 p d a b 0)
  | .divz p d a b => some (encSR 8 p d a b 0)
  | .rems p d a b => some (encSR 9 p d a b 0)
  | .remz p d a b => some (encSR 10 p d a b 0)
  | .and p d a b => some (encSR 11 p d a b 0)
  | .or p d a b => some (encSR 12 p d a b 0)
  | .xor p d a b => some (encSR 13 p d a b 0)
  | .andn p d a b => some (encSR 14 p d a b 0)
  | .shl p d a b => some (encSR 15 p d a b 0)
  | .shrs p d a b => some (encSR 16 p d a b 0)
  | .shrz p d a b => some (encSR 17 p d a b 0)
  | .rotl p d a b => some (encSR 18 p d a b 0)
  | .mins p d a b => some (encSR 19 p d a b 0)
  | .minz p d a b => some (encSR 20 p d a b 0)
  | .maxs p d a b => some (encSR 21 p d a b 0)
  | .maxz p d a b => some (encSR 22 p d a b 0)
  | .addi p d a imm => some (encSI 2 p d a imm)
  | .clz p d a => some (encSR 23 p d a 0 0)
  | .ctz p d a => some (encSR 24 p d a 0 0)
  | .popc p d a => some (encSR 25 p d a 0 0)
  | .mov p d a => some (encSR 28 p d a 0 0)
  | .bfx p d a b sx => some (encSR 26 p d a b (b01 sx))
  | .bfi p d a b => some (encSR 27 p d a b 0)
  | .movi p d imm => some (encSL 29 p d imm)
  | .movhi p d q val => some (encSL 30 p d (0#1 ++ q ++ val))
  | .sel p d a b n => some (encSR 31 p d a b n)
  | .cmp p cd a b cond => some (encSC 32 p cd a b cond)
  | .cand p cd ca cb => some (encSK 33 p cd ca cb)
  | .cor p cd ca cb => some (encSK 34 p cd ca cb)
  | .cxor p cd ca cb => some (encSK 35 p cd ca cb)
  | .lea p d a b n => some (encSR 36 p d a b n)
  | .tidx p d a b g => some (encSR 37 p d a b (0#1 ++ g))
  | .lds p d a sz sx fb imm => some (encSM 38 p d a sz sx fb imm)
  | .sts p d a sz imm => some (encSM 39 p d a sz false false imm)
  | .amos p d a b o => some (encSR 40 p d a b o)
  | .stg p e a => some (encSG 41 p e a)
  | .crd p d crn => some (encSX 42 p d crn)
  | .cwr p d crn => some (encSX 43 p d crn)
  | .fadd p d a b sb => some (encSR 44 p d a b (b01 sb))
  | .fmul p d a b => some (encSR 45 p d a b 0)
  | .ffma p d a b ng => some (encSR 46 p d a b (b01 ng))
  | .fcmp p cd a b cond => some (encSC 47 p cd a b cond)
  | .fcvt p d a kind => some (encSR 48 p d a 0 kind)
  | .br c n off => some (encXB 1 c n off)
  | .jmp off => some (encXB 2 0 false off)
  | .jmpr c n a => some (encXR 3 c n a)
  | .call off => some (encXB 4 0 false off)
  | .ret c n => some (encXR 5 c n 0)
  | .loop a len => some (encXL 6 a len)
  | .arm a b keep t => some (encXK 7 a b (b1 keep ++ t))
  | .arrive a b sc => some (encXK 8 a b (0#15 ++ sc))
  | .wait a b sc => some (encXK 9 a b (0#15 ++ sc))
  | .yield => some (encXT 10 0)
  | .exit => some (encXT 11 0)
  | .tret => some (encXT 13 0)
  | .crclose => some (encXT 16 0)
  | .nop => some (encXT 17 0)
  | .trap code => some (encXT 12 code)
  | .seg id => some (encXT 14 id)
  | .cropen off => some (encXT 15 off)
  | .vadd t d a b k m => some (encVR 1 d a b k t m)
  | .vsub t d a b k m => some (encVR 2 d a b k t m)
  | .vmul t d a b k m => some (encVR 3 d a b k t m)
  | .vfma t d a b k m => some (encVR 4 d a b k t m)
  | .vfms t d a b k m => some (encVR 5 d a b k t m)
  | .vmin t d a b k m => some (encVR 6 d a b k t m)
  | .vmax t d a b k m => some (encVR 7 d a b k t m)
  | .vabs t d a k m => some (encVR 8 d a 0 k t m)
  | .vneg t d a k m => some (encVR 9 d a 0 k t m)
  | .vclamp t d a b k m => some (encVR 10 d a b k t m)
  | .vfn t d a fn k m => some (encVR 11 d a fn k t m)
  | .vcmp t kd a b cc => some (encVC 12 kd a b cc t)
  | .vsel d a b k => some (encVR 13 d a b k 0 false)
  | .kand kd ka kb => some (encVK 14 kd ka kb)
  | .kor kd ka kb => some (encVK 15 kd ka kb)
  | .knot kd ka => some (encVK 16 kd ka 0)
  | .vand t d a b k m => some (encVR 17 d a b k t m)
  | .vor t d a b k m => some (encVR 18 d a b k t m)
  | .vxor t d a b k m => some (encVR 19 d a b k t m)
  | .vshl t d a b k m => some (encVR 20 d a b k t m)
  | .vshr t d a b k m => some (encVR 21 d a b k t m)
  | .viadd t d a b k m => some (encVR 22 d a b k t m)
  | .vimul t d a b k m => some (encVR 23 d a b k t m)
  | .vcvt t d a src part k m => some (encVR 0x18 d a (part ++ src) k t m)
  | .vqnt d a b h => some (encVR 0x19 d a b 0 3 h)
  | .vdq d a q k m => some (encVR 0x1a d a (0#3 ++ q) k 0 m)
  | .vscr t d a b k m => some (encVR 27 d a b k t m)
  | .vscc t d a b k m => some (encVR 28 d a b k t m)
  | .vbias t d a b k m => some (encVR 29 d a b k t m)
  | .vbcr t d a imm => some (encVI 30 d a imm t)
  | .vbcc t d a imm => some (encVI 31 d a imm t)
  | .vrotr t d a imm => some (encVI 32 d a imm t)
  | .vrotc t d a imm => some (encVI 33 d a imm t)
  | .vredr t d a o => some (encVI 34 d a (0#6 ++ o) t)
  | .vredc t d a o => some (encVI 35 d a (0#6 ++ o) t)
  | .vshuf t d a b k m => some (encVR 36 d a b k t m)
  | .vshfr t d a b k m => some (encVR 37 d a b k t m)
  | .vhaar d a lv h th => some (encVI 0x26 d a (0#1 ++ b1 th ++ h ++ lv) 0)
  | .vihaar d a => some (encVI 0x27 d a 0 0)
  | .vthr d a h => some (encVI 0x28 d a (0#5 ++ h) 0)
  | .vtag d a tag => some (encVI 0x29 d a tag 0)
  | .vmov d a k m => some (encVR 0x2a d a 0 k 0 m)
  | .vsplat t d sa k m => some (encVS 0x2b d sa 0 k t m)
  | .viota t d mode => some (encVI 0x2e d 0 (0#6 ++ mode) t)
  | .vins t d sa sb => some (encVS 0x2c d sa sb 0 t false)
  | .vext t d sa sb => some (encVS 0x2d d sa sb 0 t false)
  | .vld t d sa sb k m => some (encVS 0x2f d sa sb k t m)
  | .vst t d sa sb k => some (encVS 0x30 d sa sb k t false)
  | .vldt t d sa => some (encVS 0x31 d sa 0 0 t false)
  | .vstt t d sa sb => some (encVS 0x32 d sa sb 0 t false)
  | .vpush t d sa k => some (encVS 0x33 d sa 0 k t false)
  | .vpop t d sa sb => some (encVS 0x34 d sa sb 0 t false)
  | .vflags sa sb => some (encVS 0x35 0 sa sb 0 0 false)
  | .mma p acc v s1 s2 o => some (encMX 1 p acc v s1 s2 o)
  | .mmas p acc s1 s2 o => some (encMX 2 p acc 0 s1 s2 o)
  | .mmat p acc v s1 s2 o => some (encMX 3 p acc v s1 s2 o)
  | .mmah p acc v s1 s2 o => some (encMX 4 p acc v s1 s2 o)
  | .mldb p s1 s2 o => some (encMX 5 p 0 0 s1 s2 o)
  | .mclr p acc o => some (encMX 6 p acc 0 0 0 o)
  | .macc p acc src => some (encMX 7 p acc (0#2 ++ src) 0 0 false)
  | .mcfg p s1 => some (encMX 8 p 0 0 s1 0 false)
  | .mdrn p acc v s1 o => some (encMX 9 p acc v s1 0 o)
  | .mdrns p acc opts s1 s2 o => some (encMX 10 p acc opts s1 s2 o)
  | .mrep p count => some (encMP 11 p count)
  | .cpy p g cls xf md => some (encCC 1 p g cls xf md)
  | .cpys p g cls xf md => some (encCC 2 p g cls xf md)
  | .tbind p g cls slot => some (encCC 3 p g cls 0 (0#6 ++ slot))
  | .tcpy p g cls xf slot dir => some (encCC 4 p g cls xf (0#5 ++ b1 dir ++ slot))
  | .gath p g cls xf => some (encCC 5 p g cls xf 0)
  | .scat p g cls xf => some (encCC 6 p g cls xf 0)
  | .ramo p g cls o rt => some (encCC 7 p g cls 0 (0#5 ++ b1 rt ++ o))
  | .pfch p g cls tgt => some (encCC 8 p g cls 0 (0#8 ++ b1 tgt))
  | .migr p g cls => some (encCC 9 p g cls 0 0)
  | .chsnd p g cls => some (encCC 13 p g cls 0 0)
  | .chrcv p g cls => some (encCC 14 p g cls 0 0)
  | .ckcut p g cls => some (encCC 17 p g cls 0 0)
  | .sete p g cls => some (encCC 19 p g cls 0 0)
  | .fence p sc mask => some (encCF 10 p sc mask)
  | .rel p sc mask => some (encCF 11 p sc mask)
  | .tlbi p => some (encCF 12 p 0 0)
  | .coll p g cls kind o ty => some (encCC 15 p g cls 0 (0#1 ++ ty ++ o ++ kind))
  | .rshd p g cls mm => some (encCC 16 p g cls 0 (0#5 ++ mm))
  | .qpush p g cls tile => some (encCC 18 p g cls 0 (0#8 ++ b1 tile))
  | .bmode p g cls mode => some (encCC 20 p g cls 0 (0#7 ++ mode))
  | .padd d a b => some (encPR 0x01 d a b 0)
  | .psub d a b => some (encPR 0x02 d a b 0)
  | .pand d a b => some (encPR 0x03 d a b 0)
  | .por d a b => some (encPR 0x04 d a b 0)
  | .pxor d a b => some (encPR 0x05 d a b 0)
  | .pshl d a b => some (encPR 0x06 d a b 0)
  | .pshr d a b s => some (encPR 0x07 d a b (b1 s ++ 0#13))
  | .pcmp d a b cond => some (encPR 0x08 d a b (cond ++ 0#11))
  | .psel d a b c => some (encPR 0x09 d a b (c ++ 0#10))
  | .pmov d a => some (encPR 0x0A d a 0 0)
  | .pmovi d imm => some (.purlin (0x0B#6 ++ d ++ imm))
  | .pbr c md off => some (.purlin (0x0C#6 ++ c ++ md ++ 0#10 ++ off))
  | .ploop src len count => some (.purlin (0x0D#6 ++ src ++ len ++ count))
  | .pmld k reg a inc off => some (encPM 0x0E k reg a inc off)
  | .pmst k reg a inc off => some (encPM 0x0F k reg a inc off)
  | .pfld k reg a inc off => some (encPM 0x10 k reg a inc off)
  | .pfst k reg a inc off => some (encPM 0x11 k reg a inc off)
  | .pvadd d a b t => some (encPV 0x12 d a b t 0)
  | .pvmax d a b t => some (encPV 0x13 d a b t 0)
  | .pvmul d a b t => some (encPV 0x14 d a b t 0)
  | .pvacc a b t o inc => some (.purlin (0x15#6 ++ a ++ b ++ t ++ o ++ b1 inc ++ 0#12))
  | .pvnf a t => some (encPV 0x16 0 a 0 t 0)
  | .pvcvt d a t u h => some (encPV 0x17 d a 0 t (u ++ b1 h ++ 0#10))
  | .pfwd a => some (encPR 0x18 a 0 0 0)
  | .pdrop => some (encPR 0x19 0 0 0 0)
  | .preply a b c => some (encPR 0x1A a b c 0)
  | .pdone => some (encPR 0x1B 0 0 0 0)
  | .ptrap code => some (.purlin (0x1C#6 ++ 0#4 ++ code))
  | _ => none

/-- What the decoder reads from an encoding: the slot with its group as under a header, or the purlin word. -/
def decodeEnc : Enc → Except Reject Instr
  | .slot w g =>
    match decodeSlot ⟨w, g, true⟩ with
    | .ok (.instr i) => .ok i
    | .ok .filler => .error .shape
    | .error r => .error r
  | .purlin w => decodePurlin w

end Sys2Proof
end

