-- ==== Sys2Proof/Config.lean ====
section
/-!
DEFINITION. What an implementation fixes (R1) and the free values: opaque constants that nothing can evaluate. A free
value is applied to the stamp of the step that reads it (`State.fresh`) and to a position, or to the operand that
decides it.
-/
namespace Sys2Proof.Config

/-- Clusters, cores of a cluster (enabled) and contexts of a core (R1). -/
def clusters : Nat := 80
def coresPerCluster : Nat := 8
def contexts : Nat := 1280
/-- Bytes of Slate in a cluster, of a bank and of a line (R36). -/
def slateBytes : Nat := 0x800000
def bankBytes : Nat := 0x20000
def lineBytes : Nat := 128
/-- Installed DRAM of a package: 384 GiB (R1). -/
def dramBytes : Nat := 384 * 2 ^ 30
/-- Work queues (R317), package-level bells (R46), channels, communicators (R1), job-table entries (R461). -/
def queues : Nat := 131072
def packageBells : Nat := 4096
def clusterBells : Nat := 256
def channels : Nat := 4096
def communicators : Nat := 256
def jobs : Nat := 256
/-- The save area of a task (R52). -/
def saveBytes : Nat := 204800
/-- Purlin processors, kernel images and the flow-state store (R395, R411). -/
def purlins : Nat := 48
def kernelImages : Nat := 192
def flowBytes : Nat := 16 * 2 ^ 20
/-- Forwarding-table frames (R304), entries of a translation unit and walks in flight (R297). -/
def forwards : Nat := 16384
def tlbEntries : Nat := 2048
def walks : Nat := 256

-- Undefined values (R7): stamp of the step, position.
/-- An undefined scalar value. -/
opaque freeWord : Nat → Nat → BitVec 64
/-- An undefined condition. -/
opaque freeBit : Nat → Nat → Bool
/-- An undefined lane mask. -/
opaque freeMask : Nat → Nat → BitVec 1024
/-- An undefined 32-bit lane or scale of a tile: stamp, position, lane. -/
opaque freeLane : Nat → Nat → Nat → BitVec 32
/-- The undefined bits of a survival mask. -/
opaque freeRows : Nat → Nat → BitVec 16
/-- An undefined accumulator element: stamp, position, element. -/
opaque freeElem : Nat → Nat → Nat → BitVec 36
/-- An undefined byte: stamp, address. -/
opaque freeByte : Nat → Nat → BitVec 8
/-- A choice of the part among Slate or global bytes that land while they are read: stamp, position. -/
opaque freeChoice : Nat → Nat → Nat
/-- R179: which of the two bracketing FP32 values the fixed function of VFN returns; function code, operand. -/
opaque vfnUpper : Nat → BitVec 32 → Bool
/-- R381: the hash of source package and FLOW fixed at reset. -/
opaque routeHash : Nat → BitVec 32 → Nat
/-- R467: the level-1 identifier that the part chooses; the launch's number among the launches ever started. -/
opaque launchHash : Nat → Nat
/-- R365, R465: which clusters have a spare core. -/
opaque spareCore : Nat → Bool
/-- R365: how many spare rows a DRAM pseudo-channel has. -/
opaque spareRows : Nat → Nat
/-- R465: the link width and rate of STATUS, of a port. -/
opaque linkState : Nat → BitVec 8
/-- Is the signature of the firmware in the on-package flash good (R463, step 1)? -/
opaque firmwareSigned : Bool

end Sys2Proof.Config
end

