-- ==== Sys2Proof/Machine/State.lean ====
section
/-!
DEFINITION. The state of one ZK-640 package as plain data: tasks and their registers (01), cores, clusters, copy
engines, translation, the Timetable, bells, the Ridge, collectives, purlins, checkpoints and the host interface; and
the few fields of the model's own. Also the reasons a step may stop, and the state after reset (R463).
-/
namespace Sys2Proof.Machine

-- Registers of a task (R17 to R29).

/-- A tile register (R21 to R25): lane (i, j) at 64 i + j; side-car entry (i, b) at 2 i + b. -/
structure Tile where
  lanes : Vector (BitVec 32) 1024
  tag : BitVec 8
  mask : BitVec 16
  side : Vector (BitVec 32) 32
  deriving DecidableEq, Repr

/-- A tile at task start (R47). -/
def Tile.zero : Tile :=
  { lanes := Vector.replicate 1024 0, tag := 0, mask := 0xFFFF, side := Vector.replicate 32 0x3F800000 }

/-- An accumulator (R26): element (i, j) at 64 i + j. -/
structure Acc where
  elem : Vector (BitVec 36) 1024
  exp : Vector (BitVec 8) 16
  written : BitVec 16
  overflow : BitVec 16
  tag : BitVec 8
  /-- Integer mode. -/
  imode : Bool
  deriving DecidableEq, Repr

/-- An accumulator after MCLR or at task start (R27). -/
def Acc.clear (imode : Bool) : Acc :=
  { elem := Vector.replicate 1024 0, exp := Vector.replicate 16 0, written := 0, overflow := 0, tag := 0,
    imode := imode }

/-- What a result in flight will write. -/
inductive Dest where
  | s (n : Nat)
  | c (n : Nat)
  | k (n : Nat)
  | v (n : Nat)
  deriving DecidableEq, Repr

/-- The value of a result. -/
inductive RVal where
  | word (w : Word)
  | bit (b : Bool)
  | mask (m : BitVec 1024)
  | tile (t : Tile)
  /-- VLDT, while a line of its record is empty: its number, the record's address and LENGTH, and a tile with its TAG
  and SURV; the rows are read when the last line is full (R199). -/
  | record (id ea len : Nat) (t : Tile)
  /-- VFLAGS: FLAGS as they stand when it completes; the bits to clear then (R204). -/
  | readFlags (clear : Flags)
  deriving DecidableEq, Repr

/-- A result that has been issued and has not landed (R72, R73). -/
structure Pending where
  /-- None: a result that only raises flags, or one whose destination a later write has taken (R72). -/
  dest : Option Dest
  val : RVal
  flags : Flags
  /-- The cycle by which it has landed. -/
  due : Nat
  /-- Scoreboarded (R73): readers stall; otherwise they read an undefined value. -/
  sb : Bool
  /-- 0: it completes at its cycle; 1: it may complete before it (R203); 2: a division, which may too, in order (R131). -/
  early : Nat
  /-- The destination is marked poisoned when it lands (R357). -/
  poison : Bool
  deriving DecidableEq, Repr

/-- The wait of R159. -/
structure BellWait where
  bell : BitVec 16
  phase : BitVec 16
  scope : BitVec 2
  deriving DecidableEq, Repr

/-- A drain or restore stub in progress (R339, R341), and the cycle of its first bundle, once it has issued. -/
structure Stub where
  drain : Bool
  since : Option Nat
  /-- The drain stub's YIELD has issued (R340). -/
  done : Bool
  deriving DecidableEq, Repr

/-- A pending matrix-error or copy-error event (R228, R267, R351 row 0); region: the depth index to which it unwinds,
if it unwinds (R359). -/
structure PendEvent where
  cause : BitVec 16
  info : Word
  region : Option Nat
  deriving DecidableEq, Repr

/-- What the Timetable keeps of a launch's code object (R92 to R95); addresses are virtual. -/
structure CodeObj where
  base : Nat
  len : Nat
  /-- The trap vector's address, if the object has one. -/
  trap : Option Nat
  /-- Identifier, expected count, expected signature (R93). -/
  segs : List (Nat × Nat × Nat)
  /-- Start, end, drain stub, restore stub (R94). -/
  stubs : List (Nat × Nat × Nat × Nat)
  deriving DecidableEq, Repr

/-- A TBIND slot (R245): the descriptor's address, its bytes when the TBIND has performed, and BUSY (R314). -/
structure TSlot where
  va : Nat
  desc : Option (List Byte)
  busy : Bool
  deriving DecidableEq, Repr

/-- Slate lines as they stood at an access: bytes, undefined lines, poisoned lines. -/
structure SlateImg where
  slate : Mem
  undef : Tab Nat
  poison : List Nat
  deriving DecidableEq, Repr

/-- A matrix instruction in the engine (R211): the instruction, what it captured, its passes. -/
structure MJob where
  i : Instr
  /-- The slot word and S1, S2 values as issued (R51). -/
  word : BitVec 32
  s1 : Word
  s2 : Word
  /-- The threshold set captured (R224, R225). -/
  thr : BitVec 128
  n : Nat
  next : Nat
  begun : Bool
  /-- The cycle at which the pass or operation in progress is done. -/
  due : Nat
  retries : Nat
  /-- Its number: order of issue. -/
  id : Nat
  /-- The A tile that the pass in progress read when it began (R212). -/
  atile : Option Tile
  /-- That tile was marked poisoned then (R228). -/
  apois : Bool
  /-- The Slate lines of its operands and images: its reads take their place in program order when it issues (R268; log 25).
  None after a resumption, when its passes read the bytes as they then stand (R51). -/
  img : Option SlateImg
  /-- What it does to the views of R469: the tag of its A operand, and whether it writes a row. -/
  tag : BitVec 8
  wr : Bool
  deriving DecidableEq, Repr

/-- The B buffer (R219). -/
structure BBuf where
  o : Bool
  rows : List Byte
  scales : List (BitVec 32)
  /-- The S1 and S2 values of its MLDB (R51). -/
  s1 : Word
  s2 : Word
  deriving DecidableEq, Repr

/-- A task: its registers, its modes and what is in flight for it. -/
structure Task where
  /-- The context holds a task. -/
  active : Bool
  /-- The task's own number, never given again; its launch and group. -/
  tid : Nat
  launch : Nat
  group : Nat
  job : BitVec 32
  -- Identity registers (R30, 0x00 to 0x0F)
  taskid : Word
  groupid : Word
  clusterid : Word
  pkgid : Word
  meshpos : Word
  prio : Word
  slbase : Word
  slsize : Word
  domain : Vector Word 4
  cbells : Word
  pbells : Word
  mbells : Word
  savebase : Word
  -- Register files (R17)
  s : Vector Word 64
  c : Vector Bool 8
  k : Vector (BitVec 1024) 8
  v : Vector Tile 32
  a : Vector Acc 8
  h : Vector (BitVec 128) 8
  m : Vector (BitVec 128) 16
  e : Vector Word 16
  -- Control registers (R30)
  flags : Flags
  rmode : BitVec 3
  mrepleft : BitVec 16
  /-- The task's last bundle held MREP: its next one consumes or clears MREPLEFT (R85; log 43). -/
  mrepArmed : Bool
  ldepth : BitVec 3
  lcount : Vector (BitVec 32) 6
  lstride : Vector Word 6
  lbody : Vector Word 6
  segid : BitVec 32
  segcount : BitVec 32
  segsig : BitVec 32
  crdepth : BitVec 3
  crlevel : Vector Word 4
  trapcause : BitVec 16
  trappc : Word
  trapinfo : Word
  mrx : Vector Word 9
  /-- The address of the next bundle, and the first-iteration bits (R65). -/
  pc : Word
  first : BitVec 6
  -- Modes
  handler : Bool
  stub : Option Stub
  wait : Option BellWait
  /-- The wait that a trap interrupted; TRET takes it up again. -/
  heldWait : Option BellWait
  pend : List PendEvent
  pendCnf : Bool
  exited : Bool
  preempt : Bool
  debug : Bool
  /-- The PC word kept at diversion to a drain stub (R340). -/
  keptPc : Word
  -- In flight
  inflight : List Pending
  /-- What the bundle in progress asks of its end: the next PC that a branch chose; the end address of a LOOP with count
  0 (R152); the code of a TRAP (R162); the PC word that TRET loads (R164); which of SEGCOUNT (bit 0) and SEGSIG (bit 1) a
  CWR or a SEG has written (R146, R166), so that this bundle does not update it. -/
  branch : Option Word
  loop0 : Option Word
  swTrap : Option (BitVec 27)
  ret : Option Word
  segSet : BitVec 2
  /-- An unwind was taken, and its handler's first bundle has not issued (R351). -/
  shield : Bool
  tbind : Vector (Option TSlot) 8
  mq : List MJob
  /-- The matrix instructions that wait in the resume registers, with what they captured at issue and no resume register holds:
  numbers, threshold sets (R50, R51, R224, R225; log 59). -/
  held : List MJob
  bbuf : Option BBuf
  /-- Poisoned scalar, tile and accumulator registers (R357), conditions and masks (R362). -/
  poisonS : List Nat
  poisonV : List Nat
  poisonA : List Nat
  poisonC : List Nat
  poisonK : List Nat
  /-- Tile registers and accumulators whose tag, and control registers whose value, are undefined since a restore stub began
  (R341): reading them makes no check fail (R7). -/
  undefV : List Nat
  undefA : List Nat
  undefC : List Nat
  code : CodeObj
  /-- The last cycle in which flags landed, and those flags (R32). -/
  landedAt : Nat
  landed : Flags
  deriving DecidableEq, Repr

/-- A context that holds no task (registers as at task start; log 8). -/
def Task.empty : Task :=
  { active := false, tid := 0, launch := 0, group := 0, job := 0, taskid := 0, groupid := 0, clusterid := 0,
    pkgid := 0, meshpos := 0, prio := 0, slbase := 0, slsize := 0, domain := Vector.replicate 4 0, cbells := 0,
    pbells := 0, mbells := 0, savebase := 0, s := Vector.replicate 64 0, c := Vector.replicate 8 false,
    k := Vector.replicate 8 0, v := Vector.replicate 32 Tile.zero, a := Vector.replicate 8 (Acc.clear false),
    h := Vector.replicate 8 0, m := Vector.replicate 16 0, e := Vector.replicate 16 0, flags := 0, rmode := 0,
    mrepleft := 0, mrepArmed := false, ldepth := 0, lcount := Vector.replicate 6 0, lstride := Vector.replicate 6 0,
    lbody := Vector.replicate 6 0, segid := 0, segcount := 0, segsig := 0, crdepth := 0,
    crlevel := Vector.replicate 4 0, trapcause := 0, trappc := 0, trapinfo := 0, mrx := Vector.replicate 9 0, pc := 0,
    first := 0, handler := false, stub := none, wait := none, heldWait := none, pend := [], pendCnf := false, exited := false,
    preempt := false, debug := false, keptPc := 0, inflight := [], branch := none, loop0 := none,
    swTrap := none, ret := none, segSet := 0, shield := false, tbind := Vector.replicate 8 none,
    mq := [], held := [], bbuf := none, poisonS := [], poisonV := [],
    poisonA := [], poisonC := [], poisonK := [], undefV := [], undefA := [], undefC := [], code := ⟨0, 0, none, [], []⟩, landedAt := 0, landed := 0 }

/-- A context whose task has gone: the registers hold what they held (R423, R429), and nothing is in flight (log 8). -/
def Task.left (t : Task) : Task :=
  { t with
    active := false, tid := 0, launch := 0, group := 0, job := 0, handler := false, stub := none, wait := none, heldWait := none,
    pend := [], pendCnf := false, exited := false, preempt := false, debug := false, inflight := [], branch := none, loop0 := none,
    swTrap := none, ret := none, shield := false, tbind := Vector.replicate 8 none, mq := [], held := [], bbuf := none }

-- Cores, clusters, copy engines.

/-- A core: issue arbitration (R335), vector units (R68), matrix configuration (R223), health (R364, R367). -/
structure Core where
  /-- The context that was primary at the last cycle both were eligible. -/
  lastPrimary : Nat
  starve : Vector Nat 2
  /-- The context that issued YIELD last, and the cycle in which it did. -/
  yielded : Option (Nat × Nat)
  /-- The cycle at which each vector unit is free. -/
  vfree : Vector Nat 2
  cfg : BitVec 3
  /-- The context whose instruction the engine executed last. -/
  mlast : Nat
  /-- Residue retries (R227); TIME of the last residue stop (R364). -/
  residue : Nat
  stopAt : Option Nat
  retired : Bool
  queued : Bool
  /-- TIME of the last passing test slice (R367). -/
  lastPass : Nat
  deriving DecidableEq, Repr

def Core.empty : Core :=
  { lastPrimary := 0, starve := Vector.replicate 2 0, yielded := none, vfree := Vector.replicate 2 0, cfg := 0,
    mlast := 0, residue := 0, stopAt := none, retired := false, queued := false, lastPass := 0 }

/-- A bell (R42), with the replica state of a mesh bell (R385) and its holder (R468). -/
structure Bell where
  phase : BitVec 16
  target : BitVec 16
  count : BitVec 16
  overrun : Bool
  /-- PENDING, between -2^39 and 2^39 - 1. -/
  pending : Int
  early : Nat
  ready : Bool
  /-- Held events while READY (R385): a local ARM (target, keep, bytes) or bytes counted. -/
  held : List (Option (BitVec 16 × Bool) × Int)
  /-- At the root: the members whose ready for the phase has come. -/
  readyFrom : List Nat
  /-- Job, communicator (none: a package bell), launch (none: the level-3 phase bell of the job). -/
  holder : Option (BitVec 32 × Option Nat × Option Nat)
  deriving DecidableEq, Repr

/-- The reset values of R42. -/
def Bell.empty : Bell :=
  { phase := 0, target := 0, count := 0, overrun := false, pending := 0, early := 0, ready := false, held := [],
    readyFrom := [], holder := none }

/-- A message held in a FIFO bank for CHRCV (R253, R254). -/
structure ChMsg where
  chan : Nat
  src : Nat
  bytes : List Byte
  status : BitVec 32
  /-- Credits that go back to the sender when it is taken (R387). -/
  cred : Nat
  /-- It is poisoned (R357). -/
  poison : Bool
  deriving DecidableEq, Repr

/-- An entry of a stream: 256 bytes, the cycle from which it is visible, whether it is poisoned (R357). -/
structure FRow where
  at' : Nat
  bytes : List Byte
  poison : Bool
  deriving DecidableEq, Repr

/-- The stream of a FIFO bank (R201): entries and messages. -/
structure Fifo where
  rows : List FRow
  msgs : List ChMsg
  deriving DecidableEq, Repr

/-- An entry of a cluster translation unit (R297): job, first VA, level of the leaf (1 to 3), the leaf (R294). -/
structure TlbEnt where
  job : BitVec 32
  va : Nat
  level : Nat
  leaf : Word
  deriving DecidableEq, Repr

/-- A walk asked for, with its number (misses of one page share a walk), its fault when it has ended in one (R295: kind 1, 4;
5 uncorrectable), and the accesses that wait for it: 2 n + 1 for command n, 2 n for the fetch of task n. -/
structure Walk where
  id : Nat
  job : BitVec 32
  va : Nat
  fault : Option Nat
  askers : List Nat
  deriving DecidableEq, Repr

/-- A line of a cluster cache (R273, R275): package and local address of the sector, bytes, valid mask, dirty mask. -/
structure CLine where
  pkg : Nat
  pa : Nat
  bytes : List Byte
  valid : BitVec 128
  dirty : BitVec 128
  /-- It is poisoned (R357). -/
  poison : Bool
  deriving DecidableEq, Repr

/-- A cluster. -/
structure Cluster where
  slate : Mem
  /-- Lines marked empty (R39). -/
  lineEmpty : List Nat
  /-- Poisoned lines (R357), and lines whose bytes are undefined, with their stamp (R267, R271). -/
  poison : List Nat
  undef : Tab Nat
  /-- Bank mode: absent 0 scratchpad, 1 FIFO, 2 cache (R38). -/
  mode : Tab Nat
  /-- Closing banks and their owner task (R271). -/
  closing : Tab Nat
  fifo : Tab Fifo
  bells : Tab Bell
  tlb : List TlbEnt
  walks : List Walk
  /-- The cluster cache of each group. -/
  cache : Tab (List CLine)
  /-- The pattern index of its test slices, and the place in the cycle of its cores from which the next one runs (R367). -/
  pattern : Nat
  sliceAt : Nat
  deriving DecidableEq, Repr

def Cluster.empty : Cluster :=
  { slate := [], lineEmpty := [], poison := [], undef := [], mode := [], closing := [], fifo := [], bells := [],
    tlb := [], walks := [], cache := [], pattern := 0, sliceAt := 0 }

/-- A page translated for a hand-over (R259): first VA, bytes, leaf; translated for writing. -/
structure PageT where
  va : Nat
  size : Nat
  leaf : Word
  w : Bool
  deriving DecidableEq, Repr

/-- A record of a fault queue (R354): kind, first halfword bits, source, queue, completion value, DETAIL words. -/
structure FRec where
  kind : Nat
  reply : Bool
  time : Nat
  source : Nat
  queue : Nat
  value : Nat
  detail : List Word
  /-- LOST: a record was dropped before it was posted (R353). -/
  lost : Bool := false
  deriving DecidableEq, Repr

/-- A command accepted by a copy engine (R230), and its progress (R266). -/
structure Cmd where
  id : Nat
  i : Instr
  /-- Issuing task, launch, group, cluster, job. -/
  tid : Nat
  launch : Nat
  group : Nat
  cluster : Nat
  job : BitVec 32
  /-- Captured staging words, map and thresholds (R230). -/
  w : Vector Word 4
  map : BitVec 128
  thr : BitVec 128
  /-- Depth index of its containment region (R167). -/
  region : Option Nat
  /-- TIME at acceptance (R305); the descriptor and BUSY that a TCPY saw at acceptance (R433). -/
  time : Nat
  desc : Option (List Byte)
  begun : Bool
  /-- Handed to a collective engine, the planner or the Timetable (R231). -/
  handed : Bool
  /-- The index list of GATH and SCAT. -/
  idx : List Nat
  /-- Unit in progress, bytes of it read, bytes to write when it has been read whole, bytes of them written. -/
  unit : Nat
  got : List Byte
  out : Option (List Byte)
  put : Nat
  srcpos : Nat
  dstpos : Nat
  /-- The 128-byte sector, of global memory or Slate, that it read last (R266). -/
  srcSec : Option Nat
  /-- Aligned 8-byte words, by VA / 8, of which it has read a part: their bytes as they were then (R280). -/
  words : Tab (List Byte)
  /-- Aligned 8-byte words that it writes in full and of which a part has come: byte of the word, value (R280). -/
  parts : Tab (List (Nat × Byte))
  /-- Bytes landed in each Slate line of the destination that is not yet set full: address, bytes (R269). -/
  landed : Tab (List (Nat × List Byte))
  /-- A request sent to another package, by (package, address or send number), its number, and the reply to it: its bytes,
  and 0 or the reason of R356. -/
  sent : Option (Nat × Nat)
  tag : Nat
  reply : Option (List Byte × Nat)
  /-- Halted at a deferred fault: token, VA, kind (R265). -/
  halt : Option (Nat × Nat × Nat)
  /-- An RSHD that has failed: its reason, whether it ends without a trap, and its record; it ends when BUSY is clear (R260). -/
  fail : Option (Nat × Bool × FRec)
  /-- Pages already translated for a hand-over (R259). -/
  pages : List PageT
  /-- A signature run folds its writes and performs none (R345). -/
  shadow : Bool
  deriving DecidableEq, Repr

/-- A write to its home that no command waits for sector by sector: dirty bytes of a cluster cache (R275), or a tensor
descriptor (R260); and whether it is on its way. -/
structure WBack where
  tag : Nat
  /-- The command to which it belongs, or 0; the group whose releases wait for it. -/
  owner : Nat
  group : Nat
  job : BitVec 32
  pkg : Nat
  /-- The address of the sector. -/
  pa : Nat
  bytes : List Byte
  mask : BitVec 128
  /-- The bytes come from a poisoned unit (R357). -/
  poison : Bool
  /-- Of each byte only bit 0 is written: BUSY (R307, R314). -/
  bit : Bool
  sent : Bool
  deriving DecidableEq, Repr

/-- A FENCE or REL not yet satisfied (R251). -/
structure Fence where
  tid : Nat
  id : Nat
  group : Nat
  cluster : Nat
  mask : BitVec 16
  scope : BitVec 2
  rel : Bool
  /-- A REL whose write-backs are on their way. -/
  released : Bool
  deriving DecidableEq, Repr

/-- A CKCUT whose arrival counts toward a phase of a mesh bell (R261): the bell's index and the phase; the address of the
control block; the local-done bell, with the cluster and the group of its task; DOMAIN3.MEMBERS. -/
structure CutReq where
  job : BitVec 32
  index : Nat
  phase : BitVec 16
  ctl : Nat
  bell : Option (BitVec 16)
  cluster : Nat
  group : Nat
  n : Nat
  deriving DecidableEq, Repr

/-- An ARRIVE whose release is not yet performed (R158), or a completion arrival on its way. -/
structure Arrival where
  tid : Nat
  group : Nat
  launch : Nat
  cluster : Nat
  job : BitVec 32
  bell : BitVec 16
  scope : BitVec 2
  /-- Commands, fences and drains that must have performed before it, by number. -/
  after : List Nat
  /-- The release of R277 has begun: the write-backs are on their way. -/
  released : Bool
  /-- The arrival is that of a CKCUT. -/
  cut : Option CutReq
  deriving DecidableEq, Repr

-- The Timetable.

/-- A record that is submitted and not completed (R319): completion value, bytes. -/
structure QRec where
  num : Nat
  bytes : List Byte
  /-- The launch that it started, once checked. -/
  launch : Option Nat
  done : Bool
  /-- A deferred fault of its head check: token, which read (1 code object, 7 bell table). -/
  fault : Option (Nat × Nat)
  /-- What the head check has read so far: VA and bytes of each piece (R325). -/
  kept : List (Nat × List Byte)
  deriving DecidableEq, Repr

/-- A work queue (R318): its control entry, weight, discard counter and the records not yet completed. -/
structure Queue where
  qctl : Word
  qring : Word
  qcaddr : Word
  qcv : Word
  weight : Nat
  discards : Nat
  recs : List QRec
  /-- The launch of the head record, while it cannot be placed, and the TIME since which it cannot (R330). -/
  since : Option (Nat × Nat)
  deriving DecidableEq, Repr

def Queue.empty : Queue :=
  { qctl := 0, qring := 0, qcaddr := 0, qcv := 0, weight := 1, discards := 0, recs := [], since := none }

/-- A launch (R11) from its head check until it completes. -/
structure Launch where
  queue : Nat
  num : Nat
  job : BitVec 32
  bytes : List Byte
  code : CodeObj
  entry : Nat
  groups : Nat
  tasks : Nat
  slsize : Nat
  prio : Nat
  flags : BitVec 8
  /-- The bell table's header words and entries (R324). -/
  ncb : Nat
  npb : Nat
  nmb : Nat
  mbase : Nat
  comm : Nat
  hasTable : Bool
  bells : List (Nat × Nat × Int)
  did : BitVec 32
  /-- The first package bell of each run. -/
  pbells : Vector Nat 3
  /-- Groups placed in each run; groups retired; tile records consumed; and of a tile launch, the launch-record copies of
  the tiles started so far, by GROUPID (R333). -/
  placed : Vector Nat 3
  retired : Nat
  consumed : Nat
  tiles : List (List Byte)
  started : Bool
  aborted : Bool
  /-- Signatures of the runs (R346), how many runs there are, and the cores that each run used. -/
  sigs : Vector (BitVec 64) 3
  runs : Nat
  cores : List (Nat × Nat)
  held : Bool
  /-- The runs agreed, or there is one run. -/
  voted : Bool
  deriving DecidableEq, Repr

/-- Where the image of a displaced group lies in its job's pool (R343; log 45): address and bytes. -/
structure Away where
  spot : Nat
  len : Nat
  deriving DecidableEq, Repr

/-- A task group (R10): placed, or displaced to DRAM. -/
structure Group where
  launch : Nat
  gid : Nat
  run : Nat
  cluster : Nat
  slbase : Nat
  slsize : Nat
  ncb : Nat
  cbell : Nat
  job : BitVec 32
  tasks : List Nat
  /-- Tasks not yet exited. -/
  left : Nat
  away : Option Away
  /-- Being displaced since this TIME. -/
  displacing : Option Nat
  deriving DecidableEq, Repr

/-- A task whose context is out (R337): hardware save or drain stub. -/
structure OutTask where
  task : Task
  cluster : Nat
  stubbed : Bool
  deriving DecidableEq, Repr

/-- A posted request of a window that has not completed (R302, R343): completion address, value, status word, and the
engines and commands whose markers it waits for. -/
structure Done where
  caddr : Word
  cval : Word
  status : Word
  cmds : List Nat
  /-- Writes to the homes of unmapped pages that have still to perform (R277), by number. -/
  backs : List Nat
  /-- Pages whose X removal is deferred (R301): job, VA, level. -/
  xrem : List (BitVec 32 × Nat × Nat)
  /-- A DISPLACE waits for its groups. -/
  launch : Option Nat
  port : Nat
  deriving DecidableEq, Repr

-- Jobs and faults.

/-- A job-table entry (R461), its regulators' tokens (R290) and its fault queue (R353). -/
structure Job where
  w : Vector Word 32
  tokens : Vector Int 3
  seq : Nat
  /-- The next record posted has LOST set (R353). -/
  lost : Bool
  waiting : List FRec
  /-- Records that have entered the ring and whose writes have not all performed; FQTAIL counts a record with its write (R462): the
  write's number, the record's kind, its bytes. -/
  posting : List (Nat × Nat × List Byte)
  deriving DecidableEq, Repr

def Job.empty : Job :=
  { w := Vector.replicate 32 0, tokens := Vector.replicate 3 0, seq := 0, lost := false, waiting := [], posting := [] }

-- The Ridge.

/-- A port: lanes not retired (fewer than 6: the link has been taken down), up, discard counter (R366, R377, R384); for each virtual channel, the credits for flits of the buffer at the other
end of its link, and the flits already sent of the message that is leaving (R379). -/
structure Port where
  lanes : Nat
  up : Bool
  discards : Nat
  cred : Vector Nat 16
  part : Vector Nat 16
  deriving DecidableEq, Repr

def Port.init : Port := { lanes := 8, up := true, discards := 0, cred := Vector.replicate 16 32, part := Vector.replicate 16 0 }

/-- A segment of a channel message (R388) that has been handled: offset, bytes as delivered, consumed, the status word of
its run, the replies that its run emitted. -/
structure Seg where
  offset : Nat
  bytes : List Byte
  dropped : Bool
  status : BitVec 32
  replies : List (Nat × List Byte)
  /-- It came poisoned (R357). -/
  poison : Bool
  deriving DecidableEq, Repr

/-- A channel message whose segments are being gathered (R388): source, send number, length as sent; then what is still to
be appended to the FIFO bank. -/
structure SegMsg where
  src : Nat
  num : Nat
  len : Nat
  segs : List Seg
  out : Option (List ChMsg)
  deriving DecidableEq, Repr

/-- A channel entry (R386), its send number, credits held by the sender, and segments held by the receiver (R388). -/
structure Chan where
  w : BitVec 256
  sendSeq : Nat
  credits : Nat
  msgs : List SegMsg
  deriving DecidableEq, Repr

def Chan.empty : Chan := { w := 0, sendSeq := 0, credits := 0, msgs := [] }

/-- A block of a reduction whose flow has a kernel (R416): destination offset, bytes, contributions that have passed the
kernel; its collect message is out; its result. -/
structure CBlock where
  off : Nat
  len : Nat
  count : Nat
  asked : Bool
  result : Option (List Byte)
  deriving DecidableEq, Repr

/-- A sector of a page homed on another package that a collective reads: package, address, number of the request; what came
back: bytes, and 0 or the reason of a copy error. -/
structure FarRead where
  pkg : Nat
  pa : Nat
  tag : Nat
  got : Option (List Byte × Nat)
  deriving DecidableEq, Repr

/-- A collective or reshard of a communicator (R390), in its communicator's order. -/
structure Coll where
  cmd : Nat
  comm : Nat
  seq : Nat
  kind : Nat
  op : Nat
  ty : Nat
  count : Nat
  arg : Nat
  /-- Pages of source and destination (R259), and their first addresses. -/
  pages : List PageT
  src : Nat
  dst : Nat
  /-- The kernel's binding at this Ridge, if its flow has one (R415). -/
  kern : Option Nat
  /-- The binding whose kernel the pieces that leave here pass at this Ridge (R415, SITE 1); it keeps them while the collective runs (R419). -/
  skern : Option Nat
  /-- Chunks ended (of the step in progress); a chunk is in progress. -/
  next : Nat
  running : Bool
  /-- The cycle from which the chunk in progress may have ended: 256 bytes in a ridge cycle (R390). -/
  due : Nat
  blocks : List CBlock
  /-- Sectors of pages homed on other packages: read; and written and not yet acknowledged (number, bytes to count into the
  bell). -/
  far : List FarRead
  acks : List (Nat × Nat)
  nf : Bool
  /-- At rank 0: the members whose DONE has come. -/
  dones : List Nat
  doneSent : Bool
  /-- An RSHD has its FINISH, and the writes of its descriptor are on their way (R260). -/
  ended : Bool
  /-- RSHD: the old descriptor and the new map; the step in progress; the elements held, by number; those received in
  this step: rank, stream offset, bytes. -/
  reshard : Bool
  desc : List Byte
  map : BitVec 128
  rstep : Nat
  /-- Bytes of the step that have been charged (R290). -/
  paid : Nat
  staged : List (Nat × Nat)
  recv : List (Nat × Nat × List Byte)
  /-- Aligned 8-byte words, by VA / 8, of its source of which a part has been read, and of its destination of which a part has come, as
  a command keeps them (R280). -/
  words : Tab (List Byte)
  parts : Tab (List (Nat × Byte))
  deriving DecidableEq, Repr

/-- A piece in the receive scratch (R391, R392): whose it is, the scratch piece that it has taken, and its messages:
offset, bytes as sent, bytes as delivered. -/
structure Piece where
  comm : Nat
  seq : Nat
  step : Nat
  src : Nat
  off : Nat
  len : Nat
  slot : Nat
  msgs : List (Nat × Nat × Nat)
  poison : Bool
  deriving DecidableEq, Repr

/-- A loaded kernel (R410): job, words, flags, FSMIN. -/
structure Kernel where
  job : BitVec 32
  words : List (BitVec 32)
  flags : BitVec 8
  fsmin : Nat
  deriving DecidableEq, Repr

/-- How a kernel run ended (R408, R417): consumed; trapped; the payload that goes on; the status word; replies. -/
structure PEnd where
  dropped : Bool
  trapped : Bool
  bytes : List Byte
  status : BitVec 32
  replies : List (Nat × List Byte)
  deriving DecidableEq, Repr

/-- A message that a binding has queued (R415), until its fate has taken effect (R409). -/
structure PMsg where
  id : Nat
  msg : Msg
  started : Bool
  fin : Option PEnd
  deriving DecidableEq, Repr

/-- A binding (R415): kernel, flow, region (byte address in the store), processors, queued messages. -/
structure Binding where
  kernel : Nat
  job : BitVec 32
  flow : BitVec 32
  base : Nat
  fsize : Nat
  procs : List Nat
  excl : Bool
  source : Bool
  queue : List PMsg
  /-- An UNBIND is waiting: completion address, value, window (R419). -/
  unbinding : Option (Word × Word × Nat)
  deriving DecidableEq, Repr

/-- A kernel run on a purlin processor (R396). -/
structure Run where
  bind : Nat
  id : Nat
  msg : Msg
  w : Vector (BitVec 32) 16
  z : Vector (BitVec 512) 8
  buf : Mem
  pc : Nat
  /-- Active loops, innermost first: first index, last index, iterations left. -/
  loops : List (Nat × Nat × Nat)
  flits : Nat
  cycles : Nat
  replies : List (Nat × List Byte)
  deriving DecidableEq, Repr

/-- The drain of a cut (R371 to R373): its number, control block, rank and N; the phase: 0 the members say whether their slots are complete, 1 data units are being
sent, 2 the group's data is awaited, 3 units go to their parity units, 4 the members are awaited; what has still to be sent,
messages not yet acknowledged, and the members heard from in phases 2 and 4. -/
structure Drain where
  cut : Nat
  ctl : List Byte
  rank : Nat
  n : Nat
  /-- Pages that were cut-pending in this cut or the one before. -/
  marked : List Nat
  /-- Members that have said whether their slots are complete; some slot is not (R373). -/
  told : List Nat
  whole : Bool
  phase : Nat
  todo : List Nat
  out : Nat
  heard : List Nat
  heard2 : List Nat
  deriving DecidableEq, Repr

/-- 64 KiB of a cut-pending page (R369, R370): VA and local address; the page's frame and size. -/
structure CutUnit where
  va : Nat
  pa : Nat
  base : Nat
  size : Nat
  deriving DecidableEq, Repr

/-- A cut being copied or drained (R368 to R373). -/
structure Ckpt where
  ctl : List Byte
  cut : Nat
  /-- What is still to be copied of cut-pending pages, in copying order. -/
  pages : List CutUnit
  /-- Pages of this cut and of the cut before. -/
  marked : List Nat
  marked1 : List Nat
  /-- The local-done bell, until its arrival, and the cluster and group of its task. -/
  bell : Option (BitVec 16)
  cluster : Nat
  group : Nat
  /-- Its drain has still to be started. -/
  draining : Bool
  drains : List Drain
  rank : Nat
  n : Nat
  deriving DecidableEq, Repr

def Ckpt.empty : Ckpt :=
  { ctl := [], cut := 0, pages := [], marked := [], marked1 := [], bell := none, cluster := 0, group := 0, draining := false,
    drains := [], rank := 0, n := 0 }

/-- Output to a host or to the management core. -/
inductive HostOut where
  | write (port : Nat) (addr : Word) (val : List Byte)   -- a posted write to host memory
  | msix (port vec : Nat)                                -- an interrupt
  | mgmt (m : Msg)                                       -- a KIND 10 message for the management core
  | record (r : List Byte)                               -- a fault record routed to the management core
  | read (port : Nat) (val : List Byte) (poison : Bool)  -- the completion of an aperture read
  | abort (port : Nat)                                   -- Completer Abort
  | mail (port : Nat) (r : List Byte)                    -- a request of the management mailbox window
  | restored (job : BitVec 32) (status : Nat)            -- the end of a restore (R374)
  deriving DecidableEq, Repr

/-- An access of a host through BAR4 within one sector (R460): port, number; package, local address and bytes; the bytes of a
write; whether it has left for another package. -/
structure HostAcc where
  port : Nat
  tag : Nat
  pkg : Nat
  pa : Nat
  len : Nat
  data : Option (List Byte)
  sent : Bool
  deriving DecidableEq, Repr

/-- A forwarding-table entry (R303, R304): old frame and size, new package and frame, and the page's VA. -/
structure Fwd where
  job : BitVec 32
  va : Nat
  old : Nat
  size : Nat
  pkg : Nat
  frame : Nat
  deriving DecidableEq, Repr

/-- A page that is migrating from this home (R303): the package that asked, its engine's command; the page, its home
entry, its old frame; the target and its frame. Stage: 0 to be judged, 1 the target has been asked for a frame, 2 copying.
Bytes copied, numbers of the writes not yet acknowledged, and the writes held at this home. -/
structure Migr where
  origin : Nat
  cmd : Nat
  job : BitVec 32
  va : Nat
  level : Nat
  leafAt : Nat
  old : Nat
  target : Nat
  stage : Nat
  frame : Nat
  copied : Nat
  acks : List Nat
  held : List Msg
  deriving DecidableEq, Repr
def Migr.size (m : Migr) : Nat := if m.level = 1 then 2 ^ 30 else if m.level = 2 then 2 ^ 21 else 2 ^ 16

/-- An instruction fetch from a page that is homed on another package: context, sector, its bytes when they have come
(none while the read is on its way; an empty list for an uncorrectable error). -/
structure IFetch where
  ctx : Nat
  pkg : Nat
  pa : Nat
  tag : Nat
  bytes : Option (List Byte)
  deriving DecidableEq, Repr

-- What befalls the part.

/-- What happens to the part from outside its instructions and events (log 57): errors of its cells and paths (R362, R364), the
settings of its firmware, its sensors, and its bring-up. -/
inductive Incident where
  /-- An uncorrectable error in a Slate line; in a line of a group's cluster cache; in an entry or a message of a FIFO bank. -/
  | slateLine (cluster line : Nat)
  | cacheLine (cluster group pkg pa : Nat)
  | fifoRow (cluster bank i : Nat)
  | fifoMsg (cluster bank i : Nat)
  /-- In a register of a context: 0 scalar, 1 condition, 2 mask, 3 tile, 4 accumulator. -/
  | register (ctx kind n : Nat)
  /-- In sectors of DRAM or of an Eave; a tag error gives every sector of its set. -/
  | sectors (l : List Nat)
  /-- On a die-to-die or crossbar path: the message received at that place of the queue. -/
  | carried (i : Nat)
  /-- In the local memory or the flow state of the run on a purlin processor (R417). -/
  | purlin (proc : Nat)
  /-- A corrected error of a unit: class, index. -/
  | corrected (cls idx : Nat)
  /-- Firmware sets the threshold of a unit class (R364). -/
  | threshold (cls n : Nat)
  /-- Credits come back on the link of a port: channel, flits (R379). -/
  | linkCredit (port vc n : Nat)
  /-- Junction temperature and power (R465). -/
  | sensors (temp power : Word)
  deriving DecidableEq, Repr

-- The machine.

/-- One package. -/
structure State where
  -- Time (R35, R466)
  cycle : Nat
  /-- The tick count TIME, and how much of the tick in progress has passed, of 512 · 360,360 parts. -/
  ticks : Nat
  phase : Nat
  /-- Steps of 50 MHz below 700 MHz. -/
  throttle : Nat
  shut : Bool
  -- Memory
  dram : Mem
  dramPoison : List Nat
  -- Cores and clusters
  ctxs : Tab Task
  cores : Tab Core
  clusters : Tab Cluster
  engs : Tab (List Cmd)
  ifetch : List IFetch
  fences : List Fence
  arrivals : List Arrival
  /-- Writes to their homes that have not performed, oldest first (R275, R277, R284). -/
  wbs : List WBack
  bells : Tab Bell
  -- Timetable
  queues : Tab Queue
  slots : Mem
  launches : Tab Launch
  groups : Tab Group
  outs : List OutTask
  /-- One more than the queue last served at each level (R328), 0 before the first turn of a level (log 9); the turn in progress: its
  queue, the credit left, and its level; and the cycle from which the next placement may be made. -/
  cursor : Vector Nat 4
  ttTurn : Option (Nat × Nat × Nat)
  ttNext : Nat
  /-- The launch whose record is reserving at each level (R330). -/
  reserving : Vector (Option Nat) 4
  did : Nat
  -- Jobs, translation
  jobs : Tab Job
  fwd : List Fwd
  /-- Frames taken from this package's pools: job, index; and frames that have returned to them: job, address. -/
  poolUsed : List (BitVec 32 × Nat)
  poolBack : List (BitVec 32 × Nat)
  migr : List Migr
  waitDone : List Done
  -- Ridge
  routes : Tab Word
  ridgecfg : Word
  ports : Tab Port
  chans : Tab Chan
  comms : Tab (BitVec 512)
  commSeq : Tab Nat
  colls : List Coll
  /-- The communicator last served on each engine (R391), and the chunk's communicator in progress. -/
  served : Tab Nat
  pieces : List Piece
  /-- Scratch credits held: communicator, member (R391); and end-to-end credits on their way to other packages: channel
  (or communicator), number, package, credits. -/
  commCred : Tab (Tab Nat)
  creditOut : List (Bool × Nat × Nat × Nat)
  /-- Credits withheld while the queue of their flow's binding is full (R415). -/
  creditHeld : List (Bool × Nat × Nat × Nat)
  -- Purlins
  kernels : Tab Kernel
  bindings : Tab Binding
  runs : Tab Run
  flow : Mem
  -- Checkpoints
  ckpts : Tab Ckpt
  cutWait : List CutReq
  -- Sparing (R364, R365): corrected errors by unit (class, index), the units that have taken a spare, and the ways and rows that are
  -- retired without one
  errs : List ((Nat × Nat) × Nat)
  spares : List (Nat × Nat)
  worn : List (Nat × Nat)
  /-- The thresholds that firmware has set, by unit class (R364). -/
  limits : Tab Nat
  -- Host interface (R455 to R465)
  /-- The steps of bring-up still to take (R463): 5 right after reset, 0 once READY is set. -/
  boot : Nat
  status : Word
  pkgnum : Word
  meshpos : Word
  qsplit : Word
  apbase : Vector Word 2
  temp : Word
  power : Word
  errcnt : Nat
  windows : Tab Mem
  msix : Vector Mem 2
  msixPend : Vector Mem 2
  badReplies : Nat
  /-- Accesses of the hosts through BAR4 that have not performed, in their order (R280, R460). -/
  hostAcc : List HostAcc
  hostOut : List HostOut
  /-- Messages that the Ridge holds for its ports; those that have left on their links; and the credits that go back on the links for
  flits taken out of this Ridge's buffers: port, channel, flits (R379, R384). -/
  outbox : List Msg
  wire : List Msg
  linkBack : List (Nat × Nat × Nat)
  -- The model's own
  rx : List Msg
  inbox : List Instr
  incidents : List Incident
  /-- 0: cores; otherwise the purlin processor, plus one, whose run executes next. -/
  turn : Nat
  /-- The next core, and the next copy engine, of the cycle in progress. -/
  coreIdx : Nat
  engIdx : Nat
  cur : Nat
  /-- The task as it stood before the bundle that is being issued, and that bundle's slot and words. -/
  before : Option Task
  slotNo : Nat
  bits : BitVec 128
  fresh : Nat
  /-- The stamp of the undefined operands that the bundles of a core's cycle read (R7, R67, R72). -/
  stamp : Nat
  nextId : Nat
  deriving DecidableEq, Repr

/-- Why a step stops for good. -/
inductive Fault where
  /-- Raised by step after THERMAL_SHUTDOWN (R466): the part has shut down, and nothing runs until a package reset.
  Safe: the spec says the part stops. -/
  | partShutDown
  deriving DecidableEq, Repr

/-- Why a step has no meaning. -/
inductive Refusal where
  /-- Raised by an arm of exec that has no meaning yet. Safe: nothing can be proved of it. -/
  | notModelled (mnemonic : String)
  deriving DecidableEq, Repr

/-- The package right after reset (R463), and the registers for which no reset value is stated (log 8, log 9). -/
def State.reset : State :=
  { cycle := 0, ticks := 0, phase := 0, throttle := 0, shut := false, dram := [], dramPoison := [], ctxs := [],
    cores := [], clusters := [], engs := [], ifetch := [], fences := [], arrivals := [], wbs := [], bells := [], queues := [], slots := [],
    launches := [], groups := [], outs := [], cursor := Vector.replicate 4 0, ttTurn := none, ttNext := 0, reserving := Vector.replicate 4 none,
    did := 0, jobs := [], fwd := [], poolUsed := [], poolBack := [], migr := [], waitDone := [], routes := [], ridgecfg := 0,
    ports := [], chans := [], comms := [], commSeq := [], colls := [], served := [], pieces := [], commCred := [], creditOut := [], creditHeld := [], kernels := [],
    bindings := [], runs := [], flow := [], ckpts := [], cutWait := [], errs := [], spares := [], worn := [], limits := [], boot := 5, status := 0, pkgnum := 0,
    meshpos := 0x0101010100000000, qsplit := 65536, apbase := Vector.replicate 2 0, temp := 0, power := 0, errcnt := 0, windows := [],
    msix := Vector.replicate 2 [], msixPend := Vector.replicate 2 [], badReplies := 0, hostAcc := [], hostOut := [], outbox := [], wire := [], linkBack := [],
    rx := [], inbox := [], incidents := [], turn := 0, coreIdx := 0, engIdx := 0, cur := 0, before := none, slotNo := 0, bits := 0, fresh := 1, stamp := 0,
    nextId := 1 }

end Sys2Proof.Machine
end

