-- ==== Sys2Proof/Machine/Slate.lean ====
section
/-!
DEFINITION. Slate accesses within a cluster (R36 to R39, R357): bytes, full/empty bits, poison, bank modes, and the
window checks of R37 and R38.
-/
namespace Sys2Proof.Machine

/-- The line, and the bank, of a Slate address (R36). -/
def lineOf (a : Nat) : Nat := a / 128
def bankOf (a : Nat) : Nat := a / 0x20000

/-- The lines that n bytes from a touch. -/
def linesOf (a n : Nat) : List Nat := if n = 0 then [] else span (a / 128) ((a + n - 1) / 128 + 1)

/-- A Slate byte: the stored byte, or an undefined one (R7) in a line whose contents are undefined. -/
def slGet (cl : Cluster) (a : Nat) : Byte :=
  match tabFind cl.undef (lineOf a) with
  | none => memGet cl.slate a
  | some stamp => Config.freeByte stamp a

/-- n bytes from a upward. -/
def slRead (cl : Cluster) (a n : Nat) : List Byte :=
  if cl.undef.isEmpty then memRead cl.slate a n else (List.range n).map fun i => slGet cl (a + i)

/-- A little-endian number of n bytes. -/
def slNum (cl : Cluster) (a n : Nat) : Nat := ofBytes (slRead cl a n)

/-- An undefined line given the bytes it reads as, so that a part of it can be written. -/
def slSettle (cl : Cluster) (line : Nat) : Cluster :=
  match tabFind cl.undef line with
  | none => cl
  | some stamp =>
    { cl with slate := memWrite cl.slate (128 * line) ((List.range 128).map fun i => Config.freeByte stamp (128 * line + i)),
              undef := tabDel cl.undef line }

/-- Bytes written from a upward; a line that the write covers whole is no longer poisoned (R357). -/
def slWrite (cl : Cluster) (a : Nat) (bs : List Byte) : Cluster :=
  let ls := linesOf a bs.length
  let cl := if cl.undef.isEmpty then cl else ls.foldl slSettle cl
  let whole := fun l => decide (a ≤ 128 * l) && decide (128 * l + 128 ≤ a + bs.length)
  { cl with slate := memWrite cl.slate a bs, poison := cl.poison.filter fun l => !(ls.contains l && whole l) }

/-- Full/empty bits (R39): a line is full unless it is listed. -/
def lineFull (cl : Cluster) (l : Nat) : Bool := !(cl.lineEmpty.contains l)
def allFull (cl : Cluster) (a n : Nat) : Bool := (linesOf a n).all (lineFull cl)
/-- A copy sets a line full, which also clears its poison (R357). -/
def setFull (cl : Cluster) (l : Nat) : Cluster :=
  { cl with lineEmpty := setDel cl.lineEmpty l, poison := setDel cl.poison l }
def setEmpty (cl : Cluster) (l : Nat) : Cluster := { cl with lineEmpty := setAdd cl.lineEmpty l }
def anyPoison (cl : Cluster) (a n : Nat) : Bool := (linesOf a n).any cl.poison.contains
/-- A line whose contents become undefined (R267, R271). -/
def setUndef (stamp : Nat) (cl : Cluster) (l : Nat) : Cluster := { cl with undef := tabPut cl.undef l stamp }

/-- The mode of a bank (R38): 0 scratchpad, 1 FIFO, 2 cache. -/
def bankMode (cl : Cluster) (b : Nat) : Nat := tabGet 0 cl.mode b

/-- Entries of a FIFO bank that a message takes (R253; log 16). -/
def msgEntries (n : Nat) : Nat := max 1 (ceilDiv n 256)

/-- A range of Slate bytes. -/
structure Range where
  addr : Nat
  len : Nat
  deriving DecidableEq, Repr

/-- The lines that ranges touch, as they stand. -/
def Cluster.image (cl : Cluster) (rs : List Range) : SlateImg :=
  let hit := fun (l : Nat) => rs.any fun r => r.len != 0 && decide (lineOf r.addr ≤ l) && decide (l ≤ lineOf (r.addr + r.len - 1))
  { slate := cl.slate.filter fun c => hit (lineOf c.1), undef := cl.undef.filter fun x => hit x.1,
    poison := cl.poison.filter hit }
/-- A cluster whose Slate reads as an image. -/
def SlateImg.on (g : SlateImg) (cl : Cluster) : Cluster := { cl with slate := g.slate, undef := g.undef, poison := g.poison }

def overlap (a b : Range) : Bool := decide (a.addr < b.addr + b.len) && decide (b.addr < a.addr + a.len)

/-- The first byte of a range outside the window [lo, hi) or outside Slate, if there is one (R37). -/
def firstOutside (lo hi : Nat) (r : Range) : Option Nat :=
  let top := min hi Config.slateBytes
  if r.len = 0 then none
  else if r.addr < lo then some r.addr
  else if top < r.addr + r.len then some (max r.addr top)
  else none

/-- The first byte of a range in a bank that is not in scratchpad mode, with the mode (R38). -/
def firstBadMode (cl : Cluster) (r : Range) : Option (Nat × Nat) :=
  if r.len = 0 then none
  else
    (span (bankOf r.addr) (bankOf (r.addr + r.len - 1) + 1)).findSome? fun b =>
      let m := bankMode cl b
      if m = 0 then none else some (max r.addr (b * 0x20000), m)

/-- The outcome of the checks that an instruction makes before it issues (R60, R351). -/
inductive Verdict where
  | go
  | stall
  /-- Illegal use, with the REASON of R76. -/
  | illegal (reason : Nat)
  /-- A precise fault: cause of R347, detail for TRAPINFO[63:32]. -/
  | fault (cause : Nat) (detail : Nat)
  /-- Poison consumed (R358): source of R347, address or register number. -/
  | poison (source : Nat) (detail : Nat)
  /-- The SEG mismatch of R166. -/
  | seg
  deriving DecidableEq, Repr

/-- The first of two checks, in this order, that is not passed. -/
def Verdict.and (a b : Verdict) : Verdict := match a with | .go => b | x => x

/-- Faults are taken before stalls (R351). -/
def Verdict.bad : Verdict → Bool
  | .go => false
  | .stall => false
  | .seg => false
  | _ => true
def Verdict.join (a b : Verdict) : Verdict :=
  if a.bad then a else if b.bad then b else match a with | .go => b | x => x
def Verdict.isIllegal : Verdict → Bool
  | .illegal _ => true
  | _ => false
/-- An illegal use among a list of checks, which comes before every other event (R76); else the first fault; else the first stall. -/
def firstVerdict (l : List Verdict) : Verdict :=
  match l.find? Verdict.isIllegal with
  | some v => v
  | none => l.foldr Verdict.join .go

/-- Causes of R347. -/
def cAlign : Nat := 2
def cBounds : Nat := 3
def cMode : Nat := 4
def cBell : Nat := 5
def cDomain : Nat := 6
def cRecord : Nat := 7
def cOrient : Nat := 8
def cBBuf : Nat := 9
def cCopyAlign : Nat := 10
def cPartial : Nat := 11
def cReshard : Nat := 12
def cFetch : Nat := 13
def cSoft : Nat := 14
def cSeg : Nat := 15
def cMatrix : Nat := 16
def cCopy : Nat := 17
def cPoison : Nat := 18
def cPreempt : Nat := 19

/-- An address in TRAPINFO[54:32]: 23 bits. -/
def slDetail (a : Nat) : Nat := a % 2 ^ 23

/-- A range that touches a closing bank stalls (R271). -/
def touchesClosing (cl : Cluster) (rs : List Range) : Bool :=
  cl.closing.any fun b => rs.any fun r =>
    r.len != 0 && decide (bankOf r.addr ≤ b.1) && decide (b.1 ≤ bankOf (r.addr + r.len - 1))

/-- The bounds and mode checks of Slate ranges, in the order of R140: bounds of every range, then modes, which are judged
once no bank of theirs is closing (R271). -/
def slateCheck (lo hi : Nat) (cl : Cluster) (rs : List Range) : Verdict :=
  match rs.findSome? (firstOutside lo hi) with
  | some a => .fault cBounds (slDetail a)
  | none =>
    if touchesClosing cl rs then .stall
    else
      match rs.findSome? (firstBadMode cl) with
      | some (a, m) => .fault cMode (slDetail a + m * 2 ^ 24)
      | none => .go

end Sys2Proof.Machine
end

