-- ==== Sys2Proof/Machine/Global.lean ====
section
/-!
DEFINITION. Global memory of the package: jobs (R461), page tables and walks (R291 to R296), writes at the home Eave
with DIRTY and copy-before-write (R279, R296, R370), fault queues (R353 to R356), and the accessors of the state.
-/
namespace Sys2Proof.Machine

-- Accessors.
def State.cl (s : State) (c : Nat) : Cluster := tabGet Cluster.empty s.clusters c
def State.setCl (s : State) (c : Nat) (x : Cluster) : State := { s with clusters := tabPut s.clusters c x }
def State.core (s : State) (c : Nat) : Core := tabGet Core.empty s.cores c
def State.setCore (s : State) (c : Nat) (x : Core) : State := { s with cores := tabPut s.cores c x }
def State.ctx (s : State) (c : Nat) : Task := tabGet Task.empty s.ctxs c
def State.setCtx (s : State) (c : Nat) (x : Task) : State := { s with ctxs := tabPut s.ctxs c x }
/-- The task that an instruction acts for. -/
def State.me (s : State) : Task := s.ctx s.cur
def State.setMe (s : State) (x : Task) : State := s.setCtx s.cur x
/-- The task as its bundle's operands are read: as it stood before the bundle issued (R59). -/
def State.src (s : State) : Task := s.before.getD s.me
/-- Cluster and core of a context. -/
def clOf (ctx : Nat) : Nat := ctx / 16
def coreOf (ctx : Nat) : Nat := ctx / 2
def State.myCl (s : State) : Cluster := s.cl (clOf s.cur)
def State.setMyCl (s : State) (x : Cluster) : State := s.setCl (clOf s.cur) x
def State.queue (s : State) (q : Nat) : Queue := tabGet Queue.empty s.queues q
def State.setQueue (s : State) (q : Nat) (x : Queue) : State := { s with queues := tabPut s.queues q x }
def State.port (s : State) (p : Nat) : Port := tabGet Port.init s.ports p
def State.setPort (s : State) (p : Nat) (x : Port) : State := { s with ports := tabPut s.ports p x }
/-- The package number (R465). -/
def State.pkg (s : State) : Nat := fldN 0 11 s.pkgnum
/-- A fresh stamp for undefined values. -/
def State.bump (s : State) : State := { s with fresh := s.fresh + 1 }

-- Jobs.

/-- The job-table entry of a job: the entry with EN = 1 and its number (R461). -/
def jobIdx (s : State) (job : BitVec 32) : Option Nat :=
  (s.jobs.find? fun x => bitAt 63 (vget x.2.w 0 0) && fld 0 32 (vget x.2.w 0 0) == job).map Prod.fst
def jobAt (s : State) (i : Nat) : Job := tabGet Job.empty s.jobs i
def jobWord (s : State) (job : BitVec 32) (w : Nat) : Word :=
  match jobIdx s job with
  | none => 0
  | some i => vget (jobAt s i).w w 0
def setJobAt (s : State) (i : Nat) (j : Job) : State := { s with jobs := tabPut s.jobs i j }
def setJobWord (s : State) (i w : Nat) (x : Word) : State :=
  let j := jobAt s i
  setJobAt s i { j with w := vput j.w w x }

/-- A 32-bit saturating counter of the job table (R461): word, high half. -/
def jobCount (s : State) (job : BitVec 32) (w : Nat) (high : Bool) : State :=
  match jobIdx s job with
  | none => s
  | some i =>
    let x := vget (jobAt s i).w w 0
    let o := if high then 32 else 0
    setJobWord s i w (putFld o 32 (min (fldN o 32 x + 1) 0xFFFFFFFF) x)

-- Regulators (R289, R290).

/-- The register, and the tokens, of regulator k of a job: 0 JRFAB, 1 JRCOL, 2 JRBKG. -/
def regReg (j : Job) (k : Nat) : Word := vget j.w (6 + k) 0
def mayCharge (s : State) (job : BitVec 32) (k : Nat) : Bool :=
  match jobIdx s job with
  | some i => let j := jobAt s i; !(bitAt 63 (regReg j k)) || decide (0 ≤ vget j.tokens k 0)
  | none => true
def chargeJob (s : State) (job : BitVec 32) (k n : Nat) : State :=
  match jobIdx s job with
  | some i =>
    let j := jobAt s i
    if bitAt 63 (regReg j k) then setJobAt s i { j with tokens := vput j.tokens k (vget j.tokens k 0 - (n : Int)) } else s
  | none => s

-- Page tables (R292 to R295).

def leafPkg (e : Word) : Nat := fldN 53 11 e
def leafFmt (e : Word) : Nat := fldN 49 4 e
def leafMig (e : Word) : Bool := bitAt 48 e
def leafPin (e : Word) : Bool := bitAt 47 e
def leafDirty (e : Word) : Bool := bitAt 46 e
def leafPa (e : Word) : Nat := fldN 16 30 e * 65536
def leafX (e : Word) : Bool := bitAt 3 e
def leafW (e : Word) : Bool := bitAt 2 e
def leafR (e : Word) : Bool := bitAt 1 e

/-- Bytes of a page whose leaf lies at a level. -/
def pageBytes (level : Nat) : Nat := if level = 1 then 2 ^ 30 else if level = 2 then 2 ^ 21 else 2 ^ 16
/-- The index of a VA at a level, and the number of entries of its table. -/
def ptIndex (level va : Nat) : Nat :=
  match level with
  | 0 => natFld 39 13 va | 1 => natFld 30 9 va | 2 => natFld 21 9 va | _ => natFld 16 5 va
def ptEntries (level : Nat) : Nat := match level with | 0 => 8192 | 1 => 512 | 2 => 512 | _ => 32

/-- A leaf found by a walk: its level, its value, the address of its entry. -/
structure Leaf where
  level : Nat
  e : Word
  addr : Nat
  deriving DecidableEq, Repr

/-- The format checks of R295 on an entry that is valid. -/
def badEntry (level : Nat) (e : Word) : Bool :=
  if bitAt 4 e then
    level == 0 || fld 5 11 e != 0 || decide (5 < leafFmt e) || leafPa e % pageBytes level != 0
  else
    level == 3 || fld 46 18 e != 0 || fld 5 3 e != 0 || fld 1 3 e != 0 ||
      (level != 2 && fld 8 4 e != 0)

/-- A walk from a table at a level (R292 to R295): a leaf, or the kind of fault (1 not present, 4 format of the table,
5 uncorrectable). -/
def walkFrom (s : State) (va : Nat) : Nat → Nat → Nat → Except Nat Leaf
  | 0, _, _ => .error 4
  | fuel + 1, level, base =>
    let a := base + 8 * ptIndex level va
    if s.dramPoison.contains (a / 128) then .error 5
    else
      let e : Word := BitVec.ofNat 64 (memNum s.dram a 8)
      if !(bitAt 0 e) then .error 1
      else if badEntry level e then .error 4
      else if bitAt 4 e then .ok ⟨level, e, a⟩
      else walkFrom s va fuel (level + 1) (fldN 8 38 e * 256)

/-- The walk of a job's tables; a job without tables or entry gives not-present (R295). -/
def walkPage (s : State) (job : BitVec 32) (va : Nat) : Except Nat Leaf :=
  let root := fldN 16 30 (jobWord s job 1) * 65536
  if root = 0 then .error 1 else walkFrom s va 4 0 root

/-- The local address of a VA under a leaf. -/
def leafAddr (l : Nat) (e : Word) (va : Nat) : Nat := leafPa e + va % pageBytes l

/-- The indexes of a table that hold a nonzero entry. -/
def tableIdx (s : State) (base n : Nat) : List Nat :=
  s.dram.foldl (fun acc c =>
    if base ≤ c.1 ∧ c.1 < base + 8 * n then setAdd acc ((c.1 - base) / 8) else acc) []

/-- Every valid leaf of the tables below a base: VA, leaf. -/
def leavesFrom (s : State) : Nat → Nat → Nat → Nat → List (Nat × Leaf)
  | 0, _, _, _ => []
  | fuel + 1, level, base, va =>
    (tableIdx s base (ptEntries level)).flatMap fun i =>
      let a := base + 8 * i
      let e : Word := BitVec.ofNat 64 (memNum s.dram a 8)
      let va' := va + i * (match level with | 0 => 2 ^ 39 | 1 => 2 ^ 30 | 2 => 2 ^ 21 | _ => 2 ^ 16)
      if !(bitAt 0 e) || badEntry level e then []
      else if bitAt 4 e then [(va', ⟨level, e, a⟩)]
      else leavesFrom s fuel (level + 1) (fldN 8 38 e * 256) va'
/-- Every valid leaf of a job. -/
def jobLeaves (s : State) (job : BitVec 32) : List (Nat × Leaf) :=
  let root := fldN 16 30 (jobWord s job 1) * 65536
  if root = 0 then [] else leavesFrom s 4 0 root 0
/-- The home entries of a job: leaves whose PKG is this package (R294). -/
def homeLeaves (s : State) (job : BitVec 32) : List (Nat × Leaf) :=
  (jobLeaves s job).filter fun x => leafPkg x.2.e == s.pkg

/-- A table entry written, 8 bytes. -/
def putEntry (s : State) (a : Nat) (e : Word) : State := { s with dram := memWrite s.dram a (bytesOf 8 e.toNat) }

/-- R296: DIRTY in every home entry, of the job or (no job given) of any job, that maps a written frame. -/
def enabledJobs (s : State) : List (BitVec 32) :=
  (s.jobs.filter fun x => bitAt 63 (vget x.2.w 0 0)).map fun x => fld 0 32 (vget x.2.w 0 0)
def setDirty (s : State) (job : Option (BitVec 32)) (pa n : Nat) : State :=
  let js := match job with | some j => [j] | none => enabledJobs s
  js.foldl (fun s j =>
    (homeLeaves s j).foldl (fun s x =>
      let b := leafPa x.2.e
      if pa < b + pageBytes x.2.level ∧ b < pa + n then putEntry s x.2.addr (x.2.e ||| BitVec.ofNat 64 (2 ^ 46)) else s) s) s

-- Checkpoint copies before a write (R370).

/-- The local address that a job's VA maps to on this package, if it is homed here. -/
def localOf (s : State) (job : BitVec 32) (va : Nat) : Option Nat :=
  match walkPage s job va with
  | .ok l => if leafPkg l.e = s.pkg then some (leafAddr l.level l.e va) else none
  | .error _ => none

/-- n bytes of DRAM copied, with the poison of their sectors (R357). -/
def copyFrame (s : State) (src dst n : Nat) : State :=
  let hit := (s.dramPoison.filter fun x => decide (src / 128 ≤ x) && decide (x < (src + n) / 128)).map
    fun x => x - src / 128 + dst / 128
  { s with dram := memCopy s.dram src dst n,
           dramPoison := hit.foldl setAdd
             (s.dramPoison.filter fun x => !(decide (dst / 128 ≤ x) && decide (x < (dst + n) / 128))) }

/-- 64 KiB of a cut page copied into the shadow, at offset VA - CKLO of this rank's shadow. -/
def copyCutUnit (s : State) (job : BitVec 32) (k : Ckpt) (va pa : Nat) : State :=
  let cklo := numAt 0x18 8 k.ctl % 2 ^ 52
  let w := numAt 0x20 8 k.ctl - cklo
  let shadow := numAt 0x28 8 k.ctl % 2 ^ 52 + k.rank * w
  match localOf s job (shadow + (va - cklo)) with
  | some d => setDirty (copyFrame (chargeJob s job 2 65536) pa d 65536) (some job) d 65536
  | none => s

/-- A unit of a cut is copied, and it is pending no more (R370). -/
def copyCut (s : State) (idx : Nat) (u : CutUnit) : State :=
  let k := tabGet Ckpt.empty s.ckpts idx
  let s := copyCutUnit s (BitVec.ofNat 32 (numAt 0 4 k.ctl)) k u.va u.pa
  { s with ckpts := tabPut s.ckpts idx { k with pages := k.pages.filter (· != u) } }
/-- Is a unit's page touched by n bytes at a local address? -/
def CutUnit.touched (u : CutUnit) (pa n : Nat) : Bool := decide (pa < u.base + u.size) && decide (u.base < pa + n)
/-- Is the copy for a cut still pending for a page that is touched? -/
def cutPending (s : State) (pa n : Nat) : Bool := s.ckpts.any fun x => x.2.pages.any fun u => u.touched pa n
/-- A write that waits moves its page to the front of the copying (R370). -/
def frontCut (s : State) (pa n : Nat) : State :=
  { s with ckpts := s.ckpts.map fun x =>
      (x.1, { x.2 with pages := (x.2.pages.filter fun u => u.touched pa n) ++ x.2.pages.filter fun u => !(u.touched pa n) }) }

/-- A write that performs at this home (R279): the bytes, poison, DIRTY. No page that it touches is cut-pending (R370): writes
wait for that, each where it is. -/
def homeWrite (s : State) (job : Option (BitVec 32)) (pa : Nat) (bs : List Byte) : State :=
  if bs.isEmpty then s
  else
    let whole := fun sec => decide (pa ≤ 128 * sec) && decide (128 * sec + 128 ≤ pa + bs.length)
    let s := { s with dram := memWrite s.dram pa bs, dramPoison := s.dramPoison.filter fun x => !(whole x) }
    setDirty s job pa bs.length

-- Where a write performs, and whether it must wait there.

/-- Where an address is homed now: a frame that has migrated away is redirected (R304). -/
def forwarded (s : State) (pkg pa : Nat) : Nat × Nat :=
  if pkg ≠ s.pkg then (pkg, pa)
  else
    match s.fwd.find? fun f => decide (f.old ≤ pa) && decide (pa < f.old + f.size) with
    | some f => (f.pkg, f.frame + (pa - f.old))
    | none => (pkg, pa)
/-- Does a drain still read the shadow (R371)? -/
def Ckpt.reading (k : Ckpt) : Bool := k.drains.any fun d => decide (d.phase ≤ 1)
/-- May the pages of a cut be copied now (R290, R371)? -/
def mayCopyCut (s : State) (k : Ckpt) : Bool := !k.reading && mayCharge s (BitVec.ofNat 32 (numAt 0 4 k.ctl)) 2
/-- Does it belong to a page that is migrating (R303)? -/
def migrHeld (s : State) (pa n : Nat) : Bool :=
  s.migr.any fun m => m.stage != 0 && decide (m.old < pa + n) && decide (pa < m.old + m.size)
/-- Does a write at this home wait: for its page to land, or for the copy of a cut page (R370)? -/
def writeHeld (s : State) (pa n : Nat) : Bool := migrHeld s pa n || cutPending s pa n

/-- Bytes of which only bit 0 is to be written, over those that stand at an address. -/
def keepBits (s : State) (pa : Nat) (bs : List Byte) : List Byte :=
  bs.zipIdx.map fun x => (memGet s.dram (pa + x.2) &&& 0xFE) ||| (x.1 &&& 1)
/-- A byte-masked write of one sector (R275, R376): bit k of the mask for byte k. -/
def maskRuns (mask : Nat → Bool) : Nat → List Byte → List (Nat × List Byte)
  | _, [] => []
  | k, b :: r =>
    let rest := maskRuns mask (k + 1) r
    if mask k then
      match rest with
      | (o, bs) :: t => if o = k + 1 then (k, b :: bs) :: t else (k, [b]) :: rest
      | [] => [(k, [b])]
    else rest
def homeWriteMask (s : State) (job : Option (BitVec 32)) (pa : Nat) (bs : List Byte) (mask : Nat → Bool) : State :=
  (maskRuns mask 0 bs).foldl (fun s r => homeWrite s job (pa + r.1) r.2) s

/-- Bytes at an address, sector by sector: sector, offset in it, bytes. -/
def sectorParts (pa : Nat) (bs : List Byte) : List (Nat × Nat × List Byte) :=
  if bs.isEmpty then []
  else
    (span (pa / 128) ((pa + bs.length - 1) / 128 + 1)).map fun k =>
      let a := max pa (128 * k)
      (128 * k, a - 128 * k, bytesAt (a - pa) (min (pa + bs.length) (128 * k + 128) - a) bs)
/-- The sectors of n bytes that copies of poisoned units leave poisoned (R357). -/
def markSectors (s : State) (pa n : Nat) (bad : Nat → Bool) : State :=
  { s with dramPoison := ((linesOf pa n).filter bad).foldl setAdd s.dramPoison }
/-- A write of the part's own at this home, of bytes of which some sectors are poisoned: at once, or, where it has to wait, from
the queue of such writes. -/
def partWriteMarked (s : State) (job : BitVec 32) (pa : Nat) (bs : List Byte) (bad : Nat → Bool) : State :=
  let behind := s.wbs.any fun w => w.pkg == s.pkg && decide (pa < w.pa + 128) && decide (w.pa < pa + bs.length)
  if !behind && !(writeHeld s pa bs.length) then markSectors (homeWrite s (some job) pa bs) pa bs.length bad
  else
    (sectorParts pa bs).foldl (fun s x =>
      { s with nextId := s.nextId + 1, wbs := s.wbs ++
          [{ tag := s.nextId, owner := 0, group := 0, job := job, pkg := s.pkg, pa := x.1, sent := false, bit := false, poison := bad (x.1 / 128),
             bytes := List.replicate x.2.1 0 ++ x.2.2 ++ List.replicate (128 - x.2.1 - x.2.2.length) 0,
             mask := maskOf 128 fun k => decide (x.2.1 ≤ k) && decide (k < x.2.1 + x.2.2.length) }] }) s
def partWrite (s : State) (job : BitVec 32) (pa : Nat) (bs : List Byte) : State := partWriteMarked s job pa bs fun _ => false

def dramPoisoned (s : State) (pa n : Nat) : Bool := (linesOf pa n).any s.dramPoison.contains

-- Fault queues (R353, R354).

/-- A record's 64 bytes (R354). -/
def FRec.bytes (r : FRec) (seq : Nat) : List Byte :=
  bytesOf 2 r.kind ++ bytesOf 2 ((if r.lost then 1 else 0) + (if r.reply then 2 else 0)) ++ bytesOf 4 seq ++
    bytesOf 8 r.time ++ bytesOf 4 r.source ++ bytesOf 4 r.queue ++ bytesOf 8 r.value ++
    bytesAt 0 32 (r.detail.flatMap fun w => bytesOf 8 w.toNat)

def ringDepth (j : Job) : Nat := 2 ^ fldN 48 4 (vget j.w 2 0)
/-- FQTAIL with the records whose writes have still to perform. -/
def ringTail (j : Job) : Nat := (fldN 32 32 (vget j.w 4 0) + j.posting.length) % 2 ^ 32
def ringFull (j : Job) : Bool := (ringTail j + 2 ^ 32 - fldN 0 32 (vget j.w 4 0)) % 2 ^ 32 == ringDepth j

/-- The route of a record kind (R461): 0, 1 host ports, 2 management core. -/
def routeOf (j : Job) (kind : Nat) : Nat := fldN (2 * kind) 2 (vget j.w 3 0)

/-- A byte of a port's MSI-X table; each entry's vector control resets to masked, as in the standard (R455; log 40). -/
def msixByte (s : State) (port o : Nat) : Byte :=
  memGet (vget s.msix port []) o ^^^ (if o % 16 = 12 then 1 else 0)
/-- An MSI-X entry of a port is raised: a masked one is pending (R455; log 40). -/
def raiseMsix (s : State) (port vec : Nat) : State :=
  if 2048 ≤ vec then s
  else if bitAt 0 (msixByte s port (16 * vec + 12)) then
    let m := vget s.msixPend port []
    let b := memGet m (vec / 8) ||| BitVec.ofNat 8 (2 ^ (vec % 8))
    { s with msixPend := vput s.msixPend port (memWrite m (vec / 8) [b]) }
  else { s with hostOut := s.hostOut ++ [.msix port vec] }

/-- The write of a record has performed: FQTAIL, and the interrupt of the routed port, or the notice (R462). -/
def recordPosted (s : State) (i kind : Nat) (bs : List Byte) : State :=
  let j := jobAt s i
  let w := vget j.w 4 0
  let s := setJobAt s i { j with w := vput j.w 4 (putFld 32 32 (fldN 32 32 w + 1) w) }
  let rt := routeOf j kind
  let vec := vget j.w 5 0
  if rt = 0 then raiseMsix s 0 (fldN 0 11 vec) else if rt = 1 then raiseMsix s 1 (fldN 16 11 vec)
  else { s with hostOut := s.hostOut ++ [.record bs] }
/-- The records of a ring whose writes have performed are posted, in their order. -/
def postRing (i : Nat) : Nat → State → State
  | 0, s => s
  | n + 1, s =>
    let j := jobAt s i
    match j.posting with
    | [] => s
    | (tag, kind, bs) :: rest =>
      if s.wbs.any fun w => w.tag == tag then s else postRing i n (recordPosted (setJobAt s i { j with posting := rest }) i kind bs)
def postRings (s : State) : State := s.jobs.foldl (fun s j => postRing j.1 j.2.posting.length s) s
/-- One record enters the ring (R353, R462): its number, its bytes in DRAM, and, when they are there, FQTAIL and the interrupt or
notice. -/
def enterRing (s : State) (i : Nat) (r : FRec) : State × Nat :=
  let j := jobAt s i
  let base := fldN 6 40 (vget j.w 2 0) * 64
  let bs := r.bytes j.seq
  let j' := { j with seq := (j.seq + 1) % 2 ^ 32, posting := j.posting ++ [(s.nextId, r.kind, bs)] }
  let s := partWrite (setJobAt s i j') (fld 0 32 (vget j.w 0 0)) (base + 64 * (ringTail j % ringDepth j)) bs
  (postRing i (j.posting.length + 1) { s with nextId := s.nextId + 1 }, j.seq)

/-- Waiting deferred-fault records enter while there is room (R353). -/
def drainWaiting (i : Nat) : Nat → State → State
  | 0, s => s
  | fuel + 1, s =>
    let j := jobAt s i
    match j.waiting with
    | [] => s
    | r :: rest =>
      if ringFull j then s
      else drainWaiting i fuel (enterRing (setJobAt s i { j with waiting := rest }) i r).1

/-- A record is posted (R353): the state and the record's number, none when it was dropped or waits. Records of a job
without an entry go to the management core; they enter no ring, and the rule gives them no number: the model's have SEQ 0, and LOST
clear (log 79). -/
def postRecord (s : State) (job : BitVec 32) (r : FRec) : State × Option Nat :=
  let r := { r with time := s.ticks }
  match jobIdx s job with
  | none => ({ s with hostOut := s.hostOut ++ [.record (r.bytes 0)] }, some 0)
  | some i =>
    let s := drainWaiting i (jobAt s i).waiting.length s
    let j := jobAt s i
    if ringFull j && r.kind != 1 then (jobCount (setJobAt s i { j with lost := true }) job 17 false, none)
    else
      let r := { r with lost := j.lost }
      if ringFull j || (r.kind == 1 && !j.waiting.isEmpty) then
        (setJobAt s i { j with lost := false, waiting := j.waiting ++ [r] }, none)
      else
        let x := enterRing (setJobAt s i { j with lost := false }) i r
        (x.1, some x.2)

/-- SOURCE of a record (R354) for a task, with a copy engine's number. -/
def sourceOf (ctx engine : Nat) (groupid : Word) : Nat :=
  clOf ctx + (coreOf ctx % 8) * 256 + engine * 2048 + (ctx % 2) * 4096 + fldN 0 16 groupid * 65536

def launchQueue (s : State) (l : Nat) : Nat × Nat :=
  match tabFind s.launches l with
  | some x => (x.queue, x.num)
  | none => (0, 0)

-- Sparing (R364).

/-- A sparing record (KIND 14) goes to the fault queue of every job on the package: unit class, unit index. -/
def sparingRecord (s : State) (cls idx : Nat) : State :=
  (enabledJobs s).foldl (fun s j =>
    (postRecord s j { kind := 14, reply := false, time := 0, source := 0, queue := 0, value := 0,
                      detail := [BitVec.ofNat 64 cls, BitVec.ofNat 64 idx] }).1) s
/-- A core is retired. -/
def retireCore (s : State) (core : Nat) : State :=
  if (s.core core).retired then s else sparingRecord (s.setCore core { s.core core with retired := true }) 1 core

end Sys2Proof.Machine
end

