-- ==== Sys2Proof/Machine/Bells.lean ====
section
/-!
DEFINITION. Bells (R41 to R46, R157 to R159), mesh-bell replicas (R385, R468), the cluster cache's releases and
acquires (R275 to R277), and the checkpoint cut that a mesh bell's phase takes (R261, R369).
-/
namespace Sys2Proof.Machine

-- Sending (R376).

/-- A message header with the common fields. -/
def mkMsg (s : State) (dst kind vc : Nat) (job : BitVec 32) : Msg :=
  { dst := dst, src := s.pkg, vc := BitVec.ofNat 4 vc, kind := BitVec.ofNat 4 kind, cls := 0, job := job, flow := 0,
    offset := 0, aux := 0, mask := 0, payload := [], port := 31, bad := false, err := false, came := none, poison := false, note := 0, tag := 0 }

/-- The hops of R378 to R384: direction and distance of one torus dimension, the shorter way, plus when equal. -/
def torusDir (size c d : Nat) : Option Bool :=
  if c = d then none else some (decide (2 * ((d + size - c) % size) ≤ size))
/-- Is a port number of a route usable: local delivery, or a port that is up (R380, R384)? -/
def portUsable (s : State) (p : Nat) : Bool := p == 31 || (decide (p < 18) && (s.port p).up)
/-- The ports of a destination in torus mode, for a message that came by a port if it is passing through: the pair 2d, 2d + 1 of the
first dimension to correct, the other way round when both are down (R383, R384). One that is on its way along that dimension
keeps its direction, also the longer way round. -/
def torusPorts (s : State) (came : Option Nat) (dst : Nat) : List Nat :=
  let g := s.ridgecfg
  let sx := fldN 18 6 g + 1
  let sy := fldN 24 6 g + 1
  let sz := fldN 30 6 g + 1
  let dims := [(sx, fldN 0 6 g, dst % sx), (sy, fldN 6 6 g, dst / sx % sy), (sz, fldN 12 6 g, dst / sx / sy % sz)]
  let rec pick (n : Nat) (l : List (Nat × Nat × Nat)) : List Nat :=
    match l with
    | [] => [31]
    | (size, c, d) :: r =>
      match torusDir size c d with
      | none => pick (n + 1) r
      | some plus =>
        let plus := match came with
          | some p => if p / 4 = n then decide (p / 2 % 2 = 1) else plus
          | none => plus
        let pair := fun (p : Bool) => let k := 2 * n + (if p then 0 else 1); [2 * k, 2 * k + 1]
        if (pair plus).any (portUsable s) then pair plus else pair !plus
  pick 0 dims
/-- The ports that a route entry lists (R380). -/
def routePorts (s : State) (dst : Nat) : List Nat :=
  let e := tabGet 0 s.routes dst
  let n := fldN 60 2 e + 1
  (List.range n).map fun i => fldN (5 * i) 5 e
/-- Does the Ridge know a way to a package (R380)? -/
def routable (s : State) (dst : Nat) : Bool := dst == s.pkg || bitAt 63 (tabGet 0 s.routes dst)
/-- The free credits of a port for a channel (R379). -/
def freeCredits (s : State) (vc : BitVec 4) (p : Nat) : Nat := if p = 31 then 32 else vget (s.port p).cred vc.toNat 0
/-- Of some ports, those with the most free credits. -/
def mostFree (s : State) (vc : BitVec 4) (ps : List Nat) : List Nat :=
  let best := ps.foldl (fun n p => max n (freeCredits s vc p)) 0
  ps.filter fun p => freeCredits s vc p == best
/-- The port that a message takes (R381, R383): memory traffic the listed port with the most free credits, among equals by the
part's choice; else P(h mod (NP + 1)), or, when that is down, the next listed one that is not. Port 30 stands for none: every port
of its way is down, and the Ridge holds the message (R384). -/
def outPort (s : State) (m : Msg) : Nat :=
  let ps := if bitAt 63 s.ridgecfg && !((routePorts s m.dst).any fun p => decide (12 ≤ p) && decide (p < 18))
    then torusPorts s (m.came.map Prod.fst) m.dst else routePorts s m.dst
  if m.vc.toNat < 4 then
    let l := mostFree s m.vc (ps.filter (portUsable s))
    l.getD (Config.freeChoice s.fresh 0 % max 1 l.length) 30
  else
    let k := Config.routeHash m.src m.flow % max 1 ps.length
    ((ps.drop k ++ ps.take k).find? (portUsable s)).getD 30
/-- R378: the odd channel of the pair when the hop crosses a dateline, or its route entry says so. -/
def crossesDateline (s : State) (m : Msg) (port : Nat) : Bool :=
  if bitAt 63 s.ridgecfg then
    let d := port / 4
    let size := fldN (18 + 6 * d) 6 s.ridgecfg + 1
    let c := fldN (6 * d) 6 s.ridgecfg
    decide (port < 12) && (if port / 2 % 2 = 0 then c + 1 == size else c == 0) && m.dst != s.pkg
  else bitAt 62 (tabGet 0 s.routes m.dst)
/-- The channel that a message takes on its next hop (R378, R383): in torus mode it enters each dimension on the even channel. -/
def hopVc (s : State) (m : Msg) (port : Nat) : BitVec 4 :=
  let old := match m.came with
    | some (p, v) => if bitAt 63 s.ridgecfg && (decide (12 ≤ p) || p / 4 != port / 4) then v &&& 0xE else v
    | none => m.vc &&& 0xE
  if crossesDateline s m port then old ||| 1 else old
/-- The flits of a message (R376). -/
def flitsOf (m : Msg) : Nat := 1 + ceilDiv m.payload.length 64
/-- The flits of a message leave the input buffer of a port's channel, which is free for as many (R379). -/
def freeInput (s : State) (m : Msg) (from' : Option (Nat × BitVec 4)) : State :=
  { s with linkBack := s.linkBack ++ (from'.map fun x => (x.1, x.2.toNat, flitsOf m)).toList }
/-- A message at its port: a port of 31 delivers it here (R380). -/
def atPort (s : State) (m : Msg) (port : Nat) : State :=
  if port = 31 then freeInput { s with rx := s.rx ++ [{ m with dst := s.pkg, port := 31, came := none }] } m m.came
  else { s with outbox := s.outbox ++ [{ m with port := port, vc := hopVc s m port }] }
/-- A message leaves through the Ridge; one for this package is received here. An invalid destination discards it. -/
def sendMsg (s : State) (m : Msg) : State :=
  if m.dst = s.pkg then { s with rx := s.rx ++ [{ m with port := 31 }] }
  else if !(routable s m.dst) then s
  else atPort s.bump m (outPort s m)

-- Links (R379).

/-- The oldest message of a port's channel sends its flits as far as it holds credits; when all have left, it is on its link, and
the buffer in which it arrived is free. -/
def leaveOne (x : State × List Msg) (m : Msg) : State × List Msg :=
  let s := x.1
  let p := s.port m.port
  let v := m.vc.toNat
  if 18 ≤ m.port ∨ !p.up ∨ x.2.any fun y => y.port == m.port && y.vc == m.vc then (s, x.2 ++ [m])
  else
    let left := flitsOf m - vget p.part v 0
    let n := min left (vget p.cred v 0)
    let s := s.setPort m.port { p with
      cred := vput p.cred v (vget p.cred v 0 - n), part := vput p.part v (if n = left then 0 else vget p.part v 0 + n) }
    if n = left then (freeInput { s with wire := s.wire ++ [m] } m m.came, x.2)
    else (s, x.2 ++ [m])
/-- The links carry what their credits allow (R379). -/
def moveLinks (s : State) : State :=
  let x := s.outbox.foldl leaveOne (s, [])
  { x.1 with outbox := x.2 }

-- The cluster cache (R273 to R277).

def groupCache (s : State) (cluster group : Nat) : List CLine := tabGet [] (s.cl cluster).cache group
def setGroupCache (s : State) (cluster group : Nat) (l : List CLine) : State :=
  let c := s.cl cluster
  s.setCl cluster { c with cache := tabPut c.cache group l }

-- Writes to their homes that are queued (R275, R277, R284): of one sector, one at a time, in order.

/-- The place of a queued write now: its page may have migrated away (R304). -/
def WBack.place (s : State) (w : WBack) : Nat × Nat := forwarded s w.pkg w.pa
def WBack.same (s : State) (w x : WBack) : Bool := w.place s == x.place s
/-- Must a queued write wait? For an earlier one of its sector, and for a read or write of that sector that a command of its
group has sent: the value of that read would be older than the write, and must not come back after it. -/
def WBack.waits (s : State) (w : WBack) : Bool :=
  ((s.wbs.takeWhile fun x => x.tag != w.tag).any (w.same s)) ||
    s.engs.any fun e => e.2.any fun c => c.group == w.group && c.sent == some (w.pkg, w.pa)
/-- A queued write performs at this home, or leaves for another; it waits while its page migrates or the page's cut image has
still to be copied (R303, R370). While the Ridge knows no way, a write-back waits, and a write of a command's own is discarded
(R380). -/
def stepWb (s : State) (w : WBack) : State :=
  let h := forwarded s w.pkg w.pa
  if w.sent || w.waits s then s
  else if h.1 = s.pkg then
    if writeHeld s h.2 128 then s
    else
      let bytes := if w.bit then keepBits s h.2 w.bytes else w.bytes
      let s := homeWriteMask { s with wbs := s.wbs.filter fun x => x.tag != w.tag } (some w.job) h.2 bytes fun k => bitAt k w.mask
      markSectors s h.2 128 fun _ => w.poison
  else if !(routable s h.1) then (if w.owner = 0 then s else { s with wbs := s.wbs.filter fun x => x.tag != w.tag })
  else
    let l := s.wbs.map fun x => if x.tag = w.tag then { x with pkg := h.1, pa := h.2, sent := true } else x
    sendMsg { s with wbs := l } { mkMsg s h.1 2 0 w.job with
      offset := BitVec.ofNat 64 (h.1 * 2 ^ 46 + h.2), mask := w.mask, payload := w.bytes, poison := w.poison, tag := w.tag,
      note := if w.bit then BitVec.ofNat 128 (2 ^ 119) else 0 }
def stepWbs (s : State) : State := s.wbs.foldl stepWb s

-- Accesses of the hosts through BAR4 (R280, R460): those of a port one at a time, in order.

/-- Sector messages of another package's host (mark 121; log 37): they take no job's tokens. -/
def hostMark : BitVec 128 := BitVec.ofNat 128 (2 ^ 121)
def dropAcc (s : State) (a : HostAcc) : State := { s with hostAcc := s.hostAcc.filter fun x => x.tag != a.tag }
/-- An access performs with these bytes, poisoned or not; an error aborts a read, and drops and counts a write (R460). -/
def endAcc (s : State) (a : HostAcc) (r : Option (List Byte × Bool)) : State :=
  let s := dropAcc s a
  match a.data, r with
  | none, some x => { s with hostOut := s.hostOut ++ [.read a.port x.1 x.2] }
  | none, none => { s with hostOut := s.hostOut ++ [.abort a.port] }
  | some _, some _ => s
  | some _, none => { s with errcnt := min (s.errcnt + 1) 0xFFFFFFFF }
/-- The oldest access of a port performs at this home, or leaves for another; a write waits while its page migrates or the page's cut
image has still to be copied (R303, R370). -/
def stepHost (s : State) (a : HostAcc) : State :=
  let h := forwarded s a.pkg a.pa
  if a.sent || (s.hostAcc.takeWhile fun x => x.tag != a.tag).any fun x => x.port == a.port then s
  else if h.1 = s.pkg then
    match a.data with
    | none => endAcc s a (some (memRead s.dram h.2 a.len, dramPoisoned s h.2 a.len))
    | some bs => if writeHeld s h.2 a.len then s else endAcc (homeWrite s none h.2 bs) a (some ([], false))
  else if !(routable s h.1) then endAcc s a none
  else
    let o := h.2 % 128
    let l := s.hostAcc.map fun x => if x.tag = a.tag then { x with pkg := h.1, pa := h.2, sent := true } else x
    let m := { mkMsg s h.1 (if a.data.isSome then 2 else 0) 0 0 with
      tag := a.tag, note := hostMark, offset := BitVec.ofNat 64 (h.1 * 2 ^ 46 + h.2 / 128 * 128) }
    sendMsg { s with hostAcc := l } (match a.data with
      | none => m
      | some bs => { m with
        mask := maskOf 128 fun k => decide (o ≤ k) && decide (k < o + bs.length)
        payload := List.replicate o 0 ++ bs ++ List.replicate (128 - o - bs.length) 0 })
def stepHosts (s : State) : State := s.hostAcc.foldl stepHost s
/-- An access joins those of its port. -/
def queueHost (s : State) (port pkg pa len : Nat) (data : Option (List Byte)) : State :=
  let a : HostAcc := { port := port, tag := s.nextId, pkg := pkg, pa := pa, len := len, data := data, sent := false }
  stepHost { s with hostAcc := s.hostAcc ++ [a], nextId := s.nextId + 1 } a
/-- A write joins the queue, and performs or leaves at once if it need not wait. -/
def queueWb (s : State) (owner group : Nat) (job : BitVec 32) (pkg pa : Nat) (bytes : List Byte) (mask : BitVec 128)
    (poison : Bool) : State :=
  let w : WBack := { tag := s.nextId, owner := owner, group := group, job := job, pkg := pkg, pa := pa, bytes := bytes,
                     mask := mask, poison := poison, bit := false, sent := false }
  stepWb { s with wbs := s.wbs ++ [w], nextId := s.nextId + 1 } w
/-- The same of one byte, of which bit 0 alone is written. -/
def queueBit (s : State) (owner group : Nat) (job : BitVec 32) (pkg pa : Nat) (b : Bool) : State :=
  let w : WBack := { tag := s.nextId, owner := owner, group := group, job := job, pkg := pkg, pa := pa / 128 * 128,
                     bytes := List.replicate 128 (if b then 1 else 0), mask := maskOf 128 fun k => k == pa % 128, poison := false,
                     bit := true, sent := false }
  stepWb { s with wbs := s.wbs ++ [w], nextId := s.nextId + 1 } w
/-- A line's dirty bytes go to their home as a byte-masked write (R275). -/
def writeBack (s : State) (group : Nat) (job : BitVec 32) (l : CLine) : State :=
  if l.dirty = 0 then s else queueWb s 0 group job l.pkg l.pa l.bytes l.dirty l.poison
/-- Has a group writes that have not performed at their homes? -/
def wbOpen (s : State) (group : Nat) : Bool := s.wbs.any fun w => w.group == group
/-- The writes of a group to a sector that have not performed. -/
def backWaits (s : State) (group pkg pa : Nat) : Bool :=
  s.wbs.any fun w => w.group == group && w.place s == (pkg, pa / 128 * 128)

/-- The job of a group. -/
def groupJob (s : State) (group : Nat) : BitVec 32 :=
  match tabFind s.groups group with | some g => g.job | none => 0

/-- A wide release (R277): every dirty byte to its home; lines stay valid and become clean. -/
def cacheRelease (s : State) (cluster group : Nat) : State :=
  let l := groupCache s cluster group
  let s := l.foldl (fun s x => writeBack s group (groupJob s group) x) s
  setGroupCache s cluster group (l.map fun x => { x with dirty := 0 })

/-- A wide acquire (R277): every clean line is invalidated. -/
def cacheAcquire (s : State) (cluster group : Nat) : State :=
  setGroupCache s cluster group ((groupCache s cluster group).filter fun x => x.dirty != 0)

/-- A sector of the group's cache is written back and invalidated (R276, R277). -/
def cacheFlush (s : State) (cluster group : Nat) (f : CLine → Bool) : State :=
  let l := groupCache s cluster group
  let s := (l.filter f).foldl (fun s x => writeBack s group (groupJob s group) x) s
  setGroupCache s cluster group (l.filter fun x => !(f x))

-- Bells (R42 to R44).

def pendMin : Int := -(2 : Int) ^ 39
def pendMax : Int := (2 : Int) ^ 39 - 1
/-- PENDING saturated to 40 signed bits, and whether it was outside (R43). -/
def satPending (x : Int) : Int × Bool :=
  if x < pendMin then (pendMin, true) else if pendMax < x then (pendMax, true) else (x, false)

/-- The completion test of R44. -/
def bellDone (b : Bell) : Bool := b.target != 0 && b.count == b.target && b.pending == 0

/-- ARM (R157): the bell, and whether a record is due. -/
def armBell (b : Bell) (t : BitVec 16) (keep : Bool) (bytes : Int) : Bell × Bool :=
  if !keep && t != 0 && decide (t.toNat < b.count.toNat) then ({ b with overrun := true }, true)
  else
    let p := satPending (b.pending + bytes)
    ({ b with target := if keep then b.target else t, pending := p.1, overrun := b.overrun || p.2 }, p.2)

/-- ARRIVE (R43). -/
def arriveBell (b : Bell) : Bell × Bool :=
  if b.target = 0 ∨ b.count = b.target then ({ b with overrun := true }, true)
  else ({ b with count := b.count + 1 }, false)

/-- Bytes landed (R43). -/
def bytesBell (b : Bell) (n : Int) : Bell × Bool :=
  let p := satPending (b.pending - n)
  ({ b with pending := p.1, overrun := b.overrun || p.2 }, p.2)

/-- A phase completes (R44). -/
def stepPhase (b : Bell) : Bell := { b with phase := b.phase + 1, count := 0 }

/-- Has the phase p passed (R44, R159)? -/
def phasePassed (phase p : BitVec 16) : Bool :=
  let d := (phase - p).toNat
  decide (1 ≤ d) && decide (d ≤ 32767)

/-- The 96 bits of R42. -/
def bellBits (b : Bell) : Nat :=
  (b.pending % (2 : Int) ^ 40).toNat + (if b.overrun then 2 ^ 40 else 0) + b.count.toNat * 2 ^ 48 +
    b.target.toNat * 2 ^ 64 + b.phase.toNat * 2 ^ 80

/-- Where a bell number points: a cluster bell of a cluster, or a package-level bell (R41, R46). -/
inductive BellLoc where
  | cluster (c i : Nat)
  | package (i : Nat)
  | mesh (i : Nat)
  deriving DecidableEq, Repr

def bellLoc (cluster : Nat) (n : BitVec 16) : BellLoc :=
  let i := fldN 0 12 n
  match fldN 14 2 n with
  | 0 => .cluster cluster i
  | 1 => .package i
  | _ => .mesh i

def getBell (s : State) : BellLoc → Bell
  | .cluster c i => tabGet Bell.empty (s.cl c).bells i
  | .package i => tabGet Bell.empty s.bells i
  | .mesh i => tabGet Bell.empty s.bells i
def setBell (s : State) (b : Bell) : BellLoc → State
  | .cluster c i => let x := s.cl c; s.setCl c { x with bells := tabPut x.bells i b }
  | .package i => { s with bells := tabPut s.bells i b }
  | .mesh i => { s with bells := tabPut s.bells i b }
def bellNum : BellLoc → BitVec 16
  | .cluster _ i => BitVec.ofNat 16 i
  | .package i => BitVec.ofNat 16 (0x4000 + i)
  | .mesh i => BitVec.ofNat 16 (0x8000 + i)

/-- The bell-overrun record (R43, KIND 3), to the job whose launch holds the bell; SOURCE names the cluster of a cluster bell (R354). -/
def overrunRecord (s : State) (l : BellLoc) (b : Bell) : State :=
  match b.holder with
  | none => s
  | some (job, _, launch) =>
    let q := match launch with | some x => launchQueue s x | none => (0, 0)
    let source := match l with | .cluster c _ => c % 128 | _ => 0
    (postRecord s job
      { kind := 3, reply := false, time := 0, source := source, queue := q.1, value := q.2,
        detail := [BitVec.ofNat 64 (bellNum l).toNat, BitVec.ofNat 64 (bellBits b), BitVec.ofNat 64 (bellBits b / 2 ^ 64)] }).1

/-- The acquire of a WAIT (R277). -/
def acquireFor (s : State) (ctx : Nat) (scope : BitVec 2) : State :=
  if scope = 0 then s else cacheAcquire s (clOf ctx) (s.ctx ctx).group

/-- The tasks that wait on a bell for a phase that has passed become ready, with their acquire (R44, R159). -/
def wakeBell (s : State) (l : BellLoc) (phase : BitVec 16) : State :=
  (s.ctxs.filter fun x => x.2.active && (match x.2.wait with
    | some w => decide (bellLoc (clOf x.1) w.bell = l) && phasePassed phase w.phase
    | none => false)).foldl (fun s x =>
      let s := acquireFor s x.1 (match x.2.wait with | some w => w.scope | none => 0)
      s.setCtx x.1 { s.ctx x.1 with wait := none }) s

/-- One event on a cluster or package bell, with its record, and the completion test (R43, R44). A bell that nobody
holds does not change (R43). -/
def bellEvent (s : State) (l : BellLoc) (f : Bell → Bell × Bool) : State :=
  let b := getBell s l
  if b.holder.isNone then s
  else
    let x := f b
    let s := if x.2 then overrunRecord s l x.1 else s
    if bellDone x.1 then wakeBell (setBell s (stepPhase x.1) l) l (stepPhase x.1).phase else setBell s x.1 l

-- Communicators (R389).

def commWord (s : State) (c : Nat) : BitVec 512 := tabGet 0 s.comms c
def commEn (w : BitVec 512) : Bool := bitAt 32 w
def commJob (w : BitVec 512) : BitVec 32 := fld 0 32 w
def commClass (w : BitVec 512) : Nat := fldN 33 2 w
def commEngine (w : BitVec 512) : Nat := fldN 35 3 w
def commN (w : BitVec 512) : Nat := fldN 48 16 w
def commRank (w : BitVec 512) : Nat := fldN 64 16 w
def commTable (w : BitVec 512) : Nat := fldN 128 46 w
def commScratch (w : BitVec 512) : Nat := fldN 192 46 w
def commScr (w : BitVec 512) : Nat := fldN 256 16 w
/-- The package of a rank. -/
def commPkg (s : State) (w : BitVec 512) (r : Nat) : Nat := memNum s.dram (commTable w + 2 * r) 2 % 2048
/-- The packages of a communicator, in rank order. -/
def commMembers (s : State) (w : BitVec 512) : List Nat := (List.range (commN w)).map (commPkg s w)

-- Checkpoint cuts (R261, R368, R369).

/-- The checks of the control block (R368). N is DOMAIN3.MEMBERS. R368 gives bits [31:1] of DRAIN as 0 and does not say what a
block is whose bits are not: the model refuses the cut, as for its reserved bytes (log 80). -/
def ckptOk (ctl : List Byte) (job : BitVec 32) (n : Nat) : Bool :=
  let g := numAt 0x3C 1 ctl
  let w := numAt 0x20 8 ctl - numAt 0x18 8 ctl % 2 ^ 52
  let gg := if n % g = 0 then g else n % g
  let need := fun (gm : Nat) => 1 + ceilDiv (gm * w) (65536 * (gm - 1))
  numAt 0 4 ctl == job.toNat && decide (2 ≤ g) && decide (g ≤ 16) && n % g != 1 && numAt 0x3D 3 ctl == 0 &&
    numAt 4 4 ctl / 2 == 0 && (decide (n < 2) || (decide (need (min g n) ≤ numAt 0x38 4 ctl) && decide (need gg ≤ numAt 0x38 4 ctl)))

def ckptRecord (s : State) (job : BitVec 32) (code cut step : Nat) : State :=
  (postRecord s job
    { kind := 16, reply := false, time := 0, source := 0, queue := 0, value := 0,
      detail := [BitVec.ofNat 64 code, BitVec.ofNat 64 cut, BitVec.ofNat 64 step] }).1

/-- The rank of this package among the packages of the job: its rank in the communicator of the job's word, or 0. -/
def jobRank (s : State) (job : BitVec 32) : Nat :=
  let w := jobWord s job 11
  let cw := commWord s (fldN 16 8 w)
  if bitAt 15 w && commEn cw then commRank cw else 0

/-- The cut of R369: covered dirty pages become cut-pending and clean, CUT rises, a record is posted. -/
def takeCut (s : State) (r : CutReq) : State :=
  match localOf s r.job r.ctl, jobIdx s r.job with
  | some pa, some i =>
    let ctl := memRead s.dram pa 64
    let cut := numAt 0x10 8 ctl
    let step := numAt 8 8 ctl
    if !(ckptOk ctl r.job r.n) then ckptRecord s r.job 3 cut step
    else
      let lo := numAt 0x18 8 ctl % 2 ^ 52
      let hi := numAt 0x20 8 ctl
      let hit := (homeLeaves s r.job).filter fun x => decide (lo ≤ x.1) && decide (x.1 < hi) && leafDirty x.2.e
      let s := hit.foldl (fun s x => putEntry s x.2.addr (x.2.e &&& ~~~ (BitVec.ofNat 64 (2 ^ 46)))) s
      let pages := hit.flatMap fun x =>
        (List.range (pageBytes x.2.level / 65536)).map fun u =>
          (⟨x.1 + 65536 * u, leafPa x.2.e + 65536 * u, leafPa x.2.e, pageBytes x.2.level⟩ : CutUnit)
      let old := tabGet Ckpt.empty s.ckpts i
      let ctl := bytesAt 0 16 ctl ++ bytesOf 8 (cut + 1) ++ bytesAt 24 40 ctl
      let k : Ckpt :=
        { ctl := ctl, cut := cut + 1, pages := pages, marked := pages.map CutUnit.va, marked1 := old.marked,
          bell := r.bell, cluster := r.cluster, group := r.group, draining := bitAt 0 (BitVec.ofNat 8 (numAt 4 1 ctl)), drains := old.drains,
          rank := jobRank s r.job, n := r.n }
      let s := partWrite { s with ckpts := tabPut s.ckpts i k } r.job (pa + 0x10) (bytesOf 8 (cut + 1))
      ckptRecord s r.job 1 (cut + 1) step
  | _, _ => s

-- Mesh bells (R385).

/-- A bell given back keeps its values until it is given out again (R42, R43). -/
def Bell.freed (b : Bell) : Bell := { b with early := 0, ready := false, held := [], readyFrom := [], holder := none }
/-- The communicator of a mesh bell. -/
def bellComm (b : Bell) : Nat := match b.holder with | some (_, some c, _) => c | _ => 0
def bellJob (b : Bell) : BitVec 32 := match b.holder with | some (j, _, _) => j | none => 0

/-- A bell-event message (KIND 6). -/
def bellMsg (s : State) (dst i : Nat) (b : Bell) (tag : BitVec 16) (ev : Nat) : Msg :=
  { mkMsg s dst 6 4 (bellJob b) with
    flow := BitVec.ofNat 32 (bellComm b), aux := BitVec.ofNat 64 (0x8000 + i + tag.toNat * 65536 + ev * 2 ^ 32) }

/-- The held events of a replica, applied in order (R385). -/
def applyHeld (s : State) (i : Nat) (b : Bell) : State × Bell :=
  b.held.foldl (fun (x : State × Bell) h =>
    let r := match h.1 with
      | some (t, keep) => armBell x.2 t keep h.2
      | none => bytesBell x.2 h.2
    (if r.2 then overrunRecord x.1 (.mesh i) r.1 else x.1, r.1)) (s, { b with held := [] })

mutual
/-- After every event of a replica: when its own counts are complete it is READY, and tells the root. -/
def meshTest : Nat → State → Nat → State
  | 0, s, _ => s
  | fuel + 1, s, i =>
    let b := getBell s (.mesh i)
    if b.ready || !(bellDone b) then s
    else
      let s := setBell s { b with ready := true } (.mesh i)
      let root := commPkg s (commWord s (bellComm b)) 0
      if root = s.pkg then meshReady fuel s i (commRank (commWord s (bellComm b))) b.phase
      else sendMsg s (bellMsg s root i b b.phase 2)
/-- At the root: when every member is ready for the phase, complete goes to every replica. -/
def meshReady : Nat → State → Nat → Nat → BitVec 16 → State
  | 0, s, _, _, _ => s
  | fuel + 1, s, i, rank, k =>
    let b := getBell s (.mesh i)
    let w := commWord s (bellComm b)
    let from' := setAdd b.readyFrom rank
    if k = b.phase ∧ from'.length = commN w then
      let s := setBell s { b with readyFrom := [] } (.mesh i)
      let s := ((commMembers s w).filter (· != s.pkg)).foldl (fun s p => sendMsg s (bellMsg s p i b k 3)) s
      meshComplete fuel s i k
    else setBell s { b with readyFrom := from' } (.mesh i)
/-- A replica completes the phase: cut, waiters, held events, test again. -/
def meshComplete : Nat → State → Nat → BitVec 16 → State
  | 0, s, _, _ => s
  | fuel + 1, s, i, k =>
    let b := getBell s (.mesh i)
    let mine := fun (r : CutReq) => r.index == i && r.phase == k
    let cuts := s.cutWait.filter mine
    let b' := { b with phase := b.phase + 1, count := BitVec.ofNat 16 b.early, early := 0, ready := false }
    let s := setBell s b' (.mesh i)
    let s := cuts.foldl takeCut { s with cutWait := s.cutWait.filter fun r => !(mine r) }
    let s := wakeBell s (.mesh i) b'.phase
    let x := applyHeld s i (getBell s (.mesh i))
    meshTest fuel (setBell x.1 x.2 (.mesh i)) i
end

/-- An arrive event with its tag (R385). -/
def meshArrive (s : State) (i : Nat) (tag : BitVec 16) : State :=
  let b := getBell s (.mesh i)
  let s :=
    if !b.ready && tag == b.phase then
      let x := arriveBell b
      let s := setBell s x.1 (.mesh i)
      if x.2 then overrunRecord s (.mesh i) x.1 else s
    else if tag = b.phase + 1 then setBell s { b with early := b.early + 1 } (.mesh i)
    else
      let b' := { b with overrun := true }
      overrunRecord (setBell s b' (.mesh i)) (.mesh i) b'
  meshTest 8 s i

/-- A local ARRIVE on a mesh bell: an arrive event to every replica, this one included. -/
def meshArriveAll (s : State) (i : Nat) : State :=
  let b := getBell s (.mesh i)
  if b.holder.isNone then s
  else
    let w := commWord s (bellComm b)
    let s := ((commMembers s w).filter (· != s.pkg)).foldl (fun s p => sendMsg s (bellMsg s p i b b.phase 1)) s
    meshArrive s i b.phase

/-- A local ARM, or bytes counted, on a replica: held while READY. -/
def meshLocal (s : State) (i : Nat) (h : Option (BitVec 16 × Bool) × Int) : State :=
  let b := getBell s (.mesh i)
  if b.holder.isNone then s
  else if b.ready then setBell s { b with held := b.held ++ [h] } (.mesh i)
  else
    let x := match h.1 with
      | some (t, keep) => armBell b t keep h.2
      | none => bytesBell b h.2
    let s := setBell s x.1 (.mesh i)
    meshTest 8 (if x.2 then overrunRecord s (.mesh i) x.1 else s) i

-- The three events on any bell.

def doArm (s : State) (l : BellLoc) (t : BitVec 16) (keep : Bool) (bytes : Int) : State :=
  match l with
  | .mesh i => meshLocal s i (some (t, keep), bytes)
  | l => bellEvent s l fun b => armBell b t keep bytes
def doArrive (s : State) (l : BellLoc) : State :=
  match l with
  | .mesh i => meshArriveAll s i
  | l => bellEvent s l arriveBell
def doBytes (s : State) (l : BellLoc) (n : Nat) : State :=
  match l with
  | .mesh i => meshLocal s i (none, n)
  | l => bellEvent s l fun b => bytesBell b n

/-- Is a bell number legal for a task (R41, R467)? -/
def bellLegal (t : Task) (n : BitVec 16) : Bool :=
  let i := fldN 0 12 n
  let within := fun (w : Word) (bits : Nat) (cb : Nat) => decide (fldN 0 bits w ≤ i) && decide (i < fldN 0 bits w + fldN 16 cb w)
  fld 12 2 n == 0 &&
    match fldN 14 2 n with
    | 0 => decide (i < 256) && within t.cbells 8 9
    | 1 => within t.pbells 12 13
    | 2 => within t.mbells 12 13 ||
        (fld 32 16 (vget t.domain 3 0) == n && fld 32 16 (vget t.domain 3 0) != 0xFFFF)
    | _ => false

end Sys2Proof.Machine
end

