-- ==== Sys2Proof/Machine/Operands.lean ====
section
/-!
DEFINITION. The operands of the instructions of a bundle (R126, R169): which registers each reads and writes, when a slot
is suppressed (R70), and reads of registers before the bundle issues (R59), with the undefined values of R72.
-/
namespace Sys2Proof.Machine

/-- The register operands of an instruction: the condition that must not suppress it, with its negation (R70); scalar,
condition, mask and tile registers read; registers written. -/
structure Uses where
  cond : Option (Nat × Bool)
  s : List Nat
  c : List Nat
  k : List Nat
  v : List Nat
  ds : List Dest
  deriving DecidableEq, Repr

def noUses : Uses := ⟨none, [], [], [], [], []⟩

/-- SR and its kin: sources, destination. -/
def useS (p : BitVec 3) (d : BitVec 6) (l : List (BitVec 6)) : Uses :=
  ⟨some (p.toNat, false), l.map BitVec.toNat, [], [], [], [.s d.toNat]⟩
/-- Sources only. -/
def useSrc (p : BitVec 3) (l : List (BitVec 6)) : Uses := ⟨some (p.toNat, false), l.map BitVec.toNat, [], [], [], []⟩
/-- SC: sources, condition written. -/
def useC (p cd : BitVec 3) (l : List (BitVec 6)) : Uses :=
  ⟨some (p.toNat, false), l.map BitVec.toNat, [], [], [], [.c cd.toNat]⟩
def useCC (p cd ca cb : BitVec 3) : Uses :=
  ⟨some (p.toNat, false), [], [ca.toNat, cb.toNat], [], [], [.c cd.toNat]⟩
/-- VR with a mask (R169): under merge with K other than k0, D is read. -/
def useV (d : BitVec 5) (l : List (BitVec 5)) (k : BitVec 3) (m : Bool) : Uses :=
  ⟨none, [], [], [k.toNat], l.map BitVec.toNat ++ (if k != 0 && !m then [d.toNat] else []), [.v d.toNat]⟩
def useK (kd : BitVec 3) (ks : List (BitVec 3)) (l : List (BitVec 5)) : Uses :=
  ⟨none, [], [], ks.map BitVec.toNat, l.map BitVec.toNat, [.k kd.toNat]⟩
/-- A C slot, and an M slot. -/
def useP (p : BitVec 3) : Uses := ⟨some (p.toNat, false), [], [], [], [], []⟩
def useB (c : BitVec 3) (n : Bool) (l : List (BitVec 6)) (ds : List Dest) : Uses :=
  ⟨some (c.toNat, n), l.map BitVec.toNat, [], [], [], ds⟩
def useX (l : List (BitVec 6)) : Uses := ⟨none, l.map BitVec.toNat, [], [], [], []⟩

/-- The register operands of each instruction of a bundle. The tiles of matrix instructions are not among them: they are
read and written by the engine (R212). -/
def uses : Instr → Uses
  | .add p d a b => useS p d [a, b]
  | .addi p d a _ => useS p d [a]
  | .sub p d a b => useS p d [a, b]
  | .mul p d a b => useS p d [a, b]
  | .mulhs p d a b => useS p d [a, b]
  | .mulhz p d a b => useS p d [a, b]
  | .divs p d a b => useS p d [a, b]
  | .divz p d a b => useS p d [a, b]
  | .rems p d a b => useS p d [a, b]
  | .remz p d a b => useS p d [a, b]
  | .and p d a b => useS p d [a, b]
  | .or p d a b => useS p d [a, b]
  | .xor p d a b => useS p d [a, b]
  | .andn p d a b => useS p d [a, b]
  | .shl p d a b => useS p d [a, b]
  | .shrs p d a b => useS p d [a, b]
  | .shrz p d a b => useS p d [a, b]
  | .rotl p d a b => useS p d [a, b]
  | .mins p d a b => useS p d [a, b]
  | .minz p d a b => useS p d [a, b]
  | .maxs p d a b => useS p d [a, b]
  | .maxz p d a b => useS p d [a, b]
  | .clz p d a => useS p d [a]
  | .ctz p d a => useS p d [a]
  | .popc p d a => useS p d [a]
  | .bfx p d a b _ => useS p d [a, b]
  | .bfi p d a b => useS p d [a, b, d]
  | .mov p d a => useS p d [a]
  | .movi p d _ => useS p d []
  | .movhi p d _ _ => useS p d [d]
  | .sel p d a b n => { useS p d [a, b] with c := [n.toNat] }
  | .cmp p cd a b _ => useC p cd [a, b]
  | .cand p cd ca cb => useCC p cd ca cb
  | .cor p cd ca cb => useCC p cd ca cb
  | .cxor p cd ca cb => useCC p cd ca cb
  | .lea p d a b _ => useS p d [a, b]
  | .tidx p d a b _ => useS p d [a, b]
  | .lds p d a _ _ _ _ => useS p d [a]
  | .sts p d a _ _ => useSrc p [a, d]
  | .amos p d a b op => useS p d (if op = 6 then [a, b, d] else [a, b])
  | .stg p _ a => useSrc p [a]
  | .crd p d _ => useS p d []
  | .cwr p d _ => useSrc p [d]
  | .fadd p d a b _ => useS p d [a, b]
  | .fmul p d a b => useS p d [a, b]
  | .ffma p d a b _ => useS p d [a, b, d]
  | .fcmp p cd a b _ => useC p cd [a, b]
  | .fcvt p d a _ => useS p d [a]
  | .br c n _ => useB c n [] []
  | .jmpr c n a => useB c n [a] []
  | .call _ => { noUses with ds := [.s 62] }
  | .ret c n => useB c n [62] []
  | .loop a _ => useX [a]
  | .arm a b _ _ => useX [a, b]
  | .arrive a b _ => useX [a, b]
  | .wait a b _ => useX [a, b]
  | .vadd _ d a b k m => useV d [a, b] k m
  | .vsub _ d a b k m => useV d [a, b] k m
  | .vmul _ d a b k m => useV d [a, b] k m
  | .vfma _ d a b k m => useV d [a, b, d] k m
  | .vfms _ d a b k m => useV d [a, b, d] k m
  | .vmin _ d a b k m => useV d [a, b] k m
  | .vmax _ d a b k m => useV d [a, b] k m
  | .vabs _ d a k m => useV d [a] k m
  | .vneg _ d a k m => useV d [a] k m
  | .vclamp _ d a b k m => useV d [a, b] k m
  | .vfn _ d a _ k m => useV d [a] k m
  | .vcmp _ kd a b _ => useK kd [] [a, b]
  | .vsel d a b k => ⟨none, [], [], [k.toNat], [a.toNat, b.toNat], [.v d.toNat]⟩
  | .kand kd ka kb => useK kd [ka, kb] []
  | .kor kd ka kb => useK kd [ka, kb] []
  | .knot kd ka => useK kd [ka] []
  | .vand _ d a b k m => useV d [a, b] k m
  | .vor _ d a b k m => useV d [a, b] k m
  | .vxor _ d a b k m => useV d [a, b] k m
  | .vshl _ d a b k m => useV d [a, b] k m
  | .vshr _ d a b k m => useV d [a, b] k m
  | .viadd _ d a b k m => useV d [a, b] k m
  | .vimul _ d a b k m => useV d [a, b] k m
  | .vcvt t d a src _ k m => useV d (if viewCols src < viewCols t then [a, d] else [a]) k m
  | .vqnt d a b h => useV d (if h then [a, b, d] else [a, b]) 0 false
  | .vdq d a _ k m => useV d [a] k m
  | .vscr _ d a b k m => useV d [a, b] k m
  | .vscc _ d a b k m => useV d [a, b] k m
  | .vbias _ d a b k m => useV d [a, b] k m
  | .vbcr _ d a _ => useV d [a] 0 false
  | .vbcc _ d a _ => useV d [a] 0 false
  | .vrotr _ d a _ => useV d [a] 0 false
  | .vrotc _ d a _ => useV d [a] 0 false
  | .vredr _ d a _ => useV d [a] 0 false
  | .vredc _ d a _ => useV d [a] 0 false
  | .vshuf _ d a b k m => useV d [a, b] k m
  | .vshfr _ d a b k m => useV d [a, b] k m
  | .vhaar d a _ _ _ => useV d [a] 0 false
  | .vihaar d a => useV d [a] 0 false
  | .vthr d a _ => useV d [a] 0 false
  | .vtag d a _ => useV d [a] 0 false
  | .vmov d a k m => useV d [a] k m
  | .vsplat _ d sa k m => { useV d [] k m with s := [sa.toNat] }
  | .viota _ d _ => useV d [] 0 false
  | .vins _ d sa sb => { useV d [d] 0 false with s := [sa.toNat, sb.toNat] }
  | .vext _ d sa sb => ⟨none, [sb.toNat], [], [], [d.toNat], [.s sa.toNat]⟩
  | .vld _ d sa sb k m => { useV d [] k m with s := [sa.toNat, sb.toNat] }
  | .vst _ d sa sb k => ⟨none, [sa.toNat, sb.toNat], [], [k.toNat], [d.toNat], []⟩
  | .vldt _ d sa => { useV d [] 0 false with s := [sa.toNat] }
  | .vstt _ d sa sb => ⟨none, [sa.toNat, sb.toNat], [], [], [d.toNat], []⟩
  | .vpush _ d sa k => ⟨none, [sa.toNat], [], [k.toNat], [d.toNat], []⟩
  | .vpop _ d sa sb => ⟨none, [sa.toNat], [], [], [], [.v d.toNat, .s sb.toNat]⟩
  | .vflags sa sb => ⟨none, [sb.toNat], [], [], [], [.s sa.toNat]⟩
  | .mma p _ _ s1 s2 _ => useSrc p [s1, s2]
  | .mmas p _ s1 s2 _ => useSrc p [s1, s2]
  | .mmat p _ _ s1 s2 _ => useSrc p [s1, s2]
  | .mmah p _ _ s1 s2 _ => useSrc p [s1, s2]
  | .mldb p s1 s2 _ => useSrc p [s1, s2]
  | .mclr p _ _ => useP p
  | .macc p _ _ => useP p
  | .mcfg p s1 => useSrc p [s1]
  | .mdrn p _ v s1 _ => { useSrc p [s1] with ds := [.v v.toNat] }
  | .mdrns p _ _ s1 s2 _ => useSrc p [s1, s2]
  | .mrep p _ => useP p
  | .cpy p _ _ _ _ => useP p
  | .cpys p _ _ _ _ => useP p
  | .tbind p _ _ _ => useP p
  | .tcpy p _ _ _ _ _ => useP p
  | .gath p _ _ _ => useP p
  | .scat p _ _ _ => useP p
  | .ramo p _ _ _ _ => useP p
  | .pfch p _ _ _ => useP p
  | .migr p _ _ => useP p
  | .fence p _ _ => useP p
  | .rel p _ _ => useP p
  | .tlbi p => useP p
  | .chsnd p _ _ => useP p
  | .chrcv p _ _ => useP p
  | .coll p _ _ _ _ _ => useP p
  | .rshd p _ _ _ => useP p
  | .ckcut p _ _ => useP p
  | .qpush p _ _ _ => useP p
  | .sete p _ _ => useP p
  | .bmode p _ _ _ => useP p
  | _ => noUses

-- Pending results (R72, R73).

/-- The pending result that will write a register. -/
def Task.pendOf (t : Task) (d : Dest) : Option Pending := t.inflight.find? fun p => p.dest == some d
/-- Is a register the destination of a scoreboarded result that is not complete (R73)? -/
def Task.sbBusy (t : Task) (d : Dest) : Bool := t.inflight.any fun p => p.dest == some d && p.sb
/-- Is a register undefined under R72? -/
def Task.undefd (t : Task) (d : Dest) : Bool := (t.pendOf d).isSome

-- Register reads (R17, R18, R59, R72). A pending register reads a free value, one for each slot that reads it.

/-- The position of a register's undefined value: its number, and the slot and the context that read it. Both bundles of a
cycle read under one stamp, so each acts on the values on which it was judged (R67). -/
def State.pos (s : State) (n : Nat) : Nat := n + 64 * (s.slotNo + 8 * (s.cur % 2))

/-- The value of s(n) as it stands before the bundle. -/
def State.rs (s : State) (n : BitVec 6) : Word :=
  if n = 0 then 0
  else if s.src.undefd (.s n.toNat) then Config.freeWord s.stamp (s.pos n.toNat)
  else vget s.src.s n.toNat 0
/-- The value of c(n). -/
def State.rc (s : State) (n : BitVec 3) : Bool :=
  if n = 0 then true
  else if s.src.undefd (.c n.toNat) then Config.freeBit s.stamp (s.pos n.toNat)
  else vget s.src.c n.toNat false
/-- The value of k(n). -/
def State.rk (s : State) (n : BitVec 3) : BitVec 1024 :=
  if n = 0 then BitVec.allOnes 1024
  else if s.src.undefd (.k n.toNat) then Config.freeMask s.stamp (s.pos n.toNat)
  else vget s.src.k n.toNat 0

/-- R22, R23, R114: the tag's fields, and the approximation rows of a tag as a mask. -/
def isHaar (tag : BitVec 8) : Bool := fld 0 2 tag == 1
def tagLevels (tag : BitVec 8) : Nat := fldN 2 3 tag
def approxRows (levels : Nat) : Nat := 16 >>> levels
def approxMask (levels : Nat) : BitVec 16 := BitVec.ofNat 16 (2 ^ approxRows levels - 1)

/-- A tile that is undefined under R72: the tag is the one that the pending result carries. -/
def freeTile (stamp n : Nat) (tag : BitVec 8) : Tile :=
  { lanes := vgen 1024 (Config.freeLane stamp n), tag := tag,
    mask := if isHaar tag then Config.freeRows stamp n ||| approxMask (tagLevels tag) else 0xFFFF,
    side := vgen 32 fun i => Config.freeLane stamp n (1024 + i) }
/-- R24: the survival mask of a spatial tile is 0xFFFF, whatever an area that is restored gave it; so a spatial result of
spatial operands has it too. -/
def Tile.norm (t : Tile) : Tile := if fld 0 2 t.tag = 0 then { t with mask := 0xFFFF } else t
/-- The tag of v(n) as it stands before the bundle (R72). -/
def State.vtag (s : State) (n : Nat) : BitVec 8 :=
  match s.src.pendOf (.v n) with
  | some ⟨_, .tile t, _, _, _, _, _⟩ => t.tag
  | some ⟨_, .record _ _ _ t, _, _, _, _, _⟩ => t.tag
  | _ => (vget s.src.v n Tile.zero).tag
/-- Is the tag of v(n) undefined (R341)? A pending result's is not (R72). -/
def State.tagUndef (s : State) (n : Nat) : Bool := s.src.undefV.contains n && !(s.src.undefd (.v n))
/-- The tag of two operands or results together: the common domain, thresholded when either is (R118, R170). -/
def joinTag (a b : BitVec 8) : BitVec 8 := if fld 0 5 a = fld 0 5 b then a ||| (b &&& 0x20) else a
/-- v(n) as it stands before the bundle. -/
def State.rv (s : State) (n : BitVec 5) : Tile :=
  if s.src.undefd (.v n.toNat) then freeTile s.stamp (s.pos n.toNat) (s.vtag n.toNat)
  else (vget s.src.v n.toNat Tile.zero).norm

/-- R24: a row is absent when the tag is Haar and its mask bit is clear. -/
def Tile.absent (t : Tile) (i : Nat) : Bool := isHaar t.tag && !(bitAt i t.mask)
/-- Lane (i, j) as every instruction but VSHUF and VSHFR reads it (R24). -/
def Tile.lane (t : Tile) (i j : Nat) : BitVec 32 := if t.absent i then 0 else vget t.lanes (64 * i + j) 0

-- Suppression (R70).

/-- Is a slot suppressed by its predicate, condition and negation? -/
def suppressed (i : Instr) (s : State) : Bool :=
  match (uses i).cond with
  | none => false
  | some (n, neg) => s.rc (BitVec.ofNat 3 n) == neg

-- The tiles that the matrix engine still reads or writes (R212).

/-- The tiles that passes of a job that have not begun read. -/
def jobReads (j : MJob) : List Nat :=
  let from' := if j.begun then j.next + 1 else j.next
  match j.i with
  | .mma _ _ v _ _ _ => (span from' j.n).map (v.toNat + ·)
  | .mmat _ _ v _ _ _ => (span from' j.n).map (v.toNat + ·)
  | .mmah _ _ v _ _ _ => if from' < j.n then [v.toNat] else []
  | _ => []
def jobWrites (j : MJob) : List Nat :=
  match j.i with
  | .mdrn _ _ v _ _ => [v.toNat]
  | _ => []
/-- R73: a bundle that writes a busy tile, or reads one that MDRN is writing, stalls. -/
def Task.tileReadBusy (t : Task) (n : Nat) : Bool := t.mq.any fun j => (jobWrites j).contains n
def Task.tileWriteBusy (t : Task) (n : Nat) : Bool :=
  t.mq.any fun j => (jobWrites j).contains n || (jobReads j).contains n

/-- R73: an operand or a destination of the slot is not ready. -/
def regsStall (i : Instr) (s : State) : Bool :=
  let t := s.src
  let u := uses i
  u.s.any (fun n => n != 0 && t.sbBusy (.s n)) || u.c.any (fun n => n != 0 && t.sbBusy (.c n)) ||
    u.v.any (fun n => t.sbBusy (.v n) || t.tileReadBusy n)
/-- R73: a destination of the slot waits for its earlier write. -/
def destStall (i : Instr) (s : State) : Bool :=
  let t := s.src
  (uses i).ds.any fun d => t.sbBusy d && d != .s 0 || (match d with | .v n => t.tileWriteBusy n | _ => false)

/-- R358: a poisoned register that the slot reads, none of them about to be overwritten: source of R347, number. -/
def regsPoison (i : Instr) (s : State) : Verdict :=
  let t := s.src
  let u := uses i
  match u.s.find? fun n => n != 0 && t.poisonS.contains n && !t.undefd (.s n) with
  | some n => .poison 3 n
  | none =>
    match u.v.find? fun n => t.poisonV.contains n && !t.undefd (.v n) && !t.tileReadBusy n with
    | some n => .poison 1 n
    | none => .go

end Sys2Proof.Machine
end

