-- ==== Sys2Proof/Machine/Wave.lean ====
section
/-!
DEFINITION. The Haar transform, thresholds and survival masks (R28, R114, R115), tiles as columns and as bytes (R21), and
thatch records (R120 to R122).
-/
namespace Sys2Proof.Machine

/-- Results and the flags raised on the way. -/
abbrev WithFlags (α : Type) := α × Flags

/-- The OR of the flags of a list of results. -/
def orFlags (l : List (Nat × Flags)) : Flags := l.foldl (fun f x => f ||| x.2) 0

-- The transform of one column (R114).

def halve (y : Nat) : Nat × Flags := fMul fp32 0 y 0x3F000000

/-- halve(rne(a + b)) and halve(rne(a - b)): two operations, each with the flags of R102 (log 71). -/
def haarAvg (a b : Nat) : Nat × Flags := let s := fAdd fp32 0 a b; let h := halve s.1; (h.1, s.2 ||| h.2)
def haarDet (a b : Nat) : Nat × Flags := let s := fSub fp32 0 a b; let h := halve s.1; (h.1, s.2 ||| h.2)

/-- Neighbouring pairs. -/
def pairUp : List Nat → List (Nat × Nat)
  | a :: b :: r => (a, b) :: pairUp r
  | _ => []

/-- haar_fwd: approximation rows, then the details of the deepest level, down to level 1. -/
def haarFwd : Nat → List Nat → WithFlags (List Nat)
  | 0, s => (s, 0)
  | l + 1, s =>
    let ps := pairUp s
    let av := ps.map fun p => haarAvg p.1 p.2
    let dt := ps.map fun p => haarDet p.1 p.2
    let r := haarFwd l (av.map Prod.fst)
    (r.1 ++ dt.map Prod.fst, r.2 ||| orFlags av ||| orFlags dt)

/-- haar_inv. -/
def haarInv : Nat → List Nat → WithFlags (List Nat)
  | 0, y => (y, 0)
  | l + 1, y =>
    let h := y.length / 2
    let r := haarInv l (y.take h)
    let ps := r.1.zip (y.drop h)
    let hi := ps.map fun p => fAdd fp32 0 p.1 p.2
    let lo := ps.map fun p => fSub fp32 0 p.1 p.2
    ((hi.zip lo).flatMap fun p => [p.1.1, p.2.1], r.2 ||| orFlags hi ||| orFlags lo)

-- Thresholds (R28) and survival (R115).

/-- The threshold for level j, 1 to 4, of a set. -/
def threshold (h : BitVec 128) (j : Nat) : Nat := fldN (32 * (j - 1)) 32 h
/-- |x| < t on FP32 patterns; false when t is NaN, negative or -0.0, and when x is NaN. -/
def belowThreshold (t x : Nat) : Bool := decide (t ≤ 0x7F800000) && decide (x % 2 ^ 31 < t)
/-- The level of a detail row: 8 to 15 level 1, 4 to 7 level 2, 2 and 3 level 3, 1 level 4. -/
def rowLevel (row : Nat) : Nat := 4 - row.log2
/-- A column of 16 coefficients with L levels, thresholded. -/
def thresholdCol (h : BitVec 128) (levels : Nat) (col : List Nat) : List Nat :=
  col.zipIdx.map fun x =>
    if x.2 < approxRows levels then x.1
    else if belowThreshold (threshold h (rowLevel x.2)) x.1 then 0 else x.1
/-- The survival mask of a tile of columns (R115). -/
def survival (levels : Nat) (cols : List (List Nat)) : BitVec 16 :=
  maskOf 16 fun i => decide (i < approxRows levels) || cols.any fun c => c.getD i 0 % 2 ^ 31 != 0

/-- A tile's transform, with a threshold set if one applies: columns, survival mask, flags. -/
def haarTile (levels : Nat) (thr : Option (BitVec 128)) (cols : List (List Nat)) :
    List (List Nat) × BitVec 16 × Flags :=
  let r := cols.map (haarFwd levels)
  let cs := r.map fun x => match thr with | some h => thresholdCol h levels x.1 | none => x.1
  (cs, survival levels cs, r.foldl (fun f x => f ||| x.2) 0)

-- Tiles as columns, rows and bytes.

/-- The 64 columns of FP32 values of a tile, absent rows as zero (R24). -/
def Tile.cols (t : Tile) : List (List Nat) :=
  (List.range 64).map fun j => (List.range 16).map fun i => (t.lane i j).toNat
/-- Lanes from 64 columns. -/
def lanesOfCols (cols : List (List Nat)) : Vector (BitVec 32) 1024 :=
  vgen 1024 fun n => BitVec.ofNat 32 ((cols.getD (n % 64) []).getD (n / 64) 0)
/-- The columns of a tile in the spatial domain (R175), and the flags of the reconstruction. -/
def Tile.spatialCols (t : Tile) : WithFlags (List (List Nat)) :=
  if isHaar t.tag then
    let r := t.cols.map (haarInv (tagLevels t.tag))
    (r.map Prod.fst, r.foldl (fun f x => f ||| x.2) 0)
  else (t.cols, 0)
/-- A tile taken to the spatial domain (R175); a spatial tile as it stands. -/
def Tile.spatial (t : Tile) : WithFlags Tile :=
  if isHaar t.tag then
    let r := t.spatialCols
    ({ t with lanes := lanesOfCols r.1, tag := 0, mask := 0xFFFF }, r.2)
  else (t, 0)

/-- The 256 bytes of row i (R21). -/
def rowBytes (lanes : Vector (BitVec 32) 1024) (i : Nat) : List Byte :=
  (List.range 64).flatMap fun j => bytesOf 4 (vget lanes (64 * i + j) 0).toNat
/-- Row i as it is read, absent rows as zero. -/
def Tile.rowRead (t : Tile) (i : Nat) : List Byte :=
  if t.absent i then List.replicate 256 0 else rowBytes t.lanes i
/-- The lanes of 16 rows of bytes. -/
def lanesOfRows (rows : List (List Byte)) : Vector (BitVec 32) 1024 :=
  vgen 1024 fun n => BitVec.ofNat 32 (numAt (4 * (n % 64)) 4 (rows.getD (n / 64) []))

/-- The width in bits of an element of a view, and elements per lane (R168). -/
def elemBits (t : Nat) : Nat := match t with | 0 => 32 | 5 => 32 | 1 => 16 | 2 => 16 | _ => 8
def perLane (t : Nat) : Nat := 32 / elemBits t
def colsOf (t : Nat) : Nat := 64 * perLane t
/-- Element (i, j) of a view (R21). -/
def Tile.elem (t : Tile) (view i j : Nat) : Nat :=
  fldN (elemBits view * (j % perLane view)) (elemBits view) (t.lane i (j / perLane view))
/-- The same from the stored lanes, whatever the survival mask. -/
def rawElem (lanes : Vector (BitVec 32) 1024) (view i j : Nat) : Nat :=
  fldN (elemBits view * (j % perLane view)) (elemBits view) (vget lanes (64 * i + j / perLane view) 0)
/-- A lane put together from its elements. -/
def packLane (view : Nat) (f : Nat → Nat) : BitVec 32 :=
  BitVec.ofNat 32 ((List.range (perLane view)).foldl (fun a b => a + f b % 2 ^ elemBits view * 2 ^ (elemBits view * b)) 0)

-- Thatch records (R120 to R122).

def recLength (rows : Nat) : Nat := 32 * ceilDiv (32 + 264 * rows) 32

/-- A record's bytes: tag, survival mask, EFMT, the set applied with its index, the scales and the bytes of each row. -/
def recBytes (tag : BitVec 8) (surv : BitVec 16) (efmt : Nat) (set : Option (Nat × BitVec 128))
    (scale : Nat → Nat → BitVec 32) (row : Nat → List Byte) : List Byte :=
  let live := (List.range 16).filter fun i => bitAt i surv
  let n := recLength live.length
  let head := bytesOf 1 tag.toNat ++ bytesOf 1 (tagLevels tag) ++ bytesOf 2 surv.toNat ++ bytesOf 1 efmt ++
    bytesOf 1 (match set with | some (k, _) => k | none => 128) ++ bytesOf 2 live.length ++ bytesOf 4 n ++
    bytesOf 4 0 ++ bytesOf 16 (match set with | some (_, h) => h.toNat | none => 0)
  bytesAt 0 n (head ++ live.flatMap fun i =>
    bytesOf 4 (if efmt = 3 then scale i 0 else 0x3F800000).toNat ++
      bytesOf 4 (if efmt = 3 then scale i 1 else 0x3F800000).toNat ++ bytesAt 0 256 (row i))

/-- The fields of a header. -/
def recTag (h : List Byte) : BitVec 8 := h.getD 0 0
def recSurv (h : List Byte) : BitVec 16 := BitVec.ofNat 16 (numAt 2 2 h)
def recEfmt (h : List Byte) : Nat := numAt 4 1 h
def recLen (h : List Byte) : Nat := numAt 8 4 h

/-- The header check of R122. -/
def recOk (h : List Byte) : Bool :=
  let tag := recTag h
  let surv := recSurv h
  let hset := numAt 5 1 h
  let rows := popcount 16 surv.toNat
  tagLegal tag && numAt 1 1 h == tagLevels tag && decide (recEfmt h ≤ 3) && numAt 12 4 h == 0 &&
    hset / 8 % 16 == 0 && (decide (hset < 128) || (hset == 128 && numAt 16 16 h == 0)) &&
    numAt 6 2 h == rows && recLen h == recLength rows &&
    (if isHaar tag then approxMask (tagLevels tag) &&& surv == approxMask (tagLevels tag) else surv == 0xFFFF)

/-- Entry number of row i: the rows of SURV below it. -/
def recEntry (surv : BitVec 16) (i : Nat) : Nat := popcount i surv.toNat
/-- Row i's entry in a record: its bytes at an offset; none when the row is absent. -/
def recRow (r : List Byte) (surv : BitVec 16) (i : Nat) : Option (List Byte) :=
  if bitAt i surv then some (bytesAt (32 + 264 * recEntry surv i) 264 r) else none

/-- The tile that a record holds (R199). -/
def recTile (r : List Byte) : Tile :=
  let surv := recSurv r
  let rows := (List.range 16).map (recRow r surv)
  { lanes := lanesOfRows (rows.map fun x => match x with | some e => bytesAt 8 256 e | none => List.replicate 256 0),
    tag := recTag r, mask := surv,
    side := vgen 32 fun n =>
      match rows.getD (n / 2) none with
      | some e => if recEfmt r = 3 then BitVec.ofNat 32 (numAt (4 * (n % 2)) 4 e) else 0x3F800000
      | none => 0x3F800000 }

end Sys2Proof.Machine
end

