-- ==== Sys2Proof/Machine/Accum.lean ====
section
/-!
DEFINITION. The arithmetic of the matrix engine (R108 to R113, R205, R216 to R218, R222): chunk sums, update steps on an
accumulator row, and drains.
-/
namespace Sys2Proof.Machine

/-- The flags that passes set (R214). -/
def passFlags : Flags := fNV ||| fOF ||| fNFP ||| fNFC ||| fAOV ||| fSAT

-- Elements (R26).

/-- Class, and significand, of an element in BFP36 mode. -/
def elClass (e : BitVec 36) : Nat := fldN 34 2 e
def elSig (e : BitVec 36) : Int := (fld 0 34 e).toInt
/-- An element's value under the exponent ex. -/
def elVal (e : BitVec 36) (ex : Nat) : Val :=
  match elClass e with
  | 0 => .fin (decide (elSig e < 0)) (elSig e).natAbs ((ex : Int) - 160)
  | 1 => .inf false
  | 2 => .inf true
  | _ => .nan
/-- A finite element, and an element of another class. -/
def elFin (m : Int) : BitVec 36 := (BitVec.ofInt 34 m).zeroExtend 36
def elOf (c : Nat) : BitVec 36 := BitVec.ofNat 36 (c * 2 ^ 34)

-- Update steps (R111).

/-- combine() of R111, for a class or a value that is not finite: the new element and NV. -/
def combine (c : Nat) (t : Val) : BitVec 36 × Flags :=
  match t with
  | .nan => (elOf 3, 0)
  | .fin _ _ _ => (elOf c, 0)
  | .inf n =>
    let tc := if n then 2 else 1
    if c = 3 then (elOf 3, 0) else if c = 0 ∨ c = tc then (elOf tc, 0) else (elOf 3, fNV)

/-- The exact sum of a finite element and a finite value: integer and its exponent. -/
def exactAdd (m : Int) (ex : Nat) (t : Val) : Int × Int :=
  let g : Int := (ex : Int) - 160
  match t with
  | .fin n tm te =>
    if tm = 0 then (m, g)
    else
      let q := min g te
      (m * (2 : Int) ^ (g - q).toNat + alignInt n tm te q, q)
  | _ => (m, g)

/-- An exact value rounded to nearest even on the grid of an exponent. -/
def onGrid (v : Int × Int) (ex : Nat) : Int :=
  let k := (roundAt 0 (decide (v.1 < 0)) v.1.natAbs 1 v.2 ((ex : Int) - 160)).1
  if v.1 < 0 then -(k : Int) else (k : Int)
def sigMin : Int := -(2 : Int) ^ 33
def sigMax : Int := (2 : Int) ^ 33 - 1
def fitsGrid (ex : Nat) (v : Int × Int) : Bool := let m := onGrid v ex; decide (sigMin ≤ m) && decide (m ≤ sigMax)
def satSig (m : Int) : Int := if m < sigMin then sigMin else if sigMax < m then sigMax else m

/-- row_update in BFP36 mode. -/
def rowUpdate (a : Acc) (i : Nat) (t : List Val) : Acc × Flags :=
  let ex := (vget a.exp i 0).toNat
  let els := (List.range 64).map fun j => vget a.elem (64 * i + j) 0
  let pairs := els.zip t
  let live := fun (p : BitVec 36 × Val) => elClass p.1 == 0 && p.2.finite
  let sums := (pairs.filter live).map fun p => exactAdd (elSig p.1) ex p.2
  let best := (span ex 256).find? fun e => sums.all (fitsGrid e)
  let ex' := best.getD 255
  let new := pairs.map fun p =>
    if live p then (elFin (satSig (onGrid (exactAdd (elSig p.1) ex p.2) ex')), (0 : Flags)) else combine (elClass p.1) p.2
  let vals := new.map Prod.fst
  ({ a with
      elem := vgen 1024 fun n => if n / 64 = i then vals.getD (n % 64) 0 else vget a.elem n 0,
      exp := vput a.exp i (BitVec.ofNat 8 ex'),
      written := a.written ||| BitVec.ofNat 16 (2 ^ i),
      overflow := if best.isNone then a.overflow ||| BitVec.ofNat 16 (2 ^ i) else a.overflow },
   new.foldl (fun f x => f ||| x.2) (fIf best.isNone fAOV))

/-- The update step in integer mode: a 36-bit saturating sum. -/
def rowUpdateInt (a : Acc) (i : Nat) (p : List Int) : Acc × Flags :=
  let new := (List.range 64).map fun j => satInt 36 ((vget a.elem (64 * i + j) 0).toInt + p.getD j 0)
  let f := new.foldl (fun f x => f ||| x.2) (0 : Flags)
  ({ a with
      elem := vgen 1024 fun n => if n / 64 = i then BitVec.ofInt 36 (new.getD (n % 64) (0, 0)).1 else vget a.elem n 0,
      written := a.written ||| BitVec.ofNat 16 (2 ^ i),
      overflow := if f = 0 then a.overflow else a.overflow ||| BitVec.ofNat 16 (2 ^ i) }, f)

-- Chunk sums.

/-- R110: what non-finite operands of a chunk make of it; none: all are finite. -/
def chunkSpecial (ps : List (Val × Val)) : Option (Val × Flags) :=
  if ps.all fun p => p.1.finite && p.2.finite then none
  else if ps.any fun p => p.1.isNan || p.2.isNan then some (.nan, fNFC)
  else
    let infs := ps.filter fun p => !p.1.finite || !p.2.finite
    let neg := fun (p : Val × Val) => p.1.neg? != p.2.neg?
    if infs.any (fun p => p.1.isZero || p.2.isZero) || (infs.any neg && infs.any fun p => !(neg p)) then
      some (.nan, fNFC ||| fNV)
    else some (.inf (infs.any neg), fNFC)

/-- FP8: the exact sum of products, in units of 2^-18 (R108). -/
def sum8 (ps : List (Val × Val)) : Int :=
  ps.foldl (fun acc p =>
    match p with
    | (.fin n1 m1 e1, .fin n2 m2 e2) =>
      let m : Int := ((m1 * m2) <<< (e1 + e2 + 18).toNat : Nat)
      if n1 != n2 then acc - m else acc + m
    | _ => acc) 0

/-- An FP32 pattern as a value. -/
def val32 (x : Nat) : Val := unpack fp32 x

/-- The update value of an FP8 chunk with its scales (R108, R110). sa x sb and t0 x sc are two operations, each with the flags of
R102: where the first overflows, the second has a non-finite operand (log 70). -/
def chunk8 (ps : List (Val × Val)) (sa sb : BitVec 32) : Val × Flags :=
  match chunkSpecial ps with
  | some r => r
  | none =>
    let p := sum8 ps
    let t0 := (roundQuot fp32 0 (decide (p < 0)) p.natAbs 1 (-18)).1
    let sc := fMul fp32 0 sa.toNat sb.toNat
    let t := fMul fp32 0 t0 sc.1
    (val32 t.1, (sc.2 ||| t.2) &&& passFlags)

/-- A BF16 product with a weight of 2^w: sign, magnitude, exponent. -/
def prod16 (p : (Val × Val) × Nat) : Option (Bool × Nat × Int) :=
  match p.1 with
  | (.fin n1 m1 e1, .fin n2 m2 e2) => if m1 * m2 = 0 then none else some (n1 != n2, m1 * m2, e1 + e2 + (p.2 : Int))
  | _ => none

/-- The update value of a BF16 chunk (R109): each product truncated to a multiple of 2^(emax - 40), one rounding. -/
def chunk16 (ps : List ((Val × Val) × Nat)) : Val × Flags :=
  match chunkSpecial (ps.map Prod.fst) with
  | some r => r
  | none =>
    let prods := ps.filterMap prod16
    match prods with
    | [] => (.fin false 0 0, 0)
    | p :: r =>
      let top := fun (x : Bool × Nat × Int) => (x.2.1.log2 : Int) + x.2.2
      let q := (r.foldl (fun m x => max m (top x)) (top p)) - 40
      let s := prods.foldl (fun (acc : Int) x =>
        let m : Int := (scaleUp x.2.1 (x.2.2 - q) / 2 ^ (q - x.2.2).toNat : Nat)
        if x.1 then acc - m else acc + m) 0
      let t := roundQuot fp32 0 (decide (s < 0)) s.natAbs 1 q
      (val32 t.1, t.2 &&& (fOF ||| fNFP))

-- Passes (R217). An A operand: visited rows; its element (i, k) as a pattern; its scale (i, c).

structure AOp where
  rows : List Nat
  el : Nat → Nat → Nat
  scale : Nat → Nat → BitVec 32

/-- B operand: element (k, j) as a pattern; scale (c, j). -/
structure BOp where
  el : Nat → Nat → Nat
  scale : Nat → Nat → BitVec 32

def passStep (f : Acc → Acc × Flags) (x : Acc × Flags) : Acc × Flags := let r := f x.1; (r.1, x.2 ||| r.2)

/-- FP8 mode: two chunks for each visited row. -/
def pass8 (acc : Acc) (a : AOp) (b : BOp) : Acc × Flags :=
  a.rows.foldl (fun x i => (List.range 2).foldl (fun x c =>
    let ts := (List.range 64).map fun j =>
      chunk8 ((List.range 128).map fun k => (unpack8 (a.el i (128 * c + k)), unpack8 (b.el (128 * c + k) j)))
        (a.scale i c) (b.scale c j)
    passStep (fun acc => let r := rowUpdate acc i (ts.map Prod.fst); (r.1, r.2 ||| ts.foldl (fun f t => f ||| t.2) (0 : Flags))) x) x)
    (acc, 0)

/-- INT8 mode: two integer update steps for each visited row. -/
def passInt (acc : Acc) (a : AOp) (b : BOp) : Acc × Flags :=
  a.rows.foldl (fun x i => (List.range 2).foldl (fun x c =>
    let ps := (List.range 64).map fun j =>
      (List.range 128).foldl (fun (s : Int) k => s + toSigned 8 (a.el i (128 * c + k)) * toSigned 8 (b.el (128 * c + k) j)) 0
    passStep (fun acc => rowUpdateInt acc i ps) x) x) (acc, 0)

/-- BF16 mode: one chunk of 128. -/
def pass16 (acc : Acc) (a : AOp) (b : BOp) : Acc × Flags :=
  a.rows.foldl (fun x i =>
    let ts := (List.range 64).map fun j =>
      chunk16 ((List.range 128).map fun k => ((unpack bf16 (a.el i k), unpack bf16 (b.el k j)), 0))
    passStep (fun acc => let r := rowUpdate acc i (ts.map Prod.fst); (r.1, r.2 ||| ts.foldl (fun f t => f ||| t.2) (0 : Flags))) x)
    (acc, 0)

/-- The weight exponent of a coefficient row (R117, R218); a spatial operand has none. -/
def rowWeight (levels k : Nat) : Nat := if levels = 0 then 0 else if k < approxRows levels then levels else rowLevel k

/-- MMAH: contraction over the visited rows of A, 16 output rows (R218). A survival mask of 0 leaves no row to contract: the sums are
empty, and the 16 rows are marked written all the same, as R218 says of its result (log 75). -/
def passHaar (acc : Acc) (levels : Nat) (a : AOp) (b : BOp) : Acc × Flags :=
  (List.range 16).foldl (fun x i =>
    let ts := (List.range 64).map fun c =>
      chunk16 (a.rows.map fun k => ((unpack bf16 (a.el k i), unpack bf16 (b.el k c)), rowWeight levels k))
    passStep (fun acc => let r := rowUpdate acc i (ts.map Prod.fst); (r.1, r.2 ||| ts.foldl (fun f t => f ||| t.2) (0 : Flags))) x)
    (acc, 0)

/-- MACC (R222). -/
def passAdd (d s : Acc) : Acc × Flags :=
  let r := ((List.range 16).filter fun i => bitAt i s.written).foldl (fun x i =>
    if s.imode then
      passStep (fun acc => rowUpdateInt acc i ((List.range 64).map fun j => (vget s.elem (64 * i + j) 0).toInt)) x
    else
      passStep (fun acc =>
        rowUpdate acc i ((List.range 64).map fun j => elVal (vget s.elem (64 * i + j) 0) (vget s.exp i 0).toNat)) x) (d, 0)
  ({ r.1 with overflow := r.1.overflow ||| s.overflow }, r.2 &&& passFlags)

-- Drains (R113).

/-- One element: FP32, or INT32 in integer mode when asked. Class infinity or NaN raises no flag: R113 names none (log 72). -/
def drainEl (a : Acc) (toInt : Bool) (i j : Nat) : Nat × Flags :=
  let e := vget a.elem (64 * i + j) 0
  if !(bitAt i a.written) then (0, 0)
  else if a.imode then
    if toInt then let r := satInt 32 e.toInt; ((r.1 % (2 : Int) ^ 32).toNat, r.2) else intToFmt fp32 0 e.toInt
  else
    match elVal e (vget a.exp i 0).toNat with
    | .fin n m x => if m = 0 then (0, 0) else roundQuot fp32 0 n m 1 x
    | v => roundVal fp32 0 v

/-- A drained accumulator as 64 columns of 16. -/
def drainCols (a : Acc) (toInt : Bool) : WithFlags (List (List Nat)) :=
  let r := (List.range 64).map fun j => (List.range 16).map fun i => drainEl a toInt i j
  (r.map fun c => c.map Prod.fst, r.foldl (fun f c => c.foldl (fun f x => f ||| x.2) f) (0 : Flags))

/-- The tile that MDRN writes (R224). -/
def drainTile (a : Acc) (toInt thr : Bool) (h : BitVec 128) : WithFlags Tile :=
  let r := drainCols a toInt
  if isHaar a.tag then
    let l := tagLevels a.tag
    let cols := if thr then r.1.map (thresholdCol h l) else r.1
    ({ lanes := lanesOfCols cols, tag := if thr then a.tag ||| 0x20 else a.tag, mask := survival l cols,
       side := Vector.replicate 32 0x3F800000 }, r.2)
  else ({ lanes := lanesOfCols r.1, tag := 0, mask := 0xFFFF, side := Vector.replicate 32 0x3F800000 }, r.2)

/-- What MDRNS drains (R225): the options, and the result as rows of bytes, scales, tag and mask. -/
structure DrainOut where
  tag : BitVec 8
  mask : BitVec 16
  rows : List (List Byte × List (BitVec 32))
  flags : Flags

/-- The columns of a group of accumulators side by side, transformed and thresholded. -/
def drainGroup (accs : List Acc) (levels : Option Nat) (thr : Option (BitVec 128)) : List (List Nat) × BitVec 8 × Flags :=
  let parts := accs.map fun a => drainCols a false
  let cols := parts.flatMap Prod.fst
  let f := parts.foldl (fun f p => f ||| p.2) (0 : Flags)
  let tag0 : BitVec 8 := match accs with | [] => 0 | a :: r => r.foldl (fun t a => joinTag t a.tag) a.tag
  let x : List (List Nat) × BitVec 8 × Flags := match levels with
    | some l =>
      let r := cols.map (haarFwd l)
      (r.map Prod.fst, BitVec.ofNat 8 (1 + 4 * l), r.foldl (fun f c => f ||| c.2) f)
    | none => (cols, tag0, f)
  match thr with
  | some h => (x.1.map (thresholdCol h (tagLevels x.2.1)), if isHaar x.2.1 then x.2.1 ||| 0x20 else x.2.1, x.2.2)
  | none => x

/-- A row of FP32 values converted to EF with its flags. -/
def drainRow (ef : Nat) (xs : List Nat) : (List Byte × List (BitVec 32)) × Flags :=
  match ef with
  | 0 => ((xs.flatMap (bytesOf 4), []), 0)
  | 1 => let r := xs.map (cvtFmt fp32 bf16 0); ((r.flatMap fun x => bytesOf 2 x.1, []), r.foldl (fun f x => f ||| x.2) (0 : Flags))
  | _ =>
    let a := quantiseBlock 0 (xs.take 128)
    let b := quantiseBlock 0 (xs.drop 128)
    (((a.1 ++ b.1).map (fun x => BitVec.ofNat 8 x.1), [a.2, b.2]), (a.1 ++ b.1).foldl (fun f x => f ||| x.2) (0 : Flags))

def drainOut (accs : List Acc) (ef : Nat) (levels : Option Nat) (thr : Option (BitVec 128)) : DrainOut :=
  let x := drainGroup accs levels thr
  let mask := if isHaar x.2.1 then survival (tagLevels x.2.1) x.1 else 0xFFFF
  let rows := (List.range 16).map fun i => drainRow ef (x.1.map fun c => c.getD i 0)
  { tag := x.2.1, mask := mask, rows := rows.map Prod.fst, flags := rows.foldl (fun f r => f ||| r.2) x.2.2 }

end Sys2Proof.Machine
end

