-- ==== Sys2Proof/Machine/Displaced.lean ====
section
/-!
DEFINITION. The image of a displaced group in its job's displacement pool (R55, R343; log 45): its window, bank modes, full/empty
bits, cluster bells, TBIND slot addresses and streams as bytes in DRAM, and what is read back from there.
-/
namespace Sys2Proof.Machine

-- The image. First the bytes of the window, those of a FIFO bank being its entries and messages in order; then 64 bytes of bank
-- modes, a bit for each line (1: full), 16 bytes for each cluster bell (R42), 64 bytes of slot addresses for each task (bit 63:
-- bound), and for each FIFO bank, in increasing index, how many entries and messages it holds and 16 bytes for each message.

/-- The banks that lie in a group's window. -/
def Group.banks (g : Group) : List Nat :=
  (List.range 64).filter fun b => decide (g.slbase ≤ 0x20000 * b) && decide (0x20000 * b + 0x20000 ≤ g.slbase + g.slsize)
/-- Its FIFO banks. -/
def fifoBanks (cl : Cluster) (g : Group) : List Nat := g.banks.filter fun b => bankMode cl b == 1
/-- The lines of a window. -/
def Group.lines (g : Group) : List Nat := span (g.slbase / 128) ((g.slbase + g.slsize) / 128)
/-- The bytes of a stream: an entry takes 256, a message its entries (R253; log 16). -/
def fifoBytes (f : Fifo) : List Byte :=
  f.rows.flatMap (fun r => bytesAt 0 256 r.bytes) ++ f.msgs.flatMap fun m => bytesAt 0 (256 * msgEntries m.bytes.length) m.bytes
/-- Which of its entries are poisoned. -/
def fifoPoison (f : Fifo) : List Bool :=
  f.rows.map FRow.poison ++ f.msgs.flatMap fun m => List.replicate (msgEntries m.bytes.length) m.poison
def msgHead (m : ChMsg) : List Byte :=
  bytesOf 2 m.chan ++ bytesOf 2 m.src ++ bytesOf 4 m.bytes.length ++ bytesOf 4 m.status.toNat ++ bytesOf 4 m.cred
def fifoHead (f : Fifo) : List Byte :=
  bytesOf 2 f.rows.length ++ bytesOf 2 f.msgs.length ++ f.msgs.flatMap msgHead
/-- Eight bits as a byte. -/
def bitByte (l : List Bool) : Byte := BitVec.ofNat 8 (l.foldr (fun b n => (if b then 1 else 0) + 2 * n) 0)
/-- The slot addresses of a task (R245). -/
def slotAddrs (t : Option Task) : List Byte :=
  (List.range 8).flatMap fun n => bytesOf 8 (match t.bind fun t => vget t.tbind n none with | some x => x.va + 2 ^ 63 | none => 0)
/-- The tasks of a group that are out, by their place in it. -/
def outTasks (s : State) (g : Group) : List (Option Task) :=
  g.tasks.map fun n => (s.outs.find? fun o => o.task.tid == n).map OutTask.task
/-- The state that follows the window. -/
def stateArea (cl : Cluster) (g : Group) (slots : List (List Byte)) : List Byte :=
  ((List.range 64).map fun b => BitVec.ofNat 8 (if g.banks.contains b then bankMode cl b else 0)) ++
    ((List.range (g.slsize / 1024)).map fun k => bitByte ((List.range 8).map fun i => lineFull cl (g.slbase / 128 + 8 * k + i))) ++
    ((List.range g.ncb).flatMap fun i => bytesOf 16 (bellBits (tabGet Bell.empty cl.bells (g.cbell + i)))) ++
    slots.flatten ++ (fifoBanks cl g).flatMap fun b => fifoHead (tabGet ⟨[], []⟩ cl.fifo b)
/-- The window's bytes. -/
def windowBytes (cl : Cluster) (g : Group) : List Byte :=
  memRead ((fifoBanks cl g).foldl (fun m b => memWrite m (0x20000 * b) (bytesAt 0 0x20000 (fifoBytes (tabGet ⟨[], []⟩ cl.fifo b))))
    cl.slate) g.slbase g.slsize
/-- The 128-byte pieces of the window that are poisoned, as offsets. -/
def windowPoison (cl : Cluster) (g : Group) : List Nat :=
  (cl.poison.filter g.lines.contains).map (fun l => 128 * l - g.slbase) ++
    (fifoBanks cl g).flatMap fun b =>
      ((fifoPoison (tabGet ⟨[], []⟩ cl.fifo b)).zipIdx.filter Prod.fst).flatMap fun x =>
        [0x20000 * b + 256 * x.2 - g.slbase, 0x20000 * b + 256 * x.2 + 128 - g.slbase]
/-- The image of a group's part of a cluster, whose undefined lines have been given their bytes. -/
def groupImage (cl : Cluster) (g : Group) (slots : List (List Byte)) : List Byte :=
  windowBytes cl g ++ stateArea cl g slots
/-- The image written at a place of the pool, with the poison of its window (R357). -/
def putImage (s : State) (cl : Cluster) (g : Group) (spot : Nat) (slots : List (List Byte)) : State :=
  let bad := (windowPoison cl g).flatMap fun o => linesOf (spot + o) 128
  partWriteMarked s g.job spot (groupImage cl g slots) bad.contains

-- What is read back.

/-- A bell from its 96 bits (R42). -/
def bellFrom (n : Nat) (holder : BitVec 32 × Option Nat × Option Nat) : Bell :=
  { Bell.empty with
    pending := toSigned 40 n, overrun := n / 2 ^ 40 % 2 == 1, count := BitVec.ofNat 16 (n / 2 ^ 48),
    target := BitVec.ofNat 16 (n / 2 ^ 64), phase := BitVec.ofNat 16 (n / 2 ^ 80), holder := some holder }
/-- The stream whose head stands at an address and whose bytes stand at another, and the address after the head. -/
def readFifo (s : State) (head data : Nat) : Fifo × Nat :=
  let n := memNum s.dram head 2
  let m := memNum s.dram (head + 2) 2
  let msgs := ((List.range m).foldl (fun (x : List ChMsg × Nat) i =>
    let h := memRead s.dram (head + 4 + 16 * i) 16
    let len := numAt 4 4 h
    let k := msgEntries len
    let c : ChMsg := { chan := numAt 0 2 h, src := numAt 2 2 h, bytes := memRead s.dram (data + 256 * x.2) len,
                       status := BitVec.ofNat 32 (numAt 8 4 h), cred := numAt 12 4 h,
                       poison := dramPoisoned s (data + 256 * x.2) (256 * k) }
    (x.1 ++ [c], x.2 + k)) ([], n)).1
  ({ rows := (List.range n).map fun k => ⟨0, memRead s.dram (data + 256 * k) 256, dramPoisoned s (data + 256 * k) 256⟩, msgs := msgs },
    head + 4 + 16 * m)
/-- The group's part of a cluster as its image holds it. -/
def displacedCl (s : State) (g : Group) (spot : Nat) : Cluster :=
  let area := spot + g.slsize
  let bells := area + 64 + g.slsize / 1024
  let modes := (g.banks.map fun b => (b, (memGet s.dram (area + b)).toNat)).filter fun x => x.2 != 0
  let fifos := ((modes.filter fun x => x.2 == 1).foldl (fun (x : Tab Fifo × Nat) b =>
    let f := readFifo s x.2 (spot + (0x20000 * b.1 - g.slbase))
    (tabPut x.1 b.1 f.1, f.2)) ([], bells + 16 * g.ncb + 64 * g.tasks.length)).1
  { Cluster.empty with
    slate := memWrite [] g.slbase (memRead s.dram spot g.slsize),
    lineEmpty := g.lines.zipIdx.filterMap fun x =>
      if bitAt (x.2 % 8) (memGet s.dram (area + 64 + x.2 / 8)) then none else some x.1,
    poison := g.lines.filter fun l => dramPoisoned s (spot + (128 * l - g.slbase)) 128 && !(modes.any fun m => m.2 == 1 && m.1 == bankOf (128 * l)),
    mode := modes, fifo := fifos,
    bells := (List.range g.ncb).map fun i => (g.cbell + i, bellFrom (memNum s.dram (bells + 16 * i) 16) (g.job, none, some g.launch)) }
/-- The address of slot n of the task at a place in its group, if it is bound. -/
def imageSlot (s : State) (g : Group) (spot task n : Nat) : Option Nat :=
  let w : Word := BitVec.ofNat 64 (memNum s.dram (spot + g.slsize + 64 + g.slsize / 1024 + 16 * g.ncb + 64 * task + 8 * n) 8)
  if bitAt 63 w then some (fldN 0 52 w) else none
/-- Has the image still to be written, in part? -/
def imageBusy (s : State) (a : Away) : Bool :=
  s.wbs.any fun w => w.pkg == s.pkg && decide (a.spot < w.pa + 128) && decide (w.pa < a.spot + a.len)
/-- The package's memory with the writes queued for it performed: what an image holds, though a part of it has still to be written. -/
def State.settled (s : State) : State :=
  (s.wbs.filter fun w => w.pkg == s.pkg && !w.bit).foldl (fun s w =>
    let s := { s with dram := (maskRuns (fun k => bitAt k w.mask) 0 w.bytes).foldl (fun m (r : Nat × List Byte) => memWrite m (w.pa + r.1) r.2) s.dram }
    { s with dramPoison := if w.poison then setAdd s.dramPoison (w.pa / 128) else s.dramPoison }) s
/-- Lines of the image made full, with undefined contents (R267): its slot addresses stay. -/
def undefImage (s : State) (g : Group) (a : Away) (stamp : Nat) (rs : List Range) : State :=
  let lines := rs.flatMap fun r => linesOf r.addr r.len
  let old := s.settled
  let cl := lines.foldl (fun cl l => slSettle (setUndef stamp (setFull cl l) l) l) (displacedCl old g a.spot)
  let slots := (List.range g.tasks.length).map fun t =>
    (List.range 8).flatMap fun n => bytesOf 8 (match imageSlot old g a.spot t n with | some va => va + 2 ^ 63 | none => 0)
  putImage s cl g a.spot slots

end Sys2Proof.Machine
end

