-- ==== Sys2Proof/Machine/Flags.lean ====
section
/-!
DEFINITION. FLAGS (R32) and the landing of results (R72, R73, R357): raising and writing flags, issuing a result, and
what lands by a cycle.
-/
namespace Sys2Proof.Machine

/-- Flags are sticky (R32). -/
def Task.raise (cycle : Nat) (f : Flags) (t : Task) : Task :=
  if f = 0 then t
  else { t with
    flags := t.flags ||| f,
    landed := if t.landedAt = cycle then t.landed ||| f else f,
    landedAt := cycle }

/-- A CWR to FLAGS (R32): the value given, and the flags that land in this cycle, which are applied after it. -/
def Task.writeFlags (cycle : Nat) (v : Flags) (t : Task) : Task :=
  { t with flags := if t.landedAt = cycle then v ||| t.landed else v }

-- Issuing a result.

/-- The constant registers take no write (R18). -/
def Dest.keep : Dest → Option Dest
  | .s 0 => none
  | .c 0 => none
  | .k 0 => none
  | d => some d

/-- An earlier result for the same register no longer writes it; its flags still land (R72). -/
def supersede (d : Option Dest) (q : Pending) : Pending :=
  if q.dest = d then { q with dest := none } else q

/-- A result is issued. -/
def Task.write (p : Pending) (t : Task) : Task :=
  let p := { p with dest := p.dest.bind Dest.keep }
  { t with inflight := t.inflight.map (supersede p.dest) ++ [p] }

/-- A bounded result of the acting task: it has landed after `bound` cycles (R71, R72). -/
def State.result (s : State) (d : Dest) (v : RVal) (f : Flags) (bound : Nat) : State :=
  s.setMe (s.me.write
    { dest := some d, val := v, flags := f, due := s.cycle + bound, sb := false, early := 0, poison := false })
/-- A scoreboarded result (R73). -/
def State.scored (s : State) (d : Dest) (v : RVal) (bound early : Nat) : State :=
  s.setMe (s.me.write
    { dest := some d, val := v, flags := 0, due := s.cycle + bound, sb := true, early := early, poison := false })
/-- Flags without a destination (R173). -/
def State.flagsOnly (s : State) (f : Flags) (bound : Nat) : State :=
  s.setMe (s.me.write
    { dest := none, val := .word 0, flags := f, due := s.cycle + bound, sb := false, early := 0, poison := false })

/-- Bounds of R71 and R173. -/
def bALU : Nat := 2
def bMUL : Nat := 4
def bElem : Nat := 8
def bRow : Nat := 12
def bCol : Nat := 24
def bFn : Nat := 16
def bRecon : Nat := 10

/-- A scalar, a condition, a mask, a tile as results of the acting task. -/
def State.outS (s : State) (d : BitVec 6) (w : Word) (bound : Nat) : State := s.result (.s d.toNat) (.word w) 0 bound
def State.outSF (s : State) (d : BitVec 6) (w : Word) (f : Flags) (bound : Nat) : State :=
  s.result (.s d.toNat) (.word w) f bound
def State.outC (s : State) (d : BitVec 3) (b : Bool) (f : Flags) (bound : Nat) : State :=
  s.result (.c d.toNat) (.bit b) f bound
def State.outK (s : State) (d : BitVec 3) (m : BitVec 1024) (f : Flags) (bound : Nat) : State :=
  s.result (.k d.toNat) (.mask m) f bound
def State.outV (s : State) (d : BitVec 5) (t : Tile) (f : Flags) (bound : Nat) : State :=
  s.result (.v d.toNat) (.tile t) f bound

-- Landing.

/-- A register takes its result; the poison mark of the whole register is cleared or set (R357). -/
def Task.setDest (d : Dest) (v : RVal) (poison : Bool) (t : Task) : Task :=
  match d, v with
  | .s n, .word w =>
    { t with s := vput t.s n w, poisonS := if poison then setAdd t.poisonS n else setDel t.poisonS n }
  | .c n, .bit b => { t with c := vput t.c n b, poisonC := setDel t.poisonC n }
  | .k n, .mask m => { t with k := vput t.k n m, poisonK := setDel t.poisonK n }
  | .v n, .tile x =>
    { t with v := vput t.v n x, undefV := setDel t.undefV n,
             poisonV := if poison then setAdd t.poisonV n else setDel t.poisonV n }
  | _, _ => t

/-- One result lands. -/
def Task.land (cycle : Nat) (t : Task) (p : Pending) : Task :=
  match p.val with
  | .readFlags clear =>
    let f := t.flags
    let t := match p.dest with | some d => t.setDest d (.word (f.zeroExtend 64)) false | none => t
    { t with flags := t.flags &&& ~~~ clear, landed := t.landed &&& ~~~ clear }
  | v =>
    let t := match p.dest with | some d => t.setDest d v p.poison | none => t
    t.raise cycle p.flags

/-- Does a result land by a cycle? A record lands when it has been read (R199). -/
def Pending.lands (cycle : Nat) (p : Pending) : Bool :=
  decide (p.due ≤ cycle) && (match p.val with | .record _ _ _ _ => false | _ => true)
def Pending.isRead (p : Pending) : Bool := match p.val with | .readFlags _ => true | _ => false

/-- Everything that lands by a cycle: VFLAGS after the flags of the cycle (R204). -/
def Task.landDue (cycle : Nat) (t : Task) : Task :=
  let hit := t.inflight.filter (Pending.lands cycle)
  if hit.isEmpty then t
  else
    let t' := { t with inflight := t.inflight.filter fun p => !(p.lands cycle) }
    (hit.filter Pending.isRead).foldl (Task.land cycle) ((hit.filter fun p => !p.isRead).foldl (Task.land cycle) t')

/-- Result number idx lands now, all of it or (a bounded result before its bound, R72) its flags only; VFLAGS reads after the
flags of its cycle (R204), so not here. -/
def Task.landOne (cycle idx : Nat) (t : Task) : Task :=
  match t.inflight[idx]? with
  | none => t
  | some p =>
    if p.isRead then t
    else if p.lands cycle then ({ t with inflight := t.inflight.eraseIdx idx } : Task).land cycle p
    else if p.sb then t
    else ({ t with inflight := t.inflight.set idx ({ p with flags := 0 } : Pending) } : Task).raise cycle p.flags

/-- A scoreboarded result number idx completes: at its cycle, or earlier where it completes within a bound; divisions
in order (R131, R203). -/
def Task.completeOne (cycle idx : Nat) (t : Task) : Task :=
  match t.inflight[idx]? with
  | none => t
  | some p =>
    let ready := p.lands cycle || (p.early == 1) ||
      (p.early == 2 && !((t.inflight.take idx).any fun q => q.early == 2))
    if p.sb && !p.isRead && ready then ({ t with inflight := t.inflight.eraseIdx idx } : Task).land cycle p else t

/-- Every result of a task lands, whatever its bound (R50). -/
def Task.landAll (cycle : Nat) (t : Task) : Task :=
  ({ t with inflight := t.inflight.map fun (p : Pending) => { p with due := min p.due cycle } } : Task).landDue cycle

end Sys2Proof.Machine
end

