-- ==== Sys2Proof/Machine/Plan.lean ====
section
/-!
DEFINITION. What a copy command reads and writes (R236 to R242, R244, R246 to R248, R253, R254, R262, R263): its fields,
its units, the source and destination ranges of each unit, the transforms, and tensor resolution (R307 to R312).
-/
namespace Sys2Proof.Machine

-- The fields of a C slot (R86, R234).

/-- The staging group, ordering class, transform and MOD of a command. -/
def cmdGroup : Instr → Option Nat
  | .cpy _ g _ _ _ => some g.toNat
  | .cpys _ g _ _ _ => some g.toNat
  | .tbind _ g _ _ => some g.toNat
  | .tcpy _ g _ _ _ _ => some g.toNat
  | .gath _ g _ _ => some g.toNat
  | .scat _ g _ _ => some g.toNat
  | .ramo _ g _ _ _ => some g.toNat
  | .pfch _ g _ _ => some g.toNat
  | .migr _ g _ => some g.toNat
  | .chsnd _ g _ => some g.toNat
  | .chrcv _ g _ => some g.toNat
  | .coll _ g _ _ _ _ => some g.toNat
  | .rshd _ g _ _ => some g.toNat
  | .ckcut _ g _ => some g.toNat
  | .qpush _ g _ _ => some g.toNat
  | .sete _ g _ => some g.toNat
  | .bmode _ g _ _ => some g.toNat
  | _ => none
def cmdCls : Instr → Nat
  | .cpy _ _ c _ _ => c.toNat
  | .cpys _ _ c _ _ => c.toNat
  | .tbind _ _ c _ => c.toNat
  | .tcpy _ _ c _ _ _ => c.toNat
  | .gath _ _ c _ => c.toNat
  | .scat _ _ c _ => c.toNat
  | .ramo _ _ c _ _ => c.toNat
  | .pfch _ _ c _ => c.toNat
  | .migr _ _ c => c.toNat
  | .chsnd _ _ c => c.toNat
  | .chrcv _ _ c => c.toNat
  | .coll _ _ c _ _ _ => c.toNat
  | .rshd _ _ c _ => c.toNat
  | .ckcut _ _ c => c.toNat
  | .qpush _ _ c _ => c.toNat
  | .sete _ _ c => c.toNat
  | .bmode _ _ c _ => c.toNat
  | _ => 0
def cmdXf : Instr → Nat
  | .cpy _ _ _ x _ => x.toNat
  | .cpys _ _ _ x _ => x.toNat
  | .tcpy _ _ _ x _ _ => x.toNat
  | .gath _ _ _ x => x.toNat
  | .scat _ _ _ x => x.toNat
  | _ => 0
def cmdMd : Instr → BitVec 9
  | .cpy _ _ _ _ m => m
  | .cpys _ _ _ _ m => m
  | _ => 0
/-- DIR: 1 out of Slate (of the issuing group). -/
def cmdDir : Instr → Bool
  | .cpy _ _ _ _ m => bitAt 0 m
  | .cpys _ _ _ _ m => bitAt 0 m
  | .tcpy _ _ _ _ _ d => d
  | .scat _ _ _ _ => true
  | _ => false
/-- The opcode of R87, for records (R356). -/
def cmdOpcode : Instr → Nat
  | .cpy _ _ _ _ _ => 1
  | .cpys _ _ _ _ _ => 2
  | .tbind _ _ _ _ => 3
  | .tcpy _ _ _ _ _ _ => 4
  | .gath _ _ _ _ => 5
  | .scat _ _ _ _ => 6
  | .ramo _ _ _ _ _ => 7
  | .pfch _ _ _ _ => 8
  | .migr _ _ _ => 9
  | .chsnd _ _ _ => 0x0D
  | .chrcv _ _ _ => 0x0E
  | .coll _ _ _ _ _ _ => 0x0F
  | .rshd _ _ _ _ => 0x10
  | .ckcut _ _ _ => 0x11
  | .qpush _ _ _ _ => 0x12
  | .sete _ _ _ => 0x13
  | .bmode _ _ _ _ => 0x14
  | _ => 0

/-- The captured staging words (R235). -/
def Cmd.word (c : Cmd) (k : Nat) : Word := vget c.w k 0
def Cmd.bv (c : Cmd) : Bool := bitAt 63 (c.word 3)
def Cmd.ca (c : Cmd) : Bool := bitAt 62 (c.word 3)
def Cmd.cscope (c : Cmd) : BitVec 2 := fld 60 2 (c.word 3)
def Cmd.bell (c : Cmd) : BitVec 16 := fld 40 16 (c.word 3)
def Cmd.va (c : Cmd) : Nat := fldN 0 52 (c.word 0)
def Cmd.saddr (c : Cmd) : Nat := fldN 0 23 (c.word 1)
def Cmd.spitch (c : Cmd) : Nat := fldN 40 24 (c.word 1)
def Cmd.gpitch (c : Cmd) : Nat := fldN 24 40 (c.word 2)
def Cmd.rowbytes (c : Cmd) : Nat := fldN 0 24 (c.word 2)
/-- ROWBYTES of GATH and SCAT (R247). -/
def Cmd.grows (c : Cmd) : Nat := fldN 0 24 (c.word 3)
def Cmd.rows (c : Cmd) : Nat := fldN 0 16 (c.word 3) + 1
def Cmd.sca (c : Cmd) : Nat := fldN 23 23 (c.word 1)
def Cmd.trows (c : Cmd) : Nat := fldN 12 12 (c.word 2)
def Cmd.tcols (c : Cmd) : Nat := fldN 0 12 (c.word 2)
def Cmd.md (c : Cmd) : BitVec 9 := cmdMd c.i
def Cmd.xf (c : Cmd) : Nat := cmdXf c.i
/-- ESIZE and EF of the transform options (R239), in bytes. -/
def Cmd.esize (c : Cmd) : Nat := 2 ^ fldN 1 2 c.md
def Cmd.ef (c : Cmd) : Nat := fldN 1 2 c.md
/-- FP32 columns of a unit of transforms 5 and 6. -/
def Cmd.unitCols (c : Cmd) : Nat := match c.ef with | 0 => 64 | 1 => 128 | _ => 256

/-- A run of bytes: in the Slate of a cluster, or (none) at a global virtual address. -/
structure Ext where
  slate : Option Nat
  addr : Nat
  len : Nat
  deriving DecidableEq, Repr

-- Tensor descriptors and resolution (R307 to R312).

structure Axis where
  dim : Nat
  ceil : Bool
  hi : Nat
  lo : Nat
  size : Nat
  deriving DecidableEq, Repr
def mapAxis (m : BitVec 128) (a : Nat) : Axis :=
  { dim := fldN (20 * a + 17) 3 m, ceil := bitAt (20 * a + 16) m, hi := fldN (20 * a + 8) 8 m, lo := fldN (20 * a) 8 m,
    size := fldN (80 + 6 * a) 6 m + 1 }
def mapPad (m : BitVec 128) (d : Nat) : Nat := fldN (104 + 2 * d) 2 m
def mapAxes (m : BitVec 128) : List Axis := (List.range 4).map (mapAxis m)

def descBase (d : List Byte) : Nat := numAt 0 8 d % 2 ^ 52
def descStride (d : List Byte) : Nat := numAt 8 8 d
def descMap (d : List Byte) : BitVec 128 := BitVec.ofNat 128 (numAt 16 16 d)
def descExtent (d : List Byte) (k : Nat) : Nat := numAt (0x20 + 4 * k) 4 d
def descRank (d : List Byte) : Nat := numAt 0x38 1 d
def descEfmt (d : List Byte) : Nat := numAt 0x39 1 d
def descBusy (d : List Byte) : Bool := numAt 0x3A 1 d % 2 == 1
def efmtSize (e : Nat) : Nat := match e with | 0 => 4 | 1 => 2 | 2 => 2 | 5 => 4 | _ => 1

/-- MESHPOS (R30): size and coordinate of an axis. -/
def meshSize (mp : Word) (a : Nat) : Nat := fldN (32 + 8 * a) 8 mp
def meshCoord (mp : Word) (a : Nat) : Nat := fldN (6 * a) 6 mp
/-- A coordinate of rank q (R312). -/
def rankCoord (m : BitVec 128) (q a : Nat) : Nat :=
  q / ((List.range a).foldl (fun p b => p * (mapAxis m b).size) 1) % (mapAxis m a).size

/-- Start and size of shard k of an extent n along an axis (R311). -/
def shardStart (x : Axis) (n k : Nat) : Nat :=
  if x.ceil then k * ceilDiv n x.size else k * (n / x.size) + min k (n % x.size)
def shardSize (x : Axis) (n k : Nat) : Nat :=
  if x.ceil then min (n - k * ceilDiv n x.size) (ceilDiv n x.size)
  else n / x.size + (if k < n % x.size then 1 else 0)
/-- The owner of an index (R311). -/
def shardOwner (x : Axis) (n i : Nat) : Nat :=
  ((List.range x.size).find? fun k => decide (shardStart x n k ≤ i) && decide (i < shardStart x n k + shardSize x n k)).getD 0
/-- The axis that splits a dimension. -/
def axisOf (m : BitVec 128) (d : Nat) : Option Nat := (List.range 4).find? fun a => (mapAxis m a).dim == d
/-- The local extent of dimension d in the shard with coordinates c (R311). -/
def localExt (d : List Byte) (m : BitVec 128) (c : Nat → Nat) (k : Nat) : Nat :=
  match axisOf m k with
  | some a => let x := mapAxis m a; shardSize x (descExtent d k) (c a) + x.lo + x.hi
  | none => descExtent d k
/-- Elements of a shard. -/
def shardElems (d : List Byte) (m : BitVec 128) (c : Nat → Nat) : Nat :=
  (List.range (descRank d)).foldl (fun p k => p * localExt d m c k) 1

/-- A descriptor's own fields (R307). -/
def descOk (d : List Byte) : Bool :=
  numAt 0 8 d / 2 ^ 52 == 0 && descStride d % 65536 == 0 && decide (1 ≤ descRank d) && decide (descRank d ≤ 6) &&
    decide (descEfmt d ≤ 5) && numAt 0x3A 2 d / 2 == 0 && numAt 0x3C 4 d == 0 &&
    (List.range 6).all fun k => if k < descRank d then descExtent d k != 0 else descExtent d k == 0
/-- A map valid for a descriptor (R310). -/
def mapOk (d : List Byte) (m : BitVec 128) (mp : Word) : Bool :=
  let axes := mapAxes m
  fldN 116 12 m == 0 &&
    ((List.range 4).all fun a => (mapAxis m a).size == meshSize mp a) &&
    ((List.range 6).all fun k => decide ((axes.filter fun x => x.dim == k).length ≤ 1)) &&
    (axes.all fun x => if x.dim ≤ 5 then decide (x.dim < descRank d) else !x.ceil && x.lo == 0 && x.hi == 0) &&
    ((List.range 6).all fun k => mapPad m k != 3) &&
    axes.all fun x => if x.dim ≤ 5 then
        (List.range x.size).all fun k =>
          let z := shardSize x (descExtent d x.dim) k
          decide (x.lo ≤ z) && decide (x.hi ≤ z)
      else true
/-- R308: valid, and the largest shard fits in WSTRIDE. -/
def descValid (d : List Byte) (m : BitVec 128) (mp : Word) : Bool :=
  descOk d && mapOk d m mp &&
    decide (shardElems d m (fun _ => 0) * efmtSize (descEfmt d) ≤ descStride d)

/-- What an element of a TCPY resolves to (R312). -/
inductive Where where
  | at (rank : Nat) (offset : Nat)   -- byte offset in the shard of a rank
  | zero
  | discard
  | error
  deriving DecidableEq, Repr

/-- The loop over out-of-range dimensions of R312. -/
def clampIdx (d : List Byte) (m : BitVec 128) (write : Bool) : List Nat → (Nat → Int) → Except Where (Nat → Nat)
  | [], i => .ok fun k => (i k).toNat
  | k :: r, i =>
    let n := descExtent d k
    if i k < 0 ∨ (n : Int) ≤ i k then
      if write then .error .discard
      else if mapPad m k = 0 then .error .zero
      else if mapPad m k = 2 then .error .error
      else clampIdx d m write r fun j => if j = k then (if i k < 0 then 0 else (n : Int) - 1) else i j
    else clampIdx d m write r i

/-- The coordinates of the shard that holds an index (R312). -/
def ownerCoord (d : List Byte) (m : BitVec 128) (mp : Word) (write : Bool) (i : Nat → Nat) (a : Nat) : Nat :=
  let x := mapAxis m a
  let self := meshCoord mp a
  if x.dim ≤ 5 then
    let n := descExtent d x.dim
    let lo := shardStart x n self
    if !write && decide (lo ≤ i x.dim + x.lo) && decide (i x.dim < lo + shardSize x n self + x.hi) then self
    else shardOwner x n (i x.dim)
  else self

/-- Rank of coordinates, and the element offset of an index in their shard (R312). -/
def rankOf (m : BitVec 128) (c : Nat → Nat) : Nat :=
  c 0 + (mapAxis m 0).size * (c 1 + (mapAxis m 1).size * (c 2 + (mapAxis m 2).size * c 3))
def elemOffset (d : List Byte) (m : BitVec 128) (c i : Nat → Nat) : Nat :=
  ((List.range (descRank d)).foldl (fun (x : Nat × Nat) k =>
    let off := match axisOf m k with
      | some a => let ax := mapAxis m a; i k + ax.lo - shardStart ax (descExtent d k) (c a)
      | none => i k
    (x.1 + off * x.2, x.2 * localExt d m c k)) (0, 1)).1

/-- resolve of R312, under a map. -/
def resolve (d : List Byte) (m : BitVec 128) (mp : Word) (write : Bool) (i : Nat → Int) : Where :=
  match clampIdx d m write (List.range (descRank d)) i with
  | .error w => w
  | .ok i =>
    let c := ownerCoord d m mp write i
    .at (rankOf m c) (efmtSize (descEfmt d) * elemOffset d m c i)

-- TCPY (R246).

def Cmd.e1 (c : Cmd) : Nat := fldN 16 16 (c.word 3)
def Cmd.e0 (c : Cmd) : Nat := fldN 0 16 (c.word 3)
/-- The index of element (r, k) of the tile. -/
def Cmd.index (c : Cmd) (r k : Nat) (d : Nat) : Int :=
  match d with
  | 0 => toSigned 32 (fldN 0 32 (c.word 0)) + (k : Int)
  | 1 => toSigned 32 (fldN 32 32 (c.word 0)) + (r : Int)
  | n + 2 => (fldN (16 * n) 16 (c.word 1) : Nat)
def Cmd.descr (c : Cmd) : List Byte := c.desc.getD []
/-- Bytes of an element on the Slate side: BF16 under transform 2. -/
def Cmd.slateElem (c : Cmd) : Nat := if c.xf = 2 then 2 else efmtSize (descEfmt c.descr)
def Cmd.elemWhere (c : Cmd) (mp : Word) (u : Nat) : Where :=
  resolve c.descr (descMap c.descr) mp (cmdDir c.i) (c.index (u / c.e0) (u % c.e0))

-- Units.

/-- The number of units of a command that moves data (R236 to R241, R246, R247). -/
def Cmd.units (c : Cmd) : Nat :=
  match c.i with
  | .cpy _ _ _ x _ =>
    if x.toNat ≤ 2 then
      if c.rowbytes = 0 then 0
      else if x = 1 then c.rows / 16 * (c.rowbytes / (64 * c.esize)) else c.rows
    else c.trows * c.tcols
  | .cpys _ _ _ x _ =>
    if c.rowbytes = 0 then 0
    else if x = 1 then c.rows / 16 * (c.rowbytes / (64 * c.esize)) else c.rows
  | .tcpy _ _ _ _ _ _ => c.e0 * c.e1
  | .gath _ _ _ _ => fldN 24 16 (c.word 3)
  | .scat _ _ _ _ => fldN 24 16 (c.word 3)
  | _ => 0

/-- The two sides of a row-shaped copy: (space, base, pitch) of the local Slate side and of the other side. For CPYS the
other side is the remote window: its cluster and SLBASE. -/
def Cmd.localSide (c : Cmd) : Option Nat × Nat × Nat := (some c.cluster, c.saddr, c.spitch)
def Cmd.otherSide (c : Cmd) (remote : Nat × Nat) : Option Nat × Nat × Nat :=
  match c.i with
  | .cpys _ _ _ _ _ => (some remote.1, remote.2 + fldN 0 23 (c.word 0), c.gpitch)
  | _ => (none, c.va, c.gpitch)
def Cmd.srcSide (c : Cmd) (remote : Nat × Nat) : Option Nat × Nat × Nat :=
  if cmdDir c.i then c.localSide else c.otherSide remote
def Cmd.dstSide (c : Cmd) (remote : Nat × Nat) : Option Nat × Nat × Nat :=
  if cmdDir c.i then c.otherSide remote else c.localSide

/-- Unit u of transform 1 is block (r, k): 16 rows by 64 elements. -/
def Cmd.xblocks (c : Cmd) : Nat := c.rowbytes / (64 * c.esize)

/-- The FP32 side of the tile layout (R237): h rows of 4 w bytes of unit u. -/
def Cmd.fp32Ext (c : Cmd) (glob : Bool) (u h w : Nat) : List Ext :=
  if glob then
    (List.range h).map fun i => ⟨none, c.va + (h * (u / c.tcols) + i) * c.gpitch + 4 * w * (u % c.tcols), 4 * w⟩
  else [⟨some c.cluster, c.saddr + u * (h * 4 * w), h * 4 * w⟩]

/-- The other side of transforms 3 to 7 for unit u of n, before LENGTH is known (slots taken whole). -/
def Cmd.slotExt (c : Cmd) (glob : Bool) (u n : Nat) : List Ext :=
  match c.xf with
  | 3 | 4 =>
    if glob then [⟨none, c.va + 4352 * u, if c.xf = 3 then 4352 else 4232⟩]
    else [⟨some c.cluster, c.saddr + 4096 * u, 4096⟩, ⟨some c.cluster, c.sca + 136 * u, 136⟩]
  | 7 =>
    if glob then
      [⟨none, c.va + 69632 * u, 69632⟩, ⟨none, c.va + 69632 * n + 68096 * u, 68096⟩]
    else
      [⟨some c.cluster, c.saddr + 65536 * u, 65536⟩, ⟨some c.cluster, c.saddr + 65536 * n + 65536 * u, 65536⟩,
       ⟨some c.cluster, c.sca + 2176 * u, 2176⟩, ⟨some c.cluster, c.sca + 2176 * n + 2080 * u, 2080⟩]
  | _ => [⟨if glob then none else some c.cluster, (if glob then c.va else c.saddr) + 4352 * u, 4352⟩]

/-- Is the FP32 side of a tile-layout transform its source (R239)? -/
def fp32Source (xf : Nat) : Bool := xf != 4 && xf != 6

/-- The address of an element of a TCPY in the tensor. -/
def Cmd.elemAddr (c : Cmd) (mp : Word) (u : Nat) : Option Nat :=
  match c.elemWhere mp u with
  | .at q off => some (descBase c.descr + q * descStride c.descr + off)
  | _ => none
def Cmd.slateElemAddr (c : Cmd) (u : Nat) : Nat :=
  fldN 0 23 (c.word 2) + u / c.e0 * fldN 23 24 (c.word 2) + u % c.e0 * c.slateElem

/-- The entry of an index list (R247); the skip value gives none. -/
def Cmd.gatherIdx (c : Cmd) (u : Nat) : Option Nat :=
  match c.idx.getD u 0xFFFFFFFF with
  | 0xFFFFFFFF => none
  | x => some x

/-- Source ranges of unit u; `got` holds what has been read of it (a thatch record's length stands in its header). -/
def Cmd.unitSrc (c : Cmd) (mp : Word) (remote : Nat × Nat) (u : Nat) (got : List Byte) : List Ext :=
  match c.i with
  | .tcpy _ _ _ _ _ dir =>
    if dir then
      match c.elemAddr mp u with
      | some _ => [⟨some c.cluster, c.slateElemAddr u, c.slateElem⟩]
      | none => []
    else
      match c.elemAddr mp u with
      | some a => [⟨none, a, efmtSize (descEfmt c.descr)⟩]
      | none => []
  | .gath _ _ _ _ =>
    match c.gatherIdx u with
    | some x => [⟨none, c.va + x * c.gpitch, c.grows⟩]
    | none => []
  | .scat _ _ _ _ =>
    match c.gatherIdx u with
    | some _ => [⟨some c.cluster, c.saddr + u * c.spitch, c.grows⟩]
    | none => []
  | _ =>
    let side := c.srcSide remote
    match c.xf with
    | 0 | 2 => [⟨side.1, side.2.1 + u * side.2.2, c.rowbytes⟩]
    | 1 =>
      (List.range 16).map fun i =>
        ⟨side.1, side.2.1 + (16 * (u / c.xblocks) + i) * side.2.2 + 64 * c.esize * (u % c.xblocks), 64 * c.esize⟩
    | 6 =>
      let e := ⟨side.1, side.2.1 + 4352 * u, if got.length < 128 then 128 else recLen got⟩
      [e]
    | 4 => c.slotExt (!(cmdDir c.i)) u c.units
    | 3 => c.fp32Ext (!(cmdDir c.i)) u 16 256
    | 5 => c.fp32Ext (!(cmdDir c.i)) u 16 c.unitCols
    | _ => c.fp32Ext (!(cmdDir c.i)) u 256 256

/-- Destination ranges of unit u; a thatch slot is taken whole until the record's length n is known. -/
def Cmd.unitDst (c : Cmd) (mp : Word) (remote : Nat × Nat) (u : Nat) (n : Option Nat) : List Ext :=
  match c.i with
  | .tcpy _ _ _ _ _ dir =>
    if dir then
      match c.elemAddr mp u with
      | some a => [⟨none, a, efmtSize (descEfmt c.descr)⟩]
      | none => []
    else [⟨some c.cluster, c.slateElemAddr u, c.slateElem⟩]
  | .gath _ _ _ x =>
    match c.gatherIdx u with
    | some _ => [⟨some c.cluster, c.saddr + u * c.spitch, if x = 2 then c.grows / 2 else c.grows⟩]
    | none => []
  | .scat _ _ _ x =>
    match c.gatherIdx u with
    | some k => [⟨none, c.va + k * c.gpitch, if x = 2 then c.grows / 2 else c.grows⟩]
    | none => []
  | _ =>
    let side := c.dstSide remote
    match c.xf with
    | 0 => [⟨side.1, side.2.1 + u * side.2.2, c.rowbytes⟩]
    | 2 => [⟨side.1, side.2.1 + u * side.2.2, c.rowbytes / 2⟩]
    | 1 =>
      (List.range 64).map fun k =>
        ⟨side.1, side.2.1 + (64 * (u % c.xblocks) + k) * side.2.2 + 16 * c.esize * (u / c.xblocks), 16 * c.esize⟩
    | 4 => c.fp32Ext (cmdDir c.i) u 16 256
    | 6 => c.fp32Ext (cmdDir c.i) u 16 c.unitCols
    | 5 => [⟨side.1, side.2.1 + 4352 * u, n.getD 4352⟩]
    | _ => c.slotExt (cmdDir c.i) u c.units

-- The transforms on one unit (R241): bytes read to bytes written.

/-- FP32 values of bytes. -/
def words32 : Nat → List Byte → List Nat
  | 0, _ => []
  | n + 1, l => numAt 0 4 l :: words32 n (l.drop 4)
def fromWords32 (l : List Nat) : List Byte := l.flatMap (bytesOf 4)

/-- Transform 2: FP32 to BF16. -/
def xfBf16 (l : List Byte) : List Byte := (words32 (l.length / 4) l).flatMap fun x => bytesOf 2 (cvtFmt fp32 bf16 0 x).1

/-- Transform 1: a 16 x 64 block of elements of es bytes, transposed. -/
def xfTranspose (es : Nat) (l : List Byte) : List Byte :=
  (List.range 64).flatMap fun k => (List.range 16).flatMap fun i => bytesAt ((64 * i + k) * es) es l

/-- A row of 128 n values quantised by blocks of 128: FP8 bytes and scales. -/
def quantRow : Nat → List Nat → List Byte × List (BitVec 32)
  | 0, _ => ([], [])
  | n + 1, xs =>
    let q := quantiseBlock 0 (xs.take 128)
    let r := quantRow n (xs.drop 128)
    (q.1.map (fun x => BitVec.ofNat 8 x.1) ++ r.1, q.2 :: r.2)
/-- Rows of w values from a unit's bytes. -/
def unitRows (h w : Nat) (l : List Byte) : List (List Nat) :=
  (List.range h).map fun i => words32 w (l.drop (4 * w * i))

/-- An A tile of 16 rows and its A image (R209), from 16 rows of 256 values. -/
def quantTile (rows : List (List Nat)) : List Byte × List Byte :=
  let q := rows.map (quantRow 2)
  (q.flatMap Prod.fst, bytesOf 8 1 ++ q.flatMap fun x => x.2.flatMap fun s => bytesOf 4 s.toNat)

/-- Transform 3. -/
def xfQuant (glob : Bool) (l : List Byte) : List Byte :=
  let q := quantTile (unitRows 16 256 l)
  q.1 ++ q.2 ++ (if glob then List.replicate 120 0 else [])

/-- Transform 4: none when the image's geometry word is not row-blocked. -/
def xfDequant (l : List Byte) : Option (List Byte) :=
  if numAt 4096 8 l != 1 then none
  else
    some ((List.range 16).flatMap fun i => (List.range 256).flatMap fun j =>
      bytesOf 4 (decode8 0 (numAt (256 * i + j) 1 l)
        (BitVec.ofNat 32 (numAt (4104 + 8 * i + 4 * (j / 128)) 4 l))).1)

/-- The columns of a 16-row unit of w FP32 values. -/
def unitCols (w : Nat) (l : List Byte) : List (List Nat) :=
  (List.range w).map fun j => (List.range 16).map fun i => numAt (4 * (w * i + j)) 4 l

/-- A row of FP32 values converted to EF (0 FP32, 1 BF16, 2 FP8): bytes, scales (R241, R225). -/
def encodeRow (ef : Nat) (xs : List Nat) : List Byte × List (BitVec 32) :=
  match ef with
  | 0 => (fromWords32 xs, [])
  | 1 => (xs.flatMap fun x => bytesOf 2 (cvtFmt fp32 bf16 0 x).1, [])
  | _ => quantRow (xs.length / 128) xs
/-- EFMT of a record for EF (R225). -/
def efEfmt (ef : Nat) : Nat := match ef with | 0 => 0 | 1 => 1 | _ => 3

/-- Transform 5: the thatch record of a unit. -/
def xfThatch (ef levels : Nat) (set : Option (Nat × BitVec 128)) (l : List Byte) : List Byte :=
  let w := match ef with | 0 => 64 | 1 => 128 | _ => 256
  let x := haarTile levels (set.map Prod.snd) (unitCols w l)
  let rows := (List.range 16).map fun i => encodeRow ef (x.1.map fun c => c.getD i 0)
  let tag : BitVec 8 := BitVec.ofNat 8 (1 + 4 * levels + (if set.isSome then 32 else 0))
  recBytes tag x.2.1 (efEfmt ef) set (fun i b => (rows.getD i ([], [])).2.getD b 0x3F800000)
    (fun i => (rows.getD i ([], [])).1)

/-- A row of a record decoded to FP32 (R241). -/
def decodeRow (ef : Nat) (e : List Byte) : List Nat :=
  match ef with
  | 0 => words32 64 (e.drop 8)
  | 1 => (List.range 128).map fun j => (cvtFmt bf16 fp32 0 (numAt (8 + 2 * j) 2 e)).1
  | _ => (List.range 256).map fun j => (decode8 0 (numAt (8 + j) 1 e) (BitVec.ofNat 32 (numAt (4 * (j / 128)) 4 e))).1
/-- Transform 6, on a record whose header has been checked. -/
def xfUnthatch (ef : Nat) (l : List Byte) : List Byte :=
  let w := match ef with | 0 => 64 | 1 => 128 | _ => 256
  let surv := recSurv l
  let rows := (List.range 16).map fun i =>
    match recRow l surv i with | some e => decodeRow ef e | none => List.replicate w 0
  let tag := recTag l
  let cols := (List.range w).map fun j => rows.map fun r => r.getD j 0
  let cols := if isHaar tag then cols.map fun c => (haarInv (tagLevels tag) c).1 else cols
  (List.range 16).flatMap fun i => fromWords32 (cols.map fun c => c.getD i 0)

/-- Transform 7 on 256 rows of 256 values: 16 A tiles with images, 4 B tiles with images (R107, R241). -/
def xfDualA (rows : List (List Nat)) : List (List Byte × List Byte) :=
  (List.range 16).map fun t => quantTile ((rows.drop (16 * t)).take 16)
def xfDualB (rows : List (List Nat)) : List (List Byte × List Byte) :=
  (List.range 4).map fun k =>
    let q := (List.range 64).map fun j => quantRow 2 (rows.map fun r => r.getD (64 * k + j) 0)
    ((List.range 256).flatMap fun i => q.map fun x => x.1.getD i 0,
     bytesOf 8 2 ++ (List.range 2).flatMap fun c => q.flatMap fun x => bytesOf 4 (x.2.getD c 0).toNat)
def xfDual (glob : Bool) (l : List Byte) : List Byte :=
  let rows := unitRows 256 256 l
  let a := xfDualA rows
  let b := xfDualB rows
  if glob then
    (a.flatMap fun x => x.1 ++ x.2 ++ List.replicate 120 0) ++ b.flatMap fun x => x.1 ++ x.2 ++ List.replicate 120 0
  else a.flatMap Prod.fst ++ b.flatMap Prod.fst ++ a.flatMap Prod.snd ++ b.flatMap Prod.snd

/-- What a row-shaped command can write of a row before it has read the row whole (transforms 0 and 2; log 44). -/
def Cmd.streamed (c : Cmd) : List Byte :=
  match c.i with
  | .tcpy _ _ _ _ _ _ => []
  | _ => match c.xf with | 0 => c.got | 2 => xfBf16 c.got | _ => []

/-- The bytes that unit u writes, from the bytes it read; an error carries the reason of R356. -/
def Cmd.unitOut (c : Cmd) (mp : Word) (u : Nat) (l : List Byte) : Except Nat (List Byte) :=
  let glob := cmdDir c.i
  match c.i with
  | .tcpy _ _ _ _ _ dir =>
    match c.elemWhere mp u with
    | .at _ _ => .ok (if c.xf = 2 then xfBf16 l else l)
    | .zero => .ok (if dir then [] else List.replicate c.slateElem 0)
    | .discard => .ok []
    | .error => .error 7
  | _ =>
    match c.xf with
    | 0 => .ok l
    | 1 => .ok (xfTranspose c.esize l)
    | 2 => .ok (xfBf16 l)
    | 3 => .ok (xfQuant glob l)
    | 4 => match xfDequant l with | some o => .ok o | none => .error 3
    | 5 => .ok (xfThatch c.ef (fldN 3 2 c.md + 1) (if bitAt 5 c.md then some (fldN 6 3 c.md, c.thr) else none) l)
    | 6 => if recOk l && recEfmt l == efEfmt c.ef then .ok (xfUnthatch c.ef l) else .error 3
    | _ => .ok (xfDual glob l)

-- What a command touches in Slate (R37, R238, R267).

/-- Slate ranges of the destination, whole slots included. -/
def Cmd.slateDst (c : Cmd) (mp : Word) (remote : Nat × Nat) : List Ext :=
  match c.i with
  | .ramo _ _ _ _ ret => if ret then [⟨some c.cluster, fldN 0 23 (c.word 3), 8⟩] else []
  | .chrcv _ _ _ => [⟨some c.cluster, c.saddr, 16 + fldN 0 17 (c.word 2)⟩]
  | .gath _ _ _ x =>
    -- before its list has been read, every row that the list may name
    (List.range c.units).flatMap fun u =>
      if c.idx.isEmpty then [⟨some c.cluster, c.saddr + u * c.spitch, if x = 2 then c.grows / 2 else c.grows⟩]
      else c.unitDst mp remote u none
  | _ => ((List.range c.units).flatMap fun u => c.unitDst mp remote u none).filter fun e => e.slate.isSome
/-- Global ranges of the destination. -/
def Cmd.globalDst (c : Cmd) (mp : Word) (remote : Nat × Nat) : List Ext :=
  ((List.range c.units).flatMap fun u => c.unitDst mp remote u none).filter fun e => e.slate.isNone

/-- The pieces of a range cut at the 128-byte boundaries (R243). -/
def pieceLen (a len : Nat) : Nat := min len (128 - a % 128)
/-- The place of stream position p in a list of ranges: the range, and the offset in it. -/
def extAt (p : Nat) : List Ext → Option (Ext × Nat)
  | [] => none
  | e :: r => if p < e.len then some (e, p) else extAt (p - e.len) r
def extTotal (l : List Ext) : Nat := l.foldl (fun n e => n + e.len) 0

end Sys2Proof.Machine
end

