-- ==== Sys2Proof/Machine/Ops.lean ====
section
/-!
DEFINITION. The shared operations: copy commands and their errors (R267), fences and arrivals (R158, R235, R251), groups
that retire and launches that abort (R10, R344), and taking an exception: traps, double faults, stub failures and unwinds
(R163, R340, R348, R349, R359, R360).
-/
namespace Sys2Proof.Machine

-- Tasks and commands.

/-- The context that holds a task. -/
def ctxOfTid (s : State) (tid : Nat) : Option Nat :=
  (s.ctxs.find? fun x => x.2.active && x.2.tid == tid).map Prod.fst
/-- A task, wherever it is: in its context, or out (R337). -/
def taskOf (s : State) (tid : Nat) : Option Task :=
  match ctxOfTid s tid with
  | some c => some (s.ctx c)
  | none => (s.outs.find? fun o => o.task.tid == tid).map OutTask.task
def updTask (s : State) (tid : Nat) (f : Task → Task) : State :=
  match ctxOfTid s tid with
  | some c => s.setCtx c (f (s.ctx c))
  | none => { s with outs := s.outs.map fun o => if o.task.tid = tid then { o with task := f o.task } else o }

/-- The number of a copy engine: two for each core (R59). -/
def engOf (core e : Nat) : Nat := 2 * core + e
def State.eng (s : State) (e : Nat) : List Cmd := tabGet [] s.engs e
def State.setEng (s : State) (e : Nat) (q : List Cmd) : State := { s with engs := tabPut s.engs e q }
/-- A command that is still in an engine, or with the unit it was handed to. -/
def findCmd (s : State) (id : Nat) : Option (Nat × Cmd) :=
  s.engs.findSome? fun e => (e.2.find? fun c => c.id == id).map fun c => (e.1, c)
def delCmd (s : State) (id : Nat) : State :=
  { s with engs := s.engs.map fun e => (e.1, e.2.filter fun c => c.id != id) }
def putCmd (s : State) (c : Cmd) : State :=
  { s with engs := s.engs.map fun e => (e.1, e.2.map fun x => if x.id = c.id then c else x) }
/-- An invalidation marker in an engine's queue (R252). -/
def Cmd.marker (c : Cmd) : Bool := match c.i with | .tlbi _ => true | _ => false
/-- The commands of a task that have not ended. -/
def cmdsOf (s : State) (tid : Nat) : List (Nat × Cmd) :=
  s.engs.flatMap fun e => (e.2.filter fun c => c.tid == tid && !c.marker).map fun c => (e.1, c)

/-- The window of a group of the launch by GROUPID (R244): its group number, cluster and Slate base. A group that has not yet been
placed has no window: to a CPYS it is as one that does not exist (log 78). -/
def remoteGroup (s : State) (c : Cmd) : Option (Nat × Group) :=
  match tabFind s.groups c.group with
  | none => none
  | some mine => s.groups.find? fun g => g.2.launch == c.launch && g.2.run == mine.run && g.2.gid == fldN 32 32 (c.word 0)
/-- A group's part of its cluster, or, while it is displaced, of its image. -/
def groupCl (s : State) (g : Group) : Cluster :=
  match g.away with | some a => displacedCl s.settled g a.spot | none => s.cl g.cluster
/-- Does the remote side of a CPYS pass the check of R244 in the window of a group? A closing bank has its new mode (R271). -/
def remoteFits (s : State) (c : Cmd) (g : Group) : Bool :=
  let rs := (List.range c.units).flatMap fun u =>
    (if cmdDir c.i then c.unitDst s.meshpos (g.cluster, g.slbase) u none
      else c.unitSrc s.meshpos (g.cluster, g.slbase) u []).map fun x => (⟨x.addr, x.len⟩ : Range)
  slateCheck g.slbase (g.slbase + g.slsize) { groupCl s g with closing := [] } rs == .go
/-- The remote group of a CPYS that ends, if that side passes its check, or passed it when the command began (R244): what does not
has no bytes on that side. -/
def remoteStands (s : State) (c : Cmd) : Option Group :=
  match c.i with
  | .cpys _ _ _ _ _ => ((remoteGroup s c).map Prod.snd).filter fun g => c.begun || remoteFits s c g
  | _ => none
/-- Cluster and base of the other Slate side of a CPYS. -/
def cmdRemote (s : State) (c : Cmd) : Nat × Nat :=
  match c.i with
  | .cpys _ _ _ _ _ => match remoteGroup s c with | some g => (g.2.cluster, g.2.slbase) | none => (c.cluster, 0)
  | _ => (c.cluster, 0)

-- Collectives: bytes of source and destination (R255).

def Cmd.collCount (c : Cmd) : Nat := fldN 0 40 (c.word 2)
def Cmd.collComm (c : Cmd) : Nat := fldN 40 8 (c.word 2)
def Cmd.collArg (c : Cmd) : Nat := fldN 48 16 (c.word 2)
def collSize (kind count esize n : Nat) (dst : Bool) : Nat :=
  let one := count * esize
  match kind with
  | 1 => if dst then one else n * one
  | 2 => if dst then n * one else one
  | 3 => n * one
  | 5 => 0
  | _ => one
/-- What a collective, a reshard or an atomic would have written (R255, R260, R248). -/
def otherDst (s : State) (c : Cmd) : List Ext :=
  match c.i with
  | .coll _ _ _ kind _ ty =>
    let n := commN (commWord s c.collComm)
    if n ≤ 1 ∨ (kind = 4 ∧ n ≤ fldN 48 16 (c.word 2)) then []
    else [⟨none, fldN 0 52 (c.word 1), collSize kind.toNat c.collCount (elemBits ty.toNat / 8) n true⟩]
  | .rshd _ _ _ _ =>
    match c.desc with
    | some d => [⟨none, fldN 0 52 (c.word 1) + commRank (commWord s (fldN 0 8 (c.word 2))) * descStride d, descStride d⟩]
    | none => []
  | .ramo _ _ _ _ _ => [⟨none, c.va, 8⟩]
  | _ => []

-- Full bits as a task sees them.

/-- The lines that a context's SETEs, accepted before the time of an id, are still to empty (R263). -/
def seteAhead (s : State) (ctx id : Nat) : List Range :=
  let k := coreOf ctx
  (s.eng (engOf k 0) ++ s.eng (engOf k 1)).filterMap fun c =>
    match c.i with
    | .sete _ _ _ =>
      let n := fldN 0 24 (c.word 2) - 128 * c.put
      if c.tid = (s.ctx ctx).tid ∧ c.id < id ∧ n ≠ 0 then some ⟨c.saddr + 128 * c.put, n⟩ else none
    | _ => none
/-- Are the lines of a range full for an access of a context that waits on full bits (R39, R270)? Such an access does not
pass an earlier SETE of its own task (R233; log 42). -/
def fullFor (s : State) (ctx id a n : Nat) : Bool :=
  allFull (s.cl (clOf ctx)) a n && !((seteAhead s ctx id).any (overlap ⟨a, n⟩))

/-- VLDT whose lines have all become full (R199): the record is read, and lands 8 + ROWS cycles later; a poisoned later
line marks the register (R357). -/
def fillRecord (s : State) (ctx : Nat) (p : Pending) : Pending :=
  match p.val with
  | .record id ea len t =>
    if fullFor s ctx id ea len then
      let cl := s.cl (clOf ctx)
      let r := recTile (slRead cl ea len)
      { p with
        val := .tile { r with tag := t.tag, mask := t.mask },
        due := s.cycle + 8 + popcount 16 t.mask.toNat,
        poison := anyPoison cl (ea + 128) (len - 128) }
    else p
  | _ => p
def isRecord (p : Pending) : Bool := match p.val with | .record _ _ _ _ => true | _ => false
def fillRecords (ctx : Nat) (s : State) : State :=
  let t := s.ctx ctx
  if t.inflight.any isRecord then s.setCtx ctx { t with inflight := t.inflight.map (fillRecord s ctx) } else s
/-- A context's results land, and records that are complete are read. -/
def landCtx (ctx : Nat) (s : State) : State := fillRecords ctx (s.setCtx ctx ((s.ctx ctx).landDue s.cycle))

-- Writes by the part to a virtual address.

/-- Bytes within one sector written at a virtual address of a job for a command of a group: at their home, here or on another
package; a line of the group's cluster cache is written back first (R276). -/
def globalWrite (s : State) (owner group : Nat) (job : BitVec 32) (va : Nat) (bs : List Byte) : State :=
  match walkPage s job va with
  | .ok l =>
    let h := forwarded s (leafPkg l.e) (leafAddr l.level l.e va)
    let o := h.2 % 128
    let s := match tabFind s.groups group with
      | some g => cacheFlush s g.cluster group fun x => x.pkg == h.1 && x.pa == h.2 - o
      | none => s
    queueWb s owner group job h.1 (h.2 - o) (List.replicate o 0 ++ bs ++ List.replicate (128 - o - bs.length) 0)
      (maskOf 128 fun k => decide (o ≤ k) && decide (k < o + bs.length)) false
  | .error _ => s

-- Undefined destinations (R267).

/-- Slate lines set full with undefined contents. -/
def undefSlate (s : State) (stamp : Nat) (e : Ext) : State :=
  match e.slate with
  | none => s
  | some k => s.setCl k ((linesOf e.addr e.len).foldl (fun cl l => setUndef stamp (setFull cl l) l) (s.cl k))
/-- Global bytes of this package written with undefined values, page by page; pages of other packages are theirs. -/
def undefGlobal (s : State) (job : BitVec 32) (stamp : Nat) (e : Ext) : State :=
  if e.len = 0 then s
  else
    (span (e.addr / 65536) ((e.addr + e.len - 1) / 65536 + 1)).foldl (fun s p =>
      let lo := max e.addr (65536 * p)
      let hi := min (e.addr + e.len) (65536 * p + 65536)
      match walkPage s job lo with
      | .ok l =>
        if leafPkg l.e = s.pkg ∧ leafW l.e then
          let pa := leafAddr l.level l.e lo
          partWrite s job pa ((List.range (hi - lo)).map fun i => Config.freeByte stamp (pa + i))
        else s
      | .error _ => s) s

/-- Every slot of a job that is bound to a descriptor, changed (R245). -/
def mapSlots (s : State) (job : BitVec 32) (va : Nat) (f : TSlot → TSlot) : State :=
  let upd := fun (t : Task) =>
    if t.job = job then { t with tbind := t.tbind.map fun x => x.map fun y => if y.va = va then f y else y } else t
  { s with ctxs := s.ctxs.map fun x => (x.1, upd x.2), outs := s.outs.map fun o => { o with task := upd o.task } }
/-- BUSY of a tensor in the slots bound to it (R260, R314). -/
def busySlots (s : State) (job : BitVec 32) (va : Nat) (b : Bool) : State := mapSlots s job va fun y => { y with busy := b }
/-- BUSY of a tensor in its descriptor, bit 0 of byte 0x3A (R307), which is written at its home. -/
def busyByte (s : State) (owner group : Nat) (job : BitVec 32) (va : Nat) (b : Bool) : State :=
  match walkPage s job (va + 0x3A) with
  | .ok l =>
    let h := forwarded s (leafPkg l.e) (leafAddr l.level l.e (va + 0x3A))
    let s := match tabFind s.groups group with
      | some g => cacheFlush s g.cluster group fun x => x.pkg == h.1 && x.pa == h.2 / 128 * 128
      | none => s
    queueBit s owner group job h.1 h.2 b
  | .error _ => s
def isRshd : Instr → Bool
  | .rshd _ _ _ _ => true
  | _ => false
/-- The RSHD in progress of a descriptor, other than one command (R260). -/
def reshardOf (s : State) (job : BitVec 32) (va but : Nat) : Option Cmd :=
  (s.engs.flatMap Prod.snd).find? fun c => isRshd c.i && c.job == job && c.va == va && c.id != but && c.fail.isNone

-- Copy errors.

/-- SOURCE of a record about a command (R354). A task that is out has no context: the model gives context 0 of the engine's core (log
82). -/
def cmdSource (s : State) (eng : Nat) (c : Cmd) : Nat :=
  let ctx := (ctxOfTid s c.tid).getD (eng / 2 * 2)
  sourceOf ctx (eng % 2) (match tabFind s.groups c.group with | some g => BitVec.ofNat 64 g.gid | none => 0)

/-- The pending copy-error event of a command that ended (R267), unless its task has issued EXIT or is gone. -/
def pendCopyError (s : State) (c : Cmd) (seq reason : Nat) : State :=
  match taskOf s c.tid with
  | none => s
  | some t =>
    if t.exited then s
    else
      updTask s c.tid fun t =>
        { t with pend := t.pend ++ [⟨BitVec.ofNat 16 cCopy, BitVec.ofNat 64 (seq % 2 ^ 32 + reason * 2 ^ 32), c.region⟩] }

/-- A command's end with a copy error is reported (R267): its record is posted, and (unless it was cancelled without a trap) its
task has an event pending. -/
def reportError (s : State) (c : Cmd) (reason : Nat) (quiet : Bool) (r : FRec) : State :=
  let x := postRecord s c.job r
  if quiet then x.1 else pendCopyError x.1 c (x.2.getD 0xFFFFFFFF) reason
/-- The end of an RSHD that has failed is reported once BUSY is clear, in its descriptor and in every slot (R260). -/
def endFailed (s : State) (c : Cmd) : State :=
  match c.fail with
  | some (reason, quiet, r) =>
    if s.wbs.any fun w => w.owner == c.id then s
    else
      let s := if (reshardOf s c.job c.va c.id).isNone then busySlots s c.job c.va false else s
      reportError (delCmd s c.id) c reason quiet r
  | none => s
/-- An RSHD fails: BUSY is cleared, unless another RSHD of the tensor goes on; the command stands until that has performed. -/
def failReshard (s : State) (c : Cmd) (reason : Nat) (quiet : Bool) (r : FRec) : State :=
  let c := { c with fail := some (reason, quiet, r), begun := true, handed := true, halt := none, sent := none, reply := none }
  let s := putCmd s c
  endFailed (if (reshardOf s c.job c.va c.id).isNone then busyByte s c.id c.group c.job c.va false else s) c
/-- A command that fails again while it stands keeps its first reason; a cancellation takes its trap away. -/
def failAgain (s : State) (id : Nat) (quiet : Bool) : State :=
  match findCmd s id with
  | some (_, c) => putCmd s { c with fail := c.fail.map fun x => (x.1, x.2.1 || quiet, x.2.2) }
  | none => s

/-- A command ends with a copy error (R267): its destinations become undefined, its lines full, a record is posted, and
(unless it was cancelled without a trap) its task has an event pending. -/
def copyError (s : State) (eng : Nat) (c : Cmd) (reason : Nat) (quiet : Bool) : State :=
  if isRshd c.i && (findCmd s c.id).any (fun x => x.2.fail.isSome) then failAgain s c.id quiet
  else
  let s := if isRshd c.i then s else delCmd s c.id
  let left := s.colls.filter fun x => x.cmd != c.id
  let s := { s with colls := left, pieces := s.pieces.filter fun p => left.any fun k => k.comm == p.comm && k.seq == p.seq }
  let stamp := s.fresh
  let remote := cmdRemote s c
  let isCpys := match c.i with | .cpys _ _ _ _ _ => true | _ => false
  let dst := c.slateDst s.meshpos remote
  let s := if isCpys && cmdDir c.i then
      match remoteStands s c with
      | some g =>
        (match g.away with
        | some a => undefImage s g a stamp (dst.map fun e => ⟨e.addr, e.len⟩)
        | none => dst.foldl (fun s e => undefSlate s stamp e) s)
      | none => s
    else dst.foldl (fun s e => undefSlate s stamp e) s
  let s := match c.i with
    | .bmode _ _ _ _ =>
      let cl := s.cl c.cluster
      s.setCl c.cluster { cl with closing := tabDel cl.closing (fldN 0 6 (c.word 1)) }
    | _ => s
  let s := if c.shadow then s
    else (c.globalDst s.meshpos remote ++ otherDst s c).foldl (fun s e => undefGlobal s c.job stamp e) s.bump
  let q := launchQueue s c.launch
  let r : FRec :=
    { kind := 2, reply := false, time := 0, source := cmdSource s eng c, queue := q.1, value := q.2,
      detail := [BitVec.ofNat 64 reason, BitVec.ofNat 64 (cmdOpcode c.i + 64 * cmdCls c.i)] }
  if isRshd c.i then failReshard s c reason quiet r else reportError s c reason quiet r

/-- The outstanding commands of a task's regions at depth t and deeper are cancelled, without a trap (R360). -/
def cancelRegions (s : State) (tid t : Nat) : State :=
  ((cmdsOf s tid).filter fun x => match x.2.region with | some r => decide (t ≤ r) | none => false).foldl
    (fun s x => copyError s x.1 x.2 5 true) s
/-- Every outstanding command of a task is cancelled without a trap (R344). -/
def cancelTask (s : State) (tid : Nat) : State :=
  (cmdsOf s tid).foldl (fun s x => copyError s x.1 x.2 5 true) s

-- Fences (R251) and arrivals (R158, R235).

/-- Is a numbered command, fence, matrix job or record read still outstanding? -/
def idBusy (s : State) (id : Nat) : Bool :=
  s.engs.any (fun e => e.2.any fun c => c.id == id) || s.fences.any (fun f => f.id == id) ||
    s.outs.any (fun o => o.task.held.any fun h => h.id == id) ||
    s.ctxs.any fun x => x.2.mq.any (fun j => j.id == id) || (x.2.held.any fun h => h.id == id) ||
      x.2.inflight.any fun p => match p.val with | .record i _ _ _ => i == id | _ => false

/-- The commands that a FENCE or REL waits for have performed. -/
def fenceReady (s : State) (f : Fence) : Bool :=
  !(s.engs.any fun e => e.2.any fun c =>
    c.tid == f.tid && decide (c.id < f.id) && !c.marker && bitAt (cmdCls c.i) f.mask)

def dropFence (s : State) (id : Nat) : State := { s with fences := s.fences.filter fun f => f.id != id }
/-- One FENCE or REL: a wide one also waits until the cluster cache holds no dirty byte (R251, R282). -/
def stepFence (s : State) (f : Fence) : State :=
  if !(fenceReady s f) then s
  else if f.scope = 0 then dropFence s f.id
  else
    let s := if f.released then s
      else
        let s := cacheRelease s f.cluster f.group
        { s with fences := s.fences.map fun x => if x.id = f.id then { x with released := true } else x }
    if wbOpen s f.group then s else dropFence s f.id

/-- Can an arrival be applied as far as its commands and the order of its task's arrivals on the bell go? -/
def arrivalReady (s : State) (a : Arrival) : Bool :=
  !(a.after.any (idBusy s)) && (a.tid == 0 || !(s.arrivals.any fun b => b.tid == a.tid && b.bell == a.bell))

/-- An arrival reaches its bell; that of a CKCUT registers its cut for the phase toward which it counts (R261). -/
def applyArrival (s : State) (a : Arrival) : State :=
  let l := bellLoc a.cluster a.bell
  let s := match a.cut with
    | some r => { s with cutWait := s.cutWait ++ [{ r with phase := (getBell s l).phase }] }
    | none => s
  doArrive s l

/-- One arrival, with its release (R277): applied, or kept. -/
def stepArrival (s : State) (a : Arrival) : State :=
  if !(arrivalReady s a) then { s with arrivals := s.arrivals ++ [a] }
  else if a.scope = 0 then applyArrival s a
  else
    let s := if a.released then s else cacheRelease s a.cluster a.group
    if wbOpen s a.group then { s with arrivals := s.arrivals ++ [{ a with released := true }] }
    else applyArrival s a

/-- Queued writes perform or leave, fences that are satisfied end, and arrivals whose release has performed are applied. -/
def State.progress (s : State) : State :=
  let s := (stepWbs s).fences.foldl stepFence (stepWbs s)
  s.arrivals.foldl stepArrival { s with arrivals := [] }

-- Groups and launches.

/-- The contexts that hold tasks of a group. -/
def ctxsOfGroup (s : State) (g : Nat) : List Nat :=
  (s.ctxs.filter fun x => x.2.active && x.2.group == g).map Prod.fst

/-- Bells [first, first + n) of a table are given back (R331). -/
def freeBells (t : Tab Bell) (first n : Nat) : Tab Bell :=
  t.map fun x => if first ≤ x.1 ∧ x.1 < first + n then (x.1, x.2.freed) else x

/-- The lines of a window are full (log 68). -/
def fillWindow (cl : Cluster) (x : Group) : Cluster :=
  { cl with lineEmpty := cl.lineEmpty.filter fun l => !((linesOf x.slbase x.slsize).contains l) }
/-- A group retires (R10, R331): its contexts, its window and its cluster bells are free. -/
def retireGroup (s : State) (g : Nat) : State :=
  match tabFind s.groups g with
  | none => s
  | some x =>
    let s := cacheFlush s x.cluster g fun _ => true
    let cl := s.cl x.cluster
    let s := if x.away.isSome then s
      else s.setCl x.cluster { fillWindow cl x with bells := freeBells cl.bells x.cbell x.ncb, cache := tabDel cl.cache g }
    let s := (ctxsOfGroup s g).foldl (fun s c => s.setCtx c (s.ctx c).left) s
    let s := { s with groups := tabDel s.groups g, outs := s.outs.filter fun o => o.task.group != g }
    match tabFind s.launches x.launch with
    | some l => { s with launches := tabPut s.launches x.launch { l with retired := l.retired + 1 } }
    | none => s

/-- A record about a launch as a whole. -/
def launchRecord (s : State) (l : Nat) (kind : Nat) (detail : List Word) : State :=
  match tabFind s.launches l with
  | none => s
  | some x =>
    (postRecord s x.job
      { kind := kind, reply := false, time := 0, source := 0, queue := x.queue, value := x.num, detail := detail }).1

/-- The launch stops (R344): its commands are cancelled, its groups retire, a record is posted. Reason: 1 host, 2 double
fault, 3 unhandled trap, 4 stub failure. -/
def abortLaunch (s : State) (l reason : Nat) : State :=
  let tids := (s.ctxs.filter fun x => x.2.active && x.2.launch == l).map (fun x => x.2.tid) ++
    (s.outs.filter fun o => o.task.launch == l).map fun o => o.task.tid
  let s := tids.foldl cancelTask s
  let s := { s with fences := s.fences.filter fun f => !(tids.contains f.tid) }
  let s := ((s.groups.filter fun g => g.2.launch == l).map Prod.fst).foldl retireGroup s
  let s := launchRecord s l 10 [BitVec.ofNat 64 reason]
  match tabFind s.launches l with
  | some x => { s with launches := tabPut s.launches l { x with aborted := true } }
  | none => s

-- Taking an exception.

/-- The PC word of R65. -/
def pcWordOf (first : BitVec 6) (pc : Word) : Word := first ++ (0#6) ++ (fld 0 52 pc)
def Task.pcWord (t : Task) : Word := pcWordOf t.first t.pc
/-- The bundle address of a word, bits [51:4]. -/
def addrOf (w : Word) : Word := w &&& 0x000FFFFFFFFFFFF0

/-- An unhandled trap or a double fault (R348, R349): its record, then the launch aborts. -/
def deadTrap (s : State) (ctx cause : Nat) (pcw info : Word) (reason : Nat) : State :=
  let t := s.ctx ctx
  let q := launchQueue s t.launch
  let s := (postRecord s t.job
    { kind := 13, reply := false, time := 0, source := sourceOf ctx 0 t.groupid, queue := q.1, value := q.2,
      detail := [BitVec.ofNat 64 cause, pcw, info] }).1
  abortLaunch s t.launch reason

/-- A stub failure (R340): 1 overrun, 2 fault, 3 restore overrun. -/
def stubFailure (s : State) (ctx why : Nat) (pcw : Word) : State :=
  let t := s.ctx ctx
  let q := launchQueue s t.launch
  let s := (postRecord s t.job
    { kind := 9, reply := false, time := 0, source := sourceOf ctx 0 t.groupid, queue := q.1, value := q.2,
      detail := [pcw, BitVec.ofNat 64 why] }).1
  abortLaunch s t.launch 4

/-- A trap is taken (R163): TRAPCAUSE, TRAPPC and TRAPINFO are written, the task is in handler mode, and fetch goes on at
the trap vector. In a stub it is a stub failure (R340); in handler mode, unless it is a software trap, a double fault
(R348); without a vector, an unhandled trap (R349). -/
def takeTrap (s : State) (ctx cause : Nat) (info pcw : Word) : State :=
  let t := s.ctx ctx
  if t.stub.isSome then stubFailure s ctx 2 pcw
  else if t.handler && cause != cSoft then deadTrap s ctx cause pcw info 2
  else
    match t.code.trap with
    | none => deadTrap s ctx cause pcw info 3
    | some v =>
      s.setCtx ctx { t with
        trapcause := BitVec.ofNat 16 cause, trappc := pcw, trapinfo := info, handler := true,
        wait := none, heldWait := if t.wait.isSome then t.wait else t.heldWait,
        pc := addrOf (BitVec.ofNat 64 v) }

/-- Does an event that unwinds find an open region, outside handler mode and stubs (R359)? -/
def Task.unwinds (t : Task) : Bool := decide (0 < t.crdepth.toNat) && !t.handler && t.stub.isNone

/-- An unwind to the region at depth index d (R360): the executing matrix instruction is kept, also where it rests between two
passes, and the waiting one is discarded. -/
def unwind (s : State) (ctx d cause : Nat) (info pcw : Word) : State :=
  let s := cancelRegions s (s.ctx ctx).tid d
  let t := s.ctx ctx
  s.setCtx ctx { t with
    mq := t.mq.filter fun j => j.begun || decide (0 < j.next),
    ldepth := 0, lcount := Vector.replicate 6 0, first := 0,
    segid := 0xFFFFFFFF, segcount := 0, segsig := 0,
    trapcause := BitVec.ofNat 16 cause, trapinfo := info, trappc := pcw,
    pc := addrOf (vget t.crlevel d 0), crdepth := BitVec.ofNat 3 d, wait := none, shield := true }

/-- An event of R359 that lies on a bundle: it unwinds the innermost region, or it traps. -/
def takeEvent (s : State) (ctx cause : Nat) (info pcw : Word) : State :=
  let t := s.ctx ctx
  if t.unwinds && (cause == cPoison || cause == cSeg || cause == cMatrix) then
    unwind s ctx (t.crdepth.toNat - 1) cause info pcw
  else takeTrap s ctx cause info pcw

/-- The first pending matrix-error or copy-error event is taken (R351 row 0, R359): a copy error unwinds to the region of
its command, and traps when that was in none. -/
def takePending (s : State) (ctx : Nat) : State :=
  let t := s.ctx ctx
  match t.pend with
  | [] => s
  | p :: rest =>
    let s := s.setCtx ctx { t with pend := rest }
    if p.cause.toNat = cCopy then
      match p.region with
      | some d => if t.unwinds && decide (d < t.crdepth.toNat) then unwind s ctx d cCopy p.info t.pcWord
                  else takeTrap s ctx cCopy p.info t.pcWord
      | none => takeTrap s ctx cCopy p.info t.pcWord
    else takeEvent s ctx p.cause.toNat p.info t.pcWord

/-- TRAPINFO of a precise fault (R347): the slot, and the detail in [63:32]. -/
def faultInfo (slot detail : Nat) : Word := BitVec.ofNat 64 (slot + detail * 2 ^ 32)
/-- TRAPINFO of an illegal use (R76), and of consumed poison (R347). -/
def illegalUse (slot reason : Nat) : Word := BitVec.ofNat 64 (slot + reason * 256)
def poisonInfo (slot source detail : Nat) : Word := BitVec.ofNat 64 (slot + source * 16 + detail * 2 ^ 32)

/-- What a check that is not passed does to the acting task (R351, R352): the bundle is nullified, and the event taken. -/
def State.divert (s : State) (slot : Nat) (v : Verdict) : State :=
  let pcw := s.me.pcWord
  match v with
  | .go => s
  | .stall => s
  | .illegal r => takeTrap s s.cur 1 (illegalUse slot r) pcw
  | .fault c d => takeTrap s s.cur c (faultInfo slot d) pcw
  | .poison src d => takeEvent s s.cur cPoison (poisonInfo slot src d) pcw
  | .seg => takeEvent s s.cur cSeg (s.me.segid.zeroExtend 64) pcw

end Sys2Proof.Machine
end

