-- ==== Sys2Proof/Machine/Engine.lean ====
section
/-!
DEFINITION. The matrix engine of a core (06): operands in Slate (R207 to R210), the state against which checks are judged
(R469), jobs in its queue (R211), passes, drains and stops (R217 to R228), and the resume registers (R51).
-/
namespace Sys2Proof.Machine

-- Fields of an M slot (R83).

structure MF where
  acc : Nat
  v : Nat
  s1 : BitVec 6
  s2 : BitVec 6
  o : Bool
def mf : Instr → MF
  | .mma _ a v s1 s2 o => ⟨a.toNat, v.toNat, s1, s2, o⟩
  | .mmas _ a s1 s2 o => ⟨a.toNat, 0, s1, s2, o⟩
  | .mmat _ a v s1 s2 o => ⟨a.toNat, v.toNat, s1, s2, o⟩
  | .mmah _ a v s1 s2 o => ⟨a.toNat, v.toNat, s1, s2, o⟩
  | .mldb _ s1 s2 o => ⟨0, 0, s1, s2, o⟩
  | .mclr _ a o => ⟨a.toNat, 0, 0, 0, o⟩
  | .macc _ a src => ⟨a.toNat, src.toNat, 0, 0, false⟩
  | .mcfg _ s1 => ⟨0, 0, s1, 0, false⟩
  | .mdrn _ a v s1 o => ⟨a.toNat, v.toNat, s1, 0, o⟩
  | .mdrns _ a opts s1 s2 o => ⟨a.toNat, opts.toNat, s1, s2, o⟩
  | _ => ⟨0, 0, 0, 0, false⟩
/-- The opcode of R84, for TRAPINFO. -/
def mOpcode : Instr → Nat
  | .mma _ _ _ _ _ _ => 1
  | .mmas _ _ _ _ _ => 2
  | .mmat _ _ _ _ _ _ => 3
  | .mmah _ _ _ _ _ _ => 4
  | .mldb _ _ _ _ => 5
  | .mclr _ _ _ => 6
  | .macc _ _ _ => 7
  | .mcfg _ _ => 8
  | .mdrn _ _ _ _ _ => 9
  | .mdrns _ _ _ _ _ _ => 10
  | _ => 0
/-- The instructions that run passes, and consume MREPLEFT (R85). -/
def isMM : Instr → Bool
  | .mma _ _ _ _ _ _ => true
  | .mmas _ _ _ _ _ => true
  | .mmat _ _ _ _ _ _ => true
  | .mmah _ _ _ _ _ _ => true
  | _ => false
def isMcfg : Instr → Bool
  | .mcfg _ _ => true
  | _ => false
def isMdrns : Instr → Bool
  | .mdrns _ _ _ _ _ _ => true
  | _ => false

/-- The passes that an instruction may run (R215, R218). -/
def passLimit (i : Instr) (t : Task) : Nat :=
  match i with
  | .mma _ _ v _ _ _ => 32 - v.toNat
  | .mmat _ _ v _ _ _ => 32 - v.toNat
  | .mmas _ a _ _ _ => 8 - a.toNat
  | .mmah _ a _ _ s2 _ => 8 - max a.toNat (fldN 55 3 (vget t.s s2.toNat 0))
  | _ => 1
/-- R215: the pass count at issue. An undefined MREPLEFT, which a restore stub did not load, is one of the legal counts (R7, R341;
log 21). -/
def passCount (i : Instr) (t : Task) : Nat :=
  if isMM i && t.mrepleft != 0 then
    if t.undefC.contains 0x12 then 1 + (t.mrepleft.toNat - 1) % passLimit i t else t.mrepleft.toNat
  else 1

-- Operands in Slate (R207, R209, R215).

def mBase (s1 : Word) : Nat := fldN 0 23 s1
def mPitch (s1 : Word) : Nat := 16 * fldN 32 16 s1
def mTpitch (s2 : Word) : Int := (fld 0 32 s2).toInt
def mScb (s2 : Word) : Nat := 8 * fldN 35 20 s2
def mCb (s2 : Word) : Nat := fldN 55 3 s2

/-- Rows of an operand: k rows of w bytes from an address, at a pitch. -/
def rowRanges (base : Int) (pitch w k : Nat) : List (Int × Nat) :=
  (List.range k).map fun r => (base + ((pitch * r : Nat) : Int), w)

/-- The operand rows that pass j reads. -/
def passRows (i : Instr) (s1 s2 : Word) (j : Nat) : List (Int × Nat) :=
  let b : Int := (mBase s1 : Int) + (j : Int) * mTpitch s2
  let k := if (mf i).o then rowRanges b (mPitch s1) 128 128 else rowRanges b (mPitch s1) 64 256
  match i with
  | .mma _ _ _ _ _ _ => k
  | .mmat _ _ _ _ _ _ => k
  | .mldb _ _ _ _ => k
  | .mmas _ _ _ _ _ => rowRanges b (mPitch s1) 256 16
  | .mmah _ _ _ _ _ _ => rowRanges b (mPitch s1) 128 16
  | _ => []
/-- The scale images that pass j reads: address, size, accepted GEOM. f8: the pass is in FP8 mode. -/
def passImages (i : Instr) (s2 : Word) (f8 : Bool) (j : Nat) : List (Nat × Nat × List Nat) :=
  let b := mScb s2
  if b = 0 ∨ !f8 then []
  else
    match i with
    | .mma _ _ _ _ _ _ => [(b + 520 * j, 520, [2, 3])]
    | .mmat _ _ _ _ _ _ => [(b + 656 * j, 520, [2, 3]), (b + 656 * j + 520, 136, [2])]
    | .mmas _ _ _ _ _ => [(b + 136 * j, 136, [1])]
    | .mldb _ _ _ _ => [(b, 520, [2, 3])]
    | _ => []
/-- What MDRNS writes (R225): the slot of a record, or rows and image. -/
def drainRanges (opts : Nat) (s1 s2 : Word) : List (Int × Nat) :=
  if opts / 4 % 2 = 1 then [((mBase s1 : Int), 4352)]
  else rowRanges (mBase s1 : Int) (mPitch s1) 256 16 ++
    (if opts / 8 = 2 ∧ mScb s2 ≠ 0 then [((mScb s2 : Int), 136)] else [])

-- The state after the earlier matrix instructions (R469).

/-- What checks see of an accumulator: any row written, tag, integer mode; and whether these are undefined (R341), so that no
check is made on them (R7). -/
structure AView where
  written : Bool
  tag : BitVec 8
  imode : Bool
  undef : Bool
  deriving DecidableEq, Repr
structure MView where
  acc : List AView
  bo : Option Bool
  deriving DecidableEq, Repr

def MView.at (v : MView) (n : Nat) : AView := v.acc.getD n ⟨false, 0, false, false⟩
/-- The accumulators of a list whose tag and mode are not undefined. -/
def MView.known (v : MView) (l : List Nat) : List Nat := l.filter fun n => !(v.at n).undef
def MView.put (v : MView) (n : Nat) (a : AView) : MView := { v with acc := v.acc.set n a }

def viewOf (t : Task) : MView :=
  { acc := (List.range 8).map fun n => let a := vget t.a n (Acc.clear false); ⟨a.written != 0, a.tag, a.imode, t.undefA.contains n⟩,
    bo := t.bbuf.map BBuf.o }
/-- What a matrix instruction does to the view: tag and wr as the job keeps them. -/
def viewStep (i : Instr) (n : Nat) (tag : BitVec 8) (wr : Bool) (v : MView) : MView :=
  let f := mf i
  let a := v.at f.acc
  match i with
  | .mma _ _ _ _ _ _ => v.put f.acc { a with written := a.written || wr, tag := tag }
  | .mmat _ _ _ _ _ _ => v.put f.acc { a with written := a.written || wr, tag := tag }
  | .macc _ _ _ => v.put f.acc { a with written := a.written || wr, tag := tag, undef := a.undef || (v.at f.v).undef }
  | .mmas _ _ _ _ _ =>
    (List.range n).foldl (fun v j =>
      let a := v.at (f.acc + j)
      v.put (f.acc + j) { a with written := true, tag := if a.written then a.tag else 0 }) v
  | .mmah _ _ _ _ _ _ =>
    (List.range n).foldl (fun v j => v.put (f.acc + j) { v.at (f.acc + j) with written := true, tag := 0 }) v
  | .mldb _ _ _ o => { v with bo := some o }
  | .mclr _ _ o => v.put f.acc ⟨false, 0, o, false⟩
  | .mdrn _ _ _ _ o => if o then v.put f.acc ⟨false, 0, a.imode, false⟩ else v
  | .mdrns _ _ opts _ _ o =>
    if o then (List.range (2 ^ fldN 3 2 opts)).foldl (fun v g =>
      v.put (f.acc + g) ⟨false, 0, (v.at (f.acc + g)).imode, false⟩) v
    else v
  | _ => v
def viewNow (t : Task) : MView := t.mq.foldl (fun v j => viewStep j.i j.n j.tag j.wr v) (viewOf t)

-- Checks at issue.

def domainFault (a b : BitVec 8) : Verdict := .fault cDomain (a.toNat + 256 * b.toNat)

/-- The tag rule of R217 on a view: the fault, or the view's tag after it. -/
def tagRule (a : AView) (tag : BitVec 8) : Except Verdict (BitVec 8) :=
  if !(tagValid tag) then .error (domainFault tag 0)
  else if a.undef then .ok a.tag
  else if a.written then
    if fld 0 5 a.tag != fld 0 5 tag then .error (domainFault tag a.tag) else .ok (joinTag a.tag tag)
  else .ok tag
/-- The rule for the passes of MMA and MMAT, in order: tags of A, and whether each pass writes a row. -/
def tagRules : List (BitVec 8 × Bool) → AView → Except Verdict AView
  | [], a => .ok a
  | x :: r, a =>
    match tagRule a x.1 with
    | .error e => .error e
    | .ok t => tagRules r { a with tag := t, written := a.written || x.2 }

/-- The tiles that checks of A operands judge: not those that MDRN is still to write, nor those whose tag is undefined (R7, R60). -/
def State.judgedTile (s : State) (n : Nat) : Bool := !(s.src.tileReadBusy n) && !(s.tagUndef n)
/-- The A tiles of passes: tag, and whether any row is visited. -/
def aTags (s : State) (v : Nat) (js : List Nat) : List (BitVec 8 × Bool) :=
  js.map fun j =>
    let tag := s.vtag (v + j)
    (tag, !(isHaar tag) || s.src.undefd (.v (v + j)) || (vget s.src.v (v + j) Tile.zero).mask != 0)

/-- Integer mode, where it is known. -/
def MView.intMode (v : MView) (n : Nat) : Bool := (v.at n).imode && !(v.at n).undef
/-- Illegal uses (REASON 10 of R205, R215, R218, R219, R222, R223, R225). s1 and s2 are none while their registers are
not ready. -/
def mIllegal (i : Instr) (n : Nat) (s1 s2 : Option Word) (v : MView) : Bool :=
  let f := mf i
  match i with
  | .mma _ _ _ _ _ o => decide (32 < f.v + n) || (o && v.intMode f.acc)
  | .mmat _ _ _ _ _ o => decide (32 < f.v + n) || (o && v.intMode f.acc)
  | .mmas _ _ _ _ o =>
    decide (8 < f.acc + n) || (o && (List.range (min n 8)).any fun j => v.intMode (f.acc + j)) ||
      (match v.bo with | some b => b != o | none => false)
  | .mmah _ _ _ _ _ o =>
    !o || decide (8 < f.acc + n) || ((List.range (min n 8)).any fun j => v.intMode (f.acc + j)) ||
      (match s2 with | some w => decide (8 < mCb w + n) | none => false)
  | .macc _ _ _ => (v.known [f.acc, f.v]).length == 2 && (v.at f.acc).imode != (v.at f.v).imode
  | .mcfg _ _ => match s1 with | some w => fldN 3 61 w != 0 || bitAt 1 w | none => false
  | .mdrns _ _ opts _ _ _ =>
    f.acc % 2 ^ fldN 3 2 opts != 0 ||
      (bitAt 1 opts && (match s2 with | some w => fldN 8 3 w == 0 || decide (4 < fldN 8 3 w) | none => false))
  | .mrep _ count => count == 0
  | _ => false

/-- The accumulators that a matrix instruction reads, its destinations among them but those that MCLR clears (R26). -/
def accRead (i : Instr) (n : Nat) : List Nat :=
  let f := mf i
  match i with
  | .mma _ _ _ _ _ _ => [f.acc]
  | .mmat _ _ _ _ _ _ => [f.acc]
  | .mmas _ _ _ _ _ => span f.acc (f.acc + n)
  | .mmah _ _ _ _ _ _ => span f.acc (f.acc + n)
  | .macc _ _ _ => [f.v, f.acc]
  | .mdrn _ _ _ _ _ => [f.acc]
  | .mdrns _ _ opts _ _ _ => span f.acc (f.acc + 2 ^ fldN 3 2 opts)
  | _ => []
/-- Domain checks: operands with valid tags, tiles and accumulators (R23; log 60); then R217, R218, R222, R224, R225. -/
def mDomain (i : Instr) (n : Nat) (s : State) (s1 : Option Word) (v : MView) : Verdict :=
  let f := mf i
  let a := v.at f.acc
  let tags := aTags s f.v ((List.range n).filter fun j => s.judgedTile (f.v + j))
  let known := fun (l : List Nat) => (v.known l).map v.at
  let badAcc : Verdict := match (known (accRead i n)).find? fun b => !(tagValid b.tag) with
    | some b => domainFault b.tag 0
    | none => .go
  let rule : Verdict := match i with
    | .mma _ _ _ _ _ _ => match tagRules tags a with | .error e => e | .ok _ => .go
    | .mmat _ _ _ _ _ _ =>
      (match tags.find? fun x => tagValid x.1 && isHaar x.1 with
      | some x => domainFault x.1 0
      | none => match tagRules tags a with | .error e => e | .ok _ => .go)
    | .mmas _ _ _ _ _ =>
      (match (known (accRead i n)).find? fun b => b.written && fld 0 5 b.tag != 0 with
      | some b => domainFault 0 b.tag
      | none => .go)
    | .mmah _ _ _ _ _ _ =>
      if !(s.judgedTile f.v) then .go
      else if !(tagValid (s.vtag f.v)) then domainFault (s.vtag f.v) 0
      else
        (match (known (accRead i n)).find? fun b => b.written && isHaar b.tag with
        | some b => domainFault (s.vtag f.v) b.tag
        | none => .go)
    | .macc _ _ _ =>
      if (v.at f.v).undef then .go else match tagRule a (v.at f.v).tag with | .error e => e | .ok _ => .go
    | .mdrn _ _ _ _ _ =>
      (match s1 with
      | some w => if bitAt 3 w && !a.undef && !(isHaar a.tag) then domainFault a.tag 0 else .go
      | none => .go)
    | .mdrns _ _ opts _ _ _ =>
      (match known (accRead i n) with
      | [] => .go
      | b :: r =>
        match r.find? fun x => fld 0 5 x.tag != fld 0 5 b.tag with
        | some x => domainFault b.tag x.tag
        | none =>
          if (bitAt 1 opts && isHaar b.tag) || (bitAt 0 opts && !(bitAt 1 opts) && !(isHaar b.tag)) then
            domainFault b.tag 0
          else .go)
    | _ => .go
  badAcc.join rule

/-- The tag rule of R217 without its check: the accumulator's tag after an A operand of a tag. -/
def tagJoin (a : AView) (tag : BitVec 8) : BitVec 8 := if a.written then joinTag a.tag tag else tag
/-- What a job of passes j to n - 1 does to the view of R469: the tag that its accumulator takes, and whether it writes a
row. At a resumption no tag is checked again (R51). -/
def mKeep (i : Instr) (j n : Nat) (s : State) (v : MView) : BitVec 8 × Bool :=
  let f := mf i
  let tags := aTags s f.v ((List.range n).drop j)
  let join := (tags.foldl (fun (a : AView) x => { a with tag := tagJoin a x.1, written := a.written || x.2 })
    (v.at f.acc)).tag
  match i with
  | .mma _ _ _ _ _ _ => (join, tags.any Prod.snd)
  | .mmat _ _ _ _ _ _ => (join, true)
  | .mmas _ _ _ _ _ => (0, true)
  | .mmah _ _ _ _ _ _ => (0, true)
  | .macc _ _ _ => (tagJoin (v.at f.acc) (v.at f.v).tag, (v.at f.v).written)
  | _ => (0, false)

/-- The first byte of a range, whose address may be negative, outside a window. -/
def firstOutsideI (lo hi : Nat) (r : Int × Nat) : Option Int :=
  let top : Int := (min hi Config.slateBytes : Nat)
  if r.2 = 0 then none
  else if r.1 < (lo : Int) then some r.1
  else if top < r.1 + (r.2 : Int) then some (max r.1 top)
  else none
/-- R210: bounds and modes of ranges. -/
def rangesCheck (t : Task) (cl : Cluster) (rs : List (Int × Nat)) : Verdict :=
  let lo := fldN 0 23 t.slbase
  match rs.findSome? (firstOutsideI lo (lo + fldN 0 24 t.slsize)) with
  | some a => .fault cBounds (a % (2 : Int) ^ 23).toNat
  | none => slateCheck lo (lo + fldN 0 24 t.slsize) cl (rs.map fun r => ⟨r.1.toNat, r.2⟩)

/-- Is pass j of an instruction in FP8 mode (R205)? -/
def passF8 (i : Instr) (v : MView) (j : Nat) : Bool :=
  let f := mf i
  !f.o && match i with
    | .mmas _ _ _ _ _ => !(v.at (f.acc + j)).imode
    | .mldb _ _ _ _ => true
    | _ => !(v.at f.acc).imode
/-- Every Slate range of a matrix instruction of n passes. -/
def mRanges (i : Instr) (n : Nat) (s1 s2 : Word) (v : MView) : List (Int × Nat) :=
  match i with
  | .mdrns _ _ opts _ _ _ => drainRanges opts.toNat s1 s2
  | _ => (List.range n).flatMap fun j =>
      passRows i s1 s2 j ++ (passImages i s2 (passF8 i v j) j).map fun x => ((x.1 : Int), x.2.1)
def mImages (i : Instr) (n : Nat) (s2 : Word) (v : MView) : List (Nat × Nat × List Nat) :=
  (List.range n).flatMap fun j => passImages i s2 (passF8 i v j) j

/-- Does an instruction access Slate? -/
def mAccess (i : Instr) : Bool := !(mRanges i 1 0 0 ⟨[], none⟩).isEmpty
/-- The multiple of which BASE has to be (R210, R225). -/
def mAlign (i : Instr) : Nat := match i with | .mdrns _ _ opts _ _ _ => if bitAt 2 opts then 128 else 16 | _ => 16
/-- The ranges that S1 alone decides: the rows of pass 0, or what MDRNS writes without its image. -/
def baseRanges (i : Instr) (s1 : Word) (v : MView) : List (Int × Nat) := mRanges i 1 s1 0 v
/-- The ranges that S2 alone decides: the scale images, of every pass or of MDRNS. -/
def imageRanges (i : Instr) (n : Nat) (s2 : Word) (v : MView) : List (Int × Nat) :=
  match i with
  | .mdrns _ _ opts _ _ _ =>
    if opts.toNat / 4 % 2 = 0 ∧ opts.toNat / 8 = 2 ∧ mScb s2 ≠ 0 then [((mScb s2 : Int), 136)] else []
  | _ => (mImages i n s2 v).map fun x => ((x.1 : Int), x.2.1)
/-- Alignment, bounds and modes of R210, with what is there of the two registers (R60, R351). -/
def mSlate (i : Instr) (n : Nat) (s1 s2 : Option Word) (s : State) (v : MView) : Verdict :=
  if !(mAccess i) then .go
  else
    let base := fun (w : Word) => if mBase w % mAlign i ≠ 0 then .fault cAlign (mBase w) else Verdict.go
    match s1, s2 with
    | some a, some b =>
      (base a).and (if 1 < n ∧ mTpitch b % 16 ≠ 0
        then .fault cAlign (((mBase a : Int) + mTpitch b) % (2 : Int) ^ 23).toNat
        else rangesCheck s.src s.myCl (mRanges i n a b v))
    | some a, none => (base a).and (rangesCheck s.src s.myCl (baseRanges i a v))
    | none, some b => rangesCheck s.src s.myCl (imageRanges i n b v)
    | none, none => .go

/-- The geometry words (R209), once their lines are full. -/
def mGeometry (imgs : List (Nat × Nat × List Nat)) (cl : Cluster) : Verdict :=
  match imgs.find? fun x => let w := slNum cl x.1 8; !(decide (w < 4) && x.2.2.contains w) with
  | some x => .fault cOrient (slDetail x.1)
  | none => .go

/-- The scalar operand of an M slot, none while it waits for its result. -/
def readyS (s : State) (n : BitVec 6) : Option Word :=
  if n != 0 && s.src.sbBusy (.s n.toNat) then none else some (s.rs n)
/-- The tiles that an M slot reads (R74). -/
def mTiles (i : Instr) (n : Nat) : List Nat :=
  match i with
  | .mma _ _ v _ _ _ => span v.toNat (min 32 (v.toNat + n))
  | .mmat _ _ v _ _ _ => span v.toNat (min 32 (v.toNat + n))
  | .mmah _ _ v _ _ _ => [v.toNat]
  | _ => []

/-- The accumulators that a job clears as MCLR does, and with them their poison (R221, R224, R225). -/
def accCleared (i : Instr) : List Nat :=
  match i with
  | .mclr _ a _ => [a.toNat]
  | .mdrn _ a _ _ true => [a.toNat]
  | .mdrns _ a opts _ _ true => span a.toNat (a.toNat + 2 ^ fldN 3 2 opts)
  | _ => []
/-- The poisoned accumulators as they will stand after the matrix instructions in the queue. -/
def Task.poisonedAccs (t : Task) : List Nat :=
  t.poisonA.filter fun n => !(t.mq.any fun j => (accCleared j.i).contains n)
/-- Poisoned accumulators that a slot reads: consumed when it issues (R357, R358). -/
def mPoison (i : Instr) (n : Nat) (t : Task) : Verdict :=
  match (accRead i n).find? t.poisonedAccs.contains with
  | some k => .poison 2 k
  | none => .go

/-- R211: one place for the instruction that executes, one for the one that waits; the waiting place is taken. -/
def Task.mPlaceTaken (t : Task) : Bool := decide (2 ≤ t.mq.length) || t.mq.any fun j => !j.begun && j.next == 0
/-- The records that the task's VLDTs have still to read. -/
def unreadRecords (t : Task) : List Range :=
  t.inflight.filterMap fun p => match p.val with | .record _ ea len _ => some ⟨ea, len⟩ | _ => none
/-- A matrix instruction that accesses Slate performs after the task's earlier core accesses (R213, R268): it waits for a VLDT that
has still to read its record and, unless it is itself a drain, which the engine runs after those before it, for an MDRNS. -/
def mWaits (i : Instr) (t : Task) : Bool :=
  mAccess i && (!(unreadRecords t).isEmpty || (!(isMdrns i) && t.mq.any fun j => isMdrns j.i))
/-- The geometry words of the scale images, each as soon as its line is full and no access before it is outstanding (R210, R351);
an instruction whose images are not all there stalls. -/
def mImageCheck (i : Instr) (n : Nat) (s2 : Word) (s : State) (v : MView) : Verdict :=
  let imgs := mImages i n s2 v
  let there := imgs.filter fun x => !(mWaits i s.src) && fullFor s s.cur s.nextId x.1 8
  (mGeometry there s.myCl).and (if there.length = imgs.length then .go else .stall)
/-- What a matrix slot's checks find (R351): illegal use, faults, stalls. -/
def mVerdict (i : Instr) (s : State) : Verdict :=
  let t := s.src
  let n := passCount i t
  let v := viewNow t
  let s1 := readyS s (mf i).s1
  let s2 := readyS s (mf i).s2
  if mIllegal i n s1 s2 v then .illegal 10
  else if (match i with | .mmas _ _ _ _ _ => v.bo.isNone | _ => false) then .fault cBBuf 0
  else
    let waits := s1.isNone || s2.isNone || t.mPlaceTaken ||
      (mTiles i n).any (fun k => t.sbBusy (.v k) || t.tileReadBusy k) || destStall i s || mWaits i t
    firstVerdict [mSlate i n s1 s2 s v, mDomain i n s s1 v, mPoison i n t, if waits then .stall else .go,
      match s2 with | some b => mImageCheck i n b s v | none => .go,
      match s1, s2 with
      | some a, some b =>
        if isMdrns i || (mRanges i n a b v).all fun r => fullFor s s.cur s.nextId r.1.toNat r.2 then .go else .stall
      | _, _ => .go]

-- Jobs.

/-- The slot word of an instruction (R51). -/
def slotWord (i : Instr) : BitVec 32 := match encode i with | some (.slot w _) => w | _ => 0

/-- A threshold set as captured (R230). -/
def Task.hset (t : Task) (n : Nat) : BitVec 128 := vget t.h n 0

/-- The set that a drain captures. -/
def drainSet (i : Instr) (t : Task) (s1 s2 : Word) : BitVec 128 :=
  match i with
  | .mdrn _ _ _ _ _ => t.hset (fldN 0 3 s1)
  | .mdrns _ _ _ _ _ _ => t.hset (fldN 0 3 s2)
  | _ => 0

/-- The Slate lines that passes j to n - 1 of an instruction read, as they stand. -/
def passImage (i : Instr) (j n : Nat) (s1 s2 : Word) (v : MView) (cl : Cluster) : SlateImg :=
  if isMdrns i then ⟨[], [], []⟩
  else
    cl.image (((List.range n).drop j).flatMap fun k =>
      (passRows i s1 s2 k ++ (passImages i s2 (passF8 i v k) k).map fun x => ((x.1 : Int), x.2.1)).map fun r => ⟨r.1.toNat, r.2⟩)
/-- The cluster as a job reads its Slate: the lines that it took when it issued (log 25) or, once its task was out, as they stand
(R51). -/
def MJob.sees (j : MJob) (cl : Cluster) : Cluster := match j.img with | some g => g.on cl | none => cl
/-- A matrix instruction enters its context's queue (R211); MDRN takes its tile (R72, R224). -/
def enqueue (i : Instr) (s : State) : State :=
  let n := passCount i s.src
  let s1 := s.rs (mf i).s1
  let s2 := s.rs (mf i).s2
  let k := mKeep i 0 n s (viewNow s.src)
  let j : MJob := { i := i, word := slotWord i, s1 := s1, s2 := s2, thr := drainSet i s.src s1 s2, n := n, next := 0,
                    begun := false, due := 0, retries := 0, id := s.nextId, atile := none, apois := false,
                    img := some (passImage i 0 n s1 s2 (viewNow s.src) s.myCl), tag := k.1, wr := k.2 }
  let t := s.me
  let t := match i with
    | .mdrn _ _ v _ _ => { t with inflight := t.inflight.map (supersede (some (.v v.toNat))) }
    | _ => t
  { s.setMe { t with mq := t.mq ++ [j] } with nextId := s.nextId + 1 }

-- Execution.

/-- A pass's A operand as tile rows: element (i, k) of a row-major tile, or K-major (R216). -/
def aTile (t : Tile) (bits16 : Bool) : AOp :=
  { rows := (List.range 16).filter fun i => !(t.absent i),
    el := fun i k => t.elem (if bits16 then 1 else 3) i k,
    scale := fun i c => vget t.side (2 * i + c) 0x3F800000 }
def aTileT (t : Tile) (bits16 : Bool) (img : Option (List Byte)) : AOp :=
  { rows := List.range 16,
    el := fun i k => if bits16 then t.elem 1 (k / 8) (16 * (k % 8) + i) else t.elem 3 (k / 16) (16 * (k % 16) + i),
    scale := fun i c => match img with | some b => BitVec.ofNat 32 (numAt (8 + 8 * i + 4 * c) 4 b) | none => 0x3F800000 }
def aSlate (rows : List (List Byte)) (bits16 : Bool) (img : Option (List Byte)) : AOp :=
  { rows := List.range 16,
    el := fun i k => if bits16 then numAt (2 * k) 2 (rows.getD i []) else numAt k 1 (rows.getD i []),
    scale := fun i c => match img with | some b => BitVec.ofNat 32 (numAt (8 + 8 * i + 4 * c) 4 b) | none => 0x3F800000 }
def bRows (rows : List (List Byte)) (bits16 : Bool) (scales : List (BitVec 32)) : BOp :=
  { el := fun k j => if bits16 then numAt (2 * j) 2 (rows.getD k []) else numAt j 1 (rows.getD k []),
    scale := fun c j => scales.getD (64 * c + j) 0x3F800000 }

def readRows (cl : Cluster) (rs : List (Int × Nat)) : List (List Byte) := rs.map fun r => slRead cl r.1.toNat r.2
/-- The scales of a B image, chunk by chunk. -/
def imgScales (cl : Cluster) (a : Nat) : List (BitVec 32) :=
  (List.range 128).map fun k => BitVec.ofNat 32 (slNum cl (a + 8 + 4 * k) 4)

/-- The accumulator that pass j updates. -/
def passAcc (j : MJob) : Nat :=
  match j.i with
  | .mmas _ a _ _ _ => a.toNat + j.next
  | .mmah _ a _ _ _ _ => a.toNat + j.next
  | _ => (mf j.i).acc

/-- The update of pass j.next on its accumulator: A tile t, cluster cl. -/
def passResult (j : MJob) (acc : Acc) (t : Tile) (bbuf : Option BBuf) (cl : Cluster) : Acc × Flags :=
  let o := (mf j.i).o
  let f8 := !o && !acc.imode
  let imgs := passImages j.i j.s2 f8 j.next
  let rows := readRows cl (passRows j.i j.s1 j.s2 j.next)
  let run := fun (a : AOp) (b : BOp) => if o then pass16 acc a b else if acc.imode then passInt acc a b else pass8 acc a b
  match j.i with
  | .mmas _ _ _ _ _ =>
    let img := imgs.head?.map fun x => slRead cl x.1 136
    match bbuf with
    | some b => run (aSlate rows o img) (bRows ((List.range (if o then 128 else 256)).map fun k =>
        bytesAt ((if o then 128 else 64) * k) (if o then 128 else 64) b.rows) o b.scales)
    | none => (acc, 0)
  | .mmat _ _ _ _ _ _ =>
    let sc := match imgs with | x :: _ => imgScales cl x.1 | [] => []
    let img := (imgs[1]?).map fun x => slRead cl x.1 136
    run (aTileT t o img) (bRows rows o sc)
  | .mmah _ _ _ _ _ _ =>
    let l := if isHaar t.tag then tagLevels t.tag else 0
    let cb := mCb j.s2 + j.next
    passHaar acc l { aTile t true with el := fun k i => t.elem 1 k (16 * cb + i) } (bRows rows true [])
  | _ =>
    let sc := match imgs with | x :: _ => imgScales cl x.1 | [] => []
    run (aTile t o) (bRows rows o sc)

/-- R206: the cycles of a pass that visits n rows, in the split configuration twice as long (R223). -/
def passTime (cfg : BitVec 3) (n : Nat) : Nat :=
  (if n = 0 then 1 else if n = 16 then 32 else 8 * ceilDiv n 4) * (if fld 0 2 cfg == 1 then 2 else 1)
/-- Rows that the pass in progress visits. -/
def visited (j : MJob) : Nat :=
  match j.i with
  | .mmas _ _ _ _ _ => 16
  | _ => match j.atile with
    | some t => if isHaar t.tag then popcount 16 t.mask.toNat else 16
    | none => 16
/-- Lines that hold one of the bytes written. -/
def linesWritten (ws : List (Nat × List Byte)) : Nat :=
  (ws.foldl (fun l w => (linesOf w.1 w.2.length).foldl setAdd l) ([] : List Nat)).length

/-- The bytes that MDRNS writes, with their addresses, and its flags (R225). -/
def drainWrites (j : MJob) (t : Task) : List (Nat × List Byte) × Flags :=
  match j.i with
  | .mdrns _ a opts _ _ _ =>
    let ef := fldN 3 2 opts
    let accs := (List.range (2 ^ ef)).map fun g => vget t.a (a.toNat + g) (Acc.clear false)
    let lv := if bitAt 1 opts then some (fldN 8 3 j.s2) else none
    let th := if bitAt 0 opts then some j.thr else none
    let d := drainOut accs ef lv th
    if bitAt 2 opts then
      ([(mBase j.s1, recBytes d.tag d.mask (efEfmt ef) (th.map fun h => (fldN 0 3 j.s2, h))
          (fun i b => (d.rows.getD i ([], [])).2.getD b 0x3F800000) (fun i => (d.rows.getD i ([], [])).1))], d.flags)
    else
      (((List.range 16).map fun i =>
          (mBase j.s1 + mPitch j.s1 * i, if bitAt i d.mask then (d.rows.getD i ([], [])).1 else List.replicate 256 0)) ++
        (if ef = 2 ∧ mScb j.s2 ≠ 0 then
          [(mScb j.s2, bytesOf 8 1 ++ d.rows.flatMap fun r => r.2.flatMap fun x => bytesOf 4 x.toNat)] else []), d.flags)
  | _ => ([], 0)
/-- The cycles of an operation of a task (R219, R221, R222, R224, R225). -/
def opTime (j : MJob) (t : Task) : Nat :=
  match j.i with
  | .mldb _ _ _ _ => 64
  | .mclr _ _ _ => 1
  | .macc _ _ _ => 16
  | .mdrn _ _ _ _ _ => 16
  | .mdrns _ _ _ _ _ _ => 16 + 2 * linesWritten (drainWrites j t).1
  | _ => 0

/-- v(n) as a pass reads it when it begins. -/
def passTile (s : State) (ctx n : Nat) : Tile :=
  let s' := { s with cur := ctx, before := none, slotNo := 0 }
  s'.rv (BitVec.ofNat 5 n)
/-- The tile of the pass that begins. -/
def passTileNo (j : MJob) : Option Nat :=
  match j.i with
  | .mma _ _ v _ _ _ => some (v.toNat + j.next)
  | .mmat _ _ v _ _ _ => some (v.toNat + j.next)
  | .mmah _ _ v _ _ _ => some v.toNat
  | _ => none
/-- A pass, or an operation, begins: its tile is read, and its time runs. -/
def startPass (s : State) (ctx : Nat) (j : MJob) : MJob :=
  let cfg := (s.core (coreOf ctx)).cfg
  let t := s.ctx ctx
  let j := { j with
    begun := true, retries := 0, atile := (passTileNo j).map (passTile s ctx),
    apois := match passTileNo j with | some n => t.poisonV.contains n | none => false }
  { j with due := s.cycle + if isMM j.i then passTime cfg (visited j) else opTime j t }

def setHead (t : Task) (j : MJob) : Task := { t with mq := j :: t.mq.tail }

/-- Poison in what the pass or operation in progress reads: the tile as it was when the pass began, its Slate bytes, its
accumulators, poisoned since it issued (R228, R357, R358). -/
def jobPoison (s : State) (ctx : Nat) (j : MJob) : Bool :=
  let t := s.ctx ctx
  let cl := j.sees (s.cl (clOf ctx))
  let acc := vget t.a (passAcc j) (Acc.clear false)
  let f8 := !(mf j.i).o && !(acc.imode && isMM j.i)
  ((passRows j.i j.s1 j.s2 j.next).any fun r => anyPoison cl r.1.toNat r.2) ||
    ((passImages j.i j.s2 f8 j.next).any fun x => anyPoison cl x.1 x.2.1) ||
    j.apois || (if isMM j.i then [passAcc j] else accRead j.i 1).any t.poisonA.contains

/-- A stop (R228): reason 0 residue, 1 uncorrectable, 2 poison. Which accumulator TRAPINFO[7:5] holds when pass j of MMAS or MMAH
stops, the field ACC or that of the pass, R228 does not say: the model's is the field ACC (log 74). -/
def matrixStop (s : State) (ctx reason : Nat) (j : MJob) : State :=
  let t := s.ctx ctx
  let info := j.next % 32 + (mf j.i).acc * 32 + mOpcode j.i * 256 + reason * 65536
  s.setCtx ctx { t with
    mq := [], mrepArmed := t.mrepArmed && !(isMM j.i), mrepleft := if isMM j.i then BitVec.ofNat 16 (j.n - j.next) else t.mrepleft,
    undefC := if isMM j.i then setDel t.undefC 0x12 else t.undefC,
    pend := t.pend ++ [⟨BitVec.ofNat 16 cMatrix, BitVec.ofNat 64 info, none⟩] }

/-- Before a context is saved, its matrix work stops at a pass boundary (R50, R226); that of a task that has issued EXIT runs on
to its end (R161). -/
def Task.holdsMatrix (t : Task) : Bool := (t.preempt || t.debug) && !t.exited && !t.handler && t.stub.isNone
/-- The pass in progress is applied, and the next one begins, or the instruction is complete. -/
def applyPass (s : State) (ctx : Nat) (j : MJob) : State :=
  let t := s.ctx ctx
  let n := passAcc j
  let acc := vget t.a n (Acc.clear false)
  let r := passResult j acc (j.atile.getD Tile.zero) t.bbuf (j.sees (s.cl (clOf ctx)))
  let tag := match j.i with
    | .mmas _ _ _ _ _ => if acc.written = 0 then 0 else acc.tag
    | .mmah _ _ _ _ _ _ => 0
    | _ => j.tag
  let t := ({ t with a := vput t.a n { r.1 with tag := tag } } : Task).raise s.cycle (r.2 &&& passFlags)
  let j' := { j with next := j.next + 1 }
  if j'.n ≤ j'.next then s.setCtx ctx { t with mq := t.mq.tail }
  else if t.holdsMatrix then s.setCtx ctx (setHead t { j' with begun := false, atile := none })
  else s.setCtx ctx (setHead t (startPass (s.setCtx ctx t) ctx j'))

/-- The accumulators of a drain cleared as by MCLR, modes kept (R224, R225). -/
def clearAccs (t : Task) (ns : List Nat) : Task :=
  { t with
    a := ns.foldl (fun a n => vput a n (Acc.clear (vget a n (Acc.clear false)).imode)) t.a,
    poisonA := t.poisonA.filter fun n => !(ns.contains n), undefA := t.undefA.filter fun n => !(ns.contains n) }

/-- An operation completes (R219, R221, R222, R224, R225). -/
def finishOp (s : State) (ctx : Nat) (j : MJob) : State :=
  let t0 := s.ctx ctx
  let t := { t0 with mq := t0.mq.tail }
  let f := mf j.i
  let acc := vget t.a f.acc (Acc.clear false)
  match j.i with
  | .mclr _ _ o =>
    s.setCtx ctx { t with
      a := vput t.a f.acc (Acc.clear o), poisonA := setDel t.poisonA f.acc, undefA := setDel t.undefA f.acc }
  | .macc _ _ src =>
    let r := passAdd acc (vget t.a src.toNat (Acc.clear false))
    s.setCtx ctx (({ t with
      a := vput t.a f.acc { r.1 with tag := j.tag },
      undefA := if t.undefA.contains src.toNat then setAdd t.undefA f.acc else t.undefA } : Task).raise s.cycle r.2)
  | .mldb _ _ _ o =>
    let cl := j.sees (s.cl (clOf ctx))
    let rows := readRows cl (passRows j.i j.s1 j.s2 0)
    let sc := match passImages j.i j.s2 (!o) 0 with
      | x :: _ => imgScales cl x.1
      | [] => List.replicate 128 0x3F800000
    s.setCtx ctx { t with bbuf := some ⟨o, rows.flatten, sc, j.s1, j.s2⟩ }
  | .mdrn _ _ v _ o =>
    let r := drainTile acc (!(bitAt 4 j.s1)) (bitAt 3 j.s1) j.thr
    let t := (t.setDest (.v v.toNat) (.tile r.1) false).raise s.cycle r.2
    s.setCtx ctx (if o then clearAccs t [f.acc] else t)
  | .mdrns _ _ opts _ _ o =>
    let w := drainWrites j t
    let cl := w.1.foldl (fun cl x => slWrite cl x.1 x.2) (s.cl (clOf ctx))
    let t := t.raise s.cycle w.2
    (s.setCl (clOf ctx) cl).setCtx ctx (if o then clearAccs t (span f.acc (f.acc + 2 ^ fldN 3 2 opts)) else t)
  | _ => s.setCtx ctx t

/-- A residue disagrees (R227): the retry is counted, and with RREP recorded. -/
def countRetry (s : State) (ctx : Nat) (j : MJob) : State :=
  let k := s.core (coreOf ctx)
  let s := s.setCore (coreOf ctx) { k with residue := k.residue + 1 }
  let t := s.ctx ctx
  let s := jobCount s t.job 17 true
  if bitAt 2 k.cfg then
    let q := launchQueue s t.launch
    (postRecord s t.job
      { kind := 12, reply := false, time := 0, source := sourceOf ctx 0 t.groupid, queue := q.1, value := q.2,
        detail := [BitVec.ofNat 64 (j.next % 32 + (mf j.i).acc * 32 + mOpcode j.i * 256)] }).1
  else s

-- The resume registers (R51).

/-- MRXnW of a job. -/
def resumeWord (j : MJob) : Word :=
  BitVec.ofNat 64 (2 ^ 63 + j.next * 2 ^ 40 + j.n * 2 ^ 32 + j.word.toNat)

/-- The registers as the part writes them when it saves a context: what still has passes to run. MRBA, MRBB and the O of MRBF are
those of the MLDB that loaded the buffer; where none has (it is empty, or its MLDB waits in entry 0) they hold their value at
task start, 0 (log 61). MRBF.VALID is set when either entry holds an MMAS. -/
def resumeRegs (t : Task) : Vector Word 9 :=
  let e := fun n => match t.mq[n]? with | some j => (resumeWord j, j.s1, j.s2) | none => (0, 0, 0)
  let hasS := t.mq.any fun j => match j.i with | .mmas _ _ _ _ _ => true | _ => false
  let valid := if hasS then 2 ^ 63 else 0
  let b : Word × Word × Word := match t.bbuf with
    | some b => (b.s1, b.s2, BitVec.ofNat 64 (valid + if b.o then 1 else 0))
    | none => (0, 0, BitVec.ofNat 64 valid)
  vgen 9 fun n =>
    match n with
    | 0 => (e 0).1 | 1 => (e 0).2.1 | 2 => (e 0).2.2
    | 3 => (e 1).1 | 4 => (e 1).2.1 | 5 => (e 1).2.2
    | 6 => b.1 | 7 => b.2.1 | _ => b.2.2

/-- A resume entry back in the queue. Its passes read the Slate bytes as they then stand (R51). A drain uses the threshold set that
it captured at issue, which travels with the context; an entry that a restore stub made up itself has none, and takes the set
in h (log 59). -/
def resumeJob (s : State) (ctx : Nat) (w a b : Word) (held : Option MJob) : Option MJob :=
  if !(bitAt 63 w) then none
  else
    match decodeM ⟨fld 0 32 w, 0, false⟩ with
    | .error _ => none
    | .ok i =>
      let t := s.ctx ctx
      let n := max 1 (fldN 32 6 w)
      let s' := { s with cur := ctx, before := none, slotNo := 0 }
      let k := mKeep i (fldN 40 6 w) n s' (viewNow t)
      some { i := i, word := fld 0 32 w, s1 := a, s2 := b,
             thr := match held with | some h => h.thr | none => drainSet i t a b, n := n, next := fldN 40 6 w,
             begun := false, due := 0, retries := 0, id := match held with | some h => h.id | none => s.nextId,
             atile := none, apois := false, img := none, tag := k.1, wr := k.2 }

/-- What restore, or the end of a restore stub, does with the resume registers (R51). -/
def actResume (s : State) (ctx : Nat) : State :=
  let t := s.ctx ctx
  let r := fun n => vget t.mrx n 0
  let s :=
    if bitAt 63 (r 8) then
      let i : Instr := .mldb 0 0 0 (bitAt 0 (r 8))
      let j : MJob := { i := i, word := slotWord i, s1 := r 6, s2 := r 7, thr := 0, n := 1, next := 0, begun := true,
                        due := 0, retries := 0, id := 0, atile := none, apois := false, img := none, tag := 0, wr := false }
      let s' := finishOp (s.setCtx ctx { t with mq := [j] }) ctx j
      s'.setCtx ctx { s'.ctx ctx with mq := t.mq }
    else s
  let add := fun (s : State) (n : Nat) =>
    match resumeJob s ctx (r (3 * n)) (r (3 * n + 1)) (r (3 * n + 2)) t.held[n]? with
    | none => s
    | some j => let t := s.ctx ctx; { s.setCtx ctx { t with mq := t.mq ++ [j] } with nextId := s.nextId + 1 }
  let s := add (add s 0) 1
  let t := s.ctx ctx
  s.setCtx ctx { t with mrx := Vector.replicate 9 0, held := [] }

end Sys2Proof.Machine
end

