-- ==== Sys2Proof/Machine/Issue.lean ====
section
/-!
DEFINITION. The beginning and the end of a bundle (R59, R60): the state in which its slots act, the loop sequencer and
its strides (R152 to R154), segment counts and signatures (R165, R361), and the next PC.
-/
namespace Sys2Proof.Machine

-- Loop levels (R34, R151 to R153).

/-- The address of the bundle after one. -/
def nextAddr (a : Word) : Word := addrOf (a + 16)
/-- A branch target: a signed number of bundles from an address (R79). -/
def branchTo (pc : Word) (off : Word) : Word := addrOf (pc + 16 * off)
def Task.bodyStart (t : Task) (d : Nat) : Word := addrOf ((fld 0 48 (vget t.lbody d 0)).zeroExtend 64 <<< 4)
def Task.bodyEnd (t : Task) (d : Nat) : Word :=
  addrOf (t.bodyStart d + 16 * BitVec.ofNat 64 (fldN 48 9 (vget t.lbody d 0)))
def Task.inBody (t : Task) (d : Nat) (a : Word) : Bool := t.bodyStart d ≤ a && a ≤ t.bodyEnd d
/-- LBODY of R34. -/
def bodyWord (start : Word) (len : BitVec 9) : Word := (0#7 ++ len) ++ fld 4 48 start

/-- A level ends (R151, R153): LCOUNT and its FIRST bit are 0, and LDEPTH falls to it. -/
def Task.endLevel (t : Task) (d : Nat) : Task :=
  { t with lcount := vput t.lcount d 0, first := t.first &&& ~~~ (1#6 <<< d), ldepth := BitVec.ofNat 3 d }

/-- What the loop sequencer did: the task, the next PC, the level that returned to its start. -/
structure Sequel where
  t : Task
  next : Word
  back : Option Nat
  deriving DecidableEq, Repr

/-- loop_end_action of R153, without the strides. -/
def loopEnd : Nat → Word → Task → Sequel
  | 0, a, t => ⟨t, nextAddr a, none⟩
  | fuel + 1, a, t =>
    let d := t.ldepth.toNat - 1
    if t.ldepth = 0 ∨ a ≠ t.bodyEnd d then ⟨t, nextAddr a, none⟩
    else if 1 < (vget t.lcount d 0).toNat then
      ⟨{ t with lcount := vput t.lcount d (vget t.lcount d 0 - 1), first := t.first &&& ~~~ (1#6 <<< d) },
        t.bodyStart d, some d⟩
    else loopEnd fuel a (t.endLevel d)

/-- What follows a bundle that takes no branch: the sequencer acts at its address, at the end of a body that a LOOP with
count 0 skips (R152), or not at all in a stub (R339). -/
def Task.sequel (t : Task) : Sequel :=
  if t.stub.isSome then ⟨t, nextAddr (match t.loop0 with | some a => a | none => t.pc), none⟩
  else loopEnd 7 (match t.loop0 with | some a => a | none => t.pc) t

/-- The strides of a level: register, addend (R34). -/
def strides (w : Word) : List (Nat × Word) :=
  (if bitAt 2 w then [(fldN 4 6 w, sext64 (fld 16 24 w))] else []) ++
    (if bitAt 3 w then [(fldN 10 6 w, sext64 (fld 40 24 w))] else [])

/-- A stride on a register (R154): the value before the bundle plus the stride, defined when every write that is in
flight for the register has passed its bound. -/
def addStride (stamp cycle ctx : Nat) (src : Task) (n : Nat) (x : Word) (t : Task) : Task :=
  if n = 0 then t
  else
    let base := if src.undefd (.s n) then Config.freeWord stamp (n + 64 * (4 + 8 * (ctx % 2))) else vget src.s n 0
    let p := src.poisonS.contains n
    let wait := t.inflight.filter fun q => q.dest == some (.s n)
    if wait.isEmpty then t.setDest (.s n) (.word (base + x)) p
    else
      t.write { dest := some (.s n), val := .word (base + x), flags := 0,
                due := wait.foldl (fun m q => max m q.due) cycle, sb := wait.any Pending.sb, early := 0, poison := p }
/-- The strides of a level that returned to its start; both of one register are added. -/
def addStrides (stamp cycle ctx : Nat) (src : Task) (w : Word) (t : Task) : Task :=
  match strides w with
  | [a, b] =>
    if a.1 = b.1 then addStride stamp cycle ctx src a.1 (a.2 + b.2) t
    else addStride stamp cycle ctx src b.1 b.2 (addStride stamp cycle ctx src a.1 a.2 t)
  | l => l.foldl (fun t a => addStride stamp cycle ctx src a.1 a.2 t) t

-- Segments (R165, R361).

/-- CRC-32C of a byte. -/
def crcFold (sig : BitVec 32) (b : Byte) : BitVec 32 :=
  (List.range 8).foldl (fun s _ => if bitAt 0 s then (s >>> 1) ^^^ 0x82F63B78#32 else s >>> 1)
    (sig ^^^ b.zeroExtend 32)
/-- The signature after a bundle. -/
def bundleSig (sig : BitVec 32) (bits : BitVec 128) (taken back : Bool) : BitVec 32 :=
  (bytesOf 16 bits.toNat ++ [BitVec.ofNat 8 ((if taken then 1 else 0) + if back then 2 else 0)]).foldl crcFold sig
/-- Does the task count its bundles? -/
def Task.counts (t : Task) : Bool := !t.handler && t.stub.isNone
/-- A bundle is counted. -/
def Task.counted (bits : BitVec 128) (taken back : Bool) (t : Task) : Task :=
  if !t.counts then t
  else { t with
    segcount := if bitAt 0 t.segSet then t.segcount else t.segcount + 1,
    segsig := if bitAt 1 t.segSet then t.segsig else bundleSig t.segsig bits taken back }
/-- The entry of the segment table for SEGID (R166). -/
def Task.segEntry (t : Task) : Option (Nat × Nat × Nat) := t.code.segs.find? fun e => e.1 == t.segid.toNat
/-- The mismatch of R166 when a SEG's bundle issues: judged on the state before it, whatever a CWR beside the SEG writes to
SEGID, SEGCOUNT, SEGSIG or a loop register (log 20); not while one of them is undefined (R7, R341). -/
def segMismatch (s : State) : Bool :=
  let t := s.src
  t.counts && !(t.undefC.contains 0x26 || t.undefC.contains 0x27 || t.undefC.contains 0x28) && match t.segEntry with
    | none => false
    | some e =>
      let t' := t.counted s.bits false t.sequel.back.isSome
      t'.segcount.toNat != e.2.1 || t'.segsig.toNat != e.2.2

-- A bundle begins and ends.

/-- The requests that slots leave for the end of their bundle, cleared. -/
def Task.settled (t : Task) : Task :=
  { t with branch := none, loop0 := none, swTrap := none, ret := none, segSet := 0 }

/-- The first bundle of a stub starts its time (R340). -/
def Task.stubBegins (cycle : Nat) (t : Task) : Task :=
  match t.stub with
  | some ⟨d, none, e⟩ => { t with stub := some ⟨d, some cycle, e⟩ }
  | _ => t
/-- A bundle begins to act: operands are read as they stand now (R59). MREPLEFT is consumed when the bundle holds a
matrix instruction that repeats, and cleared by the bundle after MREP; a stub's bundles leave it alone (R85, R226; log 43). -/
def opened (consumer : Bool) (s : State) : State :=
  let t := s.me.settled.stubBegins s.cycle
  let clears := consumer || (t.mrepArmed && t.stub.isNone)
  { s.setMe { t with
      mrepleft := if clears then 0 else t.mrepleft, mrepArmed := t.mrepArmed && !clears,
      undefC := if clears then setDel t.undefC 0x12 else t.undefC } with
    before := some s.me }

/-- The bundle has acted. -/
def shutBundle (s : State) (t : Task) : State :=
  let s := (s.setMe { t.settled with shield := false }).bump
  { s.bump with before := none, stamp := s.fresh }

/-- A restore stub ends (R51, R53, R256, R341). -/
def endRestore (s : State) : State :=
  let t := s.me
  match t.stub with
  | some ⟨false, _, _⟩ =>
    actResume (s.setMe { t with
      stub := none, flags := if t.pendCnf then t.flags ||| fCNF else t.flags, pendCnf := false }) s.cur
  | _ => s

/-- The wait that a trap interrupted is taken up again: its phase has passed, with the acquire, or it goes on (R159). -/
def resumeWait (s : State) (ctx : Nat) : State :=
  let t := s.ctx ctx
  match t.heldWait with
  | none => s
  | some w =>
    if phasePassed (getBell s (bellLoc (clOf ctx) w.bell)).phase w.phase then
      let s := acquireFor s ctx w.scope
      s.setCtx ctx { s.ctx ctx with heldWait := none }
    else s.setCtx ctx { t with heldWait := none, wait := some w }

/-- The end of a bundle that has issued: a return from the handler (R164), the end of the task (R161), a branch (R150),
or the loop sequencer (R153) and after it a software trap (R162). -/
def closeBundle (s : State) : State :=
  let t := s.me
  match t.ret with
  | some w =>
    let t' := t.counted s.bits false false
    resumeWait (endRestore (shutBundle s { t' with pc := addrOf w, first := fld 58 6 w, handler := false })) s.cur
  | none =>
    if t.exited then shutBundle s (t.counted s.bits false false)
    else
      match t.branch with
      | some a => shutBundle s { t.counted s.bits true false with pc := a }
      | none =>
        let q := t.sequel
        let t' := { q.t with pc := q.next }
        let t' := match q.back with
          | some d => addStrides s.stamp s.cycle s.cur s.src (vget t.lstride d 0) t'
          | none => t'
        match t.swTrap with
        | some code =>
          let s' := shutBundle s t'
          takeTrap s' s'.cur cSoft (code.zeroExtend 64) s'.me.pcWord
        | none => shutBundle s (t'.counted s.bits false q.back.isSome)

end Sys2Proof.Machine
end

