-- ==== Sys2Proof/Machine/Check.lean ====
section
/-!
DEFINITION. The checks that an S, X or V slot makes before its bundle issues (R60, R128, R140, R151, R152, R156, R167,
R170, R172, R197 to R203, R213, R357), and the addresses that its Slate accesses use.
-/
namespace Sys2Proof.Machine

-- Addresses.

/-- The window of a task's group (R37). -/
def Task.winLo (t : Task) : Nat := fldN 0 23 t.slbase
def Task.winHi (t : Task) : Nat := t.winLo + fldN 0 24 t.slsize
/-- The effective address of LDS and STS (R140). -/
def ldsAddr (s : State) (a : BitVec 6) (sz : BitVec 2) (imm : BitVec 10) : Nat :=
  (s.rs a + (sext64 imm <<< sz.toNat)).toNat
/-- PITCH, LSC and SCA of VLD and VST (R197). -/
def vPitch (b : Word) : Nat := fldN 0 24 b
def vLsc (b : Word) : Bool := bitAt 47 b
def vSca (b : Word) : Nat := fldN 24 23 b
/-- The rows, and the side-car image, that VLD and VST address. -/
def vRows (a b : Word) : List Range := (List.range 16).map fun i => ⟨a.toNat + i * vPitch b, 256⟩
def vImage (b : Word) : List Range := if vLsc b then [⟨vSca b, 128⟩] else []
def vRanges (a b : Word) : List Range := vRows a b ++ vImage b
/-- The slot of a thatch record (R121, R199). -/
def slotRange (a : Word) : Range := ⟨a.toNat, 4352⟩

-- Accesses.

/-- The Slate bytes that unfinished matrix instructions of a task still read (R213). -/
def unreadRanges (t : Task) : List Range :=
  (t.mq.foldl (fun (x : MView × List Range) j =>
    let rs := if isMdrns j.i then []
      else ((List.range j.n).drop j.next).flatMap fun k =>
        passRows j.i j.s1 j.s2 k ++ (passImages j.i j.s2 (passF8 j.i x.1 k) k).map fun m => ((m.1 : Int), m.2.1)
    (viewStep j.i j.n j.tag j.wr x.1, x.2 ++ rs.map fun r => ⟨r.1.toNat, r.2⟩)) (viewOf t, [])).2
/-- Does an access wait for the task's earlier accesses (R143, R198, R213, R268): an MDRNS, a VLDT that has still to read its
record, or, for a store, matrix operands that have still to be read? -/
def accessWaits (t : Task) (rs : List Range) (store : Bool) : Bool :=
  t.mq.any (fun j => isMdrns j.i) || !(unreadRecords t).isEmpty ||
    (store && rs.any fun r => (unreadRanges t).any (overlap r))
/-- The first byte of ranges that lies in a poisoned line, of the lines that are judged, in the order read. -/
def firstPoison (cl : Cluster) (judged : Nat → Bool) (rs : List Range) : Option Nat :=
  rs.findSome? fun r => ((linesOf r.addr r.len).find? fun l => cl.poison.contains l && judged l).map fun l => max r.addr (128 * l)
/-- A core access: bounds and modes, its waits, the poison that it consumes, and empty lines if it stalls on them, whose poison
is not judged yet (R60, R351). -/
def accessCheck (s : State) (rs : List Range) (store full reads : Bool) : Verdict :=
  let t := s.src
  match slateCheck t.winLo t.winHi s.myCl rs with
  | .go =>
    let has := fun (a n : Nat) => !full || fullFor s s.cur s.nextId a n
    if accessWaits t rs store then .stall
    else match if reads then firstPoison s.myCl (fun l => has (128 * l) 128) rs else none with
      | some a => .poison 0 a
      | none => if rs.all fun r => has r.addr r.len then .go else .stall
  | v => v
def alignCheck (al addr : Nat) : Verdict := if addr % al = 0 then .go else .fault cAlign (slDetail addr)

/-- Is a scalar register not the destination of a scoreboarded result (R73)? -/
def State.have (s : State) (n : BitVec 6) : Bool := n == 0 || !(s.src.sbBusy (.s n.toNat))
/-- A check that needs registers: judged when they are there. -/
def State.given (s : State) (l : List (BitVec 6)) (v : Verdict) : Verdict := if l.all s.have then v else .go

/-- A bell operand (R41, R156). -/
def bellCheck (s : State) (a : BitVec 6) : Verdict :=
  s.given [a] (if bellLegal s.src (fld 0 16 (s.rs a)) then .go else .fault cBell (fldN 0 16 (s.rs a)))
def illegalIf (b : Bool) : Verdict := if b then .illegal 10 else .go

-- Tags (R23, R118, R170, R174, R175).

/-- The tag of v(n) that a check judges: none while the matrix engine is still to write it, and none for an undefined one
(R7, R341). -/
def State.tagNow (s : State) (n : BitVec 5) : Option (BitVec 8) :=
  if s.src.tileReadBusy n.toNat || s.tagUndef n.toNat then none else some (s.vtag n.toNat)
def State.tagsNow (s : State) (l : List (BitVec 5)) : List (BitVec 8) := l.filterMap s.tagNow
/-- Every tag is valid. -/
def validTags (s : State) (l : List (BitVec 5)) : Verdict :=
  match (s.tagsNow l).find? fun t => !(tagValid t) with
  | some t => domainFault t 0
  | none => .go
/-- A reconstructing instruction (R175): a Haar operand only in the .f32 view. -/
def reconTags (s : State) (t : BitVec 3) (l : List (BitVec 5)) : Verdict :=
  (validTags s l).join
    (match (s.tagsNow l).find? fun x => isHaar x && t != 0 with
    | some x => domainFault x 0
    | none => .go)
/-- Equal DOM and LEVELS (R118). -/
def sameTag (a b : BitVec 8) : Bool := fld 0 5 a == fld 0 5 b
def equalTags (s : State) (a b : BitVec 5) : Verdict :=
  (validTags s [a, b]).join
    (match s.tagNow a, s.tagNow b with
    | some x, some y => if sameTag x y then .go else domainFault x y
    | _, _ => .go)
/-- D, read as an operand, against the tag of the result (R170). -/
def readsD (s : State) (d : BitVec 5) (tag : Option (BitVec 8)) : Verdict :=
  match s.tagNow d with
  | none => .go
  | some x =>
    if !(tagValid x) then domainFault x 0
    else match tag with
      | some y => if sameTag x y then .go else domainFault x y
      | none => .go
/-- The merge rule of R170. -/
def mergeTags (s : State) (d : BitVec 5) (k : BitVec 3) (m : Bool) (tag : Option (BitVec 8)) : Verdict :=
  if k != 0 && !m then readsD s d tag else .go

/-- The tile operands that an instruction reconstructs (R174). -/
def reconOps : Instr → List (BitVec 5)
  | .vmul _ _ a b _ _ => [a, b]
  | .vfma _ d a b _ _ => [a, b, d]
  | .vfms _ d a b _ _ => [a, b, d]
  | .vmin _ _ a b _ _ => [a, b]
  | .vmax _ _ a b _ _ => [a, b]
  | .vabs _ _ a _ _ => [a]
  | .vclamp _ _ a b _ _ => [a, b]
  | .vfn _ _ a _ _ _ => [a]
  | .vcmp _ _ a b _ => [a, b]
  | .vand _ _ a b _ _ => [a, b]
  | .vor _ _ a b _ _ => [a, b]
  | .vxor _ _ a b _ _ => [a, b]
  | .viadd _ _ a b _ _ => [a, b]
  | .vimul _ _ a b _ _ => [a, b]
  | .vshl _ _ a b _ _ => [a, b]
  | .vshr _ _ a b _ _ => [a, b]
  | .vscr _ _ a _ _ _ => [a]
  | .vbcr _ _ a _ => [a]
  | .vrotr _ _ a _ => [a]
  | .vredr _ _ a op => if op = 0 then [] else [a]
  | .vst _ d _ _ _ => [d]
  | .vpush _ d _ _ => [d]
  | _ => []
/-- Does an instruction reconstruct a Haar operand, which takes longer (R173)? -/
def reconstructs (i : Instr) (s : State) : Bool := (reconOps i).any fun n => isHaar (s.vtag n.toNat)

/-- The domain checks of a V slot. -/
def vDomain (i : Instr) (s : State) : Verdict :=
  let sp : Option (BitVec 8) := some 0
  match i with
  | .vadd _ d a b k m => (equalTags s a b).join (mergeTags s d k m (s.tagNow a))
  | .vsub _ d a b k m => (equalTags s a b).join (mergeTags s d k m (s.tagNow a))
  | .vmul t d _ _ k m => (reconTags s t (reconOps i)).join (mergeTags s d k m sp)
  | .vfma t d _ _ k m => (reconTags s t (reconOps i)).join (mergeTags s d k m sp)
  | .vfms t d _ _ k m => (reconTags s t (reconOps i)).join (mergeTags s d k m sp)
  | .vmin t d _ _ k m => (reconTags s t (reconOps i)).join (mergeTags s d k m sp)
  | .vmax t d _ _ k m => (reconTags s t (reconOps i)).join (mergeTags s d k m sp)
  | .vabs t d _ k m => (reconTags s t (reconOps i)).join (mergeTags s d k m sp)
  | .vneg _ d a k m => (validTags s [a]).join (mergeTags s d k m (s.tagNow a))
  | .vclamp t d _ _ k m => (reconTags s t (reconOps i)).join (mergeTags s d k m sp)
  | .vfn t d _ _ k m => (reconTags s t (reconOps i)).join (mergeTags s d k m sp)
  | .vcmp t _ _ _ _ => reconTags s t (reconOps i)
  | .vsel _ a b _ => equalTags s a b
  | .vand t d _ _ k m => (reconTags s t (reconOps i)).join (mergeTags s d k m sp)
  | .vor t d _ _ k m => (reconTags s t (reconOps i)).join (mergeTags s d k m sp)
  | .vxor t d _ _ k m => (reconTags s t (reconOps i)).join (mergeTags s d k m sp)
  | .vshl t d _ _ k m => (reconTags s t (reconOps i)).join (mergeTags s d k m sp)
  | .vshr t d _ _ k m => (reconTags s t (reconOps i)).join (mergeTags s d k m sp)
  | .viadd t d _ _ k m => (reconTags s t (reconOps i)).join (mergeTags s d k m sp)
  | .vimul t d _ _ k m => (reconTags s t (reconOps i)).join (mergeTags s d k m sp)
  | .vcvt t d a src _ k m =>
    (validTags s [a]).join
      (if viewCols src < viewCols t then readsD s d (s.tagNow a) else mergeTags s d k m (s.tagNow a))
  | .vqnt d a b h => (equalTags s a b).join (if h then readsD s d (s.tagNow a) else .go)
  | .vdq d a _ k m => (validTags s [a]).join (mergeTags s d k m (s.tagNow a))
  | .vscr t d _ _ k m => (reconTags s t (reconOps i)).join (mergeTags s d k m sp)
  | .vscc _ d a _ k m => (validTags s [a]).join (mergeTags s d k m (s.tagNow a))
  | .vbias _ d a _ k m => (validTags s [a]).join (mergeTags s d k m (s.tagNow a))
  | .vbcr t _ _ _ => reconTags s t (reconOps i)
  | .vbcc _ _ a _ => validTags s [a]
  | .vrotr t _ _ _ => reconTags s t (reconOps i)
  | .vrotc _ _ a _ => validTags s [a]
  | .vredr t _ a op => if op = 0 then validTags s [a] else reconTags s t (reconOps i)
  | .vredc _ _ a _ => validTags s [a]
  | .vshuf _ d a _ k m => (validTags s [a]).join (mergeTags s d k m (s.tagNow a))
  | .vshfr _ d a _ k m => (validTags s [a]).join (mergeTags s d k m (s.tagNow a))
  | .vhaar _ a _ _ _ =>
    (validTags s [a]).join (match s.tagNow a with | some x => if isHaar x then domainFault x 0 else .go | none => .go)
  | .vihaar _ a => validTags s [a]
  | .vthr _ a _ =>
    (validTags s [a]).join (match s.tagNow a with | some x => if isHaar x then .go else domainFault x 0 | none => .go)
  | .vmov d a k m => (validTags s [a]).join (mergeTags s d k m (s.tagNow a))
  | .vsplat _ d _ k m => mergeTags s d k m sp
  | .vins _ d _ _ => validTags s [d]
  | .vext _ d _ _ => validTags s [d]
  | .vld _ d _ _ k m => mergeTags s d k m sp
  | .vst t _ _ _ _ => reconTags s t (reconOps i)
  | .vstt t d _ sb =>
    (validTags s [d]).join
      (match s.tagNow d with
      | some x => s.given [sb] (if t == 0 && isHaar x && fld 4 3 (s.rs sb) != 0 then domainFault x 0 else .go)
      | none => .go)
  | .vpush t _ _ _ => reconTags s t (reconOps i)
  | _ => .go

-- Slate accesses of V slots.

/-- Alignment of VLD and VST (R197). -/
def vAlign (a b : Word) : Verdict :=
  if a.toNat % 128 ≠ 0 then .fault cAlign (slDetail a.toNat)
  else if vPitch b % 128 ≠ 0 then .fault cAlign (slDetail (a.toNat + vPitch b))
  else if vLsc b ∧ vSca b % 128 ≠ 0 then .fault cAlign (vSca b)
  else .go
/-- Bounds and modes of ranges in the task's window (R197). -/
def windowCheck (s : State) (rs : List Range) : Verdict := slateCheck s.src.winLo s.src.winHi s.myCl rs
/-- The checks of VLD and VST that one of their two registers decides while the other still waits for its result (R60, R351): of
the base the first row, of B the side-car image. -/
def vPart (s : State) (sa sb : BitVec 6) : Verdict :=
  if s.have sa && s.have sb then .go
  else
    (s.given [sa] ((alignCheck 128 (s.rs sa).toNat).and (windowCheck s [⟨(s.rs sa).toNat, 256⟩]))).join
      (s.given [sb] ((if vLsc (s.rs sb) then alignCheck 128 (vSca (s.rs sb)) else .go).and (windowCheck s (vImage (s.rs sb)))))
/-- VLDT (R199): the slot, then the header once its line is full. -/
def vldtCheck (s : State) (t : BitVec 3) (sa : BitVec 6) : Verdict :=
  let a := s.rs sa
  match (alignCheck 128 a.toNat).and (slateCheck s.src.winLo s.src.winHi s.myCl [slotRange a]) with
  | .go =>
    if accessWaits s.src [] false || !(fullFor s s.cur s.nextId a.toNat 128) then .stall
    else if anyPoison s.myCl a.toNat 128 then .poison 0 a.toNat
    else
      let h := slRead s.myCl a.toNat 128
      if recOk h && recEfmt h == t.toNat then .go else .fault cRecord (slDetail a.toNat)
  | v => v

/-- The entries of a FIFO bank that are in use (R201, R253; log 16). -/
def fifoUsed (f : Fifo) : Nat := f.rows.length + f.msgs.foldl (fun n m => n + msgEntries m.bytes.length) 0
def fifoDepth : Nat := 512
/-- The bank that VPUSH and VPOP name, and its bytes (R201). -/
def streamBank (s : State) (sa : BitVec 6) : Nat := fldN 0 6 (s.rs sa)
def bankRange (b : Nat) : Range := ⟨b * 0x20000, 0x20000⟩
/-- R201: the bank lies in the window, is not closing, and is in FIFO mode. -/
def streamCheck (s : State) (sa : BitVec 6) (ok : Fifo → Bool) : Verdict :=
  let b := streamBank s sa
  match firstOutside s.src.winLo s.src.winHi (bankRange b) with
  | some a => .fault cBounds (slDetail a)
  | none =>
    if touchesClosing s.myCl [bankRange b] then .stall
    else if bankMode s.myCl b ≠ 1 then .fault cMode (b * 0x20000 + bankMode s.myCl b * 2 ^ 24)
    else if accessWaits s.src [] false || !(ok (tabGet ⟨[], []⟩ s.myCl.fifo b)) then .stall
    else .go
/-- The rows that a VPUSH selects (R202). -/
def pushRows (k : BitVec 1024) : List Nat := (List.range 16).filter fun i => bitAt (64 * i) k
/-- The entries that a VPOP can take (R203). -/
def visible (cycle : Nat) (f : Fifo) : Nat := (f.rows.takeWhile fun r => decide (r.at' ≤ cycle)).length

/-- Poison that a VPOP consumes (R357): of an entry that it takes. The address is that of the bank (log 57). -/
def popPoison (s : State) (sa : BitVec 6) : Verdict :=
  let b := streamBank s sa
  let f := tabGet ⟨[], []⟩ s.myCl.fifo b
  if (f.rows.take (min 16 (visible s.cycle f))).any FRow.poison then .poison 0 (b * 0x20000) else .go

-- Checks by instruction.

/-- Are LDEPTH and the body of a level not undefined (R7, R341)? -/
def Task.levelKnown (t : Task) (l : Nat) : Bool := !(t.undefC.contains 0x13) && !(t.undefC.contains (0x20 + l))

/-- Illegal uses and faults of S and X slots. -/
def sxVerdict (i : Instr) (s : State) : Verdict :=
  let t := s.src
  match i with
  | .lds _ _ a sz _ fb imm =>
    let r : Range := ⟨ldsAddr s a sz imm, 2 ^ sz.toNat⟩
    s.given [a] ((alignCheck r.len r.addr).and (accessCheck s [r] false fb true))
  | .sts _ _ a sz imm =>
    let r : Range := ⟨ldsAddr s a sz imm, 2 ^ sz.toNat⟩
    s.given [a] ((alignCheck r.len r.addr).and (accessCheck s [r] true false false))
  | .amos _ _ a _ _ =>
    let r : Range := ⟨(s.rs a).toNat, 8⟩
    s.given [a] ((alignCheck 8 r.addr).and (accessCheck s [r] true false true))
  | .cwr _ d crn => s.given [d] (illegalIf (crn == 0x13 && fld 0 3 (s.rs d) == 7))
  | .br _ _ off =>
    let l := t.ldepth.toNat - 1
    illegalIf (t.ldepth != 0 && t.levelKnown l && t.inBody l t.pc && !(t.inBody l (branchTo t.pc (sext64 off))))
  | .loop _ len =>
    let e := addrOf (nextAddr t.pc + 16 * len.zeroExtend 64)
    let l := t.ldepth.toNat - 1
    illegalIf (t.stub.isSome || (t.levelKnown l && (decide (6 ≤ t.ldepth.toNat) ||
      (t.ldepth != 0 && t.inBody l t.pc && decide (t.bodyEnd l < e)))))
  | .arm a _ _ _ => bellCheck s a
  | .arrive a _ _ => bellCheck s a
  | .wait a _ _ => (illegalIf t.stub.isSome).join (bellCheck s a)
  | .exit => illegalIf t.stub.isSome
  | .cropen _ => illegalIf (t.stub.isSome || decide (4 ≤ t.crdepth.toNat))
  | .crclose => illegalIf (t.crdepth == 0)
  | .seg _ => if segMismatch s then .seg else .go
  | _ => .go

/-- Slate checks, stream stalls and domain checks of V slots; of two faults of one slot the Slate fault is reported
(log 18). -/
def vVerdict (i : Instr) (s : State) : Verdict :=
  let slate : Verdict := match i with
    | .vld _ _ sa sb _ _ => (vPart s sa sb).join (s.given [sa, sb] ((vAlign (s.rs sa) (s.rs sb)).and
        (accessCheck s (vRanges (s.rs sa) (s.rs sb)) false true true)))
    | .vst _ _ sa sb _ => (vPart s sa sb).join (s.given [sa, sb] ((vAlign (s.rs sa) (s.rs sb)).and
        (accessCheck s (vRanges (s.rs sa) (s.rs sb)) true false false)))
    | .vldt t _ sa => s.given [sa] (vldtCheck s t sa)
    | .vstt _ _ sa _ => s.given [sa] ((alignCheck 128 (s.rs sa).toNat).and
        (accessCheck s [slotRange (s.rs sa)] true false false))
    | .vpush _ _ sa k =>
      let rows := pushRows (s.rk k)
      let v := streamCheck s sa fun f => decide (fifoUsed f + rows.length ≤ fifoDepth)
      s.given [sa] (if rows.isEmpty && v == .stall then .go else v)
    | .vpop _ _ sa _ => s.given [sa] ((streamCheck s sa fun f => visible s.cycle f != 0).and (popPoison s sa))
    | _ => .go
  slate.join (vDomain i s)

/-- Occupancy of a vector unit (R173). -/
def vOccupancy (i : Instr) (s : State) : Nat :=
  let base := match i with
    | .vfn _ _ _ _ _ _ => 8
    | .vbcc _ _ _ _ => 8
    | .vrotc _ _ _ _ => 8
    | .vredc _ _ _ _ => 8
    | .vshuf _ _ _ _ _ _ => 8
    | .vqnt _ _ _ _ => 8
    | .vstt _ _ _ _ => 8
    | _ => 4
  base + if reconstructs i s then 4 else 0

end Sys2Proof.Machine
end

