-- ==== Sys2Proof/Machine/CheckC.lean ====
section
/-!
DEFINITION. Acceptance of copy commands (R230, R231): what a C slot captures, and the precise checks that it makes (R234
to R238, R244 to R248, R253, R254, R261 to R264, R345).
-/
namespace Sys2Proof.Machine

/-- The engine of a C slot (R59): the second C slot of a bundle goes to engine 1. -/
def slotEngine (s : State) : Nat :=
  engOf (coreOf s.cur) (if (List.range s.slotNo).any fun n => fld 29 3 (bundleSlot s.bits n) == 4 then 1 else 0)

/-- The staging word k of the group that a command names. -/
def stagedWord (t : Task) (i : Instr) (k : Nat) : Word :=
  match cmdGroup i with
  | some g => vget t.e (4 * g + k) 0
  | none => 0
/-- The threshold set that transform 5 captures, and the map of RSHD (R230). -/
def capturedThr (t : Task) : Instr → BitVec 128
  | .cpy _ _ _ x md => if x = 5 ∧ bitAt 5 md then t.hset (fldN 6 3 md) else 0
  | _ => 0
def capturedMap (t : Task) : Instr → BitVec 128
  | .rshd _ _ _ m => vget t.m m.toNat 0
  | _ => 0
/-- The descriptor of a bound slot, with the slot's BUSY. -/
def TSlot.bytes (x : TSlot) : Option (List Byte) :=
  x.desc.map fun d =>
    bytesAt 0 0x3A d ++ [BitVec.ofNat 8 (numAt 0x3A 1 d / 2 * 2 + if x.busy then 1 else 0)] ++ bytesAt 0x3B 5 d
def capturedDesc (t : Task) : Instr → Option (List Byte)
  | .tcpy _ _ _ _ n _ => (vget t.tbind n.toNat none).bind TSlot.bytes
  | _ => none
/-- Is the task of a shadow run (R345)? -/
def isShadow (s : State) (group : Nat) : Bool :=
  match tabFind s.groups group with
  | some g => g.run == 1
  | none => false

/-- The depth of the region to which a command belongs: the innermost one open before its bundle, so not one that a CROPEN
beside it opens (log 63); a CRCLOSE in a lower slot has passed it to the region around (R167). -/
def regionDepth (s : State) : Nat := min s.src.crdepth.toNat s.me.crdepth.toNat
/-- A command as its bundle presents it. -/
def newCmd (s : State) (i : Instr) : Cmd :=
  let t := s.src
  { id := s.nextId, i := i, tid := t.tid, launch := t.launch, group := t.group, cluster := clOf s.cur, job := t.job,
    w := vgen 4 (stagedWord t i), map := capturedMap t i, thr := capturedThr t i,
    region := if regionDepth s = 0 then none else some (regionDepth s - 1), time := s.ticks,
    desc := capturedDesc t i, begun := false, handed := false, idx := [], unit := 0, got := [], out := none, put := 0,
    srcpos := 0, dstpos := 0, srcSec := none, words := [], parts := [], landed := [], sent := none, tag := 0, reply := none, halt := none, fail := none,
    pages := [], shadow := isShadow s t.group }

-- Slate ranges of the local side (R37, R238).

def rowsOf (a n pitch k : Nat) : List Range := (List.range k).map fun j => ⟨a + j * pitch, n⟩
/-- The units of a tile layout. -/
def Cmd.tileUnits (c : Cmd) : Nat := c.trows * c.tcols
/-- Does the FP32 side of a tile-layout transform lie in Slate (R239)? -/
def Cmd.fp32InSlate (c : Cmd) : Bool := fp32Source c.xf == cmdDir c.i
/-- Does a command name scale images in Slate (R237)? -/
def Cmd.hasSca (c : Cmd) : Bool := (c.xf == 3 || c.xf == 4 || c.xf == 7) && !c.fp32InSlate
/-- The local rows of a row-shaped copy. -/
def Cmd.localRows (c : Cmd) : List Range :=
  if c.rowbytes = 0 then []
  else if c.xf = 1 ∧ !(cmdDir c.i) then rowsOf c.saddr (c.rows * c.esize) c.spitch (c.rowbytes / c.esize)
  else if c.xf = 2 ∧ !(cmdDir c.i) then rowsOf c.saddr (c.rowbytes / 2) c.spitch c.rows
  else rowsOf c.saddr c.rowbytes c.spitch c.rows
/-- The Slate side of a tile-layout transform. -/
def Cmd.localTiles (c : Cmd) : List Range :=
  let u := c.tileUnits
  if u = 0 then []
  else if c.xf = 7 then
    if c.fp32InSlate then [⟨c.saddr, 262144 * u⟩] else [⟨c.saddr, 131072 * u⟩, ⟨c.sca, 4256 * u⟩]
  else if c.xf = 3 ∨ c.xf = 4 then
    if c.fp32InSlate then [⟨c.saddr, 16384 * u⟩] else [⟨c.saddr, 4096 * u⟩, ⟨c.sca, 136 * u⟩]
  else if c.fp32InSlate then [⟨c.saddr, 64 * c.unitCols * u⟩]
  else [⟨c.saddr, 4352 * u⟩]
/-- COUNT and the list of GATH and SCAT (R247). -/
def Cmd.count (c : Cmd) : Nat := fldN 24 16 (c.word 3)
def Cmd.listAddr (c : Cmd) : Nat := fldN 0 23 (c.word 2)
def Cmd.localRanges (c : Cmd) : List Range :=
  match c.i with
  | .cpy _ _ _ x _ => if x.toNat ≤ 2 then c.localRows else c.localTiles
  | .cpys _ _ _ _ _ => c.localRows
  | .tcpy _ _ _ _ _ _ =>
    if c.e0 = 0 then [] else rowsOf (fldN 0 23 (c.word 2)) (c.e0 * c.slateElem) (fldN 23 24 (c.word 2)) c.e1
  | .gath _ _ _ x =>
    ⟨c.listAddr, 4 * c.count⟩ :: rowsOf c.saddr (if x = 2 then c.grows / 2 else c.grows) c.spitch c.count
  | .scat _ _ _ _ => ⟨c.listAddr, 4 * c.count⟩ :: rowsOf c.saddr c.grows c.spitch c.count
  | .ramo _ _ _ _ ret => if ret then [⟨fldN 0 23 (c.word 3), 8⟩] else []
  | .chsnd _ _ _ => [⟨c.saddr, fldN 0 17 (c.word 2)⟩]
  | .chrcv _ _ _ => [⟨c.saddr, 16 + fldN 0 17 (c.word 2)⟩]
  | .qpush _ _ _ _ => if fldN 0 7 (c.word 2) ≤ 64 then [⟨c.saddr, 64 * fldN 0 7 (c.word 2)⟩] else []
  | .sete _ _ _ => [⟨c.saddr, fldN 0 24 (c.word 2)⟩]
  | _ => []

-- Alignment (R236, R237, R238).

/-- Slate addresses or pitches with their alignment: the first that fails is the fault's address. -/
def slateAligns (c : Cmd) : List (Nat × Nat × Nat) :=   -- value, alignment, address for the fault
  match c.i with
  | .cpy _ _ _ x _ =>
    match x.toNat with
    | 0 => [(c.saddr, 16, c.saddr), (c.spitch, 16, c.saddr)]
    | 1 => [(c.saddr, c.esize, c.saddr)]
    | 2 => [(c.saddr, 16, c.saddr)]
    | _ => (c.saddr, 128, c.saddr) :: if c.hasSca then [(c.sca, 8, c.sca)] else []
  | .cpys _ _ _ x _ =>
    let r := fldN 0 23 (c.word 0)
    match x.toNat with
    | 0 => [(c.saddr, 16, c.saddr), (c.spitch, 16, c.saddr), (r, 16, r), (c.gpitch, 16, r)]
    | 1 => [(c.saddr, c.esize, c.saddr), (r, c.esize, r)]
    | _ => [(c.saddr, 16, c.saddr), (r, 16, r)]
  | .tcpy _ _ _ _ _ _ => let a := fldN 0 23 (c.word 2); [(a, c.slateElem, a)]
  | .gath _ _ _ x =>
    [(c.listAddr, 4, c.listAddr), (c.saddr, 16, c.saddr)] ++ if x = 0 then [(c.spitch, 16, c.saddr)] else []
  | .scat _ _ _ x =>
    [(c.listAddr, 4, c.listAddr), (c.saddr, 16, c.saddr)] ++ if x = 0 then [(c.spitch, 16, c.saddr)] else []
  | .ramo _ _ _ _ ret => let a := fldN 0 23 (c.word 3); if ret then [(a, 8, a)] else []
  | .chsnd _ _ _ => [(c.saddr, 16, c.saddr)]
  | .chrcv _ _ _ => [(c.saddr, 128, c.saddr)]
  | .qpush _ _ _ _ => [(c.saddr, 64, c.saddr)]
  | .sete _ _ _ => [(c.saddr, 128, c.saddr)]
  | _ => []
/-- Global addresses and pitches, and sizes: a value and what it is a multiple of. -/
def copyAligns (c : Cmd) : List (Nat × Nat) :=
  match c.i with
  | .cpy _ _ _ x _ =>
    match x.toNat with
    | 0 => [(c.va, 16), (c.gpitch, 16), (c.rowbytes, 16)]
    | 1 => [(c.va, c.esize), (c.rowbytes, 64 * c.esize), (c.rows, 16)]
    | 2 => [(c.va, 16), (c.rowbytes, 32)]
    | _ => (c.va, 128) :: if c.fp32InSlate then [] else [(c.gpitch, 128)]
  | .cpys _ _ _ x _ =>
    match x.toNat with
    | 0 => [(c.rowbytes, 16)]
    | 1 => [(c.rowbytes, 64 * c.esize), (c.rows, 16)]
    | _ => [(c.rowbytes, 32)]
  | .tbind _ _ _ _ => [(c.va, 64)]
  | .gath _ _ _ x => if x = 0 then [(c.va, 16), (c.gpitch, 16), (c.grows, 16)] else [(c.va, 16), (c.grows, 32)]
  | .scat _ _ _ x => if x = 0 then [(c.va, 16), (c.gpitch, 16), (c.grows, 16)] else [(c.va, 16), (c.grows, 32)]
  | .ramo _ _ _ _ _ => [(c.va, 8)]
  | .pfch _ _ _ _ => [(c.va, 128), (fldN 0 40 (c.word 2), 128)]
  | .chsnd _ _ _ => let n := fldN 0 17 (c.word 2); [(n, 16), (n / 65537, 2)]
  | .sete _ _ _ => [(fldN 0 24 (c.word 2), 128)]
  | _ => []
def cAligns (c : Cmd) : Verdict :=
  match (slateAligns c).find? fun x => x.1 % x.2.1 != 0 with
  | some x => .fault cAlign x.2.2
  | none => if (copyAligns c).any fun x => x.1 % x.2 != 0 then .fault cCopyAlign 0 else .go

-- Checks by command.

/-- Is the launch of a task replicated (R322, R345)? -/
def inRepl (s : State) : Bool :=
  match tabFind s.launches s.src.launch with
  | some l => bitAt 1 l.flags
  | none => false
/-- The commands that a replicated launch may not use (R345). -/
def replIllegal : Instr → Bool
  | .ramo _ _ _ _ _ => true
  | .chsnd _ _ _ => true
  | .chrcv _ _ _ => true
  | .coll _ _ _ _ _ _ => true
  | .rshd _ _ _ _ => true
  | .ckcut _ _ _ => true
  | .migr _ _ _ => true
  | .qpush _ _ _ _ => true
  | _ => false
/-- TCPY (R246): unbound slot, its TBIND outstanding, transform 2 on another format, partial sums, resharding. -/
def tcpyCheck (t : Task) (mp : Word) (n : Nat) (x : BitVec 4) (dir : Bool) : Verdict :=
  match vget t.tbind n none with
  | none => .illegal 10
  | some b =>
    match b.desc with
    | none => .stall
    | some d =>
      if x = 2 ∧ descEfmt d ≠ 0 ∧ descValid d (descMap d) mp then .illegal 10
      else if !dir && (mapAxes (descMap d)).any fun a => a.dim == 7 then .fault cPartial n
      else if dir && b.busy then .fault cReshard n
      else .go
/-- BMODE (R38, R264, R326): the bank lies in the window, outside every save area. -/
def bmodeCheck (s : State) (c : Cmd) : Verdict :=
  let r := bankRange (fldN 0 6 (c.word 1))
  let t := s.src
  match firstOutside t.winLo t.winHi r with
  | some a => .fault cBounds (slDetail a)
  | none =>
    let saves := if bitAt 63 t.savebase then t.winHi else t.winHi - Config.saveBytes * fldN 16 5 t.taskid
    if saves < r.addr + r.len then .fault cBounds (slDetail (max r.addr saves))
    else if touchesClosing s.myCl [r] then .stall
    else .go
/-- Bells that a command names (R235, R261). -/
def cBellCheck (s : State) (c : Cmd) : Verdict :=
  if (c.bv || c.ca) && !(bellLegal s.src c.bell) then .fault cBell c.bell.toNat
  else match c.i with
    | .ckcut _ _ _ =>
      let b : BitVec 16 := fld 0 16 (c.word 1)
      if bitAt 16 (c.word 1) && !(bellLegal s.src b) then .fault cBell b.toNat else .go
    | _ => .go

/-- Is BUSY of an accepted RSHD still to be written? Until it is, the package accepts no further command (R314). -/
def busyPending (s : State) : Bool :=
  s.engs.any fun e => e.2.any fun c =>
    (match c.i with | .rshd _ _ _ _ => c.fail.isNone && !c.handed | _ => false) && s.wbs.any fun w => w.owner == c.id
/-- What the checks of a C slot find. FENCE, REL and TLBI are markers: they take none of the 8 places of a queue and never
wait for one (log 64). -/
def cVerdict (i : Instr) (s : State) : Verdict :=
  let c := newCmd s i
  match cmdGroup i with
  | none => .go
  | some _ =>
    let rs := c.localRanges.filter fun r => r.len != 0
    let special : Verdict := match i with
      | .tcpy _ _ _ x n dir => tcpyCheck s.src s.meshpos n.toNat x dir
      | .bmode _ _ _ _ => bmodeCheck s c
      | .ckcut _ _ _ => illegalIf (!(c.ca && !c.bv && fld 14 2 c.bell == 2))
      | _ => .go
    firstVerdict
      [illegalIf (inRepl s && replIllegal i), special, cBellCheck s c,
       if special ≠ .go then .go else (cAligns c).and (slateCheck s.src.winLo s.src.winHi s.myCl rs),
       if (!rs.isEmpty && accessWaits s.src [] false) || busyPending s then .stall else .go,
       if 8 ≤ ((s.eng (slotEngine s)).filter fun x => !x.marker && !x.handed).length then .stall else .go]

end Sys2Proof.Machine
end

