-- ==== Sys2Proof/Machine/Settle.lean ====
section
/-!
DEFINITION. The verdict on one slot (R351), and how the meaning of a slot runs: as a part of a bundle that has been
judged, or as a whole bundle of its own (R60, R70, R351, R352).
-/
namespace Sys2Proof.Machine

/-- Is an instruction a slot of the V unit? -/
def isV : Instr → Bool
  | .vadd _ _ _ _ _ _ => true
  | .vsub _ _ _ _ _ _ => true
  | .vmul _ _ _ _ _ _ => true
  | .vfma _ _ _ _ _ _ => true
  | .vfms _ _ _ _ _ _ => true
  | .vmin _ _ _ _ _ _ => true
  | .vmax _ _ _ _ _ _ => true
  | .vabs _ _ _ _ _ => true
  | .vneg _ _ _ _ _ => true
  | .vclamp _ _ _ _ _ _ => true
  | .vfn _ _ _ _ _ _ => true
  | .vcmp _ _ _ _ _ => true
  | .vsel _ _ _ _ => true
  | .kand _ _ _ => true
  | .kor _ _ _ => true
  | .knot _ _ => true
  | .vand _ _ _ _ _ _ => true
  | .vor _ _ _ _ _ _ => true
  | .vxor _ _ _ _ _ _ => true
  | .vshl _ _ _ _ _ _ => true
  | .vshr _ _ _ _ _ _ => true
  | .viadd _ _ _ _ _ _ => true
  | .vimul _ _ _ _ _ _ => true
  | .vcvt _ _ _ _ _ _ _ => true
  | .vqnt _ _ _ _ => true
  | .vdq _ _ _ _ _ => true
  | .vscr _ _ _ _ _ _ => true
  | .vscc _ _ _ _ _ _ => true
  | .vbias _ _ _ _ _ _ => true
  | .vbcr _ _ _ _ => true
  | .vbcc _ _ _ _ => true
  | .vrotr _ _ _ _ => true
  | .vrotc _ _ _ _ => true
  | .vredr _ _ _ _ => true
  | .vredc _ _ _ _ => true
  | .vshuf _ _ _ _ _ _ => true
  | .vshfr _ _ _ _ _ _ => true
  | .vhaar _ _ _ _ _ => true
  | .vihaar _ _ => true
  | .vthr _ _ _ => true
  | .vtag _ _ _ => true
  | .vmov _ _ _ _ => true
  | .vsplat _ _ _ _ _ => true
  | .viota _ _ _ => true
  | .vins _ _ _ _ => true
  | .vext _ _ _ _ => true
  | .vld _ _ _ _ _ _ => true
  | .vst _ _ _ _ _ => true
  | .vldt _ _ _ => true
  | .vstt _ _ _ _ => true
  | .vpush _ _ _ _ => true
  | .vpop _ _ _ _ => true
  | .vflags _ _ => true
  | _ => false

/-- Illegal uses that stand in the encoding alone; suppression does not excuse them (R85, R218). -/
def staticIllegal : Instr → Bool
  | .mrep _ count => count == 0
  | .mmah _ _ _ _ _ o => !o
  | _ => false

/-- The M unit: MREP has no queue to wait for (R211). -/
def mUnitVerdict (i : Instr) (s : State) : Verdict :=
  match i with
  | .mma _ _ _ _ _ _ => mVerdict i s
  | .mmas _ _ _ _ _ => mVerdict i s
  | .mmat _ _ _ _ _ _ => mVerdict i s
  | .mmah _ _ _ _ _ _ => mVerdict i s
  | .mldb _ _ _ _ => mVerdict i s
  | .mclr _ _ _ => mVerdict i s
  | .macc _ _ _ => mVerdict i s
  | .mcfg _ _ => mVerdict i s
  | .mdrn _ _ _ _ _ => mVerdict i s
  | .mdrns _ _ _ _ _ _ => mVerdict i s
  | _ => .go

/-- A free vector unit, while the bundle is not yet acting (R68). -/
def vectorFree (s : State) : Nat := ((s.core (coreOf s.cur)).vfree.toList.filter fun c => decide (c ≤ s.cycle)).length

/-- What the checks of one slot find. -/
def slotVerdict (i : Instr) (s : State) : Verdict :=
  if staticIllegal i then .illegal 10
  else if suppressed i s then .go
  else
    firstVerdict
      [sxVerdict i s, regsPoison i s, if isV i then vVerdict i s else .go, mUnitVerdict i s, cVerdict i s,
       if regsStall i s || destStall i s || (isV i && vectorFree s == 0) then .stall else .go]

/-- The scalar registers that the loop sequencer will update after the bundle (R153, R154): a scoreboarded one stalls. -/
def strideWaits (s : State) (l : List Instr) : Bool :=
  let t := s.src
  let taken := l.any fun i => match i with
    | .br _ _ _ => !(suppressed i s)
    | .jmp _ => true
    | .jmpr _ _ _ => !(suppressed i s)
    | .call _ => true
    | .ret _ _ => !(suppressed i s)
    | .tret => true
    | .exit => true
    | .loop a _ => fldN 0 32 (s.rs a) != 0
    | _ => false
  let skip := l.findSome? fun i => match i with
    | .loop _ len => some (addrOf (nextAddr t.pc + 16 * len.zeroExtend 64))
    | _ => none
  if taken then false
  else
    match ({ t with loop0 := skip } : Task).sequel.back with
    | some d => (strides (vget t.lstride d 0)).any fun x => x.1 != 0 && t.sbBusy (.s x.1)
    | none => false

/-- The verdict on a bundle of one slot. -/
def verdict (i : Instr) (s : State) : Verdict :=
  firstVerdict [slotVerdict i s, if strideWaits s [i] then .stall else .go]

/-- What a slot does when its bundle acts: nothing when it is suppressed (R70). -/
def act (i : Instr) (effect : State → State) (s : State) : State := if suppressed i s then s else effect s

/-- A slot that is a bundle of its own: its checks, its effect and the end of the bundle. -/
def alone (i : Instr) (effect : State → State) (s : State) : State :=
  match verdict i s with
  | .go => closeBundle (act i effect (opened (isMM i) s))
  | .stall => s
  | v => s.divert s.slotNo v

/-- The meaning of a slot from its effect. In a bundle whose slots have been judged together, it acts; otherwise it is a
whole bundle. -/
def settle (i : Instr) (effect : State → State) (s : State) : Host.Outcome State Fault Refusal :=
  .next (if s.before.isSome then act i effect s else alone i effect s)

/-- A V slot takes a free vector unit (R68, R173). -/
def takeUnit (i : Instr) (s : State) : State :=
  let k := s.core (coreOf s.cur)
  let n := if vget k.vfree 0 0 ≤ s.cycle then 0 else 1
  s.setCore (coreOf s.cur) { k with vfree := vput k.vfree n (s.cycle + vOccupancy i s) }

end Sys2Proof.Machine
end

