-- ==== Sys2Proof/Machine/Copy.lean ====
section
/-!
DEFINITION. The C unit: copy commands are accepted (R230, R231), with what acceptance itself does (R245, R254, R264, R271,
R314); FENCE and REL (R251), and TLBI (R252).
-/
namespace Sys2Proof.Machine

/-- A command enters the queue of its slot's engine (R231). -/
def accept (i : Instr) (s : State) : State :=
  let e := slotEngine s
  { s.setEng e (s.eng e ++ [newCmd s i]) with nextId := s.nextId + 1 }

def execCpy (p : BitVec 3) (g : BitVec 2) (cls xf : BitVec 4) (md : BitVec 9) (s : State) :
    Host.Outcome State Fault Refusal := settle (.cpy p g cls xf md) (accept (.cpy p g cls xf md)) s
def execCpys (p : BitVec 3) (g : BitVec 2) (cls xf : BitVec 4) (md : BitVec 9) (s : State) :
    Host.Outcome State Fault Refusal := settle (.cpys p g cls xf md) (accept (.cpys p g cls xf md)) s

/-- TBIND (R245): until it has performed, the slot is bound and its descriptor is not known. -/
def acceptTbind (i : Instr) (slot : BitVec 3) (s : State) : State :=
  let va := (newCmd s i).va
  accept i (s.setMe { s.me with tbind := vput s.me.tbind slot.toNat (some ⟨va, none, false⟩) })
def execTbind (p : BitVec 3) (g : BitVec 2) (cls : BitVec 4) (slot : BitVec 3) (s : State) :
    Host.Outcome State Fault Refusal := settle (.tbind p g cls slot) (acceptTbind (.tbind p g cls slot) slot) s
def execTcpy (p : BitVec 3) (g : BitVec 2) (cls xf : BitVec 4) (slot : BitVec 3) (dir : Bool) (s : State) :
    Host.Outcome State Fault Refusal := settle (.tcpy p g cls xf slot dir) (accept (.tcpy p g cls xf slot dir)) s
def execGath (p : BitVec 3) (g : BitVec 2) (cls xf : BitVec 4) (s : State) : Host.Outcome State Fault Refusal :=
  settle (.gath p g cls xf) (accept (.gath p g cls xf)) s
def execScat (p : BitVec 3) (g : BitVec 2) (cls xf : BitVec 4) (s : State) : Host.Outcome State Fault Refusal :=
  settle (.scat p g cls xf) (accept (.scat p g cls xf)) s
def execRamo (p : BitVec 3) (g : BitVec 2) (cls : BitVec 4) (op : BitVec 3) (ret : Bool) (s : State) :
    Host.Outcome State Fault Refusal := settle (.ramo p g cls op ret) (accept (.ramo p g cls op ret)) s
def execPfch (p : BitVec 3) (g : BitVec 2) (cls : BitVec 4) (tgt : Bool) (s : State) :
    Host.Outcome State Fault Refusal := settle (.pfch p g cls tgt) (accept (.pfch p g cls tgt)) s
def execMigr (p : BitVec 3) (g : BitVec 2) (cls : BitVec 4) (s : State) : Host.Outcome State Fault Refusal :=
  settle (.migr p g cls) (accept (.migr p g cls)) s

-- Fences and markers.

/-- FENCE and REL (R251): with an empty mask nothing is ordered; a wide REL writes the cluster cache back all the same. -/
def fenceOn (rel : Bool) (mask : BitVec 16) (scope : BitVec 2) (s : State) : State :=
  let t := s.src
  if mask = 0 then
    if rel && scope != 0 then cacheRelease s (clOf s.cur) t.group else s
  else
    State.progress { s with
      fences := s.fences ++ [{ tid := t.tid, id := s.nextId, group := t.group, cluster := clOf s.cur, mask := mask,
                               scope := scope, rel := rel, released := false }],
      nextId := s.nextId + 1 }
def execFence (p : BitVec 3) (scope : BitVec 2) (mask : BitVec 16) (s : State) : Host.Outcome State Fault Refusal :=
  settle (.fence p scope mask) (fenceOn false mask scope) s
def execRel (p : BitVec 3) (scope : BitVec 2) (mask : BitVec 16) (s : State) : Host.Outcome State Fault Refusal :=
  settle (.rel p scope mask) (fenceOn true mask scope) s

/-- A command as a marker (R252). -/
def markerCmd (job : BitVec 32) (id tid cluster : Nat) : Cmd :=
  { id := id, i := .tlbi 0, tid := tid, launch := 0, group := 0, cluster := cluster, job := job,
    w := Vector.replicate 4 0, map := 0, thr := 0, region := none, time := 0, desc := none, begun := false,
    handed := false, idx := [], unit := 0, got := [], out := none, put := 0, srcpos := 0, dstpos := 0, srcSec := none,
    words := [], parts := [], landed := [], sent := none, tag := 0, reply := none, halt := none, fail := none, pages := [], shadow := false }
/-- Translations that a cluster's unit discards, and with them the walks of such pages that ended in a fault. -/
def Cluster.forget (cl : Cluster) (f : TlbEnt → Bool) : Cluster :=
  { cl with tlb := cl.tlb.filter fun e => !(f e),
            walks := cl.walks.filter fun w => w.fault.isNone || !(f ⟨w.job, alignDown 65536 w.va, 3, 0⟩) }
def dropTlb (s : State) (cluster : Nat) (f : TlbEnt → Bool) : State := s.setCl cluster ((s.cl cluster).forget f)
/-- Is an engine halted at a deferred fault (R265)? -/
def engineHalted (s : State) (e : Nat) : Bool := (s.eng e).any fun c => c.halt.isSome
/-- A marker enters an engine; a halted engine passes it at once (R252). -/
def insertMarker (s : State) (e : Nat) (job : BitVec 32) (tid : Nat) : State :=
  let cluster := e / 16
  if engineHalted s e then dropTlb s cluster fun x => x.job == job
  else
    { s.setEng e (s.eng e ++ [markerCmd job s.nextId tid cluster]) with nextId := s.nextId + 1 }
def execTlbi (p : BitVec 3) (s : State) : Host.Outcome State Fault Refusal :=
  settle (.tlbi p) (fun s =>
    let k := coreOf s.cur
    let t := s.src
    insertMarker (insertMarker s (engOf k 0) t.job t.tid) (engOf k 1) t.job t.tid) s

-- Channels, collectives, cuts, queues, Slate control.

def execChsnd (p : BitVec 3) (g : BitVec 2) (cls : BitVec 4) (s : State) : Host.Outcome State Fault Refusal :=
  settle (.chsnd p g cls) (accept (.chsnd p g cls)) s
/-- CHRCV (R254): the lines of its destination are empty from acceptance on. -/
def acceptChrcv (i : Instr) (s : State) : State :=
  let c := newCmd s i
  accept i (s.setMyCl ((linesOf c.saddr (16 + fldN 0 17 (c.word 2))).foldl setEmpty s.myCl))
def execChrcv (p : BitVec 3) (g : BitVec 2) (cls : BitVec 4) (s : State) : Host.Outcome State Fault Refusal :=
  settle (.chrcv p g cls) (acceptChrcv (.chrcv p g cls)) s
def execColl (p : BitVec 3) (g : BitVec 2) (cls : BitVec 4) (kind : BitVec 3) (op : BitVec 2) (ty : BitVec 3)
    (s : State) : Host.Outcome State Fault Refusal :=
  settle (.coll p g cls kind op ty) (accept (.coll p g cls kind op ty)) s
/-- RSHD (R314): BUSY from acceptance on. -/
def acceptRshd (i : Instr) (s : State) : State :=
  let va := (newCmd s i).va
  busyByte (busySlots (accept i s) s.src.job va true) s.nextId s.src.group s.src.job va true
def execRshd (p : BitVec 3) (g : BitVec 2) (cls : BitVec 4) (m : BitVec 4) (s : State) :
    Host.Outcome State Fault Refusal := settle (.rshd p g cls m) (acceptRshd (.rshd p g cls m)) s
def execCkcut (p : BitVec 3) (g : BitVec 2) (cls : BitVec 4) (s : State) : Host.Outcome State Fault Refusal :=
  settle (.ckcut p g cls) (accept (.ckcut p g cls)) s
def execQpush (p : BitVec 3) (g : BitVec 2) (cls : BitVec 4) (tile : Bool) (s : State) :
    Host.Outcome State Fault Refusal := settle (.qpush p g cls tile) (accept (.qpush p g cls tile)) s
def execSete (p : BitVec 3) (g : BitVec 2) (cls : BitVec 4) (s : State) : Host.Outcome State Fault Refusal :=
  settle (.sete p g cls) (accept (.sete p g cls)) s
/-- BMODE (R264, R271): the bank is closing from acceptance on. -/
def acceptBmode (i : Instr) (s : State) : State :=
  let b := fldN 0 6 ((newCmd s i).word 1)
  accept i (s.setMyCl { s.myCl with closing := tabPut s.myCl.closing b s.src.tid })
def execBmode (p : BitVec 3) (g : BitVec 2) (cls : BitVec 4) (mode : BitVec 2) (s : State) :
    Host.Outcome State Fault Refusal := settle (.bmode p g cls mode) (acceptBmode (.bmode p g cls mode)) s

end Sys2Proof.Machine
end

