-- ==== Sys2Proof/Machine/Fetch.lean ====
section
/-!
DEFINITION. Instruction fetch (R291, R295, R297, R347, R350), the judging of a fetched bundle (R60, R74, R76, R351), and
which context of a core issues (R67, R334, R335).
-/
namespace Sys2Proof.Machine

-- Translation units (R297).

def TlbEnt.covers (e : TlbEnt) (job : BitVec 32) (va : Nat) : Bool :=
  e.job == job && va / pageBytes e.level == e.va / pageBytes e.level
def tlbFind (cl : Cluster) (job : BitVec 32) (va : Nat) : Option TlbEnt := cl.tlb.find? fun e => e.covers job va
def Walk.sees (w : Walk) (job : BitVec 32) (va : Nat) : Bool := w.job == job && w.va / 65536 == va / 65536
/-- A walk of a page is asked for: a miss to a page whose walk is in flight joins it, from any cluster (R297). -/
def askWalk (s : State) (cluster : Nat) (job : BitVec 32) (va who : Nat) : State :=
  let cl := s.cl cluster
  let mine := fun (w : Walk) => w.sees job va && w.fault.isNone
  if cl.walks.any mine then
    s.setCl cluster { cl with walks := cl.walks.map fun w => if mine w then { w with askers := setAdd w.askers who } else w }
  else
    let put := fun (s : State) (n : Nat) => s.setCl cluster { cl with walks := cl.walks ++ [⟨n, job, va, none, [who]⟩] }
    match s.clusters.findSome? fun c => c.2.walks.find? fun w => w.sees job va && w.fault.isNone with
    | some w => put s w.id
    | none => put { s with nextId := s.nextId + 1 } s.nextId
/-- The fault in which the walk ended that an access has asked for. -/
def walkFault (cl : Cluster) (job : BitVec 32) (va who : Nat) : Option Nat :=
  (cl.walks.find? fun w => w.sees job va && w.fault.isSome && w.askers.contains who).bind Walk.fault
/-- The access has taken its fault. -/
def dropWalk (s : State) (cluster : Nat) (job : BitVec 32) (va who : Nat) : State :=
  let cl := s.cl cluster
  let l := cl.walks.map fun w => if w.sees job va ∧ w.fault.isSome then { w with askers := w.askers.erase who } else w
  s.setCl cluster { cl with walks := l.filter fun w => !w.askers.isEmpty }
/-- The fetch of a task as one that waits for a walk. -/
def Task.asker (t : Task) : Nat := 2 * t.tid
/-- Does an access still wait for a walk: has its command not ended, or does its task still fetch from the page? -/
def askerWaits (s : State) (cluster : Nat) (w : Walk) (who : Nat) : Bool :=
  if who % 2 = 1 then s.engs.any fun e => e.2.any fun c => 2 * c.id + 1 == who
  else s.ctxs.any fun x => x.2.active && x.2.asker == who && clOf x.1 == cluster && !x.2.exited && w.sees x.2.job (addrOf x.2.pc).toNat
/-- The fault of a walk that nothing waits for any more is not kept: a later miss goes to the walker (R297). -/
def sweepWalks (s : State) : State :=
  let keep := fun (c : Nat) (w : Walk) => w.fault.isNone || w.askers.any (askerWaits s c w)
  { s with clusters := s.clusters.map fun c => (c.1, { c.2 with walks := c.2.walks.filter (keep c.1) }) }

/-- What a fetch finds: the bundle, a fault with its kind (R347), nothing yet. -/
inductive Fetched where
  | bundle (b : BitVec 128)
  | bad (kind : Nat)
  | wait
  deriving DecidableEq, Repr

/-- The fetch of a context's next bundle. -/
def fetch (s : State) (ctx : Nat) : Fetched :=
  let t := s.ctx ctx
  let a := (addrOf t.pc).toNat
  let cl := s.cl (clOf ctx)
  match tlbFind cl t.job a with
  | none => match walkFault cl t.job a t.asker with | some k => .bad k | none => .wait
  | some e =>
    if !(leafX e.leaf) then .bad 2
    else if leafFmt e.leaf ≠ 0 then .bad 3
    else
      let pa := leafAddr e.level e.leaf a
      if leafPkg e.leaf = s.pkg then
        if dramPoisoned s pa 16 then .bad 5 else .bundle (BitVec.ofNat 128 (memNum s.dram pa 16))
      else
        match s.ifetch.find? fun f => f.ctx == ctx && f.pkg == leafPkg e.leaf && f.pa == pa / 128 * 128 with
        | some ⟨_, _, _, _, some bs⟩ => if bs.isEmpty then .bad 5 else .bundle (BitVec.ofNat 128 (numAt (pa % 128) 16 bs))
        | _ => .wait
/-- A reader asks another package for a sector; where the Ridge knows no way, none comes. -/
def askSector (s : State) (reader pkg pa : Nat) (job : BitVec 32) : State :=
  if !(routable s pkg) then { s with ifetch := s.ifetch ++ [⟨reader, pkg, pa, 0, some []⟩] }
  else
    sendMsg { s with ifetch := s.ifetch ++ [⟨reader, pkg, pa, s.nextId, none⟩], nextId := s.nextId + 1 }
      { mkMsg s pkg 0 0 job with offset := BitVec.ofNat 64 (pkg * 2 ^ 46 + pa), tag := s.nextId }
/-- A fetch that has to wait asks for its walk, or for its sector from another package (R377). -/
def fetchAsk (s : State) (ctx : Nat) : State :=
  let t := s.ctx ctx
  let a := (addrOf t.pc).toNat
  match tlbFind (s.cl (clOf ctx)) t.job a with
  | none => askWalk s (clOf ctx) t.job a t.asker
  | some e =>
    let pa := leafAddr e.level e.leaf a / 128 * 128
    let pkg := leafPkg e.leaf
    if s.ifetch.any fun f => f.ctx == ctx && f.pkg == pkg && f.pa == pa then s
    else askSector { s with ifetch := s.ifetch.filter fun f => f.ctx != ctx } ctx pkg pa t.job
/-- A bundle that has been fetched for a context is used, or its fault taken: what was kept of the fetch is dropped. -/
def fetchDone (s : State) (ctx : Nat) : State :=
  let t := s.ctx ctx
  let s := dropWalk s (clOf ctx) t.job (addrOf t.pc).toNat t.asker
  { s with ifetch := s.ifetch.filter fun f => f.ctx != ctx || f.bytes.isNone }

-- Judging a bundle.

/-- R64: does a loop-edge flag let a slot act? -/
def edgeActs (t : Task) (x : BSlot) : Bool :=
  if t.ldepth = 0 ∨ t.stub.isSome then true
  else
    let d := t.ldepth.toNat - 1
    (!x.first || bitAt d t.first) && (!x.last || vget t.lcount d 0 == 1)
/-- R74: a V slot writes a tile that the bundle's M slot reads or writes. -/
def tileConflict (t : Task) (l : List BSlot) : Bool :=
  let m := l.flatMap fun x => mTiles x.i (passCount x.i t) ++ (match x.i with | .mdrn _ _ v _ _ => [v.toNat] | _ => [])
  l.any fun x => isV x.i && (uses x.i).ds.any fun d => match d with | .v n => m.contains n | _ => false

/-- A slot as it is judged or acts. -/
def State.atSlot (s : State) (bits : BitVec 128) (n : Nat) : State := { s with bits := bits, slotNo := n }
/-- What a slot asks of a stream: its bank, the rows that it pushes, and whether it pops. -/
def streamUse (s : State) (bits : BitVec 128) (x : BSlot) : Option (Nat × Nat × Bool) :=
  let s' := s.atSlot bits x.n
  match x.i with
  | .vpush _ _ sa k => some (streamBank s' sa, (pushRows (s'.rk k)).length, false)
  | .vpop _ _ sa _ => some (streamBank s' sa, 0, true)
  | _ => none
/-- The bundle waits for a stream (R202, R203): two VPUSHes of one bank need room for the rows of both, and a second VPOP of
one bank needs an entry that the first leaves. -/
def streamWaits (s : State) (bits : BitVec 128) (l : List BSlot) : Bool :=
  match l.filterMap (streamUse s bits) with
  | [a, b] =>
    let f := tabGet ⟨[], []⟩ s.myCl.fifo a.1
    a.1 == b.1 && (if a.2.2 && b.2.2 then decide (visible s.cycle f ≤ 16)
      else !a.2.2 && !b.2.2 && a.2.1 != 0 && b.2.1 != 0 && decide (fifoDepth < fifoUsed f + a.2.1 + b.2.1))
  | _ => false

/-- Is a slot a core access of Slate (R268)? A VPUSH that selects no row is none (R202). -/
def coreAccess (s : State) (i : Instr) : Bool :=
  mAccess i || match i with
  | .lds _ _ _ _ _ _ _ => true
  | .sts _ _ _ _ _ => true
  | .amos _ _ _ _ _ => true
  | .vld _ _ _ _ _ _ => true
  | .vst _ _ _ _ _ => true
  | .vldt _ _ _ => true
  | .vstt _ _ _ _ => true
  | .vpush _ _ _ k => !(pushRows (s.rk k)).isEmpty
  | .vpop _ _ _ _ => true
  | _ => false
/-- A VLDT reads its record before the core accesses of later slots of its bundle (R59, R198, R268): they wait, and with them the
bundle, until its lines are full. -/
def recordWaits (s : State) (bits : BitVec 128) (l : List BSlot) : Bool :=
  l.any fun x => match x.i with
    | .vldt _ _ sa =>
      let ea := ((s.atSlot bits x.n).rs sa).toNat
      (l.any fun y => decide (x.n < y.n) && coreAccess (s.atSlot bits y.n) y.i) && !(fullFor s s.cur s.nextId ea (recLen (slRead s.myCl ea 128)))
    | _ => false
/-- What is to be done with a bundle (R351). -/
inductive Judged where
  | illegal (info : Word)
  | divert (slot : Nat) (v : Verdict)
  | stall
  | go (l : List BSlot)
  deriving DecidableEq, Repr

/-- The judgement of R351, rows 1 to 3, and the stalls of R60. -/
def judge (s : State) (bits : BitVec 128) : Judged :=
  let b := decodeBundle bits
  let t := s.me
  let live := b.slots.filter (edgeActs t)
  let vs := live.map fun x => (x.n, slotVerdict x.i (s.atSlot bits x.n))
  let dyn := vs.filterMap fun x => match x.2 with | .illegal _ => some (x.1, Reject.illegalUse) | _ => none
  let stat := b.slots.filterMap fun x => if staticIllegal x.i then some (x.n, Reject.illegalUse) else none
  match illegalInfo (b.faults ++ stat ++ dyn) (overLimit bits) (tileConflict t b.slots) with
  | some info => .illegal info
  | none =>
    match vs.find? fun x => x.2.bad with
    | some x => .divert x.1 x.2
    | none =>
      let acting := live.filter fun x => !(suppressed x.i (s.atSlot bits x.n))
      if vs.any (fun x => x.2 == .stall) || strideWaits (s.atSlot bits 0) (live.map BSlot.i) ||
          decide (vectorFree s < (acting.filter fun x => isV x.i).length) || streamWaits s bits acting || recordWaits s bits acting then .stall
      else
        match vs.find? fun x => x.2 == .seg with
        | some x => .divert x.1 .seg
        | none => .go live

/-- What a context offers in a cycle. -/
inductive Offer where
  | idle
  /-- A pending matrix-error or copy-error event (R351 row 0). -/
  | pending
  | fetchFault (kind : Nat)
  | fetchWait
  | judged (bits : BitVec 128) (j : Judged)
  deriving DecidableEq, Repr

/-- May a pre-emption, or a debug halt, be taken at the task's boundary (R338, R348, R351)? -/
def Task.atBoundary (t : Task) : Bool := !t.handler && t.stub.isNone && !t.shield

/-- The offer of a context (R334, R338, R348, R351). -/
def offer (s : State) (ctx : Nat) : Offer :=
  let t := s.ctx ctx
  if !t.active || t.exited || (match t.stub with | some u => u.done | none => false) then .idle
  else if !t.pend.isEmpty && !t.handler && t.stub.isNone then .pending
  else if t.wait.isSome then .idle
  else if (t.preempt || t.debug) && t.atBoundary then .idle
  else
    match fetch s ctx with
    | .bad k => .fetchFault k
    | .wait => .fetchWait
    | .bundle b => .judged b (judge { s with cur := ctx } b)
/-- Is there something for the context to do? -/
def Offer.eligible : Offer → Bool
  | .idle => false
  | .fetchWait => false
  | .judged _ .stall => false
  | _ => true
def Offer.goes : Offer → Option (BitVec 128 × List BSlot)
  | .judged b (.go l) => some (b, l)
  | _ => none

-- Arbitration (R335).

/-- The primary context of a core in a cycle, of two that are both eligible. -/
def primaryOf (k : Core) (cycle : Nat) (t0 t1 : Task) : Nat :=
  match k.yielded.filter fun y => y.2 + 1 == cycle with
  | some y => 1 - y.1 % 2
  | none =>
    let p0 := fldN 0 2 t0.prio
    let p1 := fldN 0 2 t1.prio
    if p0 = p1 then 1 - k.lastPrimary % 2
    else
      let low := if p0 < p1 then 1 else 0
      if 63 ≤ vget k.starve low 0 then low else 1 - low
/-- The core after its choice: starve counts the cycles in which both were eligible (R335). -/
def chooseCore (k : Core) (both : Bool) (p : Nat) : Core :=
  { k with
    lastPrimary := if both then p else k.lastPrimary,
    starve := vput (if both then vput k.starve (1 - p) (vget k.starve (1 - p) 0 + 1) else k.starve) p 0 }

/-- The copy engines that the C slots of a bundle use (R59). -/
def enginesUsed (s : State) (bits : BitVec 128) (l : List BSlot) : List Nat :=
  (l.filter fun x => fld 29 3 (bundleSlot bits x.n) == 4 && !(suppressed x.i (s.atSlot bits x.n))).map fun x =>
    slotEngine (s.atSlot bits x.n)
/-- The vector units that a bundle takes. -/
def unitsUsed (s : State) (bits : BitVec 128) (l : List BSlot) : Nat :=
  (l.filter fun x => isV x.i && !(suppressed x.i (s.atSlot bits x.n))).length
/-- The slots of two bundles that are to issue together stay within the limits of R66 (R67). -/
def slotsFit (b1 b2 : BitVec 128) : Bool :=
  let n := fun u => unitCount b1 u + unitCount b2 u
  decide (n 0 ≤ 2) && decide (n 1 ≤ 1) && decide (n 2 ≤ 2) && decide (n 3 ≤ 1) && decide (n 4 ≤ 2)

end Sys2Proof.Machine
end

