-- ==== Sys2Proof/Machine/Queues.lean ====
section
/-!
DEFINITION. Work queues (R317 to R320): the fields of QCTL, submission of a record, the completion value, and a queue that
stops on an error.
-/
namespace Sys2Proof.Machine

def Queue.job (q : Queue) : BitVec 32 := fld 32 32 q.qctl
def Queue.depth (q : Queue) : Nat := 2 ^ fldN 8 4 q.qctl
def Queue.en (q : Queue) : Bool := bitAt 0 q.qctl
def Queue.dev (q : Queue) : Bool := bitAt 1 q.qctl
def Queue.tile (q : Queue) : Bool := bitAt 2 q.qctl
def Queue.ring (q : Queue) : Nat := fldN 0 46 q.qring
/-- The number that the next record takes (R320). -/
def Queue.nextNum (q : Queue) : Nat :=
  (q.recs.foldl (fun m r => max m r.num) q.qcv.toNat + 1) % 2 ^ 64
/-- Room for n more records (R319): those that have completed behind an uncompleted one take none. -/
def Queue.room (q : Queue) (n : Nat) : Bool := decide ((q.recs.filter fun r => !r.done).length + n ≤ q.depth)
/-- The place of a record in the ring (log 31). -/
def Queue.ringIdx (q : Queue) (num : Nat) : Nat := (num - 1) % q.depth

/-- A queue stops on an error: ERR set, EN cleared (R318). -/
def stopQueue (s : State) (q : Nat) : State :=
  let x := s.queue q
  s.setQueue q { x with qctl := putFld 4 1 1 (putFld 0 1 0 x.qctl) }

/-- A record is submitted (R319): appended to the ring, discarded with OVF and a record, or discarded and counted. -/
def submitRecord (s : State) (q : Nat) (bytes : List Byte) (host : Bool) : State :=
  let x := s.queue q
  if !x.en || (host && x.dev) then s.setQueue q { x with discards := min (x.discards + 1) 0xFFFFFFFF }
  else if !(x.room 1) then
    let s := s.setQueue q { x with qctl := putFld 3 1 1 x.qctl }
    (postRecord s x.job { kind := 5, reply := false, time := 0, source := 0, queue := q, value := 0,
                          detail := [BitVec.ofNat 64 q] }).1
  else
    let n := x.nextNum
    let s := partWrite s x.job (x.ring + 64 * x.ringIdx n) bytes
    s.setQueue q { x with recs := x.recs ++ [{ num := n, bytes := bytes, launch := none, done := false, fault := none, kept := [] }] }

/-- The host port of a queue (R317). -/
def queuePort (s : State) (q : Nat) : Nat := if q < fldN 0 18 s.qsplit then 0 else 1

/-- The completion value is written (R320): to host memory, or to a global address of the job, which may fail. -/
def completionWrite (s : State) (q : Nat) (v : Word) : State :=
  let x := s.queue q
  let a := fldN 0 63 x.qcaddr
  if !(bitAt 63 x.qcaddr) then
    { s with hostOut := s.hostOut ++ [.write (queuePort s q) (BitVec.ofNat 64 a) (bytesOf 8 v.toNat)] }
  else
    let fail := fun (k : Nat) =>
      stopQueue (postRecord s x.job
        { kind := 18, reply := false, time := 0, source := 0, queue := q, value := v.toNat,
          detail := [BitVec.ofNat 64 q, v, BitVec.ofNat 64 k] }).1 q
    match walkPage s x.job (a % 2 ^ 52) with
    | .error k => fail k
    | .ok l =>
      if !(leafW l.e) then fail 2
      else globalWrite s 0 0 x.job (a % 2 ^ 52) (bytesOf 8 v.toNat)

/-- Records at the head that have completed leave, and QCV rises to the last of them, with one write and at most one
interrupt (R320). -/
def raiseQcv (s : State) (q : Nat) : State :=
  let x := s.queue q
  let done := x.recs.takeWhile QRec.done
  match done.getLast? with
  | none => s
  | some r =>
    let irq := done.any fun d => !x.tile && bitAt 3 (BitVec.ofNat 8 (numAt 0x16 1 d.bytes))
    let v : Word := BitVec.ofNat 64 r.num
    let s := s.setQueue q { x with recs := x.recs.drop done.length, qcv := v }
    let s := completionWrite s q v
    if irq then raiseMsix s (queuePort s q) (fldN 16 12 x.qctl) else s
/-- A record has completed. -/
def completeRecord (s : State) (q num : Nat) : State :=
  let x := s.queue q
  raiseQcv (s.setQueue q { x with recs := x.recs.map fun r => if r.num = num then { r with done := true } else r }) q

/-- A dependence holds (R323). -/
def depHolds (s : State) (w : Word) : Bool :=
  !(bitAt 17 w) ||
    decide ((fldN 0 40 (s.queue (fldN 0 17 w)).qcv + 2 ^ 40 - fldN 24 40 w) % 2 ^ 40 < 2 ^ 39)

end Sys2Proof.Machine
end

