-- ==== Sys2Proof/Machine/Access.lean ====
section
/-!
DEFINITION. One access of a copy engine: translation and its deferred faults (R265, R295), the cluster cache (R273 to
R276), reads and writes at the home Eave, here or on another package (R243, R279, R304, R377), and the landing of bytes in
Slate (R39, R233, R235). Each operation is given what to do with the outcome, and leaves the command as it is while it has
to wait.
-/
namespace Sys2Proof.Machine

-- Translation.

inductive Xlat where
  | page (e : TlbEnt)
  | walk
  | fault (kind : Nat)
  | bad
  deriving DecidableEq, Repr
/-- A command as one that waits for a walk. -/
def Cmd.asker (c : Cmd) : Nat := 2 * c.id + 1
/-- The translation of an access of a command that reads, writes, or both, and accepts some formats (all, if none is given). -/
def xlate (s : State) (c : Cmd) (va : Nat) (r w : Bool) (fmts : List Nat) : Xlat :=
  match tlbFind (s.cl c.cluster) c.job va with
  | none => match walkFault (s.cl c.cluster) c.job va c.asker with | some 5 => .bad | some k => .fault k | none => .walk
  | some e =>
    if (r && !(leafR e.leaf)) || (w && !(leafW e.leaf)) then .fault 2
    else if !fmts.isEmpty && !(fmts.contains (leafFmt e.leaf)) then .fault 3
    else .page e

/-- A token that no halted command or record of the job holds (R355). -/
def usedTokens (s : State) : List Nat :=
  (s.engs.flatMap fun e => e.2.filterMap fun c => c.halt.map Prod.fst) ++
    s.queues.flatMap fun q => q.2.recs.filterMap fun r => r.fault.map Prod.fst
def freeToken (s : State) : Nat :=
  let u := usedTokens s
  ((List.range (u.length + 1)).find? fun n => !(u.contains n)).getD 0
/-- The markers of an engine are reached, because the command ahead of them has halted (R302). -/
def passMarkers (s : State) (e : Nat) : State :=
  let q := s.eng e
  let s := (q.filter Cmd.marker).foldl (fun s m => dropTlb s (e / 16) fun x => x.job == m.job) s
  s.setEng e (q.filter fun c => !c.marker)
/-- A deferred fault (R265): the engine halts, and a record is posted. -/
def haltCmd (s : State) (e : Nat) (c : Cmd) (va kind : Nat) : State :=
  let tok := freeToken s
  let s := dropWalk (putCmd s { c with halt := some (tok, va, kind) }) c.cluster c.job va c.asker
  let q := launchQueue s c.launch
  passMarkers (postRecord s c.job
    { kind := 1, reply := true, time := 0, source := cmdSource s e c, queue := q.1, value := q.2,
      detail := [BitVec.ofNat 64 (va + kind * 2 ^ 52), BitVec.ofNat 64 c.srcpos, BitVec.ofNat 64 c.dstpos,
                 BitVec.ofNat 64 tok] }).1 e

/-- An access under its translation. -/
def withPage (s : State) (e : Nat) (c : Cmd) (va : Nat) (r w : Bool) (fmts : List Nat) (k : TlbEnt → State) : State :=
  match xlate s c va r w fmts with
  | .page x => k x
  | .walk => askWalk s c.cluster c.job va c.asker
  | .fault n => haltCmd s e c va n
  | .bad => copyError (dropWalk s c.cluster c.job va c.asker) e c 1 false

-- Requests to other packages.

/-- A request of a command to another package: sent, unless the Ridge knows no way (R380); then the command ends. -/
def askPkg (s : State) (e : Nat) (c : Cmd) (pkg kind pa aux : Nat) (mask : BitVec 128) (payload : List Byte) : State :=
  if c.sent.isSome then s
  else if !(routable s pkg) then copyError s e c 4 false
  else
    putCmd (sendMsg { s with nextId := s.nextId + 1 } { mkMsg s pkg kind 0 c.job with
      cls := BitVec.ofNat 4 (cmdCls c.i), offset := BitVec.ofNat 64 (pkg * 2 ^ 46 + pa), aux := BitVec.ofNat 64 aux,
      mask := mask, payload := payload, tag := s.nextId }) { c with sent := some (pkg, pa), tag := s.nextId }
/-- The command with its reply taken. -/
def Cmd.taken (c : Cmd) : Cmd := { c with sent := none, reply := none }

-- The cluster cache.

def CLine.is (l : CLine) (pkg sec : Nat) : Bool := l.pkg == pkg && l.pa == sec
/-- The cache banks of a group, in increasing index (R273). -/
def cacheBanks (s : State) (cluster group : Nat) : List Nat :=
  match tabFind s.groups group with
  | some g => ((s.cl cluster).mode.filter fun m => m.2 == 2 && decide (g.slbase ≤ m.1 * 0x20000) &&
      decide (m.1 * 0x20000 + 0x20000 ≤ g.slbase + g.slsize)).map Prod.fst
  | none => []
/-- R274: is the global side of a command served by the cluster cache? -/
def cacheKind : Instr → Bool
  | .cpy _ _ _ _ _ => true
  | .tcpy _ _ _ _ _ _ => true
  | .gath _ _ _ _ => true
  | .scat _ _ _ _ => true
  | _ => false
def servedBy (s : State) (c : Cmd) : Bool :=
  cacheKind c.i && c.cscope == 0 && !(cacheBanks s c.cluster c.group).isEmpty
/-- The bank number and set of a sector (R273; which set is the model's choice, log 32). -/
def cacheSlot (n pa : Nat) : Nat × Nat := (pa / 128 % n, pa / 128 / n % 128)
/-- A new line enters the cluster cache; of eight in its set, the oldest leaves (R273, R275). -/
def cacheAdd (s : State) (cluster group : Nat) (l : CLine) : State :=
  let n := max 1 (cacheBanks s cluster group).length
  let same := (groupCache s cluster group).filter fun x => cacheSlot n x.pa == cacheSlot n l.pa
  let s := match same with
    | old :: _ => if 8 ≤ same.length then cacheFlush s cluster group fun x => x.is old.pkg old.pa else s
    | [] => s
  setGroupCache s cluster group (groupCache s cluster group ++ [l])
/-- A sector's bytes with the group's queued writes to it, which have still to perform at its home. -/
def underWbs (s : State) (group pkg sec : Nat) (bytes : List Byte) : List Byte :=
  (s.wbs.filter fun w => w.group == group && w.place s == (pkg, sec)).foldl (fun l w =>
    (List.range 128).map fun k => if bitAt k w.mask then w.bytes.getD k 0 else l.getD k 0) (bytesAt 0 128 bytes)
/-- A sector filled from its home: dirty bytes keep their cached values (R275), and so do bytes whose write-back has still to
perform (R284). -/
def cacheFill (s : State) (cluster group pkg sec : Nat) (home : List Byte) : State :=
  let bytes := underWbs s group pkg sec home
  let l := groupCache s cluster group
  if l.any fun x => x.is pkg sec then
    setGroupCache s cluster group (l.map fun x =>
      if x.is pkg sec then
        { x with bytes := (List.range 128).map fun k => if bitAt k x.dirty then x.bytes.getD k 0 else bytes.getD k 0,
                 valid := 0xFFFFFFFFFFFFFFFFFFFFFFFFFFFFFFFF }
      else x)
  else cacheAdd s cluster group ⟨pkg, sec, bytesAt 0 128 bytes, 0xFFFFFFFFFFFFFFFFFFFFFFFFFFFFFFFF, 0, false⟩
/-- Bytes written into a line, which is allocated without a fill (R275). -/
def cachePut (s : State) (cluster group pkg sec o : Nat) (bs : List Byte) : State :=
  let m := maskOf 128 fun k => decide (o ≤ k) && decide (k < o + bs.length)
  let put := fun (x : CLine) =>
    { x with bytes := (List.range 128).map fun k => if bitAt k m then bs.getD (k - o) 0 else x.bytes.getD k 0,
             valid := x.valid ||| m, dirty := x.dirty ||| m, poison := x.poison && bs.length != 128 }
  let l := groupCache s cluster group
  if l.any fun x => x.is pkg sec then
    setGroupCache s cluster group (l.map fun x => if x.is pkg sec then put x else x)
  else cacheAdd s cluster group (put ⟨pkg, sec, List.replicate 128 0, 0, 0, false⟩)
/-- A bypassing access writes back and invalidates the line that it touches (R276). -/
def bypass (s : State) (c : Cmd) (pkg pa : Nat) : State :=
  if (groupCache s c.cluster c.group).any fun x => x.is pkg (pa / 128 * 128) then
    cacheFlush s c.cluster c.group fun x => x.is pkg (pa / 128 * 128)
  else s
/-- Must an access of a command wait for its group's writes to the sector (R276, R284)? One that is on its way need not. -/
def backHeld (s : State) (c : Cmd) (pkg pa : Nat) : Bool := c.sent.isNone && backWaits s c.group pkg pa

-- Reads and writes.

/-- Bytes of a sector from its home: here, or by a read request. -/
def readHome (s : State) (e : Nat) (c : Cmd) (pkg pa len : Nat) (k : State → Cmd → List Byte → State) : State :=
  if pkg = s.pkg then
    if dramPoisoned s pa len then copyError s e c 2 false else k s c (memRead s.dram pa len)
  else
    match c.reply with
    | some (bs, 0) => k s c.taken (bytesAt (pa % 128) len bs)
    | some (_, r) => copyError s e c r false
    | none => askPkg s e c pkg 0 (pa / 128 * 128) 0 0 []
/-- Bytes within one sector of a VA read (R243). -/
def readGlobal (s : State) (e : Nat) (c : Cmd) (va len : Nat) (fmts : List Nat)
    (k : State → Cmd → List Byte → State) : State :=
  withPage s e c va true false fmts fun x =>
    let h := forwarded s (leafPkg x.leaf) (leafAddr x.level x.leaf va)
    let sec := h.2 / 128 * 128
    if servedBy s c then
      match (groupCache s c.cluster c.group).find? fun l =>
          l.is h.1 sec && (span (h.2 % 128) (h.2 % 128 + len)).all fun b => bitAt b l.valid with
      | some l => if l.poison then copyError s e c 2 false else k s c (bytesAt (h.2 % 128) len l.bytes)
      | none =>
        if backHeld s c h.1 sec then s else
        readHome s e c h.1 sec 128 fun s c bs =>
          let s := cacheFill s c.cluster c.group h.1 sec bs
          match (groupCache s c.cluster c.group).find? fun l => l.is h.1 sec with
          | some l => if l.poison then copyError s e c 2 false else k s c (bytesAt (h.2 % 128) len l.bytes)
          | none => k s c (bytesAt (h.2 % 128) len bs)
    else
      let s := bypass s c h.1 h.2
      if backHeld s c h.1 h.2 then s else readHome s e c h.1 h.2 len k

/-- Bytes within one sector written at their home: here, or by a byte-masked write that is acknowledged. -/
def writeHome (s : State) (e : Nat) (c : Cmd) (pkg pa : Nat) (bs : List Byte) (k : State → Cmd → State) : State :=
  if pkg = s.pkg then
    if writeHeld s pa bs.length then frontCut s pa bs.length else k (homeWrite s (some c.job) pa bs) c
  else
    match c.reply with
    | some (_, 0) => k s c.taken
    | some (_, r) => copyError s e c r false
    | none =>
      let o := pa % 128
      askPkg s e c pkg 2 (pa - o) 0 (maskOf 128 fun n => decide (o ≤ n) && decide (n < o + bs.length))
        (List.replicate o 0 ++ bs ++ List.replicate (128 - o - bs.length) 0)
/-- Bytes within one sector of a VA written: into the cluster cache, when it serves the command and the bytes need not be
counted at package scope (R235, R275; log 33); folded only, in a shadow run (R345). -/
def writeGlobal (s : State) (e : Nat) (c : Cmd) (va : Nat) (bs : List Byte) (fmts : List Nat)
    (k : State → Cmd → State) : State :=
  withPage s e c va false true fmts fun x =>
    let h := forwarded s (leafPkg x.leaf) (leafAddr x.level x.leaf va)
    if c.shadow then k s c
    else if servedBy s c && !c.bv then
      k (cachePut s c.cluster c.group h.1 (h.2 / 128 * 128) (h.2 % 128) bs) c
    else
      let s := bypass s c h.1 h.2
      if backHeld s c h.1 h.2 then s else writeHome s e c h.1 h.2 bs k

-- Slate.

/-- Bytes counted into the bell of a command (R43, R235). -/
def countBytes (s : State) (c : Cmd) (n : Nat) : State :=
  if c.bv && n != 0 then doBytes s (bellLoc c.cluster c.bell) n else s
/-- A write into Slate falls after the reads of the task's earlier bundles (R233): passes that have still to read the
bytes, and records whose line is full. -/
def slateHeld (s : State) (c : Cmd) (cluster a len : Nat) : Bool :=
  match ctxOfTid s c.tid with
  | none => false
  | some x =>
    clOf x == cluster &&
      (let t := s.ctx x
       let w : Range := ⟨a, len⟩
       (unreadRanges { t with mq := t.mq.filter fun j => decide (j.id < c.id) }).any (overlap w) ||
         t.inflight.any fun p => match p.val with
           | .record id ea n _ => decide (id < c.id) && overlap w ⟨ea, n⟩ && lineFull (s.cl cluster) (lineOf a)
           | _ => false)
/-- A line of the destination is complete: the command's bytes are performed in it, after every core store so far (R269), it
is set full, and its bytes are counted (R39, R235). -/
def completeLine (s : State) (c : Cmd) (cluster line : Nat) : State :=
  let l := tabGet [] c.landed line
  let cl := l.foldl (fun cl x => slWrite cl x.1 x.2) (s.cl cluster)
  let s := s.setCl cluster (setFull cl line)
  countBytes (putCmd s { c with landed := tabDel c.landed line }) c (l.foldl (fun n x => n + x.2.length) 0)
/-- Every Slate line of a destination that is written at once: bytes, full bits, counts. -/
def landWhole (s : State) (c : Cmd) (a : Nat) (bs : List Byte) : State :=
  let cl := slWrite (s.cl c.cluster) a bs
  let s := s.setCl c.cluster ((linesOf a bs.length).foldl setFull cl)
  countBytes s c bs.length

-- Signatures (R346).

/-- The 8-byte words that bytes at an address touch: address, mask, data. -/
def wordsOf (va : Nat) (bs : List Byte) : List (List Byte) :=
  if bs.isEmpty then []
  else
    (span (va / 8) ((va + bs.length - 1) / 8 + 1)).map fun w =>
      let hit := fun k => decide (va ≤ 8 * w + k) && decide (8 * w + k < va + bs.length)
      bytesOf 8 (8 * w) ++ [BitVec.ofNat 8 (maskOf 8 hit).toNat] ++
        (List.range 8).map fun k => if hit k then bs.getD (8 * w + k - va) 0 else 0
/-- A global write of a replicated launch is folded into the signature of its run. -/
def foldWrite (s : State) (c : Cmd) (va : Nat) (bs : List Byte) : State :=
  match tabFind s.launches c.launch, tabFind s.groups c.group with
  | some l, some g =>
    if bitAt 1 l.flags then
      let x := (wordsOf va bs).foldl (fun (n : BitVec 64) w => n + crc64 w) (vget l.sigs g.run 0)
      { s with launches := tabPut s.launches c.launch { l with sigs := vput l.sigs g.run x } }
    else s
  | _, _ => s

end Sys2Proof.Machine
end

