-- ==== Sys2Proof/Machine/Scalar.lean ====
section
/-!
DEFINITION. The S unit: integer arithmetic, logic and shifts (R129 to R131), bit fields, moves and selects (R132 to R135),
conditions (R136, R137), address arithmetic (R138, R139), Slate accesses (R140 to R143), scalar FP32 (R147 to R149).
-/
namespace Sys2Proof.Machine

-- Integer arithmetic, logic and shifts.

/-- A shift amount: B[5:0] (R129). -/
def amount (b : Word) : Nat := fldN 0 6 b

def execAdd (p : BitVec 3) (d a b : BitVec 6) (s : State) : Host.Outcome State Fault Refusal :=
  settle (.add p d a b) (fun s => s.outS d (s.rs a + s.rs b) bALU) s
def execAddi (p : BitVec 3) (d a : BitVec 6) (imm : BitVec 14) (s : State) : Host.Outcome State Fault Refusal :=
  settle (.addi p d a imm) (fun s => s.outS d (s.rs a + sext64 imm) bALU) s
def execSub (p : BitVec 3) (d a b : BitVec 6) (s : State) : Host.Outcome State Fault Refusal :=
  settle (.sub p d a b) (fun s => s.outS d (s.rs a - s.rs b) bALU) s
def execMul (p : BitVec 3) (d a b : BitVec 6) (s : State) : Host.Outcome State Fault Refusal :=
  settle (.mul p d a b) (fun s => s.outS d (s.rs a * s.rs b) bMUL) s
/-- The high half of the signed product. -/
def mulHighS (a b : Word) : Word := BitVec.ofInt 64 (a.toInt * b.toInt / (2 : Int) ^ 64)
def execMulhs (p : BitVec 3) (d a b : BitVec 6) (s : State) : Host.Outcome State Fault Refusal :=
  settle (.mulhs p d a b) (fun s => s.outS d (mulHighS (s.rs a) (s.rs b)) bMUL) s
/-- The high half of the unsigned product. -/
def mulHighZ (a b : Word) : Word := BitVec.ofNat 64 (a.toNat * b.toNat / 2 ^ 64)
def execMulhz (p : BitVec 3) (d a b : BitVec 6) (s : State) : Host.Outcome State Fault Refusal :=
  settle (.mulhz p d a b) (fun s => s.outS d (mulHighZ (s.rs a) (s.rs b)) bMUL) s

/-- Quotient and remainder of R131. -/
def quotient (signed : Bool) (a b : Word) : Word :=
  if b = 0 then 0xFFFFFFFFFFFFFFFF else if signed then BitVec.ofInt 64 (a.toInt.tdiv b.toInt) else a / b
def remainder (signed : Bool) (a b : Word) : Word :=
  if b = 0 then a else if signed then BitVec.ofInt 64 (a.toInt.tmod b.toInt) else a % b
/-- The bound of a division: 40 cycles after the task's divisions that are outstanding (R131). -/
def divBound (s : State) : Nat :=
  (s.me.inflight.foldl (fun m q => if q.early = 2 then max m q.due else m) s.cycle) - s.cycle + 40
def State.outDiv (s : State) (d : BitVec 6) (w : Word) : State := s.scored (.s d.toNat) (.word w) (divBound s) 2
def execDivs (p : BitVec 3) (d a b : BitVec 6) (s : State) : Host.Outcome State Fault Refusal :=
  settle (.divs p d a b) (fun s => s.outDiv d (quotient true (s.rs a) (s.rs b))) s
def execDivz (p : BitVec 3) (d a b : BitVec 6) (s : State) : Host.Outcome State Fault Refusal :=
  settle (.divz p d a b) (fun s => s.outDiv d (quotient false (s.rs a) (s.rs b))) s
def execRems (p : BitVec 3) (d a b : BitVec 6) (s : State) : Host.Outcome State Fault Refusal :=
  settle (.rems p d a b) (fun s => s.outDiv d (remainder true (s.rs a) (s.rs b))) s
def execRemz (p : BitVec 3) (d a b : BitVec 6) (s : State) : Host.Outcome State Fault Refusal :=
  settle (.remz p d a b) (fun s => s.outDiv d (remainder false (s.rs a) (s.rs b))) s

def execAnd (p : BitVec 3) (d a b : BitVec 6) (s : State) : Host.Outcome State Fault Refusal :=
  settle (.and p d a b) (fun s => s.outS d (s.rs a &&& s.rs b) bALU) s
def execOr (p : BitVec 3) (d a b : BitVec 6) (s : State) : Host.Outcome State Fault Refusal :=
  settle (.or p d a b) (fun s => s.outS d (s.rs a ||| s.rs b) bALU) s
def execXor (p : BitVec 3) (d a b : BitVec 6) (s : State) : Host.Outcome State Fault Refusal :=
  settle (.xor p d a b) (fun s => s.outS d (s.rs a ^^^ s.rs b) bALU) s
def execAndn (p : BitVec 3) (d a b : BitVec 6) (s : State) : Host.Outcome State Fault Refusal :=
  settle (.andn p d a b) (fun s => s.outS d (s.rs a &&& ~~~ s.rs b) bALU) s
def execShl (p : BitVec 3) (d a b : BitVec 6) (s : State) : Host.Outcome State Fault Refusal :=
  settle (.shl p d a b) (fun s => s.outS d (s.rs a <<< amount (s.rs b)) bALU) s
def execShrs (p : BitVec 3) (d a b : BitVec 6) (s : State) : Host.Outcome State Fault Refusal :=
  settle (.shrs p d a b) (fun s => s.outS d ((s.rs a).sshiftRight (amount (s.rs b))) bALU) s
def execShrz (p : BitVec 3) (d a b : BitVec 6) (s : State) : Host.Outcome State Fault Refusal :=
  settle (.shrz p d a b) (fun s => s.outS d (s.rs a >>> amount (s.rs b)) bALU) s
def execRotl (p : BitVec 3) (d a b : BitVec 6) (s : State) : Host.Outcome State Fault Refusal :=
  settle (.rotl p d a b) (fun s => s.outS d ((s.rs a).rotateLeft (amount (s.rs b))) bALU) s

def lesserS (a b : Word) : Word := if a.slt b then a else b
def greaterS (a b : Word) : Word := if a.slt b then b else a
def execMins (p : BitVec 3) (d a b : BitVec 6) (s : State) : Host.Outcome State Fault Refusal :=
  settle (.mins p d a b) (fun s => s.outS d (lesserS (s.rs a) (s.rs b)) bALU) s
def execMinz (p : BitVec 3) (d a b : BitVec 6) (s : State) : Host.Outcome State Fault Refusal :=
  settle (.minz p d a b) (fun s => s.outS d (if (s.rs a).ult (s.rs b) then s.rs a else s.rs b) bALU) s
def execMaxs (p : BitVec 3) (d a b : BitVec 6) (s : State) : Host.Outcome State Fault Refusal :=
  settle (.maxs p d a b) (fun s => s.outS d (greaterS (s.rs a) (s.rs b)) bALU) s
def execMaxz (p : BitVec 3) (d a b : BitVec 6) (s : State) : Host.Outcome State Fault Refusal :=
  settle (.maxz p d a b) (fun s => s.outS d (if (s.rs a).ult (s.rs b) then s.rs b else s.rs a) bALU) s

/-- Leading and trailing zero bits, 64 for 0. -/
def leadingZeros (a : Word) : Nat := if a = 0 then 64 else 63 - a.toNat.log2
def trailingZeros (a : Word) : Nat := if a = 0 then 64 else (a &&& (0 - a)).toNat.log2
def execClz (p : BitVec 3) (d a : BitVec 6) (s : State) : Host.Outcome State Fault Refusal :=
  settle (.clz p d a) (fun s => s.outS d (BitVec.ofNat 64 (leadingZeros (s.rs a))) bALU) s
def execCtz (p : BitVec 3) (d a : BitVec 6) (s : State) : Host.Outcome State Fault Refusal :=
  settle (.ctz p d a) (fun s => s.outS d (BitVec.ofNat 64 (trailingZeros (s.rs a))) bALU) s
def execPopc (p : BitVec 3) (d a : BitVec 6) (s : State) : Host.Outcome State Fault Refusal :=
  settle (.popc p d a) (fun s => s.outS d (BitVec.ofNat 64 (popcount 64 (s.rs a).toNat)) bALU) s

-- Bit fields, moves and selects.

/-- The low bit p of a field, and its width w' within the register (R132). -/
def bfLow (b : Word) : Nat := fldN 0 6 b
def bfWidth (b : Word) : Nat := min (min (fldN 8 7 b) 64) (64 - bfLow b)
/-- The bits of a field of width w. -/
def ones (w : Nat) : Word := BitVec.ofNat 64 (2 ^ w - 1)
def bfExtract (a b : Word) (sx : Bool) : Word :=
  let w := bfWidth b
  let f := (a >>> bfLow b) &&& ones w
  if w = 0 then 0 else if sx && bitAt (w - 1) f then f ||| ~~~ ones w else f
def bfInsert (d a b : Word) : Word :=
  let m := ones (bfWidth b) <<< bfLow b
  (d &&& ~~~ m) ||| ((a <<< bfLow b) &&& m)
def execBfx (p : BitVec 3) (d a b : BitVec 6) (sx : Bool) (s : State) : Host.Outcome State Fault Refusal :=
  settle (.bfx p d a b sx) (fun s => s.outS d (bfExtract (s.rs a) (s.rs b) sx) bALU) s
def execBfi (p : BitVec 3) (d a b : BitVec 6) (s : State) : Host.Outcome State Fault Refusal :=
  settle (.bfi p d a b) (fun s => s.outS d (bfInsert (s.rs d) (s.rs a) (s.rs b)) bALU) s
def execMov (p : BitVec 3) (d a : BitVec 6) (s : State) : Host.Outcome State Fault Refusal :=
  settle (.mov p d a) (fun s => s.outS d (s.rs a) bALU) s
def execMovi (p : BitVec 3) (d : BitVec 6) (imm : BitVec 19) (s : State) : Host.Outcome State Fault Refusal :=
  settle (.movi p d imm) (fun s => s.outS d (sext64 imm) bALU) s
def execMovhi (p : BitVec 3) (d : BitVec 6) (q : BitVec 2) (val : BitVec 16) (s : State) :
    Host.Outcome State Fault Refusal :=
  settle (.movhi p d q val) (fun s => s.outS d (putFld (16 * q.toNat) 16 val.toNat (s.rs d)) bALU) s
def execSel (p : BitVec 3) (d a b : BitVec 6) (n : BitVec 3) (s : State) : Host.Outcome State Fault Refusal :=
  settle (.sel p d a b n) (fun s => s.outS d (if s.rc n then s.rs a else s.rs b) bALU) s

-- Conditions.

/-- The comparison of R136. -/
def compareInt (cond : BitVec 3) (a b : Word) : Bool :=
  match cond.toNat with
  | 0 => a == b
  | 1 => a != b
  | 2 => a.slt b
  | 3 => a.sle b
  | 4 => a.ult b
  | 5 => a.ule b
  | _ => (a &&& b) != 0
def execCmp (p cd : BitVec 3) (a b : BitVec 6) (cond : BitVec 3) (s : State) : Host.Outcome State Fault Refusal :=
  settle (.cmp p cd a b cond) (fun s => s.outC cd (compareInt cond (s.rs a) (s.rs b)) 0 bALU) s
def execCand (p cd ca cb : BitVec 3) (s : State) : Host.Outcome State Fault Refusal :=
  settle (.cand p cd ca cb) (fun s => s.outC cd (s.rc ca && s.rc cb) 0 bALU) s
def execCor (p cd ca cb : BitVec 3) (s : State) : Host.Outcome State Fault Refusal :=
  settle (.cor p cd ca cb) (fun s => s.outC cd (s.rc ca || s.rc cb) 0 bALU) s
def execCxor (p cd ca cb : BitVec 3) (s : State) : Host.Outcome State Fault Refusal :=
  settle (.cxor p cd ca cb) (fun s => s.outC cd (s.rc ca != s.rc cb) 0 bALU) s

-- Address arithmetic.

def execLea (p : BitVec 3) (d a b : BitVec 6) (n : BitVec 3) (s : State) : Host.Outcome State Fault Refusal :=
  settle (.lea p d a b n) (fun s => s.outS d (s.rs a + (s.rs b <<< n.toNat)) bALU) s
/-- The byte offset of a tensor index (R139): coordinates in A and B, strides and base in a staging group. -/
def tensorIndex (e : Nat → Word) (a b : Word) : Word :=
  let x := fun (w : Word) (n : Nat) => (fld (16 * n) 16 w).zeroExtend 64
  let st := fun (n : Nat) => (fld (32 * (n % 2)) 32 (e (n / 2))).zeroExtend 64
  e 3 + x a 0 * st 0 + x a 1 * st 1 + x a 2 * st 2 + x a 3 * st 3 + x b 0 * st 4 + x b 1 * st 5
def execTidx (p : BitVec 3) (d a b : BitVec 6) (g : BitVec 2) (s : State) : Host.Outcome State Fault Refusal :=
  settle (.tidx p d a b g)
    (fun s => s.outS d (tensorIndex (fun n => vget s.src.e (4 * g.toNat + n) 0) (s.rs a) (s.rs b)) bALU) s

-- Slate loads, stores and atomics.

/-- The value of a load: bytes zero- or sign-extended (R140). -/
def loadValue (sz : BitVec 2) (sx : Bool) (x : Nat) : Word :=
  if sx then BitVec.ofInt 64 (toSigned (8 * 2 ^ sz.toNat) x) else BitVec.ofNat 64 x
/-- The bound of a Slate load (R140). -/
def bLDS : Nat := 4
def execLds (p : BitVec 3) (d a : BitVec 6) (sz : BitVec 2) (sx fb : Bool) (imm : BitVec 10) (s : State) :
    Host.Outcome State Fault Refusal :=
  settle (.lds p d a sz sx fb imm)
    (fun s => s.scored (.s d.toNat) (.word (loadValue sz sx (slNum s.myCl (ldsAddr s a sz imm) (2 ^ sz.toNat)))) bLDS 0) s
def execSts (p : BitVec 3) (d a : BitVec 6) (sz : BitVec 2) (imm : BitVec 10) (s : State) :
    Host.Outcome State Fault Refusal :=
  settle (.sts p d a sz imm)
    (fun s => s.setMyCl (slWrite s.myCl (ldsAddr s a sz imm) (bytesOf (2 ^ sz.toNat) (s.rs d).toNat))) s
/-- The new value of an atomic (R142, R248): old value, operand, compare value. -/
def atomicNew (op : Nat) (old b cmp : Word) : Word :=
  match op with
  | 0 => old + b
  | 1 => lesserS old b
  | 2 => greaterS old b
  | 3 => old &&& b
  | 4 => old ||| b
  | 5 => b
  | _ => if old = cmp then b else old
def execAmos (p : BitVec 3) (d a b : BitVec 6) (op : BitVec 3) (s : State) : Host.Outcome State Fault Refusal :=
  settle (.amos p d a b op)
    (fun s =>
      let ea := (s.rs a).toNat
      let old : Word := BitVec.ofNat 64 (slNum s.myCl ea 8)
      let s' := s.setMyCl (slWrite s.myCl ea (bytesOf 8 (atomicNew op.toNat old (s.rs b) (s.rs d)).toNat))
      s'.scored (.s d.toNat) (.word old) bLDS 0) s

-- Scalar FP32.

/-- An FP32 source, and an FP32 result. -/
def State.rf (s : State) (n : BitVec 6) : Nat := fldN 0 32 (s.rs n)
def State.outF (s : State) (d : BitVec 6) (r : Nat × Flags) : State := s.outSF d (BitVec.ofNat 64 r.1) r.2 bMUL
def execFadd (p : BitVec 3) (d a b : BitVec 6) (sub : Bool) (s : State) : Host.Outcome State Fault Refusal :=
  settle (.fadd p d a b sub)
    (fun s => s.outF d (if sub then fSub fp32 0 (s.rf a) (s.rf b) else fAdd fp32 0 (s.rf a) (s.rf b))) s
def execFmul (p : BitVec 3) (d a b : BitVec 6) (s : State) : Host.Outcome State Fault Refusal :=
  settle (.fmul p d a b) (fun s => s.outF d (fMul fp32 0 (s.rf a) (s.rf b))) s
def execFfma (p : BitVec 3) (d a b : BitVec 6) (neg : Bool) (s : State) : Host.Outcome State Fault Refusal :=
  settle (.ffma p d a b neg) (fun s => s.outF d (fFma fp32 0 neg false (s.rf a) (s.rf b) (s.rf d))) s
/-- COND of FCMP (R148) as the comparison of the shared table: 4 is UN. -/
def fcmpCond (cond : BitVec 3) : Nat := if cond = 4 then 6 else cond.toNat
def execFcmp (p cd : BitVec 3) (a b : BitVec 6) (cond : BitVec 3) (s : State) : Host.Outcome State Fault Refusal :=
  settle (.fcmp p cd a b cond)
    (fun s => let r := fCompare fp32 (fcmpCond cond) (s.rf a) (s.rf b); s.outC cd r.1 r.2 bMUL) s
/-- The conversions of R149. -/
def scalarConvert (kind : BitVec 3) (a : Word) : Nat × Flags :=
  match kind.toNat with
  | 0 => valToInt 0 true 64 (unpack fp32 (fldN 0 32 a))
  | 1 => valToInt 0 false 64 (unpack fp32 (fldN 0 32 a))
  | 2 => intToFmt fp32 0 a.toInt
  | 3 => intToFmt fp32 0 (a.toNat : Int)
  | 4 => cvtFmt fp32 bf16 0 (fldN 0 32 a)
  | 5 => cvtFmt bf16 fp32 0 (fldN 0 16 a)
  | 6 => cvtFmt fp32 fp16 0 (fldN 0 32 a)
  | _ => cvtFmt fp16 fp32 0 (fldN 0 16 a)
def execFcvt (p : BitVec 3) (d a : BitVec 6) (kind : BitVec 3) (s : State) : Host.Outcome State Fault Refusal :=
  settle (.fcvt p d a kind) (fun s => s.outF d (scalarConvert kind (s.rs a))) s

end Sys2Proof.Machine
end

