-- ==== Sys2Proof/Machine/CopyEngine.lean ====
section
/-!
DEFINITION. The copy engines: a command begins (R231, R232, R244, R251, R252, R257 to R261), moves its sectors (R241 to
R249, R253, R254, R262, R263, R266), and completes (R235); BMODE begins (R264, R271).
-/
namespace Sys2Proof.Machine

-- Order.

/-- Commands that have not ended, of any engine. -/
def allCmds (s : State) : List Cmd := (s.engs.flatMap Prod.snd).filter fun c => !c.marker
/-- The command, or marker, at the head of an engine's queue: the oldest that has not been handed on (R231). -/
def engineHead (s : State) (e : Nat) : Option Cmd := (s.eng e).find? fun c => !c.handed
/-- The bank of a BMODE, and its new mode. -/
def bmodeBank (c : Cmd) : Option (Nat × Nat) :=
  match c.i with | .bmode _ _ _ m => some (fldN 0 6 (c.word 1), m.toNat) | _ => none
/-- R271: an earlier BMODE of the group takes a bank into or out of cache mode; one that has begun keeps the bank's old mode
in `put`. -/
def cacheChanges (s : State) (c : Cmd) : Bool :=
  (allCmds s).any fun x => x.group == c.group && decide (x.id < c.id) && match bmodeBank x with
    | some (b, m) => m == 2 || (if x.begun then x.put == 2 else bankMode (s.cl x.cluster) b == 2)
    | none => false
def touchesCache : Instr → Bool
  | .pfch _ _ _ tgt => tgt
  | i => cacheKind i
/-- The communicator of a collective or reshard. -/
def cmdComm (c : Cmd) : Option Nat :=
  match c.i with
  | .coll _ _ _ _ _ _ => some c.collComm
  | .rshd _ _ _ _ => some (fldN 0 8 (c.word 2))
  | _ => none
/-- A collective that has been handed over performs before the next one of its communicator, which may be handed over meanwhile
(R390, R444). -/
def keepsOrder (x c : Cmd) : Bool := x.handed && (cmdComm x).isSome && cmdComm x == cmdComm c
/-- Has an MDRNS that its task issued before a command with a Slate side still to write (R233)? -/
def drainAhead (s : State) (c : Cmd) : Bool :=
  c.localRanges.any (fun r => r.len != 0) && match taskOf s c.tid with
    | some t => (t.mq ++ t.held).any fun j => isMdrns j.i && decide (j.id < c.id)
    | none => false
/-- Has a collective of a communicator that the package accepted earlier still to begin (R390)? -/
def commAhead (s : State) (c : Cmd) : Bool :=
  (cmdComm c).isSome && (allCmds s).any fun x => cmdComm x == cmdComm c && decide (x.id < c.id) && !x.begun
/-- May a command begin, as far as order goes: class order (R232), fences (R251), BMODE (R271), earlier drains of its task (R233),
and the order of a communicator (R390)? -/
def inOrder (s : State) (c : Cmd) : Bool :=
  !(drainAhead s c) && !(commAhead s c) &&
  !((allCmds s).any fun x => x.tid == c.tid && decide (x.id < c.id) && cmdCls x.i == cmdCls c.i && !(keepsOrder x c)) &&
    !(s.fences.any fun f => f.tid == c.tid && decide (f.id < c.id) && bitAt (cmdCls c.i) f.mask) &&
    !(touchesCache c.i && c.cscope == 0 && cacheChanges s c)

-- Formats (R242).

def srcFmts (c : Cmd) : List Nat :=
  match c.i with
  | .cpy _ _ _ _ _ =>
    match c.xf with
    | 0 => [] | 1 => [0, 1, 2, 3, 4] | 4 => [2] | 6 => [5] | _ => [0]
  | .tcpy _ _ _ _ _ _ => if c.xf = 2 then [0] else []
  | .gath _ _ _ _ => if c.xf = 2 then [0] else []
  | _ => []
/-- Formats of the destination; k numbers the ranges of a unit: transform 7 writes row slots, then column slots. -/
def dstFmts (c : Cmd) (k : Nat) : List Nat :=
  match c.i with
  | .cpy _ _ _ _ _ =>
    match c.xf with
    | 0 => [] | 1 => [0, 1, 2, 3, 4] | 2 => [1] | 3 => [2] | 4 => [0] | 5 => [5] | 6 => [0]
    | _ => if k = 0 then [2] else [3]
  | .scat _ _ _ _ => if c.xf = 2 then [1] else []
  | _ => []

-- Units.

/-- The number of the range that holds stream position p. -/
def extIndex (p : Nat) : List Ext → Nat
  | [] => 0
  | e :: r => if p < e.len then 0 else extIndex (p - e.len) r + 1
/-- The parts of ranges from stream position p on. -/
def restExts (p : Nat) : List Ext → List Ext
  | [] => []
  | e :: r => if p < e.len then { e with addr := e.addr + p, len := e.len - p } :: r else restExts (p - e.len) r
def Ext.touches (e : Ext) (line : Nat) : Bool := e.slate.isSome && (linesOf e.addr e.len).contains line
/-- Has a command more to write into a line? -/
def lineLeft (s : State) (c : Cmd) (line : Nat) : Bool :=
  let remote := cmdRemote s c
  (restExts c.put (c.unitDst s.meshpos remote c.unit (c.out.map List.length))).any (fun e => e.touches line) ||
    (span (c.unit + 1) c.units).any fun u => (c.unitDst s.meshpos remote u none).any fun e => e.touches line
/-- A unit that has been read whole is transformed; one that has been written whole is left behind. -/
def settleUnit (s : State) (e : Nat) (c : Cmd) : State :=
  match c.out with
  | some o => putCmd s (if o.length ≤ c.put then { c with unit := c.unit + 1, got := [], out := none, put := 0 } else c)
  | none =>
    match extAt c.got.length (c.unitSrc s.meshpos (cmdRemote s c) c.unit c.got) with
    | some _ => putCmd s c
    | none =>
      match c.unitOut s.meshpos c.unit c.got with
      | .error r => copyError s e c r false
      | .ok o =>
        putCmd s (if o.length ≤ c.put then { c with unit := c.unit + 1, got := [], out := none, put := 0 }
          else { c with out := some o })
/-- Bytes of a sector of the source have been read: a sector that follows another is one more (R266). -/
def gotSector (e : Nat) (s : State) (c : Cmd) (a : Nat) (bs : List Byte) : State :=
  settleUnit s e { c with
    got := c.got ++ bs, srcpos := if c.srcSec = some (a / 128) then c.srcpos else c.srcpos + 1, srcSec := some (a / 128) }
/-- n bytes of the unit have been dealt with, m bytes of the destination written. -/
def putSector (e : Nat) (s : State) (c : Cmd) (n m : Nat) : State :=
  settleUnit s e { c with put := c.put + n, dstpos := c.dstpos + m }

-- Aligned 8-byte words (R280).

/-- The aligned words of n bytes at an address of which only a part is covered. -/
def partWords (a n : Nat) : List Nat :=
  (if a % 8 ≠ 0 ∨ n < 8 - a % 8 then [a / 8] else []) ++
    if (a + n) % 8 ≠ 0 ∧ (a + n) / 8 ≠ a / 8 then [(a + n) / 8] else []
/-- Bytes at an address, with others laid over them where they overlap. -/
def overlay (a : Nat) (bs : List Byte) (b : Nat) (new : List Byte) : List Byte :=
  let lo := max a b
  let hi := min (a + bs.length) (b + new.length)
  if hi ≤ lo then bs else bs.take (lo - a) ++ bytesAt (lo - b) (hi - lo) new ++ bs.drop (hi - a)
/-- n bytes at a have been read with the whole words around them, bs: a word of which a part was read before keeps its bytes of
then, and one of which a part is read now is kept. -/
def gotWords (a n : Nat) (c : Cmd) (bs : List Byte) : Cmd × List Byte :=
  let lo := a / 8
  let l := (List.range (bs.length / 8)).flatMap fun i =>
    match tabFind c.words (lo + i) with | some w => w | none => bytesAt (8 * i) 8 bs
  ({ c with words := (partWords a n).foldl (fun t w => tabPut t w (bytesAt (8 * (w - lo)) 8 l)) c.words }, bytesAt (a - 8 * lo) n l)
/-- Does a command write every byte of an aligned word of its global destination? -/
def writesWord (s : State) (c : Cmd) (w : Nat) : Bool :=
  let l := c.globalDst s.meshpos (cmdRemote s c)
  (List.range 8).all fun k => l.any fun e => decide (e.addr ≤ 8 * w + k) && decide (8 * w + k < e.addr + e.len)
/-- A part of a word that the command writes in full: the word, once all of it has come. -/
def joinWord (parts : Tab (List (Nat × Byte))) (w a : Nat) (bs : List Byte) :
    Tab (List (Nat × Byte)) × Option (Nat × List Byte) :=
  let new := bs.zipIdx.map fun x => (a + x.2 - 8 * w, x.1)
  let l := (tabGet [] parts w).filter (fun x => !(new.any fun y => y.1 == x.1)) ++ new
  if l.length = 8 then
    (tabDel parts w,
      some (8 * w, (List.range 8).map fun k => match l.find? fun x => x.1 == k with | some x => x.2 | none => 0))
  else (tabPut parts w l, none)
/-- Bytes at an address in at most three pieces: within its first aligned word, whole words, within its last. -/
def wordParts (a : Nat) (bs : List Byte) : List (Nat × List Byte) :=
  let n := bs.length
  let h := if a % 8 = 0 then 0 else min n (8 - a % 8)
  let t := (n - h) % 8
  [(a, bytesAt 0 h bs), (a + h, bytesAt h (n - h - t) bs), (a + (n - t), bytesAt (n - t) t bs)].filter fun x => !x.2.isEmpty
/-- What bytes at an address write now: parts of the words that are to be written in full are kept until all of the word has come. -/
def joinParts (parts : Tab (List (Nat × Byte))) (full : Nat → Bool) (a : Nat) (bs : List Byte) :
    Tab (List (Nat × Byte)) × List (Nat × List Byte) :=
  (wordParts a bs).foldl (fun x p =>
    if decide (p.2.length < 8) && full (p.1 / 8) then
      let j := joinWord x.1 (p.1 / 8) p.1 p.2
      (j.1, x.2 ++ j.2.toList)
    else (x.1, x.2 ++ [p])) (parts, [])
/-- What n bytes at a, within one sector, write now: the command with the parts of words that it keeps, and the run. -/
def wordRun (s : State) (c : Cmd) (a : Nat) (bs : List Byte) : Cmd × Nat × List Byte :=
  let r := joinParts c.parts (writesWord s c) a bs
  ({ c with parts := r.1 }, (r.2.head?.map Prod.fst).getD a, (r.2.map Prod.snd).flatten)
/-- The page of the last byte of a thatch slot in global memory is checked with the slot (R306). -/
def withTail (s : State) (e : Nat) (c : Cmd) (x : Ext) (start : Bool) (fmts : List Nat) (k : State) : State :=
  if start && x.slate.isNone && fmts.contains 5 then withPage s e c (x.addr + 4351) false false fmts fun _ => k else k
/-- The header of a record is checked before the rest of it is read (R122, R241). -/
def headerBad (c : Cmd) : Bool :=
  c.xf == 6 && decide (128 ≤ c.got.length) && !(recOk c.got && recEfmt c.got == efEfmt c.ef)
/-- The next sector of the source of the unit in progress. -/
def readUnit (s : State) (e : Nat) (c : Cmd) : State :=
  match extAt c.got.length (c.unitSrc s.meshpos (cmdRemote s c) c.unit c.got) with
  | none => settleUnit s e c
  | some (x, o) =>
    let n := pieceLen (x.addr + o) (x.len - o)
    if headerBad c then copyError s e c 3 false
    else
      match x.slate with
      | some k =>
        if anyPoison (s.cl k) (x.addr + o) n then copyError s e c 2 false
        else gotSector e s c (x.addr + o) (slRead (s.cl k) (x.addr + o) n)
      | none =>
        let a := x.addr + o
        withTail s e c x c.got.isEmpty (srcFmts c)
          (readGlobal s e c (a / 8 * 8) ((a + n + 7) / 8 * 8 - a / 8 * 8) (srcFmts c) fun s c bs =>
            let g := gotWords a n c bs
            gotSector e s g.1 a g.2)
/-- The next sector of its destination. -/
def writeUnit (s : State) (e : Nat) (c : Cmd) (out : List Byte) : State :=
  let dst := c.unitDst s.meshpos (cmdRemote s c) c.unit (c.out.map List.length)
  match extAt c.put dst with
  | none => settleUnit s e { c with put := out.length }
  | some (x, o) =>
    let a := x.addr + o
    let n := pieceLen a (x.len - o)
    let bs := bytesAt c.put n out
    match x.slate with
    | some k =>
      if slateHeld s c k a n then s
      else
        let s := s.setCl k (slWrite (s.cl k) a bs)
        let c := { c with landed := tabPut c.landed (a / 128) (tabGet [] c.landed (a / 128) ++ [(a, bs)]) }
        let c' := { c with put := c.put + n, dstpos := c.dstpos + n }
        if lineLeft s c' (a / 128) then settleUnit s e c'
        else settleUnit (completeLine s c' k (a / 128)) e { c' with landed := tabDel c'.landed (a / 128) }
    | none =>
      let fmts := dstFmts c (extIndex c.put dst)
      let r := wordRun s c a bs
      withTail s e c x (c.put == 0) fmts
        (if r.2.2.isEmpty then putSector e s r.1 n 0
         else
          writeGlobal s e c r.2.1 r.2.2 fmts fun s c =>
            putSector e (countBytes (foldWrite s c r.2.1 r.2.2) c r.2.2.length) { c with parts := r.1.parts } n r.2.2.length)
/-- A part of a word whose other bytes have been written before: it is written as it is. -/
def flushPart (s : State) (e : Nat) (c : Cmd) (w : Nat) (l : List (Nat × Byte)) : State :=
  match maskRuns (fun k => l.any fun x => x.1 == k) 0
      ((List.range 8).map fun k => match l.find? fun x => x.1 == k with | some x => x.2 | none => 0) with
  | [] => putCmd s { c with parts := tabDel c.parts w }
  | r :: _ =>
    writeGlobal s e c (8 * w + r.1) r.2 (dstFmts c 0) fun s c =>
      let left := l.filter fun x => !(decide (r.1 ≤ x.1) && decide (x.1 < r.1 + r.2.length))
      putCmd (countBytes (foldWrite s c (8 * w + r.1) r.2) c r.2.length)
        { c with parts := if left.isEmpty then tabDel c.parts w else tabPut c.parts w left, dstpos := c.dstpos + r.2.length }
/-- R244: the remote side of a CPYS, while it runs: absent, displaced, or there. -/
inductive Remote where
  | gone
  | away
  | there
  deriving DecidableEq, Repr
def remoteState (s : State) (c : Cmd) : Remote :=
  match c.i with
  | .cpys _ _ _ _ _ =>
    match remoteGroup s c with
    | none => .gone
    | some g => if g.2.away.isSome then .away else .there
  | _ => .there
/-- Can a row-shaped command write its next sector from what it has read (R241; log 44)? A fault on the destination side
halts it only at the end of its unit (R266). -/
def streamReady (s : State) (c : Cmd) (l : List Byte) : Bool :=
  let dst := c.unitDst s.meshpos (cmdRemote s c) c.unit none
  match extAt c.put dst with
  | some (x, o) =>
    decide (c.put + pieceLen (x.addr + o) (x.len - o) ≤ l.length) &&
      (x.slate.isSome ||
        match xlate s c (x.addr + o) false true (dstFmts c (extIndex c.put dst)) with
        | .page _ => true
        | .walk => true
        | _ => false)
  | none => false
/-- One sector of a command that moves units. -/
def moveUnits (s : State) (e : Nat) (c : Cmd) : State :=
  match remoteState s c with
  | .gone => copyError s e c 6 false
  | .away => s
  | .there =>
    match (if c.units ≤ c.unit then c.parts else []) with
    | (w, l) :: _ => flushPart s e c w l
    | [] =>
    match c.out with
    | none =>
      let l := c.streamed
      if streamReady s c l then writeUnit s e c l else readUnit s e c
    | some o => writeUnit s e c o

-- Commands without units.

/-- A command that has done its work. -/
def finish1 (s : State) (c : Cmd) : State := putCmd s { c with unit := 1 }
/-- TBIND performs (R245): the descriptor is read into the slot. While an RSHD of it goes on, up to its completion arrival, the slot
has the pair of before, and BUSY (R260, R433). -/
def doTbind (s : State) (e : Nat) (c : Cmd) : State :=
  readGlobal s e c c.va 64 [] fun s c bs =>
    let n := match c.i with | .tbind _ _ _ n => n.toNat | _ => 0
    let r := reshardOf s c.job c.va c.id
    let d := (r.bind Cmd.desc).getD bs
    let s := updTask s c.tid fun t =>
      match vget t.tbind n none with
      | some x => if x.va = c.va then
          { t with tbind := vput t.tbind n (some { x with desc := some d, busy := x.busy || descBusy bs || r.isSome }) } else t
      | none => t
    finish1 s { c with srcpos := 1 }
/-- RAMO has performed at its home (R248): the old value goes to Slate, or the word's bytes are counted. -/
def ramoDone (s : State) (c : Cmd) (ret : Bool) (old : Word) : State :=
  let s := if ret then landWhole s c (fldN 0 23 (c.word 3)) (bytesOf 8 old.toNat) else countBytes s c 8
  finish1 s { c with srcpos := 1, dstpos := 8 }
def doRamo (s : State) (e : Nat) (c : Cmd) (op : BitVec 3) (ret : Bool) : State :=
  withPage s e c c.va true true [] fun x =>
    let h := forwarded s (leafPkg x.leaf) (leafAddr x.level x.leaf c.va)
    let s := bypass s c h.1 h.2
    if backHeld s c h.1 h.2 || (ret && slateHeld s c c.cluster (fldN 0 23 (c.word 3)) 8) then s
    else if h.1 = s.pkg then
      if dramPoisoned s h.2 8 then copyError s e c 2 false
      else if writeHeld s h.2 8 then frontCut s h.2 8
      else
        let old : Word := BitVec.ofNat 64 (memNum s.dram h.2 8)
        ramoDone (homeWrite s (some c.job) h.2 (bytesOf 8 (atomicNew op.toNat old (c.word 1) (c.word 2)).toNat)) c ret old
    else
      match c.reply with
      | some (bs, 0) => ramoDone s c.taken ret (BitVec.ofNat 64 (ofBytes bs))
      | some (_, r) => copyError s e c r false
      | none => askPkg s e c h.1 4 h.2 op.toNat 0 (bytesOf 8 (c.word 1).toNat ++ bytesOf 8 (c.word 2).toNat)

/-- PFCH (R249): the sectors of its range; a drop is counted, and the next page is next. -/
def pfchUnits (c : Cmd) : Nat := fldN 0 40 (c.word 2) / 128
def pfchDrop (s : State) (c : Cmd) (size : Nat) : State :=
  let va := c.va + 128 * c.unit
  let next := (alignDown size va + size - c.va) / 128
  putCmd (jobCount (dropWalk s c.cluster c.job va c.asker) c.job 16 true) { c.taken with unit := next }
def doPfch (s : State) (c : Cmd) (tgt : Bool) : State :=
  let va := c.va + 128 * c.unit
  match xlate s c va true false [] with
  | .walk => askWalk s c.cluster c.job va c.asker
  | .fault _ =>
    pfchDrop s c (match tlbFind (s.cl c.cluster) c.job va with | some x => pageBytes x.level | none => 65536)
  | .bad => pfchDrop s c 65536
  | .page x =>
    let h := forwarded s (leafPkg x.leaf) (leafAddr x.level x.leaf va)
    let next := putCmd s { c with unit := c.unit + 1 }
    if !tgt || (cacheBanks s c.cluster c.group).isEmpty then
      -- the home's Eave is filled, by an access that bypasses the cluster cache; an error drops the sector
      let s := if c.sent.isSome then s else bypass s c h.1 h.2
      if backHeld s c h.1 h.2 then s
      else if h.1 = s.pkg then
        if dramPoisoned s h.2 128 then pfchDrop s c (pageBytes x.level) else putCmd s { c with unit := c.unit + 1 }
      else
        match c.reply with
        | some (_, 0) => putCmd s { c.taken with unit := c.unit + 1 }
        | some _ => pfchDrop s c (pageBytes x.level)
        | none =>
          if c.sent.isSome then s
          else if !(routable s h.1) then pfchDrop s c (pageBytes x.level)
          else askPkg s 0 c h.1 0 h.2 0 0 []
    else if (groupCache s c.cluster c.group).any fun l => l.is h.1 h.2 && l.valid == 0xFFFFFFFFFFFFFFFFFFFFFFFFFFFFFFFF then next
    else if backHeld s c h.1 h.2 then s
    else if h.1 = s.pkg then
      if dramPoisoned s h.2 128 then pfchDrop s c (pageBytes x.level)
      else putCmd (cacheFill s c.cluster c.group h.1 h.2 (memRead s.dram h.2 128)) { c with unit := c.unit + 1 }
    else
      match c.reply with
      | some (bs, 0) => putCmd (cacheFill s c.cluster c.group h.1 h.2 bs) { c.taken with unit := c.unit + 1 }
      | some _ => pfchDrop s c (pageBytes x.level)
      | none =>
        if c.sent.isSome then s
        else if !(routable s h.1) then pfchDrop s c (pageBytes x.level)
        else askPkg s 0 c h.1 0 h.2 0 0 []

-- Channels (R253, R254, R386, R387).

def State.chan (s : State) (n : Nat) : Chan := tabGet Chan.empty s.chans n
def State.setChan (s : State) (n : Nat) (x : Chan) : State := { s with chans := tabPut s.chans n x }
def chanJob (w : BitVec 256) : BitVec 32 := fld 0 32 w
def chanEn (w : BitVec 256) : Bool := bitAt 32 w
def chanRole (w : BitVec 256) : Nat := fldN 33 2 w
def chanBank (w : BitVec 256) : Nat := fldN 40 6 w
def chanRchan (w : BitVec 256) : Nat := fldN 48 12 w
def chanRpkg (w : BitVec 256) : Nat := fldN 64 11 w
def chanQueue (w : BitVec 256) : Nat := fldN 96 17 w
def chanSeq (w : BitVec 256) : Nat := fldN 128 40 w
def chanGid (w : BitVec 256) : Nat := fldN 168 24 w
/-- The group that a receive entry names: of the launch of a record, by GROUPID. -/
def chanGroup (s : State) (w : BitVec 256) : Option (Nat × Group) :=
  s.groups.find? fun g => decide (g.2.gid = chanGid w) && g.2.run == 0 &&
    (launchQueue s g.2.launch).1 == chanQueue w && (launchQueue s g.2.launch).2 % 2 ^ 40 == chanSeq w
def cmdChan (c : Cmd) : Nat := fldN 0 12 (c.word 0)
/-- Segments of a message, and the credits that it takes (R388). -/
def segCount (len : Nat) : Nat := max 1 (ceilDiv len 4096)
/-- CHSND: the checks of R387. -/
def sendOk (s : State) (c : Cmd) : Bool :=
  let w := (s.chan (cmdChan c)).w
  chanEn w && chanRole w == 1 && chanJob w == c.job
def recvOk (s : State) (c : Cmd) : Bool :=
  let w := (s.chan (cmdChan c)).w
  chanEn w && chanRole w == 2 && chanJob w == c.job && (match chanGroup s w with | some g => g.1 == c.group | none => false)
/-- What a receive entry says of its group (R387). -/
inductive Receiver where
  /-- No enabled receive entry, a bank that is not in FIFO mode, or a group that has retired. -/
  | gone
  /-- Not yet placed, or displaced. -/
  | waits
  | at (cluster bank : Nat)
  deriving DecidableEq, Repr
/-- Has the group of a receive entry been placed, and gone? -/
def groupGone (s : State) (w : BitVec 256) : Bool :=
  decide ((fldN 0 40 (s.queue (chanQueue w)).qcv + 2 ^ 40 - chanSeq w) % 2 ^ 40 < 2 ^ 39) ||
    s.launches.any fun l => l.2.queue == chanQueue w && l.2.num % 2 ^ 40 == chanSeq w &&
      decide (chanGid w < vget l.2.placed 0 0)
def receiverOf (s : State) (chan : Nat) (job : BitVec 32) : Receiver :=
  let w := (s.chan chan).w
  if !(chanEn w && chanRole w == 2 && chanJob w == job) then .gone
  else
    match chanGroup s w with
    | some (_, g) =>
      if g.away.isSome then .waits
      else if bankMode (s.cl g.cluster) (chanBank w) = 1 then .at g.cluster (chanBank w) else .gone
    | none => if groupGone s w then .gone else .waits
/-- Is the queue of the binding of a flow at its source full at this Ridge (R415)? -/
def sourceFull (s : State) (flow : BitVec 32) : Bool :=
  s.bindings.any fun b => b.2.source && b.2.flow == flow && decide (16 ≤ b.2.queue.length)
/-- Is the queue of the binding of a channel, or of a flow of a communicator, full at this Ridge (R415)? -/
def flowFull (s : State) (chan : Bool) (num : Nat) : Bool :=
  s.bindings.any fun b => !b.2.source && decide (16 ≤ b.2.queue.length) &&
    (if chan then b.2.flow == BitVec.ofNat 32 num else bitAt 31 b.2.flow && fldN 0 8 b.2.flow == num)
/-- Are credits withheld: while the flow's queue is full (R415), and those of a channel while the receiving group is not yet placed or is
displaced (R387)? -/
def withheld (s : State) (chan : Bool) (num : Nat) : Bool :=
  flowFull s chan num || (chan && receiverOf s num (chanJob (s.chan num).w) == .waits)
/-- End-to-end credits go back to another package (R387), or are withheld. -/
def giveCredit (s : State) (chan : Bool) (num peer n : Nat) : State :=
  if peer = s.pkg ∨ n = 0 then s
  else if withheld s chan num then { s with creditHeld := s.creditHeld ++ [(chan, num, peer, n)] }
  else { s with creditOut := s.creditOut ++ [(chan, num, peer, n)] }
/-- Credits that need be withheld no longer. -/
def freeHeldCredits (s : State) : State :=
  let full := fun (c : Bool × Nat × Nat × Nat) => withheld s c.1 c.2.1
  { s with creditOut := s.creditOut ++ s.creditHeld.filter (fun c => !(full c)), creditHeld := s.creditHeld.filter full }
/-- FIFO entries reserved for messages of this package that have been sent to one of its own banks, by whatever channel, and not
appended (R387). -/
def reservedRows (s : State) (cluster bank : Nat) : Nat :=
  (s.engs.flatMap Prod.snd).foldl (fun n c => match c.i with
    | .chsnd _ _ _ =>
      let w := (s.chan (cmdChan c)).w
      if c.sent.isSome && c.reply.isNone && chanRpkg w == s.pkg &&
          receiverOf s (chanRchan w) (chanJob w) == .at cluster bank then n + 16 * segCount (fldN 0 17 (c.word 2))
      else n
    | _ => n) 0
/-- Has a CHSND the credits for its whole message? None while the queue of its flow's kernel at this Ridge is full (R415). To a channel of this package it has one for each 4,096 bytes of free
space in the receiving bank, once the group is placed, less those of messages not yet appended, and none while the flow's queue is
full; a message that will be refused needs none (R387, R415). -/
def haveCredits (s : State) (n len : Nat) : Bool :=
  let ch := s.chan n
  if sourceFull s (BitVec.ofNat 32 (chanRchan ch.w)) then false
  else if chanRpkg ch.w = s.pkg then
    match receiverOf s (chanRchan ch.w) (chanJob ch.w) with
    | .gone => true
    | .waits => false
    | .at cluster bank => !(flowFull s true (chanRchan ch.w)) &&
        decide (16 * segCount len + reservedRows s cluster bank + fifoUsed (tabGet ⟨[], []⟩ (s.cl cluster).fifo bank) ≤ 512)
  else decide (segCount len ≤ ch.credits)
/-- The binding of a flow, at the messages' source or destination, to which no UNBIND has come (R411, R415, R419). -/
def flowBinding (s : State) (flow : BitVec 32) (source : Bool) : Option Nat :=
  (s.bindings.find? fun b => b.2.flow == flow && b.2.source == source && b.2.unbinding.isNone).map Prod.fst
/-- Does a kernel at this Ridge run on a flow before it leaves (R415, SITE 1)? -/
def sourceBound (s : State) (flow : BitVec 32) : Bool :=
  (flowBinding s flow true).isSome
/-- A message goes out, or to the kernel of its flow at this Ridge first (mark 125 of its note; log 37). -/
def sendFlow (s : State) (bound : Bool) (m : Msg) : State :=
  if bound then { s with rx := s.rx ++ [{ m with note := m.note ||| BitVec.ofNat 128 (2 ^ 125), port := 31 }] }
  else sendMsg s m
/-- A message that had come before the UNBIND of its flow's kernel, which still runs on it (mark 118; R419, log 37). -/
def keepsKern (m : Msg) : Bool := bitAt 118 m.note
/-- The flow of a message as R411 names it. -/
def flowOf (m : Msg) : BitVec 32 :=
  if m.kind = 7 then m.flow else BitVec.ofNat 32 (2 ^ 31 + fldN 16 3 m.aux * 256 + fldN 0 8 m.flow)
/-- The binding whose kernel runs on a message, at its source or destination (R415, R419). -/
def msgBinding (s : State) (m : Msg) (source : Bool) : Option Nat :=
  (s.bindings.find? fun b => b.2.flow == flowOf m && b.2.source == source && (b.2.unbinding.isNone || keepsKern m)).map Prod.fst
/-- The binding for a collective that begins: also one with an UNBIND, before which a piece of it had come. -/
def collBinding (s : State) (flow : BitVec 32) (seq : Nat) : Option Nat :=
  (s.bindings.find? fun b => b.2.flow == flow && !b.2.source && (b.2.unbinding.isNone ||
    (s.rx.any fun m => m.kind == 8 && keepsKern m && flowOf m == flow && fldN 8 24 m.flow == seq))).map Prod.fst
/-- The segments of a message leave, in order (R388). -/
def sendSegments (s : State) (c : Cmd) (bytes : List Byte) : State :=
  let n := cmdChan c
  let ch := s.chan n
  let len := bytes.length
  let s := s.setChan n { ch with sendSeq := (ch.sendSeq + 1) % 2 ^ 32, credits := ch.credits - segCount len }
  let bound := sourceBound s (BitVec.ofNat 32 (chanRchan ch.w))
  (List.range (segCount len)).foldl (fun s k =>
    sendFlow s bound { mkMsg s (chanRpkg ch.w) 7 6 c.job with
      note := BitVec.ofNat 128 (if bound then n * 2 ^ 100 else 0), cls := BitVec.ofNat 4 (cmdCls c.i), flow := BitVec.ofNat 32 (chanRchan ch.w), offset := BitVec.ofNat 64 (4096 * k),
      aux := BitVec.ofNat 64 (ch.sendSeq + len * 2 ^ 32),
      payload := bytesAt (4096 * k) (min 4096 (len - 4096 * k)) bytes })
    (putCmd s { c with sent := some (chanRpkg ch.w, ch.sendSeq) })
/-- CHSND: it waits for its credits, sends, and has done when its message is appended or dropped (R253). -/
def doChsnd (s : State) (e : Nat) (c : Cmd) : State :=
  let len := fldN 0 17 (c.word 2)
  match c.reply with
  | some (_, 0) => finish1 s { c.taken with srcpos := ceilDiv len 128 }
  | some (_, r) => copyError s e c r false
  | none =>
    if c.sent.isSome then s
    else if !(sendOk s c) then copyError s e c 4 false
    else if !(routable s (chanRpkg (s.chan (cmdChan c)).w)) then copyError s e c 4 false
    else if anyPoison (s.cl c.cluster) c.saddr len then copyError s e c 2 false
    else if !(haveCredits s (cmdChan c) len) then s
    else sendSegments s c (slRead (s.cl c.cluster) c.saddr len)
/-- The receive header of R254. -/
def recvHeader (m : ChMsg) (cap : Nat) : List Byte :=
  bytesOf 8 (m.bytes.length % 2 ^ 32 + m.src * 2 ^ 32 + if cap < m.bytes.length then 2 ^ 48 else 0) ++
    bytesOf 8 m.status.toNat
/-- CHRCV takes the oldest message of its channel (R254); one that is poisoned ends it (R357). -/
def doChrcv (s : State) (e : Nat) (c : Cmd) : State :=
  let b := chanBank (s.chan (cmdChan c)).w
  let cap := fldN 0 17 (c.word 2)
  let cl := s.cl c.cluster
  let f := tabGet ⟨[], []⟩ cl.fifo b
  if !(recvOk s c) then copyError s e c 4 false
  else if bankMode cl b != 1 then s
  else
    match f.msgs.findIdx? fun m => m.chan == cmdChan c with
    | none => s
    | some i =>
      match f.msgs[i]? with
      | none => s
      | some m =>
        let bs := recvHeader m cap ++ m.bytes.take cap
        if slateHeld s c c.cluster c.saddr bs.length then s
        else
          let taken := { cl with fifo := tabPut cl.fifo b { f with msgs := f.msgs.eraseIdx i } }
          if m.poison then
            copyError (giveCredit (s.setCl c.cluster taken) true (cmdChan c) m.src m.cred) e c 2 false
          else
          let cl := slWrite taken c.saddr bs
          let s := giveCredit (s.setCl c.cluster ((linesOf c.saddr (16 + cap)).foldl setFull cl)) true (cmdChan c) m.src m.cred
          finish1 (countBytes s c bs.length) { c with dstpos := bs.length }

-- QPUSH, SETE.

/-- The checks of QPUSH (R262). -/
def qpushBad (s : State) (c : Cmd) (tile : Bool) : Bool :=
  let x := s.queue (fldN 0 17 (c.word 0))
  !(x.dev && x.job == c.job) || decide (64 < fldN 0 7 (c.word 2)) || x.tile != tile
def doQpush (s : State) (e : Nat) (c : Cmd) (tile : Bool) : State :=
  let q := fldN 0 17 (c.word 0)
  let n := fldN 0 7 (c.word 2)
  let cl := s.cl c.cluster
  let push := fun (s : State) => (List.range n).foldl (fun s k => submitRecord s q (slRead cl (c.saddr + 64 * k) 64) false) s
  if qpushBad s c tile then
    copyError s e c (if n ≤ 64 && allFull cl c.saddr (64 * n) && anyPoison cl c.saddr (64 * n) then 2 else 4) false
  else if !((s.queue q).en) then finish1 (push s) c
  else if !(allFull cl c.saddr (64 * n)) then s
  else if anyPoison cl c.saddr (64 * n) then copyError s e c 2 false
  else if !((s.queue q).room n) then s
  else finish1 (push s) { c with srcpos := ceilDiv (64 * n) 128, dstpos := 64 * n }
/-- SETE (R263): at most 64 lines in a cycle; a transfer stands for two cycles. -/
def doSete (s : State) (c : Cmd) : State :=
  let first := c.saddr / 128 + c.put
  let n := min 128 (fldN 0 24 (c.word 2) / 128 - c.put)
  putCmd (s.setCl c.cluster ((span first (first + n)).foldl setEmpty (s.cl c.cluster))) { c with put := c.put + n }

-- A sector.

/-- One sector, or one step, of a command that has begun. -/
def moveCmd (s : State) (e : Nat) (c : Cmd) : State :=
  match c.i with
  | .tbind _ _ _ _ => doTbind s e c
  | .ramo _ _ _ op ret => doRamo s e c op ret
  | .pfch _ _ _ tgt => doPfch s c tgt
  | .chsnd _ _ _ => doChsnd s e c
  | .chrcv _ _ _ => doChrcv s e c
  | .qpush _ _ _ tile => doQpush s e c tile
  | .sete _ _ _ => doSete s c
  | _ => moveUnits s e c
/-- Has a command that has begun done all its work? -/
def cmdDone (c : Cmd) : Bool :=
  c.sent.isNone && c.parts.isEmpty && match c.i with
  | .cpy _ _ _ _ _ => decide (c.units ≤ c.unit)
  | .cpys _ _ _ _ _ => decide (c.units ≤ c.unit)
  | .tcpy _ _ _ _ _ _ => decide (c.units ≤ c.unit)
  | .gath _ _ _ _ => decide (c.units ≤ c.unit)
  | .scat _ _ _ _ => decide (c.units ≤ c.unit)
  | .pfch _ _ _ _ => decide (pfchUnits c ≤ c.unit)
  | .sete _ _ _ => decide (fldN 0 24 (c.word 2) / 128 ≤ c.put)
  | .migr _ _ _ => decide (fldN 0 32 (c.word 2) ≤ c.unit)
  | _ => decide (1 ≤ c.unit)
/-- Commands that move by sectors; MIGR moves by pages, and COLL, RSHD and BMODE not here. -/
def movesSectors : Instr → Bool
  | .migr _ _ _ => false
  | .coll _ _ _ _ _ _ => false
  | .rshd _ _ _ _ => false
  | .bmode _ _ _ _ => false
  | .ckcut _ _ _ => false
  | _ => true
/-- The head of an engine, if it can move a sector. -/
def movable (s : State) (e : Nat) : Option Cmd :=
  match engineHead s e with
  | some c => if c.begun && c.halt.isNone && !c.marker && movesSectors c.i && !(cmdDone c) then some c else none
  | none => none
def execCopySectorTransfer (eng : Nat) (s : State) : Host.Outcome State Fault Refusal :=
  .next (match movable s eng with | some c => (moveCmd s eng c).bump | none => s)

-- Hand-over of COLL and RSHD (R259).

/-- The first VA of a range that no translated page covers. -/
def uncovered (pages : List PageT) (w : Bool) : Nat → Nat → Nat → Option Nat
  | 0, va, hi => if va < hi then some va else none
  | fuel + 1, va, hi =>
    if hi ≤ va then none
    else
      match pages.find? fun p => p.w == w && decide (p.va ≤ va) && decide (va < p.va + p.size) with
      | some p => uncovered pages w fuel (p.va + p.size) hi
      | none => some va
/-- The next page to translate, of ranges (VA, bytes, written). -/
def nextPage (pages : List PageT) (rs : List (Nat × Nat × Bool)) : Option (Nat × Bool) :=
  rs.findSome? fun r => (uncovered pages r.2.2 (pages.length + 1) r.1 (r.1 + r.2.1)).map fun va => (va, r.2.2)
/-- The ranges of a COLL. -/
def collRanges (s : State) (c : Cmd) (kind ty : Nat) : List (Nat × Nat × Bool) :=
  let w := commWord s c.collComm
  let es := elemBits ty / 8
  let n := commN w
  let src := if kind = 5 ∨ (kind = 4 ∧ commRank w ≠ c.collArg) then 0 else collSize kind c.collCount es n false
  [(c.va, src, false), (fldN 0 52 (c.word 1), collSize kind c.collCount es n true, true)]
/-- The ranges of an RSHD: its descriptor, and, once that is known, this member's old and new shards. -/
def rshdRanges (s : State) (c : Cmd) : List (Nat × Nat × Bool) :=
  let r := commRank (commWord s (fldN 0 8 (c.word 2)))
  (c.va, 64, true) :: match c.desc with
    | some d => [(descBase d + r * descStride d, descStride d, false),
                 (fldN 0 52 (c.word 1) + r * descStride d, descStride d, true)]
    | none => []
/-- A communicator that a job may use. -/
def commOk (s : State) (job : BitVec 32) (n : Nat) : Bool :=
  let w := commWord s n
  decide (n < 256) && commEn w && commJob w == job && decide (1 ≤ commN w) && decide (commRank w < commN w)

/-- The collective of a command (R390), in its communicator's order. -/
def newColl (s : State) (c : Cmd) (comm kind op ty count arg : Nat) (reshard : Bool) : Coll :=
  { cmd := c.id, comm := comm, seq := tabGet 0 s.commSeq comm, kind := kind, op := op, ty := ty, count := count, arg := arg,
    pages := c.pages, src := c.va, dst := fldN 0 52 (c.word 1),
    kern := if reshard then none else collBinding s (BitVec.ofNat 32 (2 ^ 31 + kind * 256 + comm)) (tabGet 0 s.commSeq comm),
    skern := if reshard then none else flowBinding s (BitVec.ofNat 32 (2 ^ 31 + kind * 256 + comm)) true, next := 0,
    running := false, due := 0, blocks := [], far := [], acks := [], nf := false, dones := [], doneSent := false, ended := false,
    reshard := reshard,
    desc := c.desc.getD [], map := c.map, rstep := 0, paid := 0, staged := [], recv := [], words := [], parts := [] }
/-- A command is handed to its communicator's engine; its queue entry is free (R231). -/
def handColl (s : State) (c : Cmd) (k : Coll) : State :=
  let s := putCmd s { c with begun := true, handed := true }
  { s with colls := s.colls ++ [k], commSeq := tabPut s.commSeq k.comm ((tabGet 0 s.commSeq k.comm + 1) % 2 ^ 24) }
/-- One page of a hand-over is translated; when all are, the command goes on (R259). -/
def translatePages (s : State) (e : Nat) (c : Cmd) (rs : List (Nat × Nat × Bool)) (k : State → Cmd → State) : State :=
  match nextPage c.pages rs with
  | none => k s c
  | some (va, w) =>
    withPage s e c va (!w) w [] fun x =>
      let size := pageBytes x.level
      putCmd s { c with pages := c.pages ++ [⟨alignDown size va, size, x.leaf, w⟩], srcpos := c.srcpos + 1 }
/-- A collective message to a member; its header's AUX, and what R258 compares (log 37). -/
def collMsg (s : State) (k : Coll) (cls : BitVec 4) (kind r off : Nat) (bits : Nat) (payload : List Byte) : Msg :=
  let w := commWord s k.comm
  { mkMsg s (commPkg s w r) 8 (8 + 2 * commClass w) (commJob w) with
    cls := cls, flow := BitVec.ofNat 32 (k.comm + k.seq * 256), offset := BitVec.ofNat 64 off,
    aux := BitVec.ofNat 64 (commRank w + kind * 65536 + k.op * 2 ^ 19 + k.ty * 2 ^ 21 + bits), payload := payload,
    note := BitVec.ofNat 128 (k.count + k.arg * 2 ^ 40 + commN w * 2 ^ 56 + k.rstep * 2 ^ 72 +
      if k.reshard then 2 ^ 80 else 0) }
/-- The members to which this one shows what it has issued by an empty piece, because no piece of it goes there: a collective that
moves nothing shows it to every other member, and BCAST and PERMUTE to rank 0, to which every other kind sends a piece or, BARRIER, its
DONE at once (R258; log 38). -/
def shownTo (s : State) (k : Coll) : List Nat :=
  let w := commWord s k.comm
  let n := commN w
  let me := commRank w
  if k.kind = 5 then []
  else if k.count = 0 then (List.range n).filter (· != me)
  else if me = 0 then []
  else if (k.kind = 4 ∧ me ≠ k.arg) ∨ (k.kind = 6 ∧ ((me : Int) + toSigned 16 k.arg) % (n : Int) ≠ 0) then [0] else []
/-- The empty pieces leave, to the members to which there is a way. -/
def showColl (s : State) (c : Cmd) (k : Coll) : State :=
  ((shownTo s k).filter fun r => routable s (commPkg s (commWord s k.comm) r)).foldl
    (fun s r => sendMsg s (collMsg s k (BitVec.ofNat 4 (cmdCls c.i)) k.kind r 0 0 [])) s
/-- COLL. One of a single member, or that moves nothing, completes at once (R257); the latter is a collective of its communicator all
the same, which a member that has issued another COUNT sees (R258). -/
def beginColl (s : State) (e : Nat) (c : Cmd) (kind op ty : Nat) : State :=
  if !(commOk s c.job c.collComm) then copyError s e c 4 false
  else if commN (commWord s c.collComm) = 1 then putCmd s { c with begun := true, unit := 1 }
  else if kind ≠ 5 ∧ c.collCount = 0 then
    let k := newColl s c c.collComm kind op ty 0 c.collArg false
    showColl (putCmd { s with commSeq := tabPut s.commSeq k.comm ((k.seq + 1) % 2 ^ 24) } { c with begun := true, unit := 1 }) c k
  else
    translatePages s e c (collRanges s c kind ty) fun s c =>
      let k := newColl s c c.collComm kind op ty c.collCount c.collArg false
      showColl (handColl s c k) c k
/-- Bytes of a page that has been translated for the hand-over, for writing (R259): no more permission is asked. -/
def readPinned (s : State) (e : Nat) (c : Cmd) (va len : Nat) (k : State → Cmd → List Byte → State) : State :=
  match c.pages.find? fun p => p.w && decide (p.va ≤ va) && decide (va < p.va + p.size) with
  | none => s
  | some p =>
    let h := forwarded s (leafPkg p.leaf) (leafPa p.leaf + (va - p.va))
    let s := bypass s c h.1 h.2
    if backHeld s c h.1 h.2 then s else readHome s e c h.1 h.2 len k
/-- RSHD: the descriptor's page, the descriptor, then the shards. -/
def beginRshd (s : State) (e : Nat) (c : Cmd) : State :=
  let comm := fldN 0 8 (c.word 2)
  if !(commOk s c.job comm) then copyError s e c 4 false
  else
    translatePages s e c (rshdRanges s c) fun s c =>
      match c.desc with
      | none => readPinned s e c c.va 64 fun s c bs =>
          putCmd (busyByte (busySlots s c.job c.va true) c.id c.group c.job c.va true) { c with desc := some bs }
      | some _ => handColl s c (newColl s c comm 0 0 0 0 0 true)

-- A command begins.

/-- GATH and SCAT read their list, whose lines must all be full (R247). -/
def beginIndexed (s : State) (e : Nat) (c : Cmd) : State :=
  let n := 4 * fldN 24 16 (c.word 3)
  let cl := s.cl c.cluster
  if !(allFull cl c.listAddr n) then s
  else if anyPoison cl c.listAddr n then copyError s e c 2 false
  else
    let l := slRead cl c.listAddr n
    putCmd s { c with begun := true, idx := words32 (n / 4) l }
/-- CPYS (R244): the remote group, its window and its bank modes; while it is displaced, the command waits. -/
def beginCpys (s : State) (e : Nat) (c : Cmd) : State :=
  match remoteGroup s c with
  | none => copyError s e c 6 false
  | some g =>
    if g.2.away.isSome then s
    else
      if remoteFits s c g.2 then putCmd s { c with begun := true } else copyError s e c 6 false
/-- TCPY through an invalid descriptor is a copy error (R308). -/
def beginTcpy (s : State) (e : Nat) (c : Cmd) : State :=
  if descValid c.descr (descMap c.descr) s.meshpos then putCmd s { c with begun := true } else copyError s e c 7 false
def isCkcut : Instr → Bool
  | .ckcut _ _ _ => true
  | _ => false
/-- A second CKCUT of the package waits until the first one's copying is done (R261): it may stand begun in an engine, have its
arrival on the way, wait for its bell, or be copied. -/
def cutBusy (s : State) (c : Cmd) : Bool :=
  !s.cutWait.isEmpty || s.arrivals.any (fun a => a.cut.isSome) ||
    (allCmds s).any (fun x => isCkcut x.i && x.begun && x.id != c.id) || s.ckpts.any fun x => !x.2.pages.isEmpty || x.2.bell.isSome
/-- A marker is reached (R252). -/
def reachMarker (s : State) (e : Nat) (c : Cmd) : State :=
  dropTlb (s.setEng e ((s.eng e).filter fun x => x.id != c.id)) (e / 16) fun x => x.job == c.job
/-- The head of an engine begins. -/
def beginCmd (s : State) (e : Nat) (c : Cmd) : State :=
  match c.i with
  | .tlbi _ => reachMarker s e c
  | .bmode _ _ _ _ => s
  | .coll _ _ _ kind op ty => beginColl s e c kind.toNat op.toNat ty.toNat
  | .rshd _ _ _ _ => beginRshd s e c
  | .gath _ _ _ _ => beginIndexed s e c
  | .scat _ _ _ _ => beginIndexed s e c
  | .cpys _ _ _ _ _ => beginCpys s e c
  | .tcpy _ _ _ _ _ _ => beginTcpy s e c
  | .ckcut _ _ _ => if cutBusy s c then s else putCmd s { c with begun := true, unit := 1 }
  | _ => putCmd s { c with begun := true }
/-- The head of an engine, if it can begin. -/
def beginnable (s : State) (e : Nat) : Option Cmd :=
  match engineHead s e with
  | some c => if c.marker || (!c.begun && c.halt.isNone && inOrder s c) then some c else none
  | none => none
def execCopyCommandBegins (eng : Nat) (s : State) : Host.Outcome State Fault Refusal :=
  .next (match beginnable s eng with | some c => (beginCmd s eng c).bump | none => s)

-- A command completes (R235).

/-- The cut for which a CKCUT asks (R261). -/
def cutOf (s : State) (c : Cmd) : Option CutReq :=
  match c.i with
  | .ckcut _ _ _ =>
    some { job := c.job, index := fldN 0 12 c.bell, phase := 0, ctl := c.va,
           bell := if bitAt 16 (c.word 1) then some (fld 0 16 (c.word 1)) else none, cluster := c.cluster, group := c.group,
           n := match taskOf s c.tid with | some t => fldN 48 16 (vget t.domain 3 0) | none => 0 }
  | _ => none
/-- A command ends, and its arrival is posted with release at CSCOPE. -/
def finishCmd (s : State) (c : Cmd) : State :=
  let cut := cutOf s c
  let s := delCmd s c.id
  let s := match bmodeBank c with
    | some (b, _) => let cl := s.cl c.cluster; s.setCl c.cluster { cl with closing := tabDel cl.closing b }
    | none => s
  State.progress (if c.ca then
      { s with arrivals := s.arrivals ++
        [{ tid := 0, group := c.group, launch := c.launch, cluster := c.cluster, job := c.job, bell := c.bell,
           scope := c.cscope, after := [], released := false, cut := cut }] }
    else s)
/-- The head of an engine, if it has done all its work; BMODE also waits for its write-backs. -/
def completable (s : State) (e : Nat) : Option Cmd :=
  match engineHead s e with
  | some c =>
    if c.begun && c.halt.isNone && !c.marker && cmdDone c && !((bmodeBank c).isSome && wbOpen s c.group)
    then some c else none
  | none => none
/-- An RSHD that has its FINISH, or has failed, and whose descriptor has been written at its home (R260, R287). -/
def endedReshard (s : State) (e : Nat) : Option Cmd :=
  (s.eng e).find? fun c => !(s.wbs.any fun w => w.owner == c.id) &&
    (c.fail.isSome || ((s.colls.any fun k => k.cmd == c.id && k.ended) && (c.cscope == 0 || !(wbOpen s c.group))))
/-- The descriptor of a finished reshard: the new base and map, BUSY clear. -/
def newDesc (d : List Byte) (base : Nat) (map : BitVec 128) : List Byte :=
  bytesOf 8 (putFld 0 52 base (BitVec.ofNat 64 (numAt 0 8 d))).toNat ++ bytesAt 8 8 d ++ bytesOf 16 map.toNat ++
    bytesAt 32 26 d ++ [0] ++ bytesAt 0x3B 5 d
/-- An RSHD is over (R260, R433): with its completion arrival, once the writes that this releases have performed, the slots bound to
the descriptor take the new pair, and BUSY is clear in them, unless another RSHD of the tensor goes on. -/
def finishReshard (s : State) (c : Cmd) : State :=
  if c.fail.isSome then endFailed s c
  else
    let s := if c.cscope = 0 then s else cacheRelease s c.cluster c.group
    if c.cscope ≠ 0 && wbOpen s c.group then s
    else
      let busy := (reshardOf s c.job c.va c.id).isSome
      let s := mapSlots s c.job c.va fun y =>
        { y with desc := some (newDesc (c.desc.getD []) (fldN 0 52 (c.word 1)) c.map), busy := busy }
      finishCmd { s with colls := s.colls.filter fun k => k.cmd != c.id } c
def execCopyCommandCompletes (eng : Nat) (s : State) : Host.Outcome State Fault Refusal :=
  .next (match endedReshard s eng with
    | some c => finishReshard s c
    | none => match completable s eng with | some c => finishCmd s c | none => s)

-- BMODE (R264, R271).

/-- Does an earlier access or command of the group use the bank? -/
def usesBank (s : State) (c : Cmd) (bank : Nat) : Bool :=
  let r := bankRange bank
  let m := bankMode (s.cl c.cluster) bank
  (allCmds s).any (fun x => x.group == c.group && decide (x.id < c.id) &&
      (x.localRanges.any (fun y => y.len != 0 && overlap y r) || (m == 2 && touchesCache x.i && x.cscope == 0) ||
        (match x.i with
          | .chrcv _ _ _ => chanBank (s.chan (cmdChan x)).w == bank
          | .cpys _ _ _ _ _ => ((x.slateDst s.meshpos (cmdRemote s x)).any fun y => overlap ⟨y.addr, y.len⟩ r)
          | _ => false))) ||
    (ctxsOfGroup s c.group).any fun k =>
      let t := s.ctx k
      (unreadRanges { t with mq := t.mq.filter fun j => decide (j.id < c.id) } ++ unreadRecords t).any (overlap r) ||
        t.mq.any fun j => isMdrns j.i && decide (j.id < c.id)
/-- The bank changes its mode (R271). -/
def changeMode (s : State) (c : Cmd) (bank mode : Nat) : State :=
  let m := bankMode (s.cl c.cluster) bank
  if m = mode then s
  else
    let s := if m = 2 ∨ mode = 2 then cacheFlush s c.cluster c.group fun _ => true else s
    let cl := s.cl c.cluster
    let lines := span (1024 * bank) (1024 * bank + 1024)
    let cl := { cl with mode := if mode = 0 then tabDel cl.mode bank else tabPut cl.mode bank mode,
                        fifo := if mode = 1 then tabPut cl.fifo bank ⟨[], []⟩ else tabDel cl.fifo bank,
                        lineEmpty := cl.lineEmpty.filter fun l => !(lines.contains l),
                        poison := cl.poison.filter fun l => !(lines.contains l) }
    (s.setCl c.cluster (if mode = 0 then lines.foldl (setUndef s.fresh) cl else cl)).bump
/-- The BMODE at the head of an engine whose bank is quiescent. -/
def quiescent (s : State) (e : Nat) : Option (Cmd × Nat × Nat) :=
  match beginnable s e with
  | some c =>
    match bmodeBank c with
    | some (b, m) => if usesBank s c b then none else some (c, b, m)
    | none => none
  | none => none
def execBmodeBegins (eng : Nat) (s : State) : Host.Outcome State Fault Refusal :=
  .next (match quiescent s eng with
    | some (c, b, m) =>
      changeMode (putCmd s { c with begun := true, unit := 1, put := bankMode (s.cl c.cluster) b }) c b m
    | none => s)

/-- A line of a cluster cache leaves, its dirty bytes written back (R275). -/
def execClusterCacheEviction (cluster gid idx : Nat) (s : State) : Host.Outcome State Fault Refusal :=
  .next (match (groupCache s cluster gid)[idx]? with
    | some l => cacheFlush s cluster gid fun x => x.is l.pkg l.pa
    | none => s)

end Sys2Proof.Machine
end

