-- ==== Sys2Proof/Machine/Translation.lean ====
section
/-!
DEFINITION. The translation walker (R291 to R298), translation requests and their completion (R299 to R302), and the pages
that are pinned (R259, R301).
-/
namespace Sys2Proof.Machine

-- The walker.

/-- The first numbers of the walks in flight are served (R297): a walk with 256 older ones waits. -/
def walkInFlight (s : State) (w : Walk) : Bool :=
  let ids := (s.clusters.flatMap fun c => c.2.walks.filter fun x => x.fault.isNone && decide (x.id < w.id)).map Walk.id
  decide ((ids.foldl setAdd []).length < Config.walks)
/-- A translation enters a cluster's unit; of 2,048, the oldest leaves. -/
def tlbAdd (cl : Cluster) (e : TlbEnt) : Cluster :=
  let l := cl.tlb.filter fun x => !(x.job == e.job && x.va / pageBytes x.level == e.va / pageBytes x.level)
  { cl with tlb := (l ++ [e]).drop (l.length + 1 - Config.tlbEntries) }
/-- A walk ends (R295, R298) in a translation, for every cluster that has asked for the page, or in a fault, which each
access that missed will find. -/
def endWalk (s : State) (w : Walk) : State :=
  let mine := fun (x : Walk) => x.id == w.id && x.fault.isNone
  match walkPage s w.job w.va with
  | .ok l =>
    let e : TlbEnt := { job := w.job, va := alignDown (pageBytes l.level) w.va, level := l.level, leaf := l.e }
    { s with clusters := s.clusters.map fun c =>
        if c.2.walks.any mine then
          (c.1, tlbAdd { c.2 with walks := c.2.walks.filter fun x => !(mine x || (x.fault.isNone && e.covers x.job x.va)) } e)
        else c }
  | .error k =>
    { s with clusters := s.clusters.map fun c =>
        (c.1, { c.2 with walks := c.2.walks.map fun x => if mine x then { x with fault := some k } else x }) }
def execTranslationWalk (cluster idx : Nat) (s : State) : Host.Outcome State Fault Refusal :=
  .next (match (s.cl cluster).walks[idx]? with
    | some w => if w.fault.isNone && walkInFlight s w then endWalk s w else s
    | none => s)

-- Pages of a job.

/-- The address of the entry of a VA at a level, and its value; none where a table is missing on the way. -/
def entryFrom (s : State) (va level : Nat) : Nat → Nat → Nat → Option (Nat × Word)
  | 0, _, _ => none
  | fuel + 1, k, base =>
    let a := base + 8 * ptIndex k va
    let e : Word := BitVec.ofNat 64 (memNum s.dram a 8)
    if k = level then some (a, e)
    else if !(bitAt 0 e) || badEntry k e || bitAt 4 e then none
    else entryFrom s va level fuel (k + 1) (fldN 8 38 e * 256)
def entryAt (s : State) (job : BitVec 32) (va level : Nat) : Option (Nat × Word) :=
  let root := fldN 16 30 (jobWord s job 1) * 65536
  if root = 0 then none else entryFrom s va level 4 0 root
/-- The leaf of a VA at a level, if it is valid. -/
def leafAt (s : State) (job : BitVec 32) (va level : Nat) : Option (Nat × Word) :=
  (entryAt s job va level).filter fun x => bitAt 0 x.2 && bitAt 4 x.2

/-- Launch-pinned (R301): a started and uncompleted launch runs from code in the page. -/
def launchPinned (s : State) (job : BitVec 32) (va size : Nat) : Bool :=
  s.launches.any fun l => l.2.started && l.2.job == job && decide (l.2.code.base < va + size) &&
    decide (va < l.2.code.base + l.2.code.len)
/-- A page that a hand-over translated counts as pinned until its command completes (R259). -/
def handPinned (s : State) (job : BitVec 32) (va size : Nat) : Bool :=
  (allCmds s).any fun c => c.job == job && c.pages.any fun p => decide (p.va < va + size) && decide (va < p.va + p.size)
/-- Pinned (R301). -/
def pagePinned (s : State) (job : BitVec 32) (va size : Nat) (e : Word) : Bool :=
  leafPin e || launchPinned s job va size || handPinned s job va size

/-- The cached lines of a page, in every cluster cache of a job, are written back and invalidated (R277). -/
def flushPage (s : State) (job : BitVec 32) (pkg pa size : Nat) : State :=
  (s.groups.filter fun g => g.2.job == job && g.2.away.isNone).foldl (fun s g =>
    cacheFlush s g.2.cluster g.1 fun l => l.pkg == pkg && decide (pa ≤ l.pa) && decide (l.pa < pa + size)) s
/-- The cached lines of a frame, and its queued writes, follow it to a new place: they are written back there, and the lines are
invalidated (R277, R303). -/
def followPage (s : State) (job : BitVec 32) (pkg pa size npkg npa : Nat) : State :=
  let here := fun (p a : Nat) => p == pkg && decide (pa ≤ a) && decide (a < pa + size)
  let shift := fun (w : WBack) => if here w.pkg w.pa then { w with pkg := npkg, pa := npa + (w.pa - pa) } else w
  let s := { s with wbs := s.wbs.map shift }
  let move := fun (l : CLine) => if here l.pkg l.pa then { l with pkg := npkg, pa := npa + (l.pa - pa) } else l
  let s := (s.groups.filter fun g => g.2.job == job && g.2.away.isNone).foldl (fun s g =>
    setGroupCache s g.2.cluster g.1 ((groupCache s g.2.cluster g.1).map move)) s
  flushPage s job npkg npa size
/-- The translations of a range are discarded in every cluster translation unit (R302). -/
def invalidate (s : State) (job : BitVec 32) (va n : Nat) : State :=
  { s with clusters := s.clusters.map fun c =>
      (c.1, c.2.forget fun e => e.job == job && decide (e.va < va + n) && decide (va < e.va + pageBytes e.level)) }

-- Requests.

def reqLevel (r : XReq) : Nat := 3 - r.size.toNat
/-- A request that ends before any page is applied (R301). -/
def reqMalformed (r : XReq) (op : Nat) : Bool :=
  op == 0 || decide (5 < op) || decide (2 < r.size.toNat) || r.rsvd != 0 || r.count == 0 || decide (2 ^ 20 < r.count.toNat) ||
    r.va.toNat % pageBytes (reqLevel r) != 0
def reqPage (r : XReq) (i : Nat) : Nat := (r.va.toNat + i * pageBytes (reqLevel r)) % 2 ^ 52
/-- The leaf of page i of a MAP: PADDR advances by the page size. -/
def reqLeaf (r : XReq) (i : Nat) : Word := putFld 16 30 (fldN 16 30 r.entry + i * (pageBytes (reqLevel r) / 65536)) r.entry

/-- MAP of one page (R301): a status, or none when it is applied. DIRTY stays while the page keeps its frame. -/
def mapPage (s : State) (r : XReq) (i : Nat) : State × Option Nat :=
  match entryAt s r.job (reqPage r i) (reqLevel r) with
  | none => (s, some 3)
  | some (a, old) =>
    let e := reqLeaf r i
    let valid := bitAt 0 old && bitAt 4 old
    let same := leafPkg old == leafPkg e && leafPa old == leafPa e
    if valid && !same && pagePinned s r.job (reqPage r i) (pageBytes (reqLevel r)) old then (s, some 1)
    else (putEntry s a (if valid && same then putFld 46 1 (fldN 46 1 old) e else e), none)
/-- UNMAP of one page: its cached lines are written back first (R277). -/
def unmapPage (s : State) (r : XReq) (i : Nat) : State × Option Nat :=
  match leafAt s r.job (reqPage r i) (reqLevel r) with
  | none => (s, none)
  | some (_, old) =>
    if pagePinned s r.job (reqPage r i) (pageBytes (reqLevel r)) old then (s, some 1)
    else
      let s := flushPage s r.job (leafPkg old) (leafPa old) (pageBytes (reqLevel r))
      match leafAt s r.job (reqPage r i) (reqLevel r) with
      | some (a, e) => (putEntry s a (putFld 0 1 0 e), none)
      | none => (s, none)
/-- PROTECT of one page: R, W and X at once, but for the removal of X from a launch-pinned page. -/
def protectPage (s : State) (r : XReq) (i : Nat) : State × Option Nat :=
  match leafAt s r.job (reqPage r i) (reqLevel r) with
  | none => (s, none)
  | some (a, old) =>
    let keep := bitAt 3 old && !(bitAt 3 r.entry) && launchPinned s r.job (reqPage r i) (pageBytes (reqLevel r))
    (putEntry s a (putFld 1 3 (fldN 1 3 r.entry + if keep then 4 else 0) old), none)
/-- The X removals of a PROTECT that are deferred: job, VA, level. -/
def deferredX (s : State) (r : XReq) (op : Nat) : List (BitVec 32 × Nat × Nat) :=
  if op = 3 ∧ !(bitAt 3 r.entry) then
    ((List.range r.count.toNat).map fun i => (r.job, reqPage r i, (reqLevel r))).filter fun x =>
      launchPinned s x.1 x.2.1 (pageBytes x.2.2) && (match leafAt s x.1 x.2.1 x.2.2 with | some (_, e) => leafX e | none => false)
  else []
def applyPage (s : State) (r : XReq) (op i : Nat) : State × Option Nat :=
  match op with
  | 1 => mapPage s r i
  | 2 => unmapPage s r i
  | 3 => protectPage s r i
  | _ => (s, none)
/-- The pages in increasing VA, up to a stop: the state, the status and the page's index (R301). -/
def applyPages (r : XReq) (op : Nat) : Nat → Nat → State → State × Nat × Nat
  | 0, _, s => (s, 0, 0)
  | n + 1, i, s =>
    match applyPage s r op i with
    | (s, some k) => (s, k, i)
    | (s, none) => applyPages r op n (i + 1) s

/-- UNFWD (R301): the forwarding entries of the range go, and their frames return to the pool (log 36). -/
def dropFwd (s : State) (r : XReq) : State :=
  let hit := fun (f : Fwd) => f.job == r.job && decide (f.va < r.va.toNat + r.count.toNat * pageBytes (reqLevel r)) &&
    decide (r.va.toNat < f.va + f.size)
  { s with fwd := s.fwd.filter fun f => !(hit f),
           poolBack := s.poolBack ++ (s.fwd.filter hit).map fun f => (f.job, f.old) }

/-- The clusters that run a job. -/
def jobClusters (s : State) (job : BitVec 32) : List Nat :=
  (s.groups.filter fun g => g.2.job == job && g.2.away.isNone).foldl (fun l g => setAdd l g.2.cluster) []
/-- The markers of R302: into every copy queue of every cluster that runs the job; the numbers of those that wait. -/
def insertMarkers (s : State) (job : BitVec 32) : State × List Nat :=
  ((jobClusters s job).flatMap fun c => (List.range 16).map (16 * c + ·)).foldl (fun (x : State × List Nat) e =>
    if engineHalted x.1 e then (insertMarker x.1 e job 0, x.2)
    else (insertMarker x.1 e job 0, x.2 ++ [x.1.nextId])) (s, [])
/-- The status word of a completion record (R302). -/
def statusWord (status page : Nat) : Word := BitVec.ofNat 64 (status + page * 2 ^ 32)
def noDone : Done := { caddr := 0, cval := 0, status := 0, cmds := [], backs := [], xrem := [], launch := none, port := 0 }
def addDone (s : State) (d : Done) : State := { s with waitDone := s.waitDone ++ [d] }

/-- The writes to their homes that a job's cluster caches have under way. -/
def jobBacks (s : State) (job : BitVec 32) : List Nat := (s.wbs.filter fun w => w.job == job).map WBack.tag
/-- A translation request (R299 to R302); its completion is posted when what it waits for is done. -/
def xlateRequest (s : State) (op : Nat) (r : XReq) : State :=
  let d := { noDone with caddr := r.caddr, cval := r.cval, port := r.win }
  if reqMalformed r op then addDone s { d with status := statusWord 2 0 }
  else
    let xs := deferredX s r op
    let x := applyPages r op r.count.toNat 0 s
    let s := if op = 5 then dropFwd x.1 r else x.1
    let m := insertMarkers (invalidate s r.job r.va.toNat (r.count.toNat * pageBytes (reqLevel r))) r.job
    addDone m.1 { d with status := statusWord x.2.1 x.2.2, cmds := m.2, backs := if op = 2 then jobBacks m.1 r.job else [], xrem := xs }
def execMap (r : XReq) (s : State) : Host.Outcome State Fault Refusal := .next (xlateRequest s 1 r)
def execUnmap (r : XReq) (s : State) : Host.Outcome State Fault Refusal := .next (xlateRequest s 2 r)
def execProtect (r : XReq) (s : State) : Host.Outcome State Fault Refusal := .next (xlateRequest s 3 r)
def execInval (r : XReq) (s : State) : Host.Outcome State Fault Refusal := .next (xlateRequest s 4 r)
def execUnfwd (r : XReq) (s : State) : Host.Outcome State Fault Refusal := .next (xlateRequest s 5 r)

-- Completion.

/-- The deferred X removals whose page no launch runs from any more take effect (R301). -/
def removeX (s : State) : State :=
  let due := fun (s : State) (x : BitVec 32 × Nat × Nat) => !(launchPinned s x.1 x.2.1 (pageBytes x.2.2))
  let hit := (s.waitDone.flatMap Done.xrem).filter (due s)
  let s := hit.foldl (fun s x =>
    let s := match leafAt s x.1 x.2.1 x.2.2 with
      | some (a, e) => putEntry s a (putFld 3 1 0 e)
      | none => s
    invalidate s x.1 x.2.1 (pageBytes x.2.2)) s
  { s with waitDone := s.waitDone.map fun d => { d with xrem := d.xrem.filter fun x => !(due s x) } }
/-- Is everything done that a completion record waits for (R302, R343)? -/
def doneReady (s : State) (d : Done) : Bool :=
  !(d.cmds.any fun n => s.engs.any fun e => e.2.any fun c => c.id == n) && !(s.wbs.any fun w => d.backs.contains w.tag) && d.xrem.isEmpty &&
    match d.launch with
    | some l => !(s.groups.any fun g => g.2.launch == l && (g.2.displacing.isSome || g.2.away.any (imageBusy s)))
    | none => true
/-- A completion record of 16 bytes, to the host of the window or to the management core (log 34). -/
def writeDone (s : State) (d : Done) : State :=
  { s with hostOut := s.hostOut ++ [.write d.port d.caddr (bytesOf 8 d.cval.toNat ++ bytesOf 8 d.status.toNat)] }
def execTranslationRequestCompletes (s : State) : Host.Outcome State Fault Refusal :=
  .next (match s.waitDone.findIdx? (doneReady s) with
    | some i =>
      match s.waitDone[i]? with
      | some d => writeDone { s with waitDone := s.waitDone.eraseIdx i } d
      | none => s
    | none => s)

end Sys2Proof.Machine
end

