-- ==== Sys2Proof/Machine/Migrate.lean ====
section
/-!
DEFINITION. Migration of pages (R250, R303 to R305): MIGR's pages, the home that gives a page away, the target that takes
it, and the control messages by which they agree (log 35).
-/
namespace Sys2Proof.Machine

-- Control messages of migration (KIND 10; log 35): AUX holds the operation in [7:0], the outcome in [15:8], the level of the
-- page in [23:16] and "MIGR" in [63:32]; FLOW is the command at the package that asked, whose number is the low 16 bits of the note;
-- OFFSET is the page's VA.

def cAsk : Nat := 1
def cTake : Nat := 2
def cFrame : Nat := 3
def cHome : Nat := 4
def cLanded : Nat := 5
def migrAux (op reason level : Nat) : Nat := op + reason * 256 + level * 65536 + 0x4D494752 * 2 ^ 32
def migrMsg (s : State) (dst op : Nat) (job : BitVec 32) (va reason level flow origin : Nat) (payload : List Byte) : Msg :=
  { mkMsg s dst 10 4 job with
    flow := BitVec.ofNat 32 flow, offset := BitVec.ofNat 64 va, aux := BitVec.ofNat 64 (migrAux op reason level),
    payload := payload, note := BitVec.ofNat 128 origin }

-- The package that asked.

/-- The outcome of a page, with the TIME at which it landed, reaches the command that asked for it: 0 landed, else the reason of KIND 4, or 255 when the Ridge
knows no way. -/
def migrAnswer (s : State) (origin : Nat) (job : BitVec 32) (va level cmd reason tick : Nat) : State :=
  if origin = s.pkg then
    match findCmd s cmd with
    | some (_, c) => if c.sent.isSome then putCmd s { c with reply := some (bytesOf 8 tick, reason) } else s
    | none => s
  else sendMsg s (migrMsg s origin cLanded job va reason level cmd origin (bytesOf 8 tick))
/-- A page of a MIGR has landed or been refused: the slip counter (R305), or the record of KIND 4. -/
def endPage (s : State) (e : Nat) (c : Cmd) (reason tick : Nat) : State :=
  if reason = 255 then copyError s e c 4 false
  else
    let size := c.idx.headD 65536
    let d := fldN 0 32 (c.word 3)
    let q := launchQueue s c.launch
    let s :=
      if reason ≠ 0 then
        (postRecord s c.job
          { kind := 4, reply := false, time := 0, source := cmdSource s e c, queue := q.1, value := q.2,
            detail := [BitVec.ofNat 64 (c.va + c.put), BitVec.ofNat 64 reason] }).1
      else if d ≠ 0 ∧ c.time + d < tick then jobCount s c.job 16 false
      else s
    putCmd s { c.taken with unit := c.unit + 1, put := c.put + size, idx := [] }
/-- The next page of a MIGR: its home is asked to give it away, but not where a hand-over of this package holds it pinned (R259). -/
def askPage (s : State) (e : Nat) (c : Cmd) : State :=
  let va := c.va + c.put
  withPage s e c va true true [] fun x =>
    let home := leafPkg x.leaf
    let size := pageBytes x.level
    let va := alignDown size va
    let c := { c with idx := [size - (c.va + c.put) % size] }
    if home ≠ s.pkg ∧ handPinned s c.job va size then endPage s e c 1 s.ticks else
    let c := { c with sent := some (home, va) }
    let target := fldN 0 11 (c.word 1)
    if home = s.pkg then
      putCmd { s with migr := s.migr ++
        [{ origin := s.pkg, cmd := c.id, job := c.job, va := va, level := x.level, leafAt := 0, old := 0, target := target,
           stage := 0, frame := 0, copied := 0, acks := [], held := [] }] } c
    else if !(routable s home) then copyError s e c 4 false
    else putCmd (sendMsg s (migrMsg s home cAsk c.job va 0 x.level c.id s.pkg (bytesOf 2 target))) c
/-- The MIGR at the head of an engine, while pages of it are left. -/
def migrating (s : State) (e : Nat) : Option Cmd :=
  match engineHead s e with
  | some c =>
    match c.i with
    | .migr _ _ _ => if c.begun && c.halt.isNone && !(cmdDone c) then some c else none
    | _ => none
  | none => none
/-- Has a MIGR something to do now: a page to ask for, or an answer? -/
def migrMoves (s : State) (e : Nat) : Bool :=
  match migrating s e with | some c => c.sent.isNone || c.reply.isSome | none => false
def execMigrationPage (eng : Nat) (s : State) : Host.Outcome State Fault Refusal :=
  .next (match migrating s eng with
    | some c =>
      match c.reply with
      | some (bs, r) => endPage s eng c r (numAt 0 8 bs)
      | none => if c.sent.isSome then s else askPage s eng c
    | none => s)

-- The home.

def putMigr (s : State) (i : Nat) (m : Migr) : State := { s with migr := s.migr.set i m }
/-- A migration ends: its command has its answer, and the writes held here are received again. -/
def endMigr (s : State) (i : Nat) (m : Migr) (reason : Nat) : State :=
  let s := { s with migr := s.migr.eraseIdx i, rx := m.held ++ s.rx }
  migrAnswer s m.origin m.job m.va m.level m.cmd reason s.ticks
/-- Steps 1 to 3 of R303 at the home: refused, landed at once, or marked as migrating, and the target asked for a frame. A
home that has itself given the page away passes the request on; while the page migrates already, the next request for it waits. -/
def judgeMigr (s : State) (i : Nat) (m : Migr) : State :=
  match leafAt s m.job m.va m.level with
  | none => endMigr s i m 3
  | some (a, e) =>
    if leafPkg e ≠ s.pkg then
      if !(routable s (leafPkg e)) then endMigr s i m 255
      else
        sendMsg { s with migr := s.migr.eraseIdx i }
          { migrMsg s (leafPkg e) cAsk m.job m.va 0 m.level m.cmd m.origin (bytesOf 2 m.target) with src := m.origin }
    else if migrHeld s (leafPa e) m.size then s
    else if m.target = s.pkg then endMigr s i m 0
    else if pagePinned s m.job m.va m.size e then endMigr s i m 1
    else if cutPending s (leafPa e) m.size then s
    else if Config.forwards ≤ s.fwd.length + (s.migr.filter fun x => x.stage != 0).length then endMigr s i m 4
    else if !(routable s m.target) then endMigr s i m 255
    else
      let s := putEntry s a (putFld 48 1 1 e)
      let s := flushPage s m.job s.pkg (leafPa e) m.size
      let s := putMigr s i { m with stage := 1, leafAt := a, old := leafPa e }
      sendMsg s (migrMsg s m.target cTake m.job m.va 0 m.level m.cmd m.origin [])
/-- A sector of the page as it is sent to the new frame. -/
def pageSector (s : State) (m : Migr) (o tag : Nat) : Msg :=
  { mkMsg s m.target 2 0 m.job with
    tag := tag, offset := BitVec.ofNat 64 (m.target * 2 ^ 46 + m.frame + o), mask := 0xFFFFFFFFFFFFFFFFFFFFFFFFFFFFFFFF,
    payload := memRead s.dram (m.old + o) 128, poison := dramPoisoned s (m.old + o) 128 }
/-- Step 4: 64 KiB of the page are copied, charged to JRBKG (R289). -/
def copyMigr (s : State) (i : Nat) (m : Migr) : State :=
  let os := ((List.range 512).map fun k => m.copied + 128 * k).zipIdx s.nextId
  let s := putMigr (chargeJob { s with nextId := s.nextId + 512 } m.job 2 65536) i
    { m with copied := m.copied + 65536, acks := m.acks ++ os.map Prod.snd }
  os.foldl (fun s o => sendMsg s (pageSector s m o.1 o.2)) s
/-- A message towards a page that has moved, on its way to the new home (R304), with the address that its sender used (log 37). -/
def redirect (f : Fwd) (pkg : Nat) (m : Msg) : Msg :=
  let pa := fldN 0 46 m.offset
  { m with dst := f.pkg, offset := BitVec.ofNat 64 (f.pkg * 2 ^ 46 + f.frame + (pa - f.old)), vc := 0,
           note := if bitAt 127 m.note then m.note
             else (m.note &&& BitVec.ofNat 128 (2 ^ 121 + 2 ^ 119)) ||| BitVec.ofNat 128 (2 ^ 127 + pkg * 2 ^ 46 + pa) }
/-- Step 5: the entry here becomes a forwarding entry, the target's home entry is written, and the page has landed; the
writes held here perform at the new home. -/
def landMigr (s : State) (i : Nat) (m : Migr) : State :=
  let e : Word := BitVec.ofNat 64 (memNum s.dram m.leafAt 8)
  let moved := putFld 53 11 m.target (putFld 16 30 (m.frame / 65536) (putFld 48 1 0 e))
  let f : Fwd := { job := m.job, va := m.va, old := m.old, size := m.size, pkg := m.target, frame := m.frame }
  let s := invalidate (putEntry s m.leafAt moved) m.job m.va m.size
  let s := followPage { s with fwd := s.fwd ++ [f] } m.job s.pkg m.old m.size m.target m.frame
  let s := sendMsg s (migrMsg s m.target cHome m.job m.va 0 m.level m.cmd m.origin (bytesOf 8 (putFld 46 1 1 moved).toNat))
  let s := m.held.foldl (fun s x => sendMsg s (redirect f s.pkg x)) s
  endMigr s i { m with held := [] } 0
/-- Can a migration move on: judged, copied, or landed? -/
def migrReady (s : State) (m : Migr) : Bool :=
  match m.stage with
  | 0 =>
    match leafAt s m.job m.va m.level with
    | some (_, e) => leafPkg e != s.pkg || (!(migrHeld s (leafPa e) m.size) &&
        (m.target == s.pkg || pagePinned s m.job m.va m.size e || !(cutPending s (leafPa e) m.size)))
    | none => true
  | 1 => false
  | _ => if m.copied < m.size then mayCharge s m.job 2 else m.acks.isEmpty
def execMigrationPageLands (idx : Nat) (s : State) : Host.Outcome State Fault Refusal :=
  .next (match s.migr[idx]? with
    | some m =>
      if !(migrReady s m) then s
      else if m.stage = 0 then judgeMigr s idx m
      else if m.copied < m.size then copyMigr s idx m
      else landMigr s idx m
    | none => s)

-- The target.

/-- Is no request to a frame outstanding: none received or held here, and none under way from this package (R303)? -/
def frameQuiet (s : State) (pa size : Nat) : Bool :=
  let here := fun (p a : Nat) => p == s.pkg && decide (pa ≤ a) && decide (a < pa + size)
  let msg := fun (m : Msg) => (m.kind == 0 || m.kind == 2 || m.kind == 4) && here s.pkg (fldN 0 46 m.offset)
  !(s.rx.any msg || (s.migr.any fun m => m.held.any msg) || (s.wbs.any fun w => here w.pkg w.pa) ||
    s.engs.any fun e => e.2.any fun c => match c.sent with | some x => here x.1 x.2 | none => false)
/-- The frames of a job's migration pool that are free and fit a page: the runtime's list, then frames that have
returned (R303, R461; log 35). -/
def freeFrame (s : State) (job : BitVec 32) (size : Nat) : Option (Nat × Option Nat) :=
  let l := fldN 0 46 (jobWord s job 12)
  let a := fun i => memNum s.dram (l + 8 * i) 8 % 2 ^ 46
  match (List.range (fldN 0 32 (jobWord s job 13))).find? fun i => !(s.poolUsed.contains (job, i)) && a i % size == 0 with
  | some i => some (a i, some i)
  | none => ((s.poolBack.filter fun p => p.1 == job && p.2 % size == 0 && frameQuiet s p.2 size).head?).map fun p => (p.2, none)
def takeFrame (s : State) (job : BitVec 32) (f : Nat × Option Nat) : State :=
  match f.2 with
  | some i => { s with poolUsed := s.poolUsed ++ [(job, i)] }
  | none => { s with poolBack := s.poolBack.erase (job, f.1) }

/-- A migration that has begun ends without its page: the entry here is the home's again. -/
def stopMigr (s : State) (i : Nat) (x : Migr) (reason : Nat) : State :=
  let e : Word := BitVec.ofNat 64 (memNum s.dram x.leafAt 8)
  endMigr (putEntry s x.leafAt (putFld 48 1 0 e)) i x reason
/-- A control message of migration that the Ridge discards on its way (R380): the package that asked is told, and, of a request for a
frame, the home, which tells it. -/
def migrDropped (s : State) (m : Msg) : State :=
  let op := fldN 0 8 m.aux
  let tell := fun (dst op : Nat) => sendMsg s { migrMsg s dst op m.job m.offset.toNat 255 (fldN 16 8 m.aux) m.flow.toNat (fldN 0 16 m.note)
    (bytesOf 8 s.ticks) with src := m.dst }
  if op = cTake then tell m.src cFrame
  else if op = cLanded then s
  else if fldN 0 16 m.note = s.pkg then migrAnswer s s.pkg m.job m.offset.toNat (fldN 16 8 m.aux) m.flow.toNat 255 s.ticks
  else tell (fldN 0 16 m.note) cLanded
/-- A control message of migration (log 35). -/
def migrControl (s : State) (m : Msg) : State :=
  let op := fldN 0 8 m.aux
  let reason := fldN 8 8 m.aux
  let level := fldN 16 8 m.aux
  let va := m.offset.toNat
  let size := pageBytes level
  if op = cAsk then
    { s with migr := s.migr ++
      [{ origin := m.src, cmd := m.flow.toNat, job := m.job, va := va, level := level, leafAt := 0, old := 0,
         target := numAt 0 2 m.payload % 2048, stage := 0, frame := 0, copied := 0, acks := [], held := [] }] }
  else if op = cTake then
    let answer := fun (s : State) (r pa : Nat) => sendMsg s (migrMsg s m.src cFrame m.job va r level m.flow.toNat (fldN 0 16 m.note) (bytesOf 8 pa))
    match freeFrame s m.job size, entryAt s m.job va level with
    | none, _ => answer s 2 0
    | some _, none => answer s 3 0
    | some f, some _ => answer (takeFrame s m.job f) 0 f.1
  else if op = cFrame then
    match s.migr.findIdx? fun x => x.stage == 1 && x.job == m.job && x.va == va && x.target == m.src with
    | some i =>
      match s.migr[i]? with
      | some x =>
        if reason = 0 then putMigr s i { x with stage := 2, frame := numAt 0 8 m.payload % 2 ^ 46 }
        else stopMigr s i x reason
      | none => s
    | none => s
  else if op = cHome then
    match entryAt s m.job va level with
    | some (a, old) =>
      let e : Word := BitVec.ofNat 64 (numAt 0 8 m.payload)
      let s := if bitAt 0 old && bitAt 4 old then followPage s m.job (leafPkg old) (leafPa old) size (leafPkg e) (leafPa e) else s
      invalidate (putEntry s a e) m.job va size
    | none => s
  else if op = cLanded then migrAnswer s s.pkg m.job va level m.flow.toNat reason (numAt 0 8 m.payload)
  else s

end Sys2Proof.Machine
end

