-- ==== Sys2Proof/Machine/Channels.lean ====
section
/-!
DEFINITION. Channels at the receiving and at the sending Ridge (R253, R254, R386 to R388): segments are gathered, a
message is appended whole to its FIFO bank, and its CHSND is told.
-/
namespace Sys2Proof.Machine

-- Message marks (log 37).

/-- The message has still to pass the kernel of its flow at this Ridge, which is its source (R415). -/
def atSource (m : Msg) : Bool := bitAt 125 m.note

-- The sender.

/-- The outcome of a message reaches its CHSND: 0 appended or dropped, else the reason of R356. -/
def toldSend (s : State) (rpkg rchan num reason : Nat) : State :=
  let mine := fun (c : Cmd) => match c.i with
    | .chsnd _ _ _ => c.sent == some (rpkg, num) && chanRchan (s.chan (cmdChan c)).w == rchan
    | _ => false
  { s with engs := s.engs.map fun e => (e.1, e.2.map fun c => if mine c then { c with reply := some ([], reason) } else c) }
/-- The receiving Ridge tells the sender: here, or by an acknowledge that names the channel and the send number
(log 37). -/
def tellSend (s : State) (src chan num reason : Nat) : State :=
  if src = s.pkg then toldSend s s.pkg chan num reason
  else
    sendMsg s { mkMsg s src 3 2 (chanJob (s.chan chan).w) with
      flow := BitVec.ofNat 32 chan, aux := BitVec.ofNat 64 num, err := reason != 0,
      note := BitVec.ofNat 128 (2 ^ 123) }

-- The receiver.

def putSegMsg (l : List SegMsg) (x : SegMsg) : List SegMsg :=
  if l.any fun y => y.src == x.src && y.num == x.num && y.out.isNone then
    l.map fun y => if y.src = x.src ∧ y.num = x.num ∧ y.out.isNone then x else y
  else l ++ [x]
/-- Replies in segment order, each a message of its own (R388). -/
def segReplies (x : SegMsg) (chan : Nat) : List ChMsg :=
  (List.range (segCount x.len)).flatMap fun k =>
    (x.segs.filter fun g => g.offset == 4096 * k).flatMap fun g =>
      g.replies.map fun r => { chan := chan, src := x.src, bytes := r.2, status := 0, cred := 0, poison := g.poison }
/-- The payload that joins the segments in OFFSET order, and the OR of their status words. -/
def segPayload (x : SegMsg) : List Byte :=
  (List.range (segCount x.len)).flatMap fun k => (x.segs.filter fun g => g.offset == 4096 * k).flatMap Seg.bytes
def segStatus (x : SegMsg) : BitVec 32 := x.segs.foldl (fun a g => a ||| g.status) 0
/-- The messages that the head of a channel's list has still to append go into the bank while there is room; when the
message itself is in, its CHSND is told. -/
def appendHead (s : State) (chan cluster bank : Nat) : State :=
  match (s.chan chan).msgs with
  | [] => s
  | x :: rest =>
    match x.out with
    | none => s
    | some [] => s.setChan chan { s.chan chan with msgs := rest }
    | some (m :: ms) =>
      let cl := s.cl cluster
      let f := tabGet ⟨[], []⟩ cl.fifo bank
      if 512 < fifoUsed f + msgEntries m.bytes.length then s
      else
        let s := s.setCl cluster { cl with fifo := tabPut cl.fifo bank { f with msgs := f.msgs ++ [m] } }
        let s := s.setChan chan { s.chan chan with msgs := { x with out := some ms } :: rest }
        if m.cred = 0 then s else tellSend s x.src chan x.num 0
/-- Can the head of a channel's list go on: append, or leave? -/
def appendable (s : State) (chan : Nat) : Bool :=
  match (s.chan chan).msgs with
  | x :: _ =>
    match x.out, receiverOf s chan (chanJob (s.chan chan).w) with
    | some [], _ => true
    | some _, .gone => true
    | some (m :: _), .at c b => decide (fifoUsed (tabGet ⟨[], []⟩ (s.cl c).fifo b) + msgEntries m.bytes.length ≤ 512)
    | _, _ => false
  | [] => false
def appendStep (s : State) (chan : Nat) : State :=
  match (s.chan chan).msgs with
  | x :: rest =>
    match receiverOf s chan (chanJob (s.chan chan).w) with
    | .at c b => appendHead s chan c b
    | .gone => tellSend (s.setChan chan { s.chan chan with msgs := rest }) x.src chan x.num 4
    | .waits => if x.out == some [] then s.setChan chan { s.chan chan with msgs := rest } else s
  | [] => s
/-- A segment has been handled at the receiver: with the last one, the message is to be appended, or, when any was
consumed, dropped, and its CHSND told (R388). -/
def segmentDone (s : State) (chan : Nat) (m : Msg) (g : Seg) : State :=
  let num := fldN 0 32 m.aux
  let len := fldN 32 17 m.aux
  let ch := s.chan chan
  let x := (ch.msgs.find? fun y => y.src == m.src && y.num == num && y.out.isNone).getD ⟨m.src, num, len, [], none⟩
  let x := { x with segs := x.segs ++ [g] }
  if x.segs.length < segCount len then s.setChan chan { ch with msgs := putSegMsg ch.msgs x }
  else
    let n := segCount len
    let dropped := x.segs.any Seg.dropped
    let main : List ChMsg := if dropped then []
      else [{ chan := chan, src := x.src, bytes := segPayload x, status := segStatus x, cred := n,
               poison := x.segs.any Seg.poison }]
    let l := putSegMsg ch.msgs x
    let l := l.map fun y => if y = x then { y with out := some (main ++ segReplies x chan) } else y
    let s := s.setChan chan { ch with msgs := l }
    if dropped then giveCredit (tellSend s x.src chan num 0) true chan x.src n else s

-- The source (R415, SITE 1).

/-- The send entry of a message at its source (log 37). -/
def sourceChan (m : Msg) : Nat := fldN 100 12 m.note
/-- A segment has been handled by the kernel at its source: with the last one, the segments leave, each with its payload as
delivered and its status word, or the message is dropped. -/
def sourceDone (s : State) (m : Msg) (g : Seg) : State :=
  let n := sourceChan m
  let num := fldN 0 32 m.aux
  let len := fldN 32 17 m.aux
  let ch := s.chan n
  let rchan := m.flow.toNat
  let x := (ch.msgs.find? fun y => y.src == m.src && y.num == num).getD ⟨m.src, num, len, [], none⟩
  let x := { x with segs := x.segs ++ [g] }
  if x.segs.length < segCount len then s.setChan n { ch with msgs := putSegMsg ch.msgs x }
  else
    let s := s.setChan n { ch with msgs := ch.msgs.filter fun y => !(y.src == x.src && y.num == num) }
    let s := if x.segs.any Seg.dropped then
        let s := toldSend s m.dst rchan num 0
        s.setChan n { s.chan n with credits := (s.chan n).credits + segCount len }
      else
        x.segs.foldl (fun s g => sendMsg s { m with
          offset := BitVec.ofNat 64 g.offset, payload := g.bytes, poison := g.poison, came := none, port := 31, note := g.status.zeroExtend 128 }) s
    (segReplies x n).foldl (fun s r => sendMsg s { m with
      kind := 9, offset := 0, payload := r.bytes, poison := r.poison, note := 0 }) s
/-- A purlin reply from a kernel at the source of a channel: a message of its own in the receiver's bank (R408). -/
def replyArrives (s : State) (m : Msg) : State :=
  let chan := fldN 0 12 m.flow
  let ch := s.chan chan
  let r : ChMsg := { chan := chan, src := m.src, bytes := m.payload, status := 0, cred := 0, poison := m.poison }
  s.setChan chan { ch with msgs := ch.msgs ++ [⟨m.src, fldN 0 32 m.aux, 0, [], some [r]⟩] }

end Sys2Proof.Machine
end

