-- ==== Sys2Proof/Machine/Collective.lean ====
section
/-!
DEFINITION. The collective engines (R255 to R258, R389 to R394, R416, R444): chunks, pieces and their credits, the blocks of
a reduction whose flow has a kernel, DONE and FINISH, and errors that end a collective on every member.
-/
namespace Sys2Proof.Machine

-- The collectives of a communicator.

/-- The current collective of a communicator: the oldest that has not completed (R390). -/
def currentColl (s : State) (comm : Nat) : Option Coll := s.colls.find? fun k => k.comm == comm
def putColl (s : State) (k : Coll) : State := { s with colls := s.colls.map fun x => if x.cmd = k.cmd then k else x }
def Coll.word (k : Coll) (s : State) : BitVec 512 := commWord s k.comm
def Coll.esize (k : Coll) : Nat := elemBits k.ty / 8
/-- The bytes of an RSHD's new shard at this member. -/
def Coll.esBytes (k : Coll) (s : State) : Nat :=
  efmtSize (descEfmt k.desc) * shardElems k.desc k.map (meshCoord s.meshpos)
/-- ALLRED and REDSCT. -/
def Coll.reduces (k : Coll) : Bool := !k.reshard && decide (k.kind < 2)
/-- The flow of a collective, as R411 names it. -/
def collFlow (comm kind : Nat) : BitVec 32 := BitVec.ofNat 32 (2 ^ 31 + kind * 256 + comm)

-- Chunks (R390, R393, R444).

/-- A chunk: the members whose piece at an offset it takes; the members to which it sends; the source bytes that it reads
(an offset in the source object); the offset and length in the destination; whether it writes, combines, or gives its bytes
to this Ridge's own kernel. -/
structure Chunk where
  take : List Nat
  dests : List Nat
  src : Option Nat
  off : Nat
  len : Nat
  write : Bool
  comb : Bool
  feed : Bool
  deriving DecidableEq, Repr

/-- Piece i of n bytes: its offset and length, if there is one. -/
def pieceAt (n i : Nat) : Option (Nat × Nat) := if 65536 * i < n then some (65536 * i, min 65536 (n - 65536 * i)) else none
def pieceCount (n : Nat) : Nat := ceilDiv n 65536
/-- A chunk that sends, one that takes, one that copies locally. -/
def sendChunk (dests : List Nat) (src off : Nat) (write : Bool) (p : Nat × Nat) : Chunk :=
  { take := [], dests := dests, src := some (src + p.1), off := off + p.1, len := p.2, write := write, comb := false, feed := false }
def copyChunk (r off : Nat) (p : Nat × Nat) : Chunk :=
  { take := [r], dests := [], src := none, off := off + p.1, len := p.2, write := true, comb := false, feed := false }
/-- The chunks by which this member reduces a piece of its own shard; with a kernel, its contribution goes to the kernel
first (R416). -/
def combChunks (kern : Bool) (others dests : List Nat) (src off : Nat) (p : Nat × Nat) : List Chunk :=
  let c : Chunk := { take := others, dests := dests, src := some (src + p.1), off := off + p.1, len := p.2, write := true,
                     comb := true, feed := false }
  if kern then [{ c with take := [], dests := [], write := false, comb := false, feed := true }, { c with src := none }] else [c]
/-- The balanced shard of a member (R311, R393), in bytes. -/
def shardAt (count n es r : Nat) : Nat × Nat :=
  (es * (r * (count / n) + min r (count % n)), es * (count / n + if r < count % n then 1 else 0))
/-- The member from which, and to which, a PERMUTE moves (R255). -/
def permFrom (n rank arg : Nat) : Nat := (((rank : Int) - toSigned 16 arg) % (n : Int)).toNat
def permTo (n rank arg : Nat) : Nat := (((rank : Int) + toSigned 16 arg) % (n : Int)).toNat
/-- The chunks of a collective at this member. R444 gives the order of REDSCT and BCAST without a kernel; the others go
piece by piece (log 38). -/
def collChunks (s : State) (k : Coll) : List Chunk :=
  let w := k.word s
  let n := commN w
  let me := commRank w
  let others := (List.range n).filter (· != me)
  let one := k.count * k.esize
  let ps := (List.range (pieceCount one)).filterMap (pieceAt one)
  let kern := k.kern.isSome
  match k.kind with
  | 0 =>
    let sh := shardAt k.count n k.esize
    (List.range (pieceCount (sh 0).2)).flatMap fun i =>
      let at' := fun (r : Nat) (f : Nat × Nat → List Chunk) => match pieceAt (sh r).2 i with | some p => f p | none => []
      others.flatMap (fun r => at' r fun p => [sendChunk [r] (sh r).1 (sh r).1 false p]) ++
        (at' me (combChunks kern others others (sh me).1 (sh me).1) ++
          others.flatMap fun r => at' r fun p => [copyChunk r (sh r).1 p])
  | 1 =>
    if kern then
      ps.flatMap fun p => others.map (fun r => sendChunk [r] (r * one) 0 false p) ++ combChunks true others [] (me * one) 0 p
    else others.flatMap (fun r => ps.map (sendChunk [r] (r * one) 0 false)) ++
      ps.flatMap (combChunks false others [] (me * one) 0)
  | 2 => ps.flatMap fun p => sendChunk others 0 (me * one) true p :: others.map fun r => copyChunk r (r * one) p
  | 3 =>
    ps.flatMap fun p => others.map (fun r => sendChunk [r] (r * one) (me * one) false p) ++
      (sendChunk [] (me * one) (me * one) true p :: others.map fun r => copyChunk r (r * one) p)
  | 4 => if me = k.arg then ps.map (sendChunk others 0 0 true) else ps.map (copyChunk k.arg 0)
  | 6 =>
    let d := permTo n me k.arg
    if d = me then ps.map (sendChunk [] 0 0 true)
    else ps.flatMap fun p => [sendChunk [d] 0 0 false p, copyChunk (permFrom n me k.arg) 0 p]
  | _ => []

-- Memory of the member's ranges (R259).

/-- What a read of a range gives: bytes; the sectors of other packages that have still to come; 0 or the reason of a copy
error. -/
structure CollGot where
  bytes : List Byte
  missing : List (Nat × Nat)
  err : Nat
  deriving DecidableEq, Repr
def pageOf (k : Coll) (w : Bool) (va : Nat) : Option PageT :=
  k.pages.find? fun p => p.w == w && decide (p.va ≤ va) && decide (va < p.va + p.size)
/-- The runs of a range, where its pages are homed now (R304): package, local address, bytes; within one page, and within one sector on another package. -/
def collRuns (s : State) (k : Coll) (w : Bool) : Nat → Nat → Nat → List (Nat × Nat × Nat)
  | 0, _, _ => []
  | _, _, 0 => []
  | fuel + 1, va, n =>
    match pageOf k w va with
    | none => []
    | some p =>
      let h := forwarded s (leafPkg p.leaf) (leafPa p.leaf + (va - p.va))
      let m := if h.1 = s.pkg then min n (p.va + p.size - va) else min n (128 - h.2 % 128)
      (h.1, h.2, m) :: collRuns s k w fuel (va + m) (n - m)
def collRun (s : State) (k : Coll) (x : Nat × Nat × Nat) : CollGot :=
  if x.1 = s.pkg then ⟨memRead s.dram x.2.1 x.2.2, [], if dramPoisoned s x.2.1 x.2.2 then 2 else 0⟩
  else
    let sec := x.2.1 / 128 * 128
    match (k.far.find? fun f => f.pkg == x.1 && f.pa == sec).bind FarRead.got with
    | some (bs, r) => ⟨bytesAt (x.2.1 - sec) x.2.2 bs, [], r⟩
    | none => ⟨[], [(x.1, sec)], 0⟩
def collRead (s : State) (k : Coll) (w : Bool) (va n : Nat) : CollGot :=
  (collRuns s k w (n + 1) va n).foldl (fun g x =>
    let r := collRun s k x
    ⟨g.bytes ++ r.bytes, g.missing ++ r.missing, max g.err r.err⟩) ⟨[], [], 0⟩
/-- The command of a collective; the class that its messages bear (R376). -/
def Coll.issuer (k : Coll) (s : State) : Option Cmd := (findCmd s k.cmd).map Prod.snd
def Coll.cls (k : Coll) (s : State) : BitVec 4 := match k.issuer s with | some c => BitVec.ofNat 4 (cmdCls c.i) | none => 0
/-- A memory request of a collective to another package. -/
def collRequest (s : State) (k : Coll) (pkg kind pa tag : Nat) : Msg :=
  { mkMsg s pkg kind 0 (commJob (k.word s)) with
    cls := k.cls s, offset := BitVec.ofNat 64 (pkg * 2 ^ 46 + pa), tag := tag }
/-- The sectors that a read misses are asked for. -/
def askFar (s : State) (k : Coll) (l : List (Nat × Nat)) : State :=
  let l := (l.filter fun x => !(k.far.any fun f => f.pkg == x.1 && f.pa == x.2)).zipIdx s.nextId
  let s := putColl { s with nextId := s.nextId + l.length } { k with far := k.far ++ l.map fun x => ⟨x.1.1, x.1.2, x.2, none⟩ }
  l.foldl (fun s x => sendMsg s (collRequest s k x.1.1 0 x.1.2 x.2)) s
/-- Does a read wait only for replies? -/
def readWaits (k : Coll) (g : CollGot) : Bool :=
  !g.missing.isEmpty && g.missing.all fun x => k.far.any fun f => f.pkg == x.1 && f.pa == x.2
/-- Bytes of the destination of a collective have performed: they are counted (R235, R258). -/
def countColl (s : State) (k : Coll) (n : Nat) : State := match k.issuer s with | some c => countBytes s c n | none => s
/-- Bytes written into the destination: at this home, or by writes that will be acknowledged, and counted then. -/
def collWrite (s : State) (k : Coll) (va : Nat) (bs : List Byte) : State × Coll :=
  let x := (collRuns s k true (bs.length + 1) va bs.length).foldl (fun (x : State × Coll × Nat) r =>
    let part := bytesAt x.2.2 r.2.2 bs
    if r.1 = s.pkg then
      (countColl (homeWrite x.1 (some (commJob (k.word s))) r.2.1 part) k r.2.2, x.2.1, x.2.2 + r.2.2)
    else
      let o := r.2.1 % 128
      let tag := x.1.nextId
      (sendMsg { x.1 with nextId := tag + 1 } { collRequest s k r.1 2 (r.2.1 - o) tag with
          mask := maskOf 128 fun n => decide (o ≤ n) && decide (n < o + part.length),
          payload := List.replicate o 0 ++ part ++ List.replicate (128 - o - part.length) 0 },
        { x.2.1 with acks := x.2.1.acks ++ [(tag, r.2.2)] }, x.2.2 + r.2.2)) (s, k, 0)
  (x.1, x.2.1)
/-- The range of a collective's destination at this member, or of an RSHD's new shard. -/
def Coll.destRange (k : Coll) (s : State) : Nat × Nat :=
  if k.reshard then (k.dst + commRank (k.word s) * descStride k.desc, k.esBytes s)
  else (k.dst, collSize k.kind k.count k.esize (commN (k.word s)) true)
/-- Is an aligned word written in full by a collective at this member (R280)? -/
def Coll.writesWord (k : Coll) (s : State) (w : Nat) : Bool :=
  let d := k.destRange s
  decide (d.1 ≤ 8 * w) && decide (8 * w + 8 ≤ d.1 + d.2)
/-- Bytes of the destination that have come: what of them writes whole words is written, and parts of words are kept (R280). -/
def collPut (s : State) (k : Coll) (va : Nat) (bs : List Byte) : State × Coll :=
  let j := joinParts k.parts (k.writesWord s) va bs
  j.2.foldl (fun x p => collWrite x.1 x.2 p.1 p.2) (s, { k with parts := j.1 })
/-- The parts of words of which no more will come, as runs of bytes: address, bytes. -/
def Coll.leftParts (k : Coll) : List (Nat × List Byte) :=
  k.parts.flatMap fun p => (maskRuns (fun n => p.2.any fun x => x.1 == n) 0
    ((List.range 8).map fun n => match p.2.find? fun x => x.1 == n with | some x => x.2 | none => 0)).map fun r => (8 * p.1 + r.1, r.2)
/-- Bytes read with the words that were read in part before, as they were then (R280). -/
def overWords (words : Tab (List Byte)) (a : Nat) (bs : List Byte) : List Byte :=
  words.foldl (fun l x => overlay a l (8 * x.1) x.2) bs
/-- Is a sector in the pages of a collective? -/
def Coll.covers (k : Coll) (s : State) (pkg pa : Nat) : Bool :=
  k.pages.any fun p =>
    let h := forwarded s (leafPkg p.leaf) (leafPa p.leaf)
    h.1 == pkg && decide (h.2 ≤ pa) && decide (pa < h.2 + p.size)
/-- Before a collective's accesses, the lines of its pages in the cache of the group that issued it are written back and
invalidated (R276, R287). -/
def collFlush (s : State) (k : Coll) : State :=
  match k.issuer s with
  | some c =>
    if (groupCache s c.cluster c.group).any fun l => k.covers s l.pkg l.pa then
      cacheFlush s c.cluster c.group fun l => k.covers s l.pkg l.pa
    else s
  | none => s
/-- Have writes of that group to the pages still to perform? -/
def collBack (s : State) (k : Coll) : Bool :=
  match k.issuer s with | some c => s.wbs.any fun w => w.group == c.group && k.covers s w.pkg w.pa | none => false
/-- Does the Ridge know a way to every home of a collective's pages (R380)? -/
def collRoutes (s : State) (k : Coll) : Bool := k.pages.all fun p => routable s (forwarded s (leafPkg p.leaf) (leafPa p.leaf)).1
/-- Does a write to the destination wait for the copy of a cut page (R290, R370)? -/
def collHeld (s : State) (k : Coll) (va n : Nat) : Bool :=
  (collRuns s k true (n + 1) va n).any fun r => r.1 == s.pkg && writeHeld s r.2.1 r.2.2

-- Messages (R377).

def bCollect : Nat := 2 ^ 24
def bDone : Nat := 2 ^ 25
def bFinish : Nat := 2 ^ 26
def bNf : Nat := 2 ^ 27
def bLast : Nat := 2 ^ 28
/-- The reason with which a member tells the others that the collective has ended in an error (log 37); 0 for none. -/
def msgReason (m : Msg) : Nat := fldN 88 8 m.note
/-- It says that a message of the receiver's own was discarded on its way (R380; log 37). -/
def unreached (m : Msg) : Bool := bitAt 96 m.note
/-- A piece leaves as messages of 4,096 bytes (R390). -/
def sendPiece (s : State) (k : Coll) (kind r off : Nat) (bs : List Byte) : State :=
  let n := ceilDiv bs.length 4096
  (List.range n).foldl (fun s j =>
    let m := collMsg s k (k.cls s) kind r (off + 4096 * j) (if j + 1 = n then bLast else 0)
      (bytesAt (4096 * j) (min 4096 (bs.length - 4096 * j)) bs)
    if k.reshard then sendMsg s m else sendFlow s k.skern.isSome (if k.skern.isSome then { m with note := m.note ||| BitVec.ofNat 128 (2 ^ 118) } else m)) s

-- Errors.

/-- A collective ends here with a copy error; its pieces' credits go back. -/
def endColl (s : State) (k : Coll) (reason : Nat) : State :=
  let w := k.word s
  let s := (s.pieces.filter fun p => p.comm == k.comm && p.seq == k.seq).foldl
    (fun s p => giveCredit s false k.comm (commPkg s w p.src) 1) s
  match findCmd s k.cmd with
  | some (e, c) => copyError s e c reason false
  | none => { s with colls := s.colls.filter fun x => x.cmd != k.cmd }
/-- It ends so on every member. -/
def failColl (s : State) (k : Coll) (reason : Nat) : State :=
  let w := k.word s
  let s := ((List.range (commN w)).filter (· != commRank w)).foldl (fun s r =>
    let m := collMsg s k (k.cls s) k.kind r 0 bFinish []
    sendMsg s { m with note := m.note ||| BitVec.ofNat 128 (reason * 2 ^ 88) }) s
  endColl s k reason

-- Combination (R256).

/-- Is an element of a floating-point type infinite or NaN? -/
def elemBad (ty x : Nat) : Bool :=
  match ty with
  | 0 => !(unpack fp32 x).finite
  | 1 => !(unpack bf16 x).finite
  | 2 => !(unpack fp16 x).finite
  | 3 => !(unpack8 x).finite
  | _ => false
def elemsN (es : Nat) : Nat → List Byte → List Nat
  | 0, _ => []
  | n + 1, l => numAt 0 es l :: elemsN es n (l.drop es)
def elemsOf (es : Nat) (bs : List Byte) : List Nat := elemsN es (bs.length / es) bs
def anyBad (ty : Nat) (bs : List Byte) : Bool := (elemsOf (elemBits ty / 8) bs).any (elemBad ty)
def toFp32 (ty x : Nat) : Nat :=
  match ty with
  | 1 => (cvtFmt bf16 fp32 0 x).1
  | 2 => (cvtFmt fp16 fp32 0 x).1
  | 3 => (cvtFrom8 fp32 x).1
  | _ => x
/-- An FP32 result in the element type. R103 names no f8nan for collectives: an FP8 overflow gives NaN (log 69). -/
def fromFp32 (ty x : Nat) : Nat :=
  match ty with
  | 1 => (cvtFmt fp32 bf16 0 x).1
  | 2 => (cvtFmt fp32 fp16 0 x).1
  | 3 => (satFp8 0 true (unpack fp32 x)).1
  | _ => x
/-- One combination of floating-point elements, in FP32, and of integers. -/
def combF (op x y : Nat) : Nat :=
  match op with
  | 0 => (fAdd fp32 0 x y).1
  | 1 => (fMax fp32 x y).1
  | _ => (fMin fp32 x y).1
def combI (op : Nat) (x y : Int) : Int := match op with | 0 => x + y | 1 => max x y | _ => min x y
/-- The combination of one element of each contribution, in the order in which they come. -/
def reduceElem (ty op : Nat) (l : List Nat) : Nat :=
  match l with
  | [] => 0
  | x :: r =>
    if ty = 5 then ((r.foldl (fun a y => toSigned 32 (combI op a (toSigned 32 y) % (2 : Int) ^ 32).toNat)
      (toSigned 32 x)) % (2 : Int) ^ 32).toNat
    else if ty = 4 then ((satInt 8 (r.foldl (fun a y => combI op a (toSigned 8 y)) (toSigned 8 x))).1 % (2 : Int) ^ 8).toNat
    else fromFp32 ty (r.foldl (fun a y => combF op a (toFp32 ty y)) (toFp32 ty x))
/-- Contributions of equal length combined, element by element. -/
def reduceLists (ty op : Nat) : Nat → List (List Nat) → List Nat
  | 0, _ => []
  | n + 1, l => reduceElem ty op (l.map fun x => x.headD 0) :: reduceLists ty op n (l.map List.tail)
def reduceBytes (ty op : Nat) (l : List (List Byte)) : List Byte :=
  let es := elemBits ty / 8
  (reduceLists ty op ((l.headD []).length / es) (l.map (elemsOf es))).flatMap (bytesOf es)

-- Pieces and credits (R391, R392).

def Piece.of (k : Coll) (src off : Nat) (p : Piece) : Bool :=
  p.comm == k.comm && p.seq == k.seq && p.step == k.rstep && p.src == src && p.off == off
def findPiece (s : State) (k : Coll) (src off : Nat) : Option Piece := s.pieces.find? (Piece.of k src off)
def Piece.whole (p : Piece) : Bool := p.msgs.foldl (fun n m => n + m.2.1) 0 == p.len
def putPiece (s : State) (p : Piece) : State :=
  let same := fun (q : Piece) => q.comm == p.comm && q.seq == p.seq && q.step == p.step && q.src == p.src && q.off == p.off
  { s with pieces := if s.pieces.any same then s.pieces.map fun q => if same q then p else q else s.pieces ++ [p] }
/-- A piece is consumed, and its credit goes back (R444). -/
def usePiece (s : State) (k : Coll) (src off : Nat) : State :=
  if (findPiece s k src off).isNone then s
  else giveCredit { s with pieces := s.pieces.filter fun p => !(Piece.of k src off p) } false k.comm (commPkg s (k.word s) src) 1
/-- The bytes of a piece, from the receive scratch: offset in the destination, bytes. -/
def pieceParts (s : State) (k : Coll) (p : Piece) : List (Nat × List Byte) :=
  p.msgs.map fun m => (m.1, memRead s.dram (commScratch (k.word s) + 65536 * p.slot + (m.1 - p.off)) m.2.2)
def pieceBytes (s : State) (k : Coll) (p : Piece) : List Byte :=
  memRead s.dram (commScratch (k.word s) + 65536 * p.slot) p.len
/-- A free piece of the receive scratch. -/
def freeSlot (s : State) (k : Coll) : Option Nat :=
  (List.range (commScr (k.word s))).find? fun n => !(s.pieces.any fun p => p.comm == k.comm && p.slot == n)
/-- The credits that this member holds at another: SCR pieces shared among the senders, when none have been counted yet
(log 38). -/
def commHeld (s : State) (comm r : Nat) : Nat :=
  let w := commWord s comm
  tabGet (commScr w / (commN w - 1)) (tabGet [] s.commCred comm) r
def setHeld (s : State) (comm r n : Nat) : State :=
  { s with commCred := tabPut s.commCred comm (tabPut (tabGet [] s.commCred comm) r n) }

-- Reshard streams are given by their own file; a chunk's source is one of the two.

/-- The results of a reduction's blocks that lie in a range, when all of it is known (R416). -/
def resultBytes (k : Coll) : Nat → Nat → Nat → Option (List Byte)
  | 0, _, n => if n = 0 then some [] else none
  | fuel + 1, off, n =>
    if n = 0 then some []
    else
      match k.blocks.find? fun b => b.off == off with
      | some b =>
        match b.result with
        | some bs => if b.len = 0 then none else (resultBytes k fuel (off + b.len) (n - b.len)).map (bs ++ ·)
        | none => none
      | none => none
def chunkResult (k : Coll) (c : Chunk) : Option (List Byte) := resultBytes k (c.len + 1) c.off c.len

end Sys2Proof.Machine
end

