-- ==== Sys2Proof/Machine/Reshard.lean ====
section
/-!
DEFINITION. The reshard planner (R260, R311, R315, R316): its steps, the elements that each member holds between them, the
streams that members exchange in a step, and the halos.
-/
namespace Sys2Proof.Machine

/-- How one mesh axis divides the elements between two steps: split along a dimension, replicated, partially summed, or
(between a reduce-scatter and its all-gather) split by element number. -/
inductive AxLay where
  | split (dim : Nat) (ceil : Bool)
  | repl
  | psum
  | flat
  deriving DecidableEq, Repr
/-- A step: COLL's kind code for those that move data (1 reduce-scatter, 3 all-to-all, 2 all-gather, 6 permute); 7 local
slicing, 8 the writing of the new shard's own range, 9 the halo cells outside the tensor. -/
structure RStep where
  kind : Nat
  axis : Nat
  deriving DecidableEq, Repr

def Axis.split (x : Axis) : Bool := decide (x.dim ≤ 5)
def Axis.lay (x : Axis) : AxLay := if x.dim ≤ 5 then .split x.dim x.ceil else if x.dim = 6 then .repl else .psum
/-- An illegal pair (R315). -/
def illegalPair (old new : BitVec 128) : Bool :=
  (List.range 4).any fun a => (mapAxis old a).dim != 7 && (mapAxis new a).dim == 7
/-- The steps of a reshard, in the order of R316. -/
def reshardSteps (old new : BitVec 128) : List RStep :=
  let axes := fun (kind : Nat) (f : Axis → Axis → Bool) =>
    ((List.range 4).filter fun a => f (mapAxis old a) (mapAxis new a)).map fun a => (⟨kind, a⟩ : RStep)
  let halos := axes 6 fun _ y => y.split && (y.lo != 0 || y.hi != 0)
  axes 1 (fun x y => x.dim == 7 && y.dim != 7) ++
    (axes 3 (fun x y => x.split && y.split && (x.dim != y.dim || x.ceil != y.ceil)) ++
      (axes 2 (fun x y => (x.split || x.dim == 7) && y.dim == 6) ++
        (axes 7 (fun x y => x.dim == 6 && y.split) ++
          (⟨8, 0⟩ :: (halos ++ if halos.isEmpty then [] else [⟨9, 0⟩])))))
/-- The layout of an axis after a step of it. -/
def layAfter (new : BitVec 128) (st : RStep) : AxLay :=
  match st.kind with
  | 1 => if (mapAxis new st.axis).split then (mapAxis new st.axis).lay else .flat
  | 2 => .repl
  | _ => (mapAxis new st.axis).lay
/-- The layout of an axis before step j. -/
def layAt (old new : BitVec 128) (j a : Nat) : AxLay :=
  ((reshardSteps old new).take j).foldl (fun l st => if st.axis = a ∧ (st.kind = 1 ∨ st.kind = 2 ∨ st.kind = 3 ∨ st.kind = 7)
    then layAfter new st else l) (mapAxis old a).lay

-- Elements by number.

def tensorSize (d : List Byte) : Nat := (List.range (descRank d)).foldl (fun p k => p * descExtent d k) 1
/-- The index of an element in dimension k. -/
def elemIdx (d : List Byte) (n k : Nat) : Nat :=
  n / ((List.range k).foldl (fun p e => p * descExtent d e) 1) % max 1 (descExtent d k)
/-- Does the shard with a coordinate on an axis hold an element under a layout of the axis? -/
def holdsAx (d : List Byte) (m : BitVec 128) (a : Nat) (l : AxLay) (coord n : Nat) : Bool :=
  let size := (mapAxis m a).size
  match l with
  | .split k ceil => shardOwner ⟨k, ceil, 0, 0, size⟩ (descExtent d k) (elemIdx d n k) == coord
  | .flat => shardOwner ⟨0, false, 0, 0, size⟩ (tensorSize d) n == coord
  | _ => true

-- What a reshard is at this member.

def Coll.old (k : Coll) : BitVec 128 := descMap k.desc
def Coll.steps (k : Coll) : List RStep := reshardSteps k.old k.map
def Coll.step (k : Coll) : RStep := (k.steps[k.rstep - 1]?).getD ⟨0, 0⟩
def Coll.efmt (k : Coll) : Nat := descEfmt k.desc
def Coll.es (k : Coll) : Nat := efmtSize k.efmt
def Coll.shard (k : Coll) (base : Nat) (s : State) : Nat := base + commRank (k.word s) * descStride k.desc
/-- This package's coordinates, and those of a member of its line along an axis. -/
def myCoord (s : State) : Nat → Nat := meshCoord s.meshpos
def lineCoord (s : State) (a x : Nat) : Nat → Nat := fun b => if b = a then x else myCoord s b
def lineRank (s : State) (k : Coll) (a x : Nat) : Nat := rankOf k.map (lineCoord s a x)
/-- The elements that move in step j along its axis from one coordinate to another. -/
def moveIdx (s : State) (k : Coll) (j : Nat) (st : RStep) (x y : Nat) : List Nat :=
  (List.range (tensorSize k.desc)).filter fun n =>
    ((List.range 4).all fun b =>
      holdsAx k.desc k.map b (layAt k.old k.map j b) (if b = st.axis then x else myCoord s b) n) &&
      holdsAx k.desc k.map st.axis (layAfter k.map st) y n
/-- The elements that this member holds before step j. -/
def heldIdx (s : State) (k : Coll) (j : Nat) : List Nat :=
  (List.range (tensorSize k.desc)).filter fun n =>
    (List.range 4).all fun b => holdsAx k.desc k.map b (layAt k.old k.map j b) (myCoord s b) n

-- Halos (R316).

/-- Start of the range of dimension d in the new shard with coordinates c, and the low halo before it. -/
def newStart (k : Coll) (c : Nat → Nat) (d : Nat) : Nat × Nat :=
  match axisOf k.map d with
  | some a => let x := mapAxis k.map a; (shardStart x (descExtent k.desc d) (c a), x.lo)
  | none => (0, 0)
/-- The stored index of cell u of the new shard with coordinates c. -/
def cellIdx (k : Coll) (c : Nat → Nat) (u d : Nat) : Int :=
  let off := u / ((List.range d).foldl (fun p e => p * localExt k.desc k.map c e) 1) % max 1 (localExt k.desc k.map c d)
  let z := newStart k c d
  (off : Int) + (z.1 : Int) - (z.2 : Int)
def cellInside (k : Coll) (c : Nat → Nat) (u : Nat) : Bool :=
  (List.range (descRank k.desc)).all fun d =>
    decide (0 ≤ cellIdx k c u d) && decide (cellIdx k c u d < (descExtent k.desc d : Int))
/-- The halo cells, inside the tensor, of the member at coordinate y of a line that the one at x owns. -/
def haloCells (s : State) (k : Coll) (a x y : Nat) : List Nat :=
  let c := lineCoord s a y
  let ax := mapAxis k.map a
  (List.range (shardElems k.desc k.map c)).filter fun u =>
    cellInside k c u && shardOwner ax (descExtent k.desc ax.dim) (cellIdx k c u ax.dim).toNat == x
/-- The cell of the member at x that holds what cell u of the member at y is to hold. -/
def cellAt (s : State) (k : Coll) (a x y u : Nat) : Nat :=
  elemOffset k.desc k.map (lineCoord s a x) fun d => (cellIdx k (lineCoord s a y) u d).toNat

-- Streams.

/-- Bytes of the stream of a step between two coordinates of its axis. -/
def streamLen (s : State) (k : Coll) (x y : Nat) : Nat :=
  let st := k.step
  if st.kind = 6 then k.es * (haloCells s k st.axis x y).length
  else if st.kind ≤ 3 then k.es * (moveIdx s k (k.rstep - 1) st x y).length else 0
/-- This member's own shard in the new storage, with the parts of words that are still kept. -/
def readShard (s : State) (k : Coll) : CollGot :=
  let a := k.shard k.dst s
  let g := collRead s k true a (k.es * shardElems k.desc k.map (myCoord s))
  { g with bytes := k.parts.foldl (fun l w => w.2.foldl (fun l x => overlay a l (8 * w.1 + x.1) [x.2]) l) g.bytes }
def stagedAt (k : Coll) (n : Nat) : Nat := match k.staged.find? fun x => x.1 == n with | some x => x.2 | none => 0
/-- The stream to the member at coordinate y. -/
def streamBytes (s : State) (k : Coll) (y : Nat) : CollGot :=
  let st := k.step
  let x := myCoord s st.axis
  if st.kind = 6 then
    let g := readShard s k
    { g with bytes := (haloCells s k st.axis x y).flatMap fun u => bytesAt (k.es * cellAt s k st.axis x y u) k.es g.bytes }
  else ⟨(moveIdx s k (k.rstep - 1) st x y).flatMap fun n => bytesOf k.es (stagedAt k n), [], 0⟩
/-- The chunks of a step: pieces to each other member of the line, then pieces from it. -/
def stepChunks (s : State) (k : Coll) : List Chunk :=
  let st := k.step
  let me := myCoord s st.axis
  if k.rstep = 0 ∨ !(st.kind = 6 ∨ (1 ≤ st.kind ∧ st.kind ≤ 3)) then []
  else
    let line := (List.range (mapAxis k.map st.axis).size).filter (· != me)
    let ps := fun (n : Nat) => (List.range (pieceCount n)).filterMap (pieceAt n)
    line.flatMap (fun x => (ps (streamLen s k me x)).map (sendChunk [lineRank s k st.axis x] 0 0 false)) ++
      line.flatMap fun x => (ps (streamLen s k x me)).map fun p =>
        { copyChunk (lineRank s k st.axis x) 0 p with write := false }
/-- The stream that has come from the member at coordinate x. -/
def streamFrom (s : State) (k : Coll) (x : Nat) : List Byte :=
  let r := lineRank s k k.step.axis x
  (List.range (pieceCount (streamLen s k x (myCoord s k.step.axis)))).flatMap fun i =>
    ((k.recv.filter fun p => p.1 == r && p.2.1 == 65536 * i).map fun p => p.2.2).flatten

-- Steps.

/-- The checks that the planner makes first: 0, or the reason of R356. -/
def reshardBad (s : State) (k : Coll) : Nat :=
  let w := k.word s
  let all := (mapAxis k.map 0).size * (mapAxis k.map 1).size * (mapAxis k.map 2).size * (mapAxis k.map 3).size
  if !(descValid k.desc k.old s.meshpos && descValid k.desc k.map s.meshpos) || illegalPair k.old k.map then 7
  else if commRank w ≠ rankOf k.map (myCoord s) ∨ commN w < all then 4
  else 0
/-- The old shard of this member. -/
def oldShard (s : State) (k : Coll) : CollGot :=
  collRead s k false (k.shard (descBase k.desc) s) (k.es * shardElems k.desc k.old (myCoord s))
/-- The elements of the old shard, without its halos. -/
def firstStaged (s : State) (k : Coll) (bs : List Byte) : List (Nat × Nat) :=
  (heldIdx s k 0).map fun n => (n, numAt (k.es * elemOffset k.desc k.old (myCoord s) (elemIdx k.desc n)) k.es bs)
/-- The elements after a step that moved data. -/
def nextStaged (s : State) (k : Coll) : List (Nat × Nat) :=
  let st := k.step
  let me := myCoord s st.axis
  let got := (List.range (mapAxis k.map st.axis).size).filter (· != me) |>.map fun x =>
    (if st.kind = 7 then [] else (moveIdx s k (k.rstep - 1) st x me)).zip (elemsOf k.es (streamFrom s k x))
  (heldIdx s k k.rstep).map fun n =>
    let own := (k.staged.filter fun x => x.1 == n).map Prod.snd
    let vals := own ++ got.flatMap fun g => (g.filter fun x => x.1 == n).map Prod.snd
    (n, if st.kind = 1 then reduceElem k.efmt 0 vals else vals.headD 0)
/-- The element of a halo cell outside the tensor (R316): 0.0, undefined (none), or the local cell at the clamped index. -/
inductive Outside where
  | zero
  | undefined
  | cell (u : Nat)
  deriving DecidableEq, Repr
def outsideCell (s : State) (k : Coll) (u : Nat) : Outside :=
  let c := myCoord s
  let out := (List.range (descRank k.desc)).filter fun d =>
    !(decide (0 ≤ cellIdx k c u d) && decide (cellIdx k c u d < (descExtent k.desc d : Int)))
  match out.find? fun d => mapPad k.map d != 1 with
  | some d => if mapPad k.map d = 0 then .zero else .undefined
  | none => .cell (elemOffset k.desc k.map c fun d => min (cellIdx k c u d).toNat (descExtent k.desc d - 1))
/-- What a step writes into this member's new shard: cell, bytes. -/
def stepWrites (s : State) (k : Coll) (shard : List Byte) : List (Nat × List Byte) :=
  let st := k.step
  let c := myCoord s
  match st.kind with
  | 8 => k.staged.map fun x => (elemOffset k.desc k.map c (elemIdx k.desc x.1), bytesOf k.es x.2)
  | 6 =>
    ((List.range (mapAxis k.map st.axis).size).filter (· != c st.axis)).flatMap fun x =>
      (haloCells s k st.axis x (c st.axis)).zip ((elemsOf k.es (streamFrom s k x)).map (bytesOf k.es))
  | 9 =>
    ((List.range (shardElems k.desc k.map c)).filter fun u => !(cellInside k c u)).map fun u =>
      (u, match outsideCell s k u with
        | .zero => List.replicate k.es 0
        | .undefined => (List.range k.es).map fun b => Config.freeByte s.fresh (k.es * u + b)
        | .cell v => bytesAt (k.es * v) k.es shard)
  | _ => []
/-- What the step in progress reads when it ends. -/
def stepReads (s : State) (k : Coll) : CollGot :=
  if k.rstep = 0 then oldShard s k else if k.step.kind = 9 then readShard s k else ⟨[], [], 0⟩
/-- The bytes of memory that the step in progress reads and writes when it ends: they are charged, 65,536 at a time (R289, R290). -/
def stepBytes (s : State) (k : Coll) : Nat :=
  let shard := k.es * shardElems k.desc (if k.rstep = 0 then k.old else k.map) (myCoord s)
  (if k.rstep = 0 ∨ k.step.kind = 9 then shard else 0) +
    if k.rstep = 0 then 0 else (stepWrites s k []).foldl (fun n x => n + x.2.length) 0
/-- The step in progress ends, and the next one begins. -/
def nextStep (s : State) (k : Coll) (bs : List Byte) : State :=
  let go := fun (s : State) (k : Coll) => putColl s { k with rstep := k.rstep + 1, paid := 0, next := 0, recv := [], far := [] }
  if k.rstep = 0 then go s { k with staged := firstStaged s k bs }
  else if k.step.kind ≤ 3 ∨ k.step.kind = 7 then
    let l := nextStaged s k
    let bad := k.step.kind = 1 ∧ ((k.staged ++ l).any fun x => elemBad k.efmt x.2)
    go s { k with staged := l, nf := k.nf || decide bad }
  else
    let x := (stepWrites s k bs).foldl (fun (x : State × Coll) c =>
      collPut x.1 x.2 (k.shard k.dst s + k.es * c.1) c.2) (s.bump, k)
    go x.1 x.2
/-- Have all the steps of a reshard performed? -/
def Coll.stepsDone (k : Coll) : Bool := decide (k.steps.length < k.rstep)
/-- Can the planner go on: the chunks of the step in progress have ended, and its writes are acknowledged (R316)? -/
def stepDue (s : State) (k : Coll) : Bool :=
  k.reshard && !k.stepsDone && !k.running && decide ((stepChunks s k).length ≤ k.next) && k.acks.isEmpty &&
    (decide (stepBytes s k ≤ k.paid) || mayCharge s (commJob (k.word s)) 1) && !(collBack s k) && !(readWaits k (stepReads s k)) &&
    !(collHeld s k (k.shard k.dst s) (k.es * shardElems k.desc k.map (myCoord s)))
def execReshardStepBegins (comm : Nat) (s : State) : Host.Outcome State Fault Refusal :=
  .next (match currentColl s comm with
    | some k =>
      if !(stepDue s k) then s
      else if k.rstep = 0 ∧ reshardBad s k ≠ 0 then failColl s k (reshardBad s k)
      else if !(collRoutes s k) then failColl s k 4
      else if k.paid < stepBytes s k then
        let n := min 65536 (stepBytes s k - k.paid)
        putColl (chargeJob s (commJob (k.word s)) 1 n) { k with paid := k.paid + n }
      else
        let s := collFlush s k
        if collBack s k then s else
        let g := stepReads s k
        if g.err ≠ 0 then failColl s k g.err
        else if !g.missing.isEmpty then askFar s k g.missing
        else nextStep s k g.bytes
    | none => s)
/-- RSHD has its FINISH (R260): the descriptor's base and map are replaced, and BUSY is cleared, unless another RSHD of the tensor
goes on; the command completes when these writes have performed. -/
def endReshard (s : State) (k : Coll) : State :=
  let job := commJob (k.word s)
  let w0 := bytesOf 8 (putFld 0 52 k.dst (BitVec.ofNat 64 (numAt 0 8 k.desc))).toNat
  let grp := match k.issuer s with | some c => c.group | none => 0
  let s := globalWrite (globalWrite s k.cmd grp job k.src w0) k.cmd grp job (k.src + 16) (bytesOf 16 k.map.toNat)
  let s := putColl s { k with ended := true }
  if (reshardOf s job k.src k.cmd).isNone then busyByte s k.cmd grp job k.src false else s

end Sys2Proof.Machine
end

