-- ==== Sys2Proof/Machine/CollEngine.lean ====
section
/-!
DEFINITION. The steps of the collective engines: a chunk starts and ends (R391, R444), a piece's message arrives (R393,
R416), DONE and FINISH (R394, R256), and end-to-end credits (R379).
-/
namespace Sys2Proof.Machine

-- Chunks.

def chunksOf (s : State) (k : Coll) : List Chunk := if k.reshard then stepChunks s k else collChunks s k
def nextChunk (s : State) (k : Coll) : Option Chunk := (chunksOf s k)[k.next]?
/-- R258: a BCAST whose root is not a member. -/
def badRoot (s : State) (k : Coll) : Bool := !k.reshard && k.kind == 4 && decide (commN (k.word s) ≤ k.arg)
/-- What a chunk reads of its source. -/
def chunkSource (s : State) (k : Coll) (c : Chunk) : CollGot :=
  match c.src with
  | none => ⟨[], [], 0⟩
  | some o =>
    if k.reshard then
      match c.dests with
      | r :: _ => let g := streamBytes s k (rankCoord k.map r k.step.axis); { g with bytes := bytesAt o c.len g.bytes }
      | [] => ⟨[], [], 0⟩
    else let g := collRead s k false (k.src + o) c.len; { g with bytes := overWords k.words (k.src + o) g.bytes }
/-- The aligned words of which a chunk reads a part, with their bytes as they are now, beside those kept from before (R280). -/
def chunkWords (s : State) (k : Coll) (c : Chunk) : Tab (List Byte) :=
  match c.src with
  | none => k.words
  | some o =>
    if k.reshard then k.words
    else (partWords (k.src + o) c.len).foldl (fun t w =>
      match tabFind t w with | some _ => t | none => tabPut t w (collRead s k false (8 * w) 8).bytes) k.words
/-- Are bytes of the receive scratch still to be written there? -/
def scratchBehind (s : State) (k : Coll) : Bool :=
  let w := k.word s
  s.wbs.any fun x => x.owner == 0 && decide (commScratch w ≤ x.pa) && decide (x.pa < commScratch w + 65536 * commScr w)
/-- Is a chunk ready (R391)? -/
def chunkReady (s : State) (k : Coll) (c : Chunk) : Bool :=
  let landed := fun (r : Nat) => match findPiece s k r c.off with | some p => p.whole | none => false
  (if c.comb && k.kern.isSome then (chunkResult k c).isSome else c.take.all landed) &&
    c.dests.all (fun r => decide (0 < commHeld s k.comm r)) &&
    (c.dests.isEmpty || !(sourceFull s (collFlow k.comm k.kind))) && mayCharge s (commJob (k.word s)) 1 &&
    !(collBack s k) && !(scratchBehind s k) && !(readWaits k (chunkSource s k c)) && !(c.write && collHeld s k (k.dst + c.off) c.len)
/-- The collective of a communicator, if a chunk of it can start. -/
def startable (s : State) (comm : Nat) : Option (Coll × Chunk) :=
  match currentColl s comm with
  | none => none
  | some k =>
    match nextChunk s k with
    | none => none
    | some c => if k.running then none else if badRoot s k || chunkReady s k c then some (k, c) else none
/-- The communicators of an engine. -/
def engineComms (s : State) (eng : Nat) : List Nat :=
  (s.colls.map Coll.comm).foldl (fun l c => if commEngine (commWord s c) = eng then setAdd l c else l) []
def engineBusy (s : State) (eng : Nat) : Option Coll :=
  s.colls.find? fun k => k.running && commEngine (k.word s) == eng
/-- The engine's choice at a chunk boundary (R391): the lowest class, then the next communicator after the last served. -/
def engineChoice (s : State) (eng : Nat) : Option (Coll × Chunk) :=
  let ready := (engineComms s eng).filter fun c => (startable s c).isSome
  let low := ready.foldl (fun m c => min m (commClass (commWord s c))) 3
  let l := ready.filter fun c => commClass (commWord s c) == low
  let last := tabGet 0 s.served eng
  let pick := match l.find? fun c => decide (last ≤ c) with | some c => some c | none => l.head?
  pick.bind (startable s)
/-- What a chunk takes from the scratch: destination offset, bytes. -/
def chunkParts (s : State) (k : Coll) (c : Chunk) : List (Nat × List Byte) :=
  c.take.flatMap fun r => match findPiece s k r c.off with | some p => pieceParts s k p | none => []
/-- The bytes that a chunk writes: the combination, its own bytes, or the pieces that it takes. -/
def chunkOut (s : State) (k : Coll) (c : Chunk) (own : List Byte) : List (Nat × List Byte) :=
  if c.comb then
    match k.kern with
    | some _ => [(c.off, (chunkResult k c).getD [])]
    | none =>
      let ps := s.pieces.filter fun p => p.comm == k.comm && p.seq == k.seq && p.step == k.rstep && p.off == c.off &&
        c.take.contains p.src
      [(c.off, reduceBytes k.ty k.op (own :: ps.map (pieceBytes s k)))]
  else if c.take.isEmpty then [(c.off, own)]
  else chunkParts s k c
/-- Poison in a piece that a chunk takes. -/
def chunkPoison (s : State) (k : Coll) (c : Chunk) : Bool :=
  c.take.any fun r => match findPiece s k r c.off with | some p => p.poison | none => false
/-- A chunk reads, combines, writes and sends (R391). -/
def runChunk (s : State) (k : Coll) (c : Chunk) (own : List Byte) : State :=
  let out := chunkOut s k c own
  let bad := k.reduces && (anyBad k.ty own || (c.write && out.any fun x => anyBad k.ty x.2))
  let k := { k with running := true, due := s.cycle + ceilDiv c.len 512, nf := k.nf || bad, words := chunkWords s k c, far := [] }
  let s := { chargeJob s (commJob (k.word s)) 1 c.len with
    served := tabPut s.served (commEngine (k.word s)) (k.comm + 1) }
  let whole := (out.map Prod.snd).flatten
  let s := c.dests.foldl (fun s r =>
    sendPiece (setHeld s k.comm r (commHeld s k.comm r - 1)) k (if k.reshard then k.step.kind else k.kind) r c.off whole) s
  let s := if c.feed then sendPiece s k k.kind (commRank (k.word s)) c.off own else s
  let k := if k.reshard && !c.take.isEmpty then
      { k with recv := k.recv ++ c.take.map fun r => (r, c.off, ((chunkParts s k c).map Prod.snd).flatten) }
    else k
  let x := if c.write then out.foldl (fun (x : State × Coll) w => collPut x.1 x.2 (k.dst + w.1) w.2) (s, k) else (s, k)
  putColl x.1 x.2
def execCollectiveChunkStart (eng : Nat) (s : State) : Host.Outcome State Fault Refusal :=
  .next (if (engineBusy s eng).isSome then s
    else
      match engineChoice s eng with
      | none => s
      | some (k, c) =>
        if badRoot s k || !(collRoutes s k) || !(c.dests.all fun r => routable s (commPkg s (k.word s) r)) then failColl s k 4
        else
          let s := collFlush s k
          if collBack s k then s else
          let g := chunkSource s k c
          if g.err ≠ 0 then failColl s k g.err
          else if chunkPoison s k c then failColl s k 2
          else if !g.missing.isEmpty then askFar s k g.missing
          else runChunk s k c g.bytes)
/-- Has an engine's chunk had its time: two ridge cycles to a cycle (R390; log 38)? -/
def chunkOver (s : State) (eng : Nat) : Bool := match engineBusy s eng with | some k => decide (k.due ≤ s.cycle) | none => false
/-- A chunk ends: the credits of the pieces that it took go back (R444). -/
def execCollectiveChunkEnd (eng : Nat) (s : State) : Host.Outcome State Fault Refusal :=
  .next (match engineBusy s eng with
    | none => s
    | some k =>
      if !(chunkOver s eng) then s else
      let c := nextChunk s k
      let s := match c with | some c => c.take.foldl (fun s r => usePiece s k r c.off) s | none => s
      let used := fun (b : CBlock) => match c with
        | some c => c.comb && decide (c.off ≤ b.off) && decide (b.off < c.off + c.len)
        | none => false
      putColl s { k with running := false, next := k.next + 1, blocks := k.blocks.filter fun b => !(used b) })

-- DONE and FINISH.

/-- Has this member's last write for a collective performed (R394), but for parts of words that nothing completes? -/
def doneDue (s : State) (k : Coll) : Bool :=
  !k.doneSent && !(k.leftParts.any fun p => collHeld s k p.1 p.2.length) && !k.running && k.acks.isEmpty && !(badRoot s k) &&
    (if k.reshard then k.stepsDone else decide ((collChunks s k).length ≤ k.next))
def execCollectiveDoneSend (comm : Nat) (s : State) : Host.Outcome State Fault Refusal :=
  .next (match currentColl s comm with
    | some k =>
      if !(doneDue s k) then s
      else if !(routable s (commPkg s (k.word s) 0)) then failColl s k 4
      else if !k.parts.isEmpty then
        let x := k.leftParts.foldl (fun x p => collWrite x.1 x.2 p.1 p.2) (s, { k with parts := [] })
        putColl x.1 x.2
      else
        sendMsg (putColl s { k with doneSent := true })
          (collMsg s k (k.cls s) (if k.reshard then 0 else k.kind) 0 0 (bDone + if k.nf then bNf else 0) [])
    | none => s)
/-- CNF for the issuing task (R256): in FLAGS, or pending while its context is out. -/
def raiseCnf (s : State) (tid : Nat) : State :=
  match ctxOfTid s tid with
  | some c => s.setCtx c ((s.ctx c).raise s.cycle fCNF)
  | none => updTask s tid fun t => { t with pendCnf := true }
/-- A member has its FINISH. -/
def finishColl (s : State) (k : Coll) (nf : Bool) : State :=
  match findCmd s k.cmd with
  | none => { s with colls := s.colls.filter fun x => x.cmd != k.cmd }
  | some (_, c) =>
    let s := if nf then raiseCnf s c.tid else s
    if k.reshard then endReshard s k
    else finishCmd { s with colls := s.colls.filter fun x => x.cmd != k.cmd } c

-- A message's collective.

def msgComm (m : Msg) : Nat := fldN 0 8 m.flow
def msgSeq (m : Msg) : Nat := fldN 8 24 m.flow
def msgKind (m : Msg) : Nat := fldN 16 3 m.aux
def msgRank (m : Msg) : Nat := fldN 0 16 m.aux
def msgStep (m : Msg) : Nat := fldN 72 8 m.note
def msgReshard (m : Msg) : Bool := bitAt 80 m.note
def msgDone (m : Msg) : Bool := bitAt 25 m.aux
def msgFinish (m : Msg) : Bool := bitAt 26 m.aux
def msgCollect (m : Msg) : Bool := bitAt 24 m.aux
/-- Where a message stands to this member's collectives: its collective is current, is over, or has still to come. -/
inductive CollAt where
  | now (k : Coll)
  | past
  | later
  deriving DecidableEq, Repr
def collAt (s : State) (m : Msg) : CollAt :=
  let comm := msgComm m
  let before := fun (a b : Nat) => decide ((a + 2 ^ 24 - b) % 2 ^ 24 ≥ 2 ^ 23)
  match currentColl s comm with
  | some k => if k.seq = msgSeq m then .now k else if before (msgSeq m) k.seq then .past else .later
  | none => if before (msgSeq m) (tabGet 0 s.commSeq comm) then .past else .later
/-- The checks of R258 and R389 at a piece. -/
def piecesAgree (s : State) (k : Coll) (m : Msg) : Bool :=
  let w := k.word s
  msgReshard m == k.reshard && fldN 56 16 m.note == commN w && decide (msgRank m < commN w) &&
    commPkg s w (msgRank m) == m.src &&
    (k.reshard || (msgKind m == k.kind && fldN 19 2 m.aux == k.op && fldN 21 3 m.aux == k.ty &&
      fldN 0 40 m.note == k.count && fldN 40 16 m.note == k.arg))
/-- The chunk that takes a message's piece; for a contribution of this member itself, its combining chunk. -/
def chunkFor (s : State) (k : Coll) (m : Msg) : Option Chunk :=
  let me := commRank (k.word s)
  (chunksOf s k).find? fun c => (c.take.contains (msgRank m) || (c.comb && msgRank m == me)) &&
    decide (c.off ≤ m.offset.toNat) && decide (m.offset.toNat + m.payload.length ≤ c.off + c.len)

-- Blocks of a reduction with a kernel (R416).

def regionSize (s : State) (b : Nat) : Nat := match tabFind s.bindings b with | some x => x.fsize | none => 0
/-- w6 of R396. -/
def flowLine (fsize off : Nat) : Nat := off % 2 ^ 32 % fsize / 64 * 64
/-- Does an uncollected block other than the one at an offset hold the same w6? -/
def blockClash (s : State) (k : Coll) (b off : Nat) : Bool :=
  k.blocks.any fun x => x.off != off && x.result.isNone && flowLine (regionSize s b) x.off == flowLine (regionSize s b) off
/-- Has a binding room for one more message (R415)? -/
def queueRoom (s : State) (b : Nat) : Bool :=
  match tabFind s.bindings b with | some x => decide (x.queue.length < 16) | none => false
/-- A message enters a binding's queue. -/
def enqueueMsg (s : State) (b : Nat) (m : Msg) : State :=
  match tabFind s.bindings b with
  | some x => { s with bindings := tabPut s.bindings b { x with queue := x.queue ++ [⟨s.nextId, m, false, none⟩] },
                       nextId := s.nextId + 1 }
  | none => s
/-- The piece of a message, new when this is its first message; it takes a free scratch piece and its charge (R290). -/
def openPiece (s : State) (k : Coll) (c : Chunk) (m : Msg) : State :=
  if (findPiece s k (msgRank m) c.off).isSome || msgRank m == commRank (k.word s) then s
  else
    let p : Piece := { comm := k.comm, seq := k.seq, step := k.rstep, src := msgRank m, off := c.off, len := c.len,
                       slot := (freeSlot s k).getD 0, msgs := [], poison := false }
    putPiece (chargeJob s (commJob (k.word s)) 1 c.len) p
/-- A message's bytes land in its piece of the scratch, n of them; o is its length as sent. -/
def landPiece (s : State) (k : Coll) (m : Msg) (o : Nat) (bs : List Byte) : State :=
  match chunkFor s k { m with payload := bytesAt 0 o m.payload } with
  | none => s
  | some c =>
    match findPiece s k (msgRank m) c.off with
    | none => s
    | some p =>
      let a := commScratch (k.word s) + 65536 * p.slot + (m.offset.toNat - p.off)
      putPiece (partWrite s (commJob (k.word s)) a bs) { p with msgs := p.msgs ++ [(m.offset.toNat, o, bs.length)], poison := p.poison || m.poison }
/-- The length of a message as its sender cut it: a kernel at the source may have changed it (log 37). -/
def sentLen (m : Msg) : Nat := if bitAt 126 m.note then fldN 100 13 m.note else m.payload.length
/-- The kernel that the messages of a chunk pass: in a reduction, the contributions alone (R416). -/
def kernFor (k : Coll) (c : Chunk) : Option Nat := if k.reduces && !c.comb then none else k.kern
/-- Must a collective message wait: for its collective, its step, room in the kernel's queue or scratch, or a charge? -/
def pieceWaits (s : State) (m : Msg) : Bool :=
  match collAt s m with
  | .past => false
  | .later => true
  | .now k =>
    if msgReshard m && k.reshard && decide (k.rstep < msgStep m) then true
    else if !(piecesAgree s k m) || sentLen m == 0 then false
    else
      match chunkFor s k { m with payload := bytesAt 0 (sentLen m) m.payload } with
      | none => false
      | some c =>
        let fresh := (findPiece s k (msgRank m) c.off).isNone && msgRank m != commRank (k.word s)
        (fresh && ((freeSlot s k).isNone || !(mayCharge s (commJob (k.word s)) 1))) ||
          match kernFor k c with
          | some b => !(queueRoom s b) || (k.reduces && !(msgCollect m) && blockClash s k b m.offset.toNat)
          | none => false
/-- A contribution enters its flow's kernel (R416): it is counted in its block, and with the last one the collect message is sent. -/
def countContribution (s : State) (k : Coll) (m : Msg) : State :=
  let off := m.offset.toNat
  let new : CBlock := ⟨off, m.payload.length, 0, false, none⟩
  let b := (k.blocks.find? fun x => x.off == off).getD new
  let all := decide (commN (k.word s) ≤ b.count + 1)
  let b' : CBlock := { b with count := b.count + 1, asked := all }
  let s := putColl s { k with blocks := (k.blocks.filter fun x => x.off != off) ++ [b'] }
  if all then sendMsg s (collMsg s k (k.cls s) k.kind (commRank (k.word s)) off bCollect (List.replicate b.len 0)) else s
/-- A collective message (R393, R416): it lands, or enters its flow's kernel; a member that disagrees ends the collective. An empty
piece only shows what its sender has issued. -/
def pieceArrives (s : State) (m : Msg) : State :=
  match collAt s m with
  | .now k =>
    if !(piecesAgree s k m) then failColl s k 4
    else if sentLen m = 0 then s
    else
      match chunkFor s k { m with payload := bytesAt 0 (sentLen m) m.payload } with
      | none => failColl s k 4
      | some c =>
        let s := if msgCollect m then s else openPiece s k c m
        match kernFor k c with
        | some b =>
          let s := enqueueMsg s b m
          if k.reduces && !(msgCollect m) then countContribution s k m else s
        | none => landPiece s k m (sentLen m) m.payload
  | _ => s

-- What a kernel run does to a collective (R416, R418).

/-- The run of a message of a collective flow has taken effect at the destination. -/
def collRunDone (s : State) (m : Msg) (e : PEnd) : State :=
  match collAt s m with
  | .now k =>
    if e.trapped then failColl s k 4
    else
      let k := { k with nf := k.nf || bitAt 0 e.status }
      let s := putColl s k
      let off := m.offset.toNat
      if !k.reduces then landPiece s k m (sentLen m) (if e.dropped then [] else e.bytes)
      else
        match k.blocks.find? fun b => b.off == off with
        | none => s
        | some b =>
          if msgCollect m then
            match e.replies with
            | [r] =>
              if r.1 = off % 2 ^ 32 ∧ r.2.length = b.len then
                sendMsg s { collMsg s k (k.cls s) k.kind (commRank (k.word s)) off 0 r.2 with
                  kind := 9, vc := 6, note := BitVec.ofNat 128 (2 ^ 124) }
              else failColl s k 4
            | _ => failColl s k 4
          else if !e.replies.isEmpty then failColl s k 4
          else
            let s := landPiece s k m m.payload.length []
            match chunkFor s k m with
            | some c => (match findPiece s k (msgRank m) c.off with
              | some p => if p.whole then usePiece s k (msgRank m) c.off else s
              | none => s)
            | none => s
  | _ => s
/-- The kernel's reply to a collect message is the block's result (R416). -/
def resultArrives (s : State) (m : Msg) : State :=
  match collAt s m with
  | .now k =>
    let off := m.offset.toNat
    match k.blocks.find? fun b => b.off == off with
    | some b =>
      if b.asked && b.result.isNone && m.payload.length == b.len then
        putColl s { k with blocks := k.blocks.map fun x => if x.off = off then { x with result := some m.payload } else x }
      else failColl s k 4
    | none => failColl s k 4
  | _ => s
/-- A message whose kernel runs at the source (R415): it goes out as the run left it, or with nothing delivered. -/
def collSourceDone (s : State) (m : Msg) (e : PEnd) : State :=
  match collAt s m with
  | .now k =>
    if e.trapped then failColl s k 4
    else
      let s := putColl s { k with nf := k.nf || bitAt 0 e.status }
      let note := (m.note &&& ~~~ (BitVec.ofNat 128 (2 ^ 125 + 2 ^ 118))) ||| BitVec.ofNat 128 (2 ^ 126 + m.payload.length * 2 ^ 100)
      sendMsg s { m with came := none, port := 31, note, payload := if e.dropped then [] else e.bytes }
  | _ => s

-- DONE and FINISH arrive.

/-- Does a member's DONE show that it issued another collective (R258)? -/
def doneAgrees (k : Coll) (m : Msg) : Bool :=
  msgReshard m == k.reshard && (k.reshard || (msgKind m == k.kind && (k.kind == 5 ||
    (fldN 19 2 m.aux == k.op && fldN 21 3 m.aux == k.ty && fldN 0 40 m.note == k.count && fldN 40 16 m.note == k.arg))))
def doneArrives (s : State) (m : Msg) : State :=
  match collAt s m with
  | .now k =>
    if !(doneAgrees k m) then failColl s k 4
    else
      let k := { k with dones := setAdd k.dones (msgRank m), nf := k.nf || bitAt 27 m.aux }
      let s := putColl s k
      let n := commN (k.word s)
      if k.dones.length < n then s
      else if !((List.range n).all fun r => routable s (commPkg s (k.word s) r)) then failColl s k 4
      else (List.range n).foldl (fun s r => sendMsg s (collMsg s k (k.cls s) (if k.reshard then 0 else k.kind) r 0
        (bFinish + if k.nf then bNf else 0) [])) s
  | _ => s
def finishArrives (s : State) (m : Msg) : State :=
  match collAt s m with
  | .now k => if unreached m then failColl s k (msgReason m) else if msgReason m ≠ 0 then endColl s k (msgReason m) else finishColl s k (bitAt 27 m.aux)
  | _ => s

-- Credits (R379).

/-- Credits come back: for FIFO space of a channel, at most a bank's worth, or for scratch pieces, at most SCR. -/
def execEndToEndCreditReturn (chan : Bool) (num peer n : Nat) (s : State) : Host.Outcome State Fault Refusal :=
  .next (if chan then
      let c := s.chan num
      if chanEn c.w && chanRole c.w == 1 && chanRpkg c.w == peer then
        s.setChan num { c with credits := min 32 (c.credits + n) }
      else s
    else
      let w := commWord s num
      match (List.range (commN w)).find? fun r => commPkg s w r == peer with
      | some r => if commEn w && r != commRank w then setHeld s num r (min (commScr w) (commHeld s num r + n)) else s
      | none => s)

end Sys2Proof.Machine
end

