-- ==== Sys2Proof/Machine/PurlinRun.lean ====
section
/-!
DEFINITION. Kernel runs on the purlin processors (R395 to R397, R408, R409, R417, R418): entry, the sequencing of loops, how
a run ends, the fates of messages in arrival order, and the worst case of a kernel (R413).
-/
namespace Sys2Proof.Machine

-- Kernels.

def bindKernel (s : State) (b : Nat) : Option Kernel :=
  (tabFind s.bindings b).bind fun x => tabFind s.kernels x.kernel
def Kernel.serial (k : Kernel) : Bool := bitAt 0 k.flags
def Kernel.dfate (k : Kernel) : Bool := bitAt 1 k.flags
def Kernel.tfate (k : Kernel) : Bool := bitAt 2 k.flags
/-- The instructions of a kernel. -/
def kernelCode (ws : List (BitVec 32)) : List (Option Instr) := ws.map fun w => (decodePurlin w).toOption
/-- The bodies of a kernel's loops: the PLOOP's index, first and last index of the body. -/
def loopBodies (code : List (Option Instr)) : List (Nat × Nat × Nat) :=
  (List.range code.length).filterMap fun i =>
    match code.getD i none with
    | some (.ploop _ len _) => some (i, i + 1, i + 1 + len.toNat)
    | _ => none
/-- The innermost body that holds an instruction. -/
def innermost (bodies : List (Nat × Nat × Nat)) (i : Nat) : Option (Nat × Nat × Nat) :=
  (bodies.filter fun b => decide (b.2.1 ≤ i) && decide (i ≤ b.2.2)).getLast?

/-- Costs with minus infinity as none (R413). -/
def costAdd (a b : Option Nat) : Option Nat := match a, b with | some x, some y => some (x + y) | _, _ => none
def costMax (a b : Option Nat) : Option Nat :=
  match a, b with | some x, some y => some (max x y) | some x, none => some x | none, y => y
def costMul (c : Nat) (x : Option Nat) : Option Nat := if c = 0 then some 0 else x.map (c * ·)
def terminal : Instr → Bool
  | .pfwd _ => true
  | .pdrop => true
  | .pdone => true
  | .ptrap _ => true
  | _ => false
/-- (X(i), E(i)) of R413, relative to the end of the innermost body that holds i, from those of the later indexes. -/
def costAt (code : List (Option Instr)) (bodies : List (Nat × Nat × Nat)) (f : Nat)
    (t : Tab (Option Nat × Option Nat)) (i : Nat) : Option Nat × Option Nat :=
  let stop := match innermost bodies i with | some b => b.2.2 + 1 | none => code.length
  let at' := fun (n : Nat) => if stop ≤ n then (some 0, none) else tabGet (some 0, none) t n
  let plus := fun (c : Nat) (x : Option Nat × Option Nat) => (costAdd (some c) x.1, costAdd (some c) x.2)
  match code.getD i none with
  | some (.pbr _ mode off) =>
    let tk := plus 2 (at' (i + off.toNat))
    let ft := plus 1 (at' (i + 1))
    if mode = 2 then tk else (costMax tk.1 ft.1, costMax tk.2 ft.2)
  | some (.ploop src len count) =>
    let b := tabGet (some 0, none) t (i + 1)
    let c := if src = 0 then count.toNat else f
    let nx := at' (i + 2 + len.toNat)
    let head := costAdd (some 1) (costMul c b.1)
    (costAdd head nx.1,
     costMax (costAdd head nx.2)
       (if 0 < c then costAdd (costAdd (some 1) (costMul (c - 1) b.1)) b.2 else none))
  | some x => if terminal x then (none, some 4) else plus 1 (at' (i + 1))
  | none => plus 1 (at' (i + 1))
/-- (x, e) of a kernel for a flit count (R413): from the last instruction to the first. -/
def kernelCost (code : List (Option Instr)) (f : Nat) : Option Nat × Option Nat :=
  let bodies := loopBodies code
  let t := (List.range code.length).foldr (fun i t => (i, costAt code bodies f t i) :: t)
    ([] : Tab (Option Nat × Option Nat))
  tabGet (some 0, none) t 0
/-- WC(f). -/
def worstCase (code : List (Option Instr)) (f : Nat) : Nat := 8 + (kernelCost code f).2.getD 0

-- Sequencing.

/-- The next instruction after a target, with the loops that end there (R402). -/
def seqNext : List (Nat × Nat × Nat) → Nat → Nat × List (Nat × Nat × Nat)
  | [], t => (t, [])
  | (f, l, n) :: r, t =>
    if t = l + 1 then (if 1 < n then (f, (f, l, n - 1) :: r) else seqNext r t) else (t, (f, l, n) :: r)
/-- The run goes on at a target. -/
def Run.goto (r : Run) (t cost : Nat) : Run :=
  let x := seqNext r.loops t
  { r with pc := x.1, loops := x.2, cycles := r.cycles + cost }
def Run.next (r : Run) : Run := r.goto (r.pc + 1) 1
def Run.reg (r : Run) (n : BitVec 4) : BitVec 32 := vget r.w n.toNat 0
def Run.setReg (r : Run) (n : BitVec 4) (x : BitVec 32) : Run := { r with w := vput r.w n.toNat x }
def Run.vec (r : Run) (n : Nat) : BitVec 512 := vget r.z n 0
def Run.setVec (r : Run) (n : Nat) (x : BitVec 512) : Run := { r with z := vput r.z n x }

/-- The run whose processor has its turn. -/
def runNow (s : State) : Option (Nat × Run) :=
  if s.turn = 0 then none else (tabFind s.runs (s.turn - 1)).map fun r => (s.turn - 1, r)
def putRun (s : State) (p : Nat) (r : Run) : State := { s with runs := tabPut s.runs p r }
/-- An instruction that changes only its run. -/
def runStepOf (s : State) (f : Run → Run) : State :=
  match runNow s with
  | some (p, r) => putRun s p (f r)
  | none => s

-- Fates (R408, R409, R418).

/-- Does a flow name a collective (R411)? -/
def isCollFlow (flow : BitVec 32) : Bool := bitAt 31 flow
/-- The fate of one message takes effect. -/
def applyFate (s : State) (b : Binding) (m : Msg) (e : PEnd) : State :=
  if isCollFlow b.flow then
    if b.source then collSourceDone s m e else collRunDone s m e
  else
    let g : Seg := { offset := m.offset.toNat, bytes := e.bytes, dropped := e.dropped,
                     status := e.status ||| (if b.source then 0 else fld 0 32 m.note), replies := e.replies,
                     poison := m.poison }
    if b.source then sourceDone s m g else segmentDone s (fldN 0 12 b.flow) m g
/-- Fates take effect in the messages' arrival order (R409). -/
def applyFates (bind : Nat) : Nat → State → State
  | 0, s => s
  | n + 1, s =>
    match tabFind s.bindings bind with
    | none => s
    | some b =>
      match b.queue with
      | [] => s
      | x :: rest =>
        match x.fin with
        | none => s
        | some e =>
          applyFates bind n
            (applyFate { s with bindings := tabPut s.bindings bind { b with queue := rest } } b x.msg e)
/-- A run has ended: its processor is free, and its outcome waits for its turn among the fates. -/
def endRun (s : State) (p : Nat) (r : Run) (e : PEnd) : State :=
  let s := { s with runs := tabDel s.runs p }
  match tabFind s.bindings r.bind with
  | none => s
  | some b =>
    let q := b.queue.map fun x => if x.id = r.id then { x with fin := some e } else x
    freeHeldCredits (applyFates r.bind q.length { s with bindings := tabPut s.bindings r.bind { b with queue := q } })
/-- How a run that has not trapped ends. -/
def Run.ended (r : Run) (dropped : Bool) (bytes : List Byte) : PEnd :=
  { dropped := dropped, trapped := false, bytes := bytes, status := r.reg 15, replies := r.replies }
/-- A run traps (R417, R418). -/
def trapRun (s : State) (p : Nat) (r : Run) (cause code : Nat) : State :=
  let b := (tabFind s.bindings r.bind)
  let handle := match b with | some x => x.kernel | none => 0
  let job := match b with | some x => x.job | none => r.msg.job
  let tf := match bindKernel s r.bind with | some k => k.tfate | none => false
  let s := (postRecord s job
    { kind := 17, reply := false, time := 0, source := 0, queue := 0, value := 0,
      detail := [BitVec.ofNat 64 (cause + p * 256 + handle * 65536), BitVec.ofNat 64 (r.pc % 4096 + code * 2 ^ 32),
                 r.msg.flow.zeroExtend 64, r.msg.offset] }).1
  endRun s p r { dropped := tf, trapped := true, bytes := r.msg.payload,
                 status := BitVec.ofNat 32 (0x80000000 + cause), replies := [] }

-- Entry (R396).

def entryReg (s : State) (b : Binding) (m : Msg) (n : Nat) : BitVec 32 :=
  let coll := isCollFlow b.flow
  let off := m.offset.toNat % 2 ^ 32
  let collect := coll && msgCollect m
  match n with
  | 0 => BitVec.ofNat 32 m.payload.length
  | 1 => BitVec.ofNat 32 off
  | 2 => BitVec.ofNat 32 (if coll then msgRank m else m.src)
  | 3 => BitVec.ofNat 32 (if coll then commN (commWord s (msgComm m)) else 1)
  | 4 =>
    if coll then BitVec.ofNat 32 (msgKind m + fldN 19 2 m.aux * 8 + fldN 21 3 m.aux * 32 + (if bitAt 28 m.aux then 256 else 0))
    else 7
  | 5 => BitVec.ofNat 32 (if coll then msgSeq m else fldN 0 24 m.aux)
  | 6 =>
    if !coll then 0
    else if b.fsize = 0 then fld 0 32 (Config.freeWord s.fresh 6) else BitVec.ofNat 32 (flowLine b.fsize off)
  | 8 => if collect then 1 else 0
  | _ => 0
def newRun (s : State) (bind : Nat) (b : Binding) (x : PMsg) : Run :=
  { bind := bind, id := x.id, msg := x.msg, w := vgen 16 (entryReg s b x.msg), z := Vector.replicate 8 0,
    buf := memCells 0 x.msg.payload, pc := 0, loops := [], flits := ceilDiv x.msg.payload.length 64, cycles := 8,
    replies := [] }
/-- May a message of a binding start: a collect message only when the runs before it have ended (R416; log 48)? -/
def mayStart (b : Binding) (x : PMsg) : Bool :=
  !x.started && !(isCollFlow b.flow && msgCollect x.msg && (b.queue.takeWhile fun y => y.id != x.id).any fun y => y.fin.isNone)
/-- The next message of a binding that may start (R409), on a processor of its set. -/
def startableMsg (s : State) (bind proc : Nat) : Option (Binding × PMsg) :=
  match tabFind s.bindings bind, bindKernel s bind with
  | some b, some k =>
    if !(b.procs.contains proc) || (tabFind s.runs proc).isSome ||
        (k.serial && b.queue.any fun x => x.started && x.fin.isNone) then none
    else (b.queue.find? (mayStart b)).map fun x => (b, x)
  | _, _ => none
def execPurlinKernelRun (bind proc : Nat) (s : State) : Host.Outcome State Fault Refusal :=
  .next (match startableMsg s bind proc with
    | some (b, x) =>
      let q := b.queue.map fun y => if y.id = x.id then { y with started := true } else y
      putRun { s.bump with bindings := tabPut s.bindings bind { b with queue := q } } proc (newRun s bind b x)
    | none => s)
/-- Has a run reached WC(f) (R413)? -/
def runLate (s : State) (r : Run) : Bool :=
  match bindKernel s r.bind with
  | some k => decide (worstCase (kernelCode k.words) r.flits ≤ r.cycles)
  | none => false
def execPurlinWatchdog (proc : Nat) (s : State) : Host.Outcome State Fault Refusal :=
  .next (match tabFind s.runs proc with
    | some r => if runLate s r then trapRun s proc r 5 0 else s
    | none => s)

end Sys2Proof.Machine
end

