-- ==== Sys2Proof/Machine/Purlin.lean ====
section
/-!
DEFINITION. The purlin instructions (R400 to R408).
-/
namespace Sys2Proof.Machine

-- Scalars and control (R400 to R402).

/-- wD := f(wA, wB). -/
def scalarOp (s : State) (d a b : BitVec 4) (f : BitVec 32 → BitVec 32 → BitVec 32) : State :=
  runStepOf s fun r => (r.setReg d (f (r.reg a) (r.reg b))).next
def execPadd (d a b : BitVec 4) (s : State) : Host.Outcome State Fault Refusal := .next (scalarOp s d a b fun x y => x + y)
def execPsub (d a b : BitVec 4) (s : State) : Host.Outcome State Fault Refusal := .next (scalarOp s d a b fun x y => x - y)
def execPand (d a b : BitVec 4) (s : State) : Host.Outcome State Fault Refusal :=
  .next (scalarOp s d a b fun x y => x &&& y)
def execPor (d a b : BitVec 4) (s : State) : Host.Outcome State Fault Refusal :=
  .next (scalarOp s d a b fun x y => x ||| y)
def execPxor (d a b : BitVec 4) (s : State) : Host.Outcome State Fault Refusal :=
  .next (scalarOp s d a b fun x y => x ^^^ y)
def execPshl (d a b : BitVec 4) (s : State) : Host.Outcome State Fault Refusal :=
  .next (scalarOp s d a b fun x y => x <<< (fldN 0 5 y))
def execPshr (d a b : BitVec 4) (sx : Bool) (s : State) : Host.Outcome State Fault Refusal :=
  .next (scalarOp s d a b fun x y => if sx then x.sshiftRight (fldN 0 5 y) else x >>> (fldN 0 5 y))
/-- The conditions of R400. -/
def purlinCond (cond : BitVec 3) (x y : BitVec 32) : Bool :=
  match cond.toNat with
  | 0 => x == y
  | 1 => x != y
  | 2 => x.slt y
  | 3 => x.sle y
  | 4 => x.ult y
  | _ => x.ule y
def execPcmp (d a b : BitVec 4) (cond : BitVec 3) (s : State) : Host.Outcome State Fault Refusal :=
  .next (scalarOp s d a b fun x y => if purlinCond cond x y then 1 else 0)
def execPsel (d a b c : BitVec 4) (s : State) : Host.Outcome State Fault Refusal :=
  .next (runStepOf s fun r => (r.setReg d (if r.reg c ≠ 0 then r.reg a else r.reg b)).next)
def execPmov (d a : BitVec 4) (s : State) : Host.Outcome State Fault Refusal := .next (scalarOp s d a a fun x _ => x)
def execPmovi (d : BitVec 4) (imm : BitVec 22) (s : State) : Host.Outcome State Fault Refusal :=
  .next (scalarOp s d d d fun _ _ => imm.signExtend 32)
def execPbr (c : BitVec 4) (mode : BitVec 2) (off : BitVec 10) (s : State) : Host.Outcome State Fault Refusal :=
  .next (runStepOf s fun r =>
    let taken := if mode = 0 then r.reg c != 0 else if mode = 1 then r.reg c == 0 else true
    if taken then r.goto (r.pc + off.toNat) 2 else r.next)
def execPloop (src : BitVec 2) (len : BitVec 10) (count : BitVec 14) (s : State) : Host.Outcome State Fault Refusal :=
  .next (runStepOf s fun r =>
    let n := if src = 0 then count.toNat else r.flits
    if n = 0 then r.goto (r.pc + len.toNat + 2) 1
    else { r with pc := r.pc + 1, loops := (r.pc + 1, r.pc + 1 + len.toNat, n) :: r.loops, cycles := r.cycles + 1 })

-- Memory (R403).

/-- Bytes of an access, and the address of a register and an offset, which does not wrap. -/
def accessLen (k : Bool) : Nat := if k then 4 else 64
def Run.addr (r : Run) (a : BitVec 4) (off : BitVec 16) : Nat := (r.reg a).toNat + off.toNat
/-- Is an access aligned and within a space of n bytes? -/
def accessOk (n a len : Nat) : Bool := a % len == 0 && decide (a + len ≤ n)
/-- The address register after the access. -/
def Run.incd (r : Run) (a : BitVec 4) (inc : Bool) (n : Nat) : Run :=
  if inc then r.setReg a (r.reg a + BitVec.ofNat 32 n) else r
/-- A load: the loaded value stays when its register is the address register too. -/
def loadInto (r : Run) (k : Bool) (reg a : BitVec 4) (inc : Bool) (bs : List Byte) : Run :=
  let r := r.incd a inc (accessLen k)
  if k then r.setReg reg (BitVec.ofNat 32 (ofBytes bs)) else r.setVec reg.toNat (BitVec.ofNat 512 (ofBytes bs))
def storeFrom (r : Run) (k : Bool) (reg : BitVec 4) : List Byte :=
  if k then bytesOf 4 (r.reg reg).toNat else bytesOf 64 (r.vec reg.toNat).toNat
/-- Base and size of the flow region of a run. -/
def runRegion (s : State) (r : Run) : Nat × Nat :=
  match tabFind s.bindings r.bind with | some b => (b.base, b.fsize) | none => (0, 0)
/-- An instruction of the run in turn, which may trap. -/
def withRun (s : State) (f : Nat → Run → State) : State := match runNow s with | some (p, r) => f p r | none => s
def execPmld (k : Bool) (reg a : BitVec 4) (inc : Bool) (off : BitVec 16) (s : State) :
    Host.Outcome State Fault Refusal :=
  .next (withRun s fun p r =>
    let n := accessLen k
    if accessOk 4096 (r.addr a off) n then putRun s p (loadInto r k reg a inc (memRead r.buf (r.addr a off) n)).next
    else trapRun s p r 2 0)
def execPmst (k : Bool) (reg a : BitVec 4) (inc : Bool) (off : BitVec 16) (s : State) :
    Host.Outcome State Fault Refusal :=
  .next (withRun s fun p r =>
    let n := accessLen k
    if accessOk 4096 (r.addr a off) n then
      putRun s p (({ r with buf := memWrite r.buf (r.addr a off) (storeFrom r k reg) } : Run).incd a inc n).next
    else trapRun s p r 2 0)
def execPfld (k : Bool) (reg a : BitVec 4) (inc : Bool) (off : BitVec 16) (s : State) :
    Host.Outcome State Fault Refusal :=
  .next (withRun s fun p r =>
    let n := accessLen k
    let g := runRegion s r
    if accessOk g.2 (r.addr a off) n then
      putRun s p (loadInto r k reg a inc (memRead s.flow (g.1 + r.addr a off) n)).next
    else trapRun s p r 3 0)
def execPfst (k : Bool) (reg a : BitVec 4) (inc : Bool) (off : BitVec 16) (s : State) :
    Host.Outcome State Fault Refusal :=
  .next (withRun s fun p r =>
    let n := accessLen k
    let g := runRegion s r
    if accessOk g.2 (r.addr a off) n then
      putRun { s with flow := memWrite s.flow (g.1 + r.addr a off) (storeFrom r k reg) } p (r.incd a inc n).next
    else trapRun s p r 3 0)

-- Vectors (R404 to R407).

/-- Bits of an element of a type. -/
def pBits (t : BitVec 3) : Nat := if t = 0 ∨ t = 5 then 32 else 16
/-- The elements of 64 bytes, and 64 bytes from elements. -/
def pElems (t : BitVec 3) (x : BitVec 512) : List Nat :=
  (List.range (512 / pBits t)).map fun i => fldN (pBits t * i) (pBits t) x
def pPack (bits : Nat) (l : List Nat) : BitVec 512 :=
  BitVec.ofNat 512 (l.foldr (fun e acc => e % 2 ^ bits + acc * 2 ^ bits) 0)
/-- Sum, product, maximum and minimum of two elements (R404, R407). -/
def pAdd (t : BitVec 3) (x y : Nat) : Nat := if t = 5 then (x + y) % 2 ^ 32 else (fAdd (viewFmt t.toNat) 0 x y).1
def pMul (t : BitVec 3) (x y : Nat) : Nat := if t = 5 then x * y % 2 ^ 32 else (fMul (viewFmt t.toNat) 0 x y).1
def pMax (t : BitVec 3) (x y : Nat) : Nat :=
  if t = 5 then (if toSigned 32 x < toSigned 32 y then y else x) else (fMax (viewFmt t.toNat) x y).1
def pMin (t : BitVec 3) (x y : Nat) : Nat :=
  if t = 5 then (if toSigned 32 y < toSigned 32 x then y else x) else (fMin (viewFmt t.toNat) x y).1
def pZip (t : BitVec 3) (f : Nat → Nat → Nat) (x y : BitVec 512) : BitVec 512 :=
  pPack (pBits t) ((pElems t x).zipWith f (pElems t y))
def vectorOp (s : State) (d a b t : BitVec 3) (f : Nat → Nat → Nat) : State :=
  runStepOf s fun r => (r.setVec d.toNat (pZip t f (r.vec a.toNat) (r.vec b.toNat))).next
def execPvadd (d a b t : BitVec 3) (s : State) : Host.Outcome State Fault Refusal := .next (vectorOp s d a b t (pAdd t))
def execPvmax (d a b t : BitVec 3) (s : State) : Host.Outcome State Fault Refusal := .next (vectorOp s d a b t (pMax t))
def execPvmul (d a b t : BitVec 3) (s : State) : Host.Outcome State Fault Refusal := .next (vectorOp s d a b t (pMul t))
/-- One element from type t to type u (R405). -/
def pConvert (t u : BitVec 3) (x : Nat) : Nat :=
  if t = 5 then (intToFmt (viewFmt u.toNat) 0 (toSigned 32 x)).1
  else if u = 5 then (valToInt 0 true 32 (unpack (viewFmt t.toNat) x)).1
  else if t = 0 ∨ u = 0 then (cvtFmt (viewFmt t.toNat) (viewFmt u.toNat) 0 x).1
  else (cvtFmt fp32 (viewFmt u.toNat) 0 (cvtFmt (viewFmt t.toNat) fp32 0 x).1).1
/-- PVCVT on a vector; old is zD. -/
def pConvertVec (t u : BitVec 3) (h : Bool) (x old : BitVec 512) : BitVec 512 :=
  let o := if h then 16 else 0
  let l := pElems t x
  if pBits t = pBits u then pPack (pBits u) (l.map (pConvert t u))
  else if pBits t = 32 then
    pPack 16 ((List.range 32).map fun i =>
      if o ≤ i ∧ i < o + 16 then pConvert t u (l.getD (i - o) 0) else fldN (16 * i) 16 old)
  else pPack 32 ((List.range 16).map fun i => pConvert t u (l.getD (o + i) 0))
def execPvcvt (d a t u : BitVec 3) (h : Bool) (s : State) : Host.Outcome State Fault Refusal :=
  .next (runStepOf s fun r => (r.setVec d.toNat (pConvertVec t u h (r.vec a.toNat) (r.vec d.toNat))).next)
def execPvnf (a t : BitVec 3) (s : State) : Host.Outcome State Fault Refusal :=
  .next (runStepOf s fun r =>
    let bad := t != 5 && (pElems t (r.vec a.toNat)).any fun x => !(unpack (viewFmt t.toNat) x).finite
    ((if bad then r.setReg 15 (r.reg 15 ||| 1) else r)).next)
/-- The combination of PVACC. -/
def accOp (op : BitVec 2) (t : BitVec 3) : Nat → Nat → Nat := if op = 0 then pAdd t else if op = 1 then pMax t else pMin t
def execPvacc (a b : BitVec 4) (t : BitVec 3) (op : BitVec 2) (inc : Bool) (s : State) :
    Host.Outcome State Fault Refusal :=
  .next (withRun s fun p r =>
    let g := runRegion s r
    let fa := (r.reg a).toNat
    let ma := (r.reg b).toNat
    if !(accessOk 4096 ma 64) then trapRun s p r 2 0
    else if !(accessOk g.2 fa 64) then trapRun s p r 3 0
    else
      let x := pZip t (accOp op t) (BitVec.ofNat 512 (memNum s.flow (g.1 + fa) 64)) (BitVec.ofNat 512 (memNum r.buf ma 64))
      putRun { s with flow := memWrite s.flow (g.1 + fa) (bytesOf 64 x.toNat) } p
        (((r.incd a inc 64).incd b (inc && a != b) 64)).next)

-- Ending a run, and replies (R408).

def execPfwd (a : BitVec 4) (s : State) : Host.Outcome State Fault Refusal :=
  .next (withRun s fun p r =>
    let n := (r.reg a).toNat
    if 4096 < n then trapRun s p r 6 0 else endRun s p r (r.ended false (memRead r.buf 0 n)))
def execPdrop (s : State) : Host.Outcome State Fault Refusal := .next (withRun s fun p r => endRun s p r (r.ended true []))
def execPdone (s : State) : Host.Outcome State Fault Refusal :=
  .next (withRun s fun p r =>
    let drop := match bindKernel s r.bind with | some k => k.dfate | none => false
    endRun s p r (r.ended drop (if drop then [] else r.msg.payload)))
def execPtrap (code : BitVec 22) (s : State) : Host.Outcome State Fault Refusal :=
  .next (withRun s fun p r => trapRun s p r 1 code.toNat)
def execPreply (a b c : BitVec 4) (s : State) : Host.Outcome State Fault Refusal :=
  .next (withRun s fun p r =>
    let g := runRegion s r
    let from' := (r.reg a).toNat
    let n := (r.reg b).toNat
    if from' % 64 ≠ 0 ∨ g.2 < from' + n then trapRun s p r 3 0
    else if 4096 < n then trapRun s p r 6 0
    else putRun s p ({ r with replies := r.replies ++ [((r.reg c).toNat, memRead s.flow (g.1 + from') n)] } : Run).next)

end Sys2Proof.Machine
end

