-- ==== Sys2Proof/Machine/PurlinReq.lean ====
section
/-!
DEFINITION. Purlin requests (R410 to R415, R419): the loader and its checks, binding and unbinding.
-/
namespace Sys2Proof.Machine

-- The loader's checks (R410, R412).

/-- The header of a kernel image: 32 bytes. -/
def imageHeadOk (h : List Byte) : Bool :=
  numAt 0 4 h == 0x4E4C5250 && decide (1 ≤ numAt 4 2 h) && decide (numAt 4 2 h ≤ 4096) && numAt 6 1 h / 8 == 0 &&
    numAt 7 1 h == 0 && numAt 8 4 h % 64 == 0 && numAt 12 20 h == 0
/-- A PBR that breaks R401: its target must lie in the branch's own innermost body. -/
def branchBad (bodies : List (Nat × Nat × Nat)) (n i off : Nat) : Bool :=
  match innermost bodies i with
  | some b => decide (b.2.2 < i + off) || innermost bodies (i + off) != some b
  | none => decide (i + off < n) && (innermost bodies (i + off)).isSome
/-- A PLOOP that breaks R402. -/
def loopBad (code : List (Option Instr)) (bodies : List (Nat × Nat × Nat)) (i len : Nat) : Bool :=
  let last := i + 1 + len
  let outer := bodies.filter fun b => decide (b.2.1 ≤ i) && decide (i ≤ b.2.2)
  decide (code.length ≤ last) || decide (2 ≤ outer.length) || outer.any (fun b => decide (b.2.2 < last)) ||
    (span (i + 1) (last + 1)).any fun j => match code.getD j none with | some (.preply _ _ _) => true | _ => false
/-- Does the instruction at an index fail a check of its own? -/
def instrBad (code : List (Option Instr)) (bodies : List (Nat × Nat × Nat)) (i : Nat) : Bool :=
  match code.getD i none with
  | none => true
  | some (.pbr _ _ off) => branchBad bodies code.length i off.toNat
  | some (.ploop _ len _) => loopBad code bodies i len.toNat
  | _ => false
/-- The most PREPLYs that a path executes before each index that a path reaches. -/
def replyCounts (code : List (Option Instr)) : Tab Nat :=
  (List.range code.length).foldl (fun (t : Tab Nat) i =>
    match tabFind t i with
    | none => t
    | some c =>
      let jump := fun (t : Tab Nat) (n x : Nat) => tabPut t n (max x (tabGet 0 t n))
      match code.getD i none with
      | some (.pbr _ mode off) => let t := jump t (i + off.toNat) c; if mode = 2 then t else jump t (i + 1) c
      | some (.ploop src len count) =>
        let t := if src = 0 ∧ count = 0 then t else jump t (i + 1) c
        if src = 0 ∧ count ≠ 0 then t else jump t (i + 2 + len.toNat) c
      | some (.preply _ _ _) => jump t (i + 1) (c + 1)
      | some x => if terminal x then t else jump t (i + 1) c
      | none => jump t (i + 1) c) [(0, 0)]
/-- The fifth PREPLY of a path. -/
def fifthReply (code : List (Option Instr)) : Option Nat :=
  let t := replyCounts code
  (List.range code.length).find? fun i => match code.getD i none with
    | some (.preply _ _ _) => decide (4 ≤ tabGet 0 t i) && (tabFind t i).isSome
    | _ => false
/-- The lowest index of a failed check (R412), if one fails. -/
def failingIndex (code : List (Option Instr)) : Option Nat :=
  let bodies := loopBodies code
  let own := (List.range code.length).find? (instrBad code bodies)
  let open' := if own.isNone && (kernelCost code 0).1.isSome then some (code.length - 1) else none
  (own.toList ++ (fifthReply code).toList ++ open'.toList).foldl (fun m i => match m with
    | some x => some (min x i)
    | none => some i) none
/-- R414: the smallest flit count for which a kernel is over its job's budget. -/
def overBudget (budget : Word) (code : List (Option Instr)) : Option Nat :=
  (List.range 65).find? fun f => decide (fldN 32 16 budget + fldN 16 16 budget * f / 16 < worstCase code f)

-- Requests (R411).

/-- The completion record of a purlin request. -/
def purlinDone (s : State) (r : PReq) (status handle detail : Nat) : State :=
  addDone s { noDone with caddr := r.caddr, cval := r.cval, port := r.win,
                          status := BitVec.ofNat 64 (status + handle * 65536 + detail * 2 ^ 32) }
/-- LOAD. PBUDGET is word 10 of the job-table entry (R461). -/
def loadKernel (s : State) (r : PReq) : State :=
  let a := fldN 0 46 r.arg
  let h := memRead s.dram a 32
  let n := numAt 4 2 h
  let ws := (List.range n).map fun i => BitVec.ofNat 32 (memNum s.dram (a + 32 + 4 * i) 4)
  if fld 46 18 r.arg ≠ 0 ∨ r.rsvd ≠ 0 then purlinDone s r 6 0 0
  else if !(imageHeadOk h) then purlinDone s r 2 0 0xFFFFFFFF
  else
    let code := kernelCode ws
    match failingIndex code with
    | some i => purlinDone s r 2 0 i
    | none =>
      match overBudget (jobWord s r.job 10) code with
      | some f => purlinDone s r 1 0 f
      | none =>
        if Config.kernelImages ≤ s.kernels.length then purlinDone s r 3 0 0
        else
          let handle := tabFree s.kernels 1
          let k : Kernel := { job := r.job, words := ws, flags := BitVec.ofNat 8 (numAt 6 1 h), fsmin := numAt 8 4 h }
          purlinDone { s with kernels := tabPut s.kernels handle k } r 0 handle 0
def execLoad (r : PReq) (s : State) : Host.Outcome State Fault Refusal := .next (loadKernel s r)
/-- The kernel of a handle, when it is the job's. -/
def reqKernel (s : State) (r : PReq) : Option Kernel :=
  (tabFind s.kernels (fldN 0 16 r.arg)).filter fun k => k.job == r.job
/-- UNLOAD. -/
def unloadKernel (s : State) (r : PReq) : State :=
  let h := fldN 0 16 r.arg
  if fld 16 48 r.arg ≠ 0 ∨ r.rsvd ≠ 0 ∨ (reqKernel s r).isNone then purlinDone s r 6 0 0
  else if s.bindings.any fun b => b.2.kernel == h then purlinDone s r 5 0 0
  else purlinDone { s with kernels := tabDel s.kernels h } r 0 0 0
def execUnload (r : PReq) (s : State) : Host.Outcome State Fault Refusal := .next (unloadKernel s r)
/-- A flow word: a receive channel, or a communicator and a kind other than BARRIER (R411). -/
def flowOk (f : BitVec 32) : Bool :=
  if isCollFlow f then fld 11 20 f == 0 && fld 8 3 f != 5 && fld 8 3 f != 7 else fld 12 19 f == 0
/-- ALLRED or REDSCT. -/
def reduceFlow (f : BitVec 32) : Bool := isCollFlow f && decide (fldN 8 3 f < 2)
/-- The processors of a set (R415): with EXCL, free ones; else those that serve fewer than 4 bindings, none exclusively. -/
def pickProcs (s : State) (n : Nat) (excl : Bool) : List Nat :=
  ((List.range Config.purlins).filter fun p =>
    let on := s.bindings.filter fun b => b.2.procs.contains p
    if excl then on.isEmpty else decide (on.length < 4) && !(on.any fun b => b.2.excl)).take n
/-- BIND. JFLOW is word 9 of the job-table entry (R461, R395). -/
def bindFlow (s : State) (r : PReq) : State :=
  let excl := bitAt 2 r.setw
  let source := bitAt 3 r.setw
  let n := 2 ^ fldN 0 2 r.setw
  let off := r.region.toNat
  let size := r.fsize.toNat
  let jf := jobWord s r.job 9
  let base := fldN 0 8 jf * 65536 + off
  match reqKernel s r with
  | none => purlinDone s r 6 0 0
  | some k =>
    if fld 16 48 r.arg ≠ 0 ∨ r.rsvd ≠ 0 ∨ fld 0 2 r.setw = 3 ∨ fld 4 28 r.setw ≠ 0 ∨ !(flowOk r.flow) ∨
        (source ∧ reduceFlow r.flow) ∨ off % 64 ≠ 0 ∨ size % 64 ≠ 0 ∨ size < k.fsmin then purlinDone s r 6 0 0
    else if (s.bindings.any fun b => b.2.flow == r.flow && b.2.source == source) ||
        s.bindings.any fun b => decide (max base b.2.base < min (base + size) (b.2.base + b.2.fsize)) then
      purlinDone s r 4 0 0
    else
      let procs := pickProcs s n excl
      if procs.length < n ∨ fldN 16 9 jf * 65536 < off + size then purlinDone s r 3 0 0
      else
        let b : Binding :=
          { kernel := fldN 0 16 r.arg, job := r.job, flow := r.flow, base := base, fsize := size, procs := procs,
            excl := excl, source := source, queue := [], unbinding := none }
        let flow := s.flow.filter fun c => !(decide (base ≤ c.1) && decide (c.1 < base + size))
        purlinDone { s with flow := flow, bindings := tabPut s.bindings (tabFree s.bindings 0) b } r 0 0 0
def execBind (r : PReq) (s : State) : Host.Outcome State Fault Refusal := .next (bindFlow s r)
/-- Is a message received here one for the kernel of a binding? -/
def Binding.owns (b : Binding) (pkg : Nat) (m : Msg) : Bool :=
  (m.kind == 7 || (m.kind == 8 && fld 24 3 m.aux &&& 6 == 0 && !(bitAt 80 m.note))) && bitAt 125 m.note == b.source &&
    (b.source || m.dst == pkg) && flowOf m == b.flow
/-- Is a binding idle: its queue empty, also of messages that had come before the UNBIND and wait for room in it, no run in progress, no
collective of its flow running (R419)? -/
def bindingIdle (s : State) (i : Nat) (b : Binding) : Bool :=
  b.queue.isEmpty && !(s.rx.any fun m => keepsKern m && b.owns s.pkg m) && !(s.runs.any fun r => r.2.bind == i) &&
    !(s.colls.any fun k => isCollFlow b.flow && !k.reshard && k.comm == fldN 0 8 b.flow && k.kind == fldN 8 3 b.flow)
/-- The binding goes, and its UNBIND is answered. -/
def dropBinding (s : State) (i : Nat) (u : Word × Word × Nat) : State :=
  addDone (freeHeldCredits { s with bindings := tabDel s.bindings i }) { noDone with caddr := u.1, cval := u.2.1, port := u.2.2 }
/-- The messages that have come for a kernel still pass it (R419). -/
def keepArrived (s : State) (b : Binding) : State :=
  { s with rx := s.rx.map fun m => if b.owns s.pkg m then { m with note := m.note ||| BitVec.ofNat 128 (2 ^ 118) } else m }
/-- UNBIND: the binding takes none of the messages that come from now on, and goes when it is idle (R419). -/
def unbindFlow (s : State) (r : PReq) : State :=
  let h := fldN 0 16 r.arg
  match s.bindings.find? fun b => b.2.flow == r.flow && b.2.kernel == h && b.2.unbinding.isNone with
  | some (i, b) =>
    if fld 16 48 r.arg ≠ 0 ∨ r.rsvd ≠ 0 ∨ !(flowOk r.flow) ∨ (reqKernel s r).isNone then purlinDone s r 6 0 0
    else
      let s := keepArrived s b
      if bindingIdle s i b then dropBinding s i (r.caddr, r.cval, r.win)
      else { s with bindings := tabPut s.bindings i { b with unbinding := some (r.caddr, r.cval, r.win) } }
  | none => purlinDone s r 6 0 0
def execUnbind (r : PReq) (s : State) : Host.Outcome State Fault Refusal := .next (unbindFlow s r)
def execUnbindCompletes (bind : Nat) (s : State) : Host.Outcome State Fault Refusal :=
  .next (match tabFind s.bindings bind with
    | some b =>
      match b.unbinding with
      | some u =>
        if bindingIdle s bind b then dropBinding s bind u else s
      | none => s
    | none => s)
/-- A request with a reserved OP (R411). -/
def reservedPurlin (s : State) (r : PReq) : State := purlinDone s r 6 0 0

end Sys2Proof.Machine
end

