-- ==== Sys2Proof/Machine/Ridge.lean ====
section
/-!
DEFINITION. Messages received from the Ridge (R376, R377): memory requests served at home and their replies (R279, R289,
R304, R380), bell events (R385, R468), channel messages (R386 to R388), collective messages (R393, R394), purlin replies
(R408, R416) and control messages.
-/
namespace Sys2Proof.Machine

-- The receive queue: messages that wait are passed over (R379).

def msgPa (m : Msg) : Nat := fldN 0 46 m.offset
/-- Discarded on receipt (R377): a reserved KIND, or reserved bytes that are not zero. -/
def discarded (m : Msg) : Bool :=
  decide (12 ≤ m.kind.toNat) || m.bad ||
    (m.kind == 6 && (fld 32 4 m.aux == 0 || decide (4 ≤ fldN 32 4 m.aux)))
/-- Is a message on its way to another package (R378)? -/
def transit (s : State) (m : Msg) : Bool := m.dst != s.pkg && decide (m.port < 18)
/-- The first message of a kind, for this package, that does not wait. -/
def firstMsg (s : State) (f : Msg → Bool) (waits : Msg → Bool) : Option (Nat × Msg) :=
  (s.rx.zipIdx.find? fun x => f x.1 && !(discarded x.1) && !(transit s x.1) && !(waits x.1)).map fun x => (x.2, x.1)
/-- A received message is taken; the flits of its input buffer are free, unless it has still to pass on (R379). -/
def dropMsg (s : State) (i : Nat) : State :=
  match s.rx[i]? with
  | some m =>
    freeInput { s with rx := s.rx.eraseIdx i } m
      (if decide (m.port < 18) && !(transit s m && !(discarded m)) then some (m.port, m.vc) else none)
  | none => s
/-- A message is taken and handled. -/
def handleMsg (s : State) (x : Option (Nat × Msg)) (f : State → Msg → State) : State :=
  match x with
  | some (i, m) => f (dropMsg s i) m
  | none => s
/-- The discard counter of the port on which a message arrived (R377, R468). -/
def countDiscard (s : State) (m : Msg) : State :=
  if 18 ≤ m.port then s
  else let p := s.port m.port; s.setPort m.port { p with discards := min (p.discards + 1) 0xFFFFFFFF }

-- Memory requests (R377).

/-- A host's access through BAR4 that comes to this home from its package (R460; log 37). -/
def fromHost (m : Msg) : Bool := bitAt 121 m.note
/-- A request that must wait: for its job's regulator (R289, R290), or, a write, for the copy of a cut page. -/
def requestWaits (s : State) (m : Msg) : Bool :=
  let h := forwarded s s.pkg (msgPa m)
  h.1 == s.pkg && ((!(fromHost m) && !(mayCharge s m.job 0)) || (m.kind != 0 && cutPending s (msgPa m) 128))
/-- A reply to a request: OFFSET as the request's; a request that was redirected names the new place too (R304; log 37). -/
def replyTo (s : State) (m : Msg) (kind : Nat) : Msg :=
  let moved := bitAt 127 m.note
  { mkMsg s m.src kind 2 m.job with
    cls := m.cls, tag := m.tag, offset := if moved then fld 0 64 m.note else m.offset,
    note := if moved then BitVec.ofNat 128 (2 ^ 127 + m.offset.toNat) else 0 }
/-- A reply leaves; when the requester's route is invalid, an error reply goes back by the port of arrival (R380). -/
def sendReply (s : State) (m r : Msg) : State :=
  if routable s m.src then sendMsg s r
  else atPort s { r with err := true, payload := [] } m.port
/-- The forwarding entry of a frame that has migrated away (R304). -/
def fwdOf (s : State) (pa : Nat) : Option Fwd := s.fwd.find? fun f => decide (f.old ≤ pa) && decide (pa < f.old + f.size)
/-- A request is redirected, or served here under its charge. -/
def serve (s : State) (m : Msg) (f : State → State) : State :=
  match fwdOf s (msgPa m) with
  | some w => sendMsg s { redirect w s.pkg m with port := 31 }
  | none => f (if fromHost m then s else chargeJob s m.job 0 128)
def readServed (s : State) (m : Msg) : State :=
  serve s m fun s =>
    let a := msgPa m / 128 * 128
    sendReply s m { replyTo s m 1 with payload := memRead s.dram a 128, poison := dramPoisoned s a 128 }
/-- A write that belongs to a migrating page is held at this home (R303). -/
def holdMigr (s : State) (m : Msg) : State :=
  { s with migr := s.migr.map fun x =>
      if x.stage ≠ 0 ∧ x.old < msgPa m + 128 ∧ msgPa m < x.old + x.size then { x with held := x.held ++ [m] } else x }
def writeServed (s : State) (m : Msg) : State :=
  serve s m fun s =>
    let a := msgPa m / 128 * 128
    if migrHeld s a 128 then holdMigr s m
    else
      let bytes := if bitAt 119 m.note then keepBits s a m.payload else m.payload
      let s := homeWriteMask s (if fromHost m then none else some m.job) a bytes fun k => bitAt k m.mask
      let s := if m.poison then { s with dramPoison := setAdd s.dramPoison (a / 128) } else s
      sendReply s m (replyTo s m 3)
def atomicServed (s : State) (m : Msg) : State :=
  serve s m fun s =>
    let a := msgPa m
    if migrHeld s a 8 then holdMigr s m
    else if dramPoisoned s a 8 then sendReply s m { replyTo s m 5 with poison := true }
    else
      let old : Word := BitVec.ofNat 64 (memNum s.dram a 8)
      let new := atomicNew (fldN 0 3 m.aux) old (BitVec.ofNat 64 (numAt 0 8 m.payload)) (BitVec.ofNat 64 (numAt 8 8 m.payload))
      sendReply (homeWrite s (some m.job) a (bytesOf 8 new.toNat)) m { replyTo s m 5 with aux := old }
def execSectorReadRequest (s : State) : Host.Outcome State Fault Refusal :=
  .next (handleMsg s (firstMsg s (fun m => m.kind == 0) (requestWaits s)) readServed)
def execSectorWrite (s : State) : Host.Outcome State Fault Refusal :=
  .next (handleMsg s (firstMsg s (fun m => m.kind == 2) (requestWaits s)) writeServed)
def execAtomicRequest (s : State) : Host.Outcome State Fault Refusal :=
  .next (handleMsg s (firstMsg s (fun m => m.kind == 4) (requestWaits s)) atomicServed)

-- Replies.

/-- The requester of a page that has moved: its translation units take the new place, and its own leaf is rewritten by a
compare-and-swap on PKG and PADDR (R304). -/
def relocate (s : State) (job : BitVec 32) (old new : Nat) : State :=
  let opkg := old / 2 ^ 46
  let opa := old % 2 ^ 46
  let npkg := new / 2 ^ 46
  let npa := new % 2 ^ 46
  let moved := fun (level : Nat) (e : Word) =>
    let b := leafPa e
    if leafPkg e = opkg ∧ b ≤ opa ∧ opa < b + pageBytes level then
      putFld 53 11 npkg (putFld 16 30 ((npa - (opa - b)) / 65536) e)
    else e
  let s := { s with clusters := s.clusters.map fun c =>
    (c.1, { c.2 with tlb := c.2.tlb.map fun x => if x.job = job then { x with leaf := moved x.level x.leaf } else x }) }
  (jobLeaves s job).foldl (fun s x =>
    let e := moved x.2.level x.2.e
    if e = x.2.e then s
    else putEntry (followPage s job opkg (leafPa x.2.e) (pageBytes x.2.level) npkg (leafPa e)) x.2.addr e) s
def relocated (s : State) (m : Msg) : State :=
  if bitAt 127 m.note then relocate s m.job (fldN 0 62 m.offset) (fldN 0 62 m.note) else s
def replyReason (m : Msg) : Nat := if m.err then 4 else if m.poison then 2 else 0
/-- The command whose request a reply answers. -/
def awaiting (s : State) (m : Msg) : Option Cmd :=
  (s.engs.flatMap Prod.snd).find? fun c =>
    c.reply.isNone && c.sent.isSome && c.tag != 0 && c.tag == m.tag && c.job == m.job
/-- The first of a list that meets a condition, changed. -/
def mapFirst {α : Type} (p : α → Bool) (f : α → α) : List α → List α
  | [] => []
  | x :: r => if p x then f x :: r else x :: mapFirst p f r
/-- A read reply, to a fetch or a read of the Timetable, to a collective engine, or to a host. -/
def otherReader (s : State) (m : Msg) : State :=
  let mine := fun (f : IFetch) => f.tag == m.tag && f.bytes.isNone
  let far := fun (f : FarRead) => f.tag == m.tag
  if s.ifetch.any mine then
    { s with ifetch := mapFirst mine (fun f => { f with bytes := some (if replyReason m = 0 then m.payload else []) }) s.ifetch }
  else if s.colls.any fun k => k.far.any far then
    let got := fun (k : Coll) => mapFirst far (fun f => { f with got := some (m.payload, replyReason m) }) k.far
    { s with colls := mapFirst (fun k => k.far.any far) (fun k => { k with far := got k }) s.colls }
  else
    match s.hostAcc.find? fun a => a.tag == m.tag && a.data.isNone with
    | some a => stepHosts (endAcc s a (if m.err then none else some (bytesAt (a.pa % 128) a.len m.payload, m.poison)))
    | none => s
def readReplied (s : State) (m : Msg) : State :=
  let s := relocated s m
  match awaiting s m with
  | some c => putCmd s { c with reply := some (m.payload, replyReason m) }
  | none => otherReader s m
def execReadReply (s : State) : Host.Outcome State Fault Refusal :=
  .next (handleMsg s (firstMsg s (fun m => m.kind == 1) fun _ => false) readReplied)
/-- A write of no command is acknowledged: a write-back, a host's, a collective's, a migration's. -/
def otherAck (s : State) (m : Msg) : State :=
  if s.wbs.any fun w => w.tag == m.tag then State.progress { s with wbs := s.wbs.filter fun w => w.tag != m.tag }
  else
    match s.hostAcc.find? fun a => a.tag == m.tag && a.data.isSome with
    | some a => stepHosts (endAcc s a (if m.err then none else some ([], false)))
    | none =>
    match s.colls.find? fun k => k.acks.any fun a => a.1 == m.tag with
    | some k =>
      let n := (k.acks.find? fun a => a.1 == m.tag).elim 0 Prod.snd
      let s := putColl s { k with acks := k.acks.filter fun a => a.1 != m.tag }
      if replyReason m = 0 then countColl s k n else failColl s k (replyReason m)
    | none =>
      match s.migr.findIdx? fun x => x.acks.contains m.tag with
      | some i =>
        (match s.migr[i]? with
        | some x => if replyReason m = 0 then putMigr s i { x with acks := x.acks.erase m.tag } else stopMigr s i x 255
        | none => s)
      | none => s
/-- The messages of a drain that another member has taken (R372; log 37). -/
def drainAck (s : State) (m : Msg) : State :=
  let hit := fun (x : Nat × Ckpt) => x.2.drains.any fun d => numAt 0 4 d.ctl == m.job.toNat && decide (0 < d.out)
  let less := fun (l : List Drain) => mapFirst (fun d => decide (0 < d.out)) (fun d => { d with out := d.out - 1 }) l
  let l := mapFirst hit (fun x => (x.1, { x.2 with drains := less x.2.drains })) s.ckpts
  { s with ckpts := l }
def ackArrives (s : State) (m : Msg) : State :=
  if bitAt 123 m.note then toldSend s m.src m.flow.toNat (fldN 0 32 m.aux) (if m.err then 4 else 0)
  else if bitAt 122 m.note then drainAck s m
  else
    let s := relocated s m
    match awaiting s m with
    | some c => putCmd s { c with reply := some ([], replyReason m) }
    | none => otherAck s m
def execWriteAcknowledge (s : State) : Host.Outcome State Fault Refusal :=
  .next (handleMsg s (firstMsg s (fun m => m.kind == 3) fun _ => false) ackArrives)
def atomicReplied (s : State) (m : Msg) : State :=
  let s := relocated s m
  match awaiting s m with
  | some c => putCmd s { c with reply := some (bytesOf 8 m.aux.toNat, replyReason m) }
  | none => s
def execAtomicReply (s : State) : Host.Outcome State Fault Refusal :=
  .next (handleMsg s (firstMsg s (fun m => m.kind == 5) fun _ => false) atomicReplied)

-- Bell events (R385, R468).

def msgBell (m : Msg) : Nat := fldN 0 12 m.aux
def msgTag (m : Msg) : BitVec 16 := fld 16 16 m.aux
def msgEvent (m : Msg) : Nat := fldN 32 4 m.aux
/-- Is a bell event's index held here for its job and communicator (R468)? -/
def bellHeld (s : State) (m : Msg) : Bool :=
  match (getBell s (.mesh (msgBell m))).holder with
  | some (job, some comm, _) => job == m.job && comm == fldN 0 8 m.flow
  | _ => false
def onBell (s : State) (m : Msg) (f : State → State) : State := if bellHeld s m then f s else countDiscard s m
def firstBell (s : State) (ev : Nat) : Option (Nat × Msg) :=
  firstMsg s (fun m => m.kind == 6 && msgEvent m == ev) fun _ => false
def execBellEventArrive (s : State) : Host.Outcome State Fault Refusal :=
  .next (handleMsg s (firstBell s 1) fun s m => onBell s m fun s => meshArrive s (msgBell m) (msgTag m))
/-- The rank of a package in a communicator. -/
def rankOfPkg (s : State) (comm pkg : Nat) : Nat :=
  let w := commWord s comm
  ((List.range (commN w)).find? fun r => commPkg s w r == pkg).getD 0
def execBellEventReady (s : State) : Host.Outcome State Fault Refusal :=
  .next (handleMsg s (firstBell s 2) fun s m =>
    onBell s m fun s => meshReady 8 s (msgBell m) (rankOfPkg s (fldN 0 8 m.flow) m.src) (msgTag m))
def execBellEventComplete (s : State) : Host.Outcome State Fault Refusal :=
  .next (handleMsg s (firstBell s 3) fun s m => onBell s m fun s => meshComplete 8 s (msgBell m) (msgTag m))

-- Flows: channels and collectives.

/-- The message without its marks for the kernel at the source. -/
def pastSource (m : Msg) : Msg := { m with note := m.note &&& ~~~ (BitVec.ofNat 128 (2 ^ 125 + 2 ^ 118)) }
/-- Has an UNBIND of a flow still messages before it (R419)? -/
def unbindAhead (s : State) (flow : BitVec 32) (source : Bool) : Bool :=
  s.bindings.any fun b => b.2.flow == flow && b.2.source == source && b.2.unbinding.isSome && !b.2.queue.isEmpty
/-- Does a message wait for room in the queue of its flow's kernel, or for messages that came before the UNBIND? -/
def kernWaits (s : State) (m : Msg) (source : Bool) : Bool :=
  match msgBinding s m source with
  | some b => !(queueRoom s b)
  | none => unbindAhead s (flowOf m) source
/-- A segment that no kernel handles. -/
def plainSeg (m : Msg) : Seg :=
  { offset := m.offset.toNat, bytes := m.payload, dropped := false, status := if atSource m then 0 else fld 0 32 m.note,
    replies := [], poison := m.poison }
/-- It enters that kernel; with none bound any more, a segment joins those of its message that the kernel has handled (R388), and
another message goes out. -/
def sourceArrives (s : State) (m : Msg) : State :=
  match msgBinding s m true with
  | some b => enqueueMsg s b m
  | none => if m.kind = 7 then sourceDone s m (plainSeg m) else sendMsg s (pastSource m)
def segmentWaits (s : State) (m : Msg) : Bool :=
  if atSource m then kernWaits s m true
  else
    match receiverOf s (fldN 0 12 m.flow) m.job with
    | .waits => true
    | .gone => false
    | .at _ _ => kernWaits s m false
/-- A segment at the receiving Ridge (R387, R388): refused, given to the flow's kernel, or handled as it is. -/
def segmentArrives (s : State) (m : Msg) : State :=
  if atSource m then sourceArrives s m
  else
    let chan := fldN 0 12 m.flow
    match receiverOf s chan m.job with
    | .gone => tellSend s m.src chan (fldN 0 32 m.aux) 4
    | _ =>
      match msgBinding s m false with
      | some b => enqueueMsg s b m
      | none => segmentDone s chan m (plainSeg m)
/-- The first channel with a message to append. -/
def appendChan (s : State) : Option Nat := (s.chans.find? fun c => appendable s c.1).map Prod.fst
def firstSegment (s : State) : Option (Nat × Msg) := firstMsg s (fun m => m.kind == 7) (segmentWaits s)
def execChannelMessageSegment (s : State) : Host.Outcome State Fault Refusal :=
  .next (match appendChan s with
    | some c => appendStep s c
    | none => handleMsg s (firstSegment s) segmentArrives)
def isPiece (m : Msg) : Bool := m.kind == 8 && !(msgDone m) && !(msgFinish m)
def firstPiece (s : State) : Option (Nat × Msg) :=
  firstMsg s isPiece fun m => if atSource m then kernWaits s m true else pieceWaits s m
def execCollectivePiece (s : State) : Host.Outcome State Fault Refusal :=
  .next (handleMsg s (firstPiece s) fun s m => if atSource m then sourceArrives s m else pieceArrives s m)
def later (s : State) (m : Msg) : Bool := match collAt s m with | .later => true | _ => false
def firstDone (s : State) : Option (Nat × Msg) := firstMsg s (fun m => m.kind == 8 && msgDone m) (later s)
def firstFinish (s : State) : Option (Nat × Msg) :=
  firstMsg s (fun m => m.kind == 8 && msgFinish m && !(msgDone m)) (later s)
def execCollectiveDone (s : State) : Host.Outcome State Fault Refusal := .next (handleMsg s (firstDone s) doneArrives)
def execCollectiveFinish (s : State) : Host.Outcome State Fault Refusal :=
  .next (handleMsg s (firstFinish s) finishArrives)
def firstReply (s : State) : Option (Nat × Msg) := firstMsg s (fun m => m.kind == 9) fun _ => false
def execPurlinReply (s : State) : Host.Outcome State Fault Refusal :=
  .next (handleMsg s (firstReply s) fun s m => if bitAt 124 m.note then resultArrives s m else replyArrives s m)

-- Regulators (R290).

/-- A charged request of n bytes begins. -/
def execRegulatedRequestBegins (jobIdx k n : Nat) (s : State) : Host.Outcome State Fault Refusal :=
  .next (let job := fld 0 32 (vget (jobAt s jobIdx).w 0 0)
    if mayCharge s job k && decide (n ≤ 65536) then chargeJob s job k n else s)
/-- T := min(T + 64 RATE, 256 BURST). -/
def refill (j : Job) : Job :=
  { j with tokens := vgen 3 fun k =>
      let r := regReg j k
      if bitAt 63 r then min (vget j.tokens k 0 + 64 * (fldN 0 20 r : Int)) (256 * (fldN 20 24 r : Int)) else vget j.tokens k 0 }
def execRegulatorRefill (s : State) : Host.Outcome State Fault Refusal :=
  .next { s with jobs := s.jobs.map fun x => (x.1, refill x.2) }

end Sys2Proof.Machine
end

