-- ==== Sys2Proof/Machine/Checkpoint.lean ====
section
/-!
DEFINITION. Checkpoints: the copying of a cut's pages (R370), drains with parity into the two generations (R371 to R373),
restore (R374), the transfers and control messages that they need (R377; log 39).
-/
namespace Sys2Proof.Machine

-- The control block (R368) and the places of R372.

def ctlJob (c : List Byte) : BitVec 32 := BitVec.ofNat 32 (numAt 0 4 c)
def ctlLo (c : List Byte) : Nat := numAt 0x18 8 c % 2 ^ 52
def ctlW (c : List Byte) : Nat := numAt 0x20 8 c - ctlLo c
def ctlShadow (c : List Byte) : Nat := numAt 0x28 8 c % 2 ^ 52
def ctlStore (c : List Byte) : Nat := numAt 0x30 8 c % 2 ^ 52
def ctlGb (c : List Byte) : Nat := numAt 0x38 4 c
def ctlG (c : List Byte) : Nat := numAt 0x3C 1 c
/-- Units of an image; the group of a rank: its first rank and its size. -/
def imageUnits (c : List Byte) : Nat := ctlW c / 65536
def groupBase (c : List Byte) (r : Nat) : Nat := r / ctlG c * ctlG c
def groupSize (c : List Byte) (n r : Nat) : Nat := min (ctlG c) (n - groupBase c r)
/-- Stripes of a group. -/
def stripes (c : List Byte) (g : Nat) : Nat := ceilDiv (g * imageUnits c) (g - 1)
/-- The member that holds data position p of a stripe; its parity is held by member s mod g. -/
def dataHolder (g s p : Nat) : Nat := (s % g + 1 + p) % g
/-- The stripe and position of unit u of a rank's image. -/
def unitPlace (c : List Byte) (g r u : Nat) : Nat × Nat :=
  let d := (r - groupBase c r) * imageUnits c + u
  (d / (g - 1), d % (g - 1))
/-- The VA of a rank's generation slot, and of a stripe's unit in it. -/
def slotVa (c : List Byte) (r slot : Nat) : Nat := ctlStore c + (2 * r + slot) * (65536 * ctlGb c)
def stripeVa (c : List Byte) (r slot s : Nat) : Nat := slotVa c r slot + 65536 * (s + 1)
/-- The generation header (R373). -/
def genHeader (c : List Byte) (state cut rank n : Nat) : List Byte :=
  let h := bytesOf 4 (numAt 0 4 c) ++ bytesOf 4 state ++ bytesOf 8 (numAt 8 8 c) ++ bytesOf 8 cut ++ bytesOf 4 rank ++
    bytesOf 4 n ++ bytesOf 1 (ctlG c) ++ List.replicate 23 0
  h ++ bytesOf 8 (crc64 h).toNat
/-- Bytes of a VA range homed here, unit by unit; missing pages read as zero. -/
def readVa (s : State) (job : BitVec 32) (va n : Nat) : List Byte :=
  (List.range (ceilDiv n 65536)).flatMap fun i =>
    let m := min 65536 (n - 65536 * i)
    match localOf s job (va + 65536 * i) with
    | some pa => memRead s.dram pa m
    | none => List.replicate m 0
/-- The poisoned sectors of a VA range of whole units, by number within the range (R357). -/
def badVa (s : State) (job : BitVec 32) (va n : Nat) : List Nat :=
  (List.range (ceilDiv n 65536)).flatMap fun i =>
    match localOf s job (va + 65536 * i) with
    | some pa => (s.dramPoison.filter fun x => decide (pa / 128 ≤ x) && decide (x < pa / 128 + 512)).map fun x => x - pa / 128 + 512 * i
    | none => []
/-- Bytes written at a VA homed here, some sectors of which, by number, come from poisoned units. -/
def writeVaMarked (s : State) (job : BitVec 32) (va : Nat) (bs : List Byte) (bad : List Nat) : State :=
  match localOf s job va with
  | some pa => partWriteMarked s job pa bs fun x => decide (pa / 128 ≤ x) && bad.contains (x - pa / 128)
  | none => s
def writeVa (s : State) (job : BitVec 32) (va : Nat) (bs : List Byte) : State := writeVaMarked s job va bs []
def xorBytes (a b : List Byte) : List Byte := a.zipWith (· ^^^ ·) b

-- The copying of a cut (R370).

/-- Is a group off its cluster (R55)? -/
def groupAway (s : State) (grp : Nat) : Bool :=
  match tabFind s.groups grp with | some g => g.away.isSome | none => false
/-- The job's cut has a page to copy now, or its local-done arrival is due. While the group is displaced, its bells are, and the
arrival waits for them. -/
def cutCopyDue (s : State) (idx : Nat) : Bool :=
  match tabFind s.ckpts idx with
  | some k => if k.pages.isEmpty then k.bell.isSome && !(groupAway s k.group) else mayCopyCut s k
  | none => false
/-- Does a write wait for a page of the cut: received, queued, or of a collective's next chunk (R370)? -/
def cutWanted (s : State) (u : CutUnit) : Bool :=
  (s.rx.any fun m => (m.kind == 2 || m.kind == 4 || m.kind == 11) && u.touched (msgPa m) (max 128 m.payload.length)) ||
    (s.wbs.any fun w => w.pkg == s.pkg && u.touched w.pa 128) ||
    s.colls.any fun k => match nextChunk s k with
      | some c => c.write && (collRuns s k true (c.len + 1) (k.dst + c.off) c.len).any fun r => r.1 == s.pkg && u.touched r.2.1 r.2.2
      | none => false
/-- The next unit to copy: of a page for which a write waits, if there is one. -/
def cutNext (s : State) (k : Ckpt) : Option CutUnit := (k.pages.find? (cutWanted s)).or k.pages.head?
def execCutPageCopy (jobIdx : Nat) (s : State) : Host.Outcome State Fault Refusal :=
  .next (match tabFind s.ckpts jobIdx with
    | some k =>
      match cutNext s k with
      | some u => if mayCopyCut s k then copyCut s jobIdx u else s
      | none =>
        match k.bell with
        | some b =>
          if groupAway s k.group then s else doArrive { s with ckpts := tabPut s.ckpts jobIdx { k with bell := none } } (bellLoc k.cluster b)
        | none => s
    | none => s)

-- Drains (R371 to R373).

def Drain.slot (d : Drain) : Nat := d.cut % 2
def Drain.g (d : Drain) : Nat := groupSize d.ctl d.n d.rank
def Drain.base (d : Drain) : Nat := groupBase d.ctl d.rank
/-- The group member that this rank is. -/
def Drain.me (d : Drain) : Nat := d.rank - d.base
/-- The slot that a drain writes was complete before it. -/
def slotComplete (s : State) (d : Drain) : Bool :=
  numAt 4 4 (readVa s (ctlJob d.ctl) (slotVa d.ctl d.rank d.slot) 64) == 2
/-- Which sectors of a transfer are poisoned, in its note (log 39). -/
def transferMarks (bad : List Nat) (j : Nat) : Nat :=
  (maskOf 32 fun k => bad.contains (32 * j + k)).toNat * 2 ^ 64
/-- 64 KiB for a member's store, with its poisoned sectors: written here, or sent as checkpoint transfers (KIND 11); with x, combined
by XOR with what stands there. The state, and the messages sent. -/
def storeUnit (s : State) (d : Drain) (rank stripe : Nat) (x : Bool) (bs : List Byte) (bad : List Nat) : State × Nat :=
  let job := ctlJob d.ctl
  let va := stripeVa d.ctl rank d.slot stripe
  match walkPage s job va with
  | .error _ => (s, 0)
  | .ok l =>
    let pa := leafAddr l.level l.e va
    if leafPkg l.e = s.pkg then
      (partWriteMarked s job pa (if x then xorBytes (memRead s.dram pa 65536) bs else bs)
        (fun k => decide (pa / 128 ≤ k) && bad.contains (k - pa / 128) || (x && s.dramPoison.contains k)), 0)
    else
      ((List.range 16).foldl (fun s j => sendMsg s { mkMsg s (leafPkg l.e) 11 0 job with
        offset := BitVec.ofNat 64 (leafPkg l.e * 2 ^ 46 + pa + 4096 * j), payload := bytesAt (4096 * j) 4096 bs, poison := transferMarks bad j != 0,
        note := BitVec.ofNat 128 (d.cut % 2 ^ 64 + transferMarks bad j + 2 ^ 122 + if x then 2 ^ 120 else 0) }) s, 16)
/-- "CKPT" in AUX[63:32]: a member's data (op 1) or parity (op 2) is written, its slot is complete (op 3) or not (op 4); OFFSET
is the cut (log 39). -/
def ckptMark : Nat := 0x434B5054
def tellMembers (s : State) (d : Drain) (op : Nat) (ranks : List Nat) : State :=
  ranks.foldl (fun s r =>
    match walkPage s (ctlJob d.ctl) (slotVa d.ctl r 0) with
    | .ok l =>
      if leafPkg l.e = s.pkg then s
      else sendMsg s { mkMsg s (leafPkg l.e) 10 4 (ctlJob d.ctl) with
        offset := BitVec.ofNat 64 d.cut, aux := BitVec.ofNat 64 (op + d.rank * 65536 + ckptMark * 2 ^ 32) }
    | .error _ => s) s
def putDrain (s : State) (idx : Nat) (d : Drain) : State :=
  let k := tabGet Ckpt.empty s.ckpts idx
  { s with ckpts := tabPut s.ckpts idx { k with drains := k.drains.map fun x => if x.cut = d.cut then d else x } }
/-- The generation header is written, 64 bytes charged to JRBKG (R289, R373). -/
def writeHeader (s : State) (d : Drain) (state : Nat) : State :=
  writeVa (chargeJob s (ctlJob d.ctl) 2 64) (ctlJob d.ctl) (slotVa d.ctl d.rank d.slot) (genHeader d.ctl state d.cut d.rank d.n)
/-- The units of its image that a drain rewrites: all of them, when a member's slot was not complete (R373). -/
def drainUnits (d : Drain) : List Nat :=
  let all := List.range (imageUnits d.ctl)
  if !d.whole then all.filter fun u => d.marked.contains (ctlLo d.ctl + 65536 * u) else all
/-- The stripes of which this member holds a data unit, and those whose parity it holds. -/
def dataStripes (d : Drain) : List Nat :=
  (List.range (stripes d.ctl d.g)).filter fun s =>
    (List.range (d.g - 1)).any fun p => dataHolder d.g s p == d.me && decide (s * (d.g - 1) + p < d.g * imageUnits d.ctl)
def parityStripes (d : Drain) : List Nat := (List.range (stripes d.ctl d.g)).filter fun s => s % d.g == d.me
def groupRanks (d : Drain) : List Nat := (List.range d.g).map (d.base + ·)
/-- Can a drain do its next step? Whatever it reads and writes waits for its charge (R290, R372). -/
def drainMoves (s : State) (d : Drain) : Bool :=
  let may := mayCharge s (ctlJob d.ctl) 2
  match d.phase with
  | 0 => may && (!(d.told.contains d.rank) || (List.range d.n).all d.told.contains)
  | 1 => if d.todo.isEmpty then d.out == 0 else may
  | 2 => (groupRanks d).all d.heard.contains && (d.todo.isEmpty || may)
  | 3 => if d.todo.isEmpty then d.out == 0 else may
  | _ => may && (List.range d.n).all d.heard2.contains
def drainStep (s : State) (idx : Nat) (d : Drain) : State :=
  let job := ctlJob d.ctl
  match d.phase, d.todo with
  | 0, _ =>
    if !(d.told.contains d.rank) then
      let ok := slotComplete s d
      putDrain (tellMembers (chargeJob s job 2 64) d (if ok then 3 else 4) (List.range d.n)) idx
        { d with told := setAdd d.told d.rank, whole := d.whole || !ok }
    else putDrain (writeHeader s d 1) idx { d with phase := 1, todo := drainUnits d }
  | 1, u :: rest =>
    let p := unitPlace d.ctl d.g d.rank u
    let bs := readVa s job (ctlShadow d.ctl + d.rank * ctlW d.ctl + 65536 * u) 65536
    let bad := badVa s job (ctlShadow d.ctl + d.rank * ctlW d.ctl + 65536 * u) 65536
    let x := storeUnit (chargeJob s job 2 65536) d (d.base + dataHolder d.g p.1 p.2) p.1 false bs bad
    putDrain x.1 idx { d with todo := rest, out := d.out + x.2 }
  | 1, [] => putDrain (tellMembers s d 1 (groupRanks d)) idx
      { d with phase := 2, todo := parityStripes d, heard := setAdd d.heard d.rank }
  | 2, t :: rest =>
    putDrain (writeVa (chargeJob s job 2 65536) job (stripeVa d.ctl d.rank d.slot t) (List.replicate 65536 0)) idx { d with todo := rest }
  | 2, [] => putDrain s idx { d with phase := 3, todo := dataStripes d }
  | 3, t :: rest =>
    let bs := readVa s job (stripeVa d.ctl d.rank d.slot t) 65536
    let bad := badVa s job (stripeVa d.ctl d.rank d.slot t) 65536
    let x := storeUnit (chargeJob s job 2 65536) d (d.base + t % d.g) t true bs bad
    putDrain x.1 idx { d with todo := rest, out := d.out + x.2 }
  | 3, [] =>
    putDrain (tellMembers s d 2 (List.range d.n)) idx { d with phase := 4, heard2 := setAdd d.heard2 d.rank }
  | _, _ =>
    let k := tabGet Ckpt.empty s.ckpts idx
    let s := { s with ckpts := tabPut s.ckpts idx { k with drains := k.drains.filter fun x => x.cut != d.cut } }
    ckptRecord (writeHeader s d 2) job 2 d.cut (numAt 8 8 d.ctl)
/-- A drain whose cut has been copied begins to wait its turn. -/
def newDrain (k : Ckpt) : Drain :=
  { cut := k.cut, ctl := k.ctl, rank := k.rank, n := k.n, marked := k.marked ++ k.marked1, told := [], whole := false, phase := 0, todo := [], out := 0,
    heard := [], heard2 := [] }
def drainDue (s : State) (idx : Nat) : Bool :=
  match tabFind s.ckpts idx with
  | some k => (k.draining && k.pages.isEmpty) || (match k.drains with | d :: _ => drainMoves s d | [] => false)
  | none => false
def execCheckpointDrain (jobIdx : Nat) (s : State) : Host.Outcome State Fault Refusal :=
  .next (match tabFind s.ckpts jobIdx with
    | some k =>
      if k.draining && k.pages.isEmpty then
        { s with ckpts := tabPut s.ckpts jobIdx { k with draining := false, drains := k.drains ++ [newDrain k] } }
      else
        match k.drains with
        | d :: _ => if drainMoves s d then drainStep s jobIdx d else s
        | [] => s
    | none => s)

-- Transfers and control messages (R377).

def isCkptNote (m : Msg) : Bool := m.kind == 10 && fldN 32 32 m.aux == ckptMark
/-- The drain of a message here, and whether it has still to come. -/
def drainOf (s : State) (m : Msg) (cut : Nat) : Option (Nat × Drain) :=
  (jobIdx s m.job).bind fun i => ((tabGet Ckpt.empty s.ckpts i).drains.find? fun d => d.cut == cut).map fun d => (i, d)
def drainToCome (s : State) (m : Msg) (cut : Nat) : Bool :=
  match jobIdx s m.job with
  | some i => let k := tabGet Ckpt.empty s.ckpts i; decide (k.cut < cut) || (k.cut == cut && k.draining)
  | none => false
/-- Has this package still to read shadow for a drain of a job? That goes before the job's other background traffic (R371). -/
def shadowRead (s : State) (job : BitVec 32) : Bool :=
  match (jobIdx s job).bind fun i => (tabGet Ckpt.empty s.ckpts i).drains.head? with
  | some d => d.phase == 1 && !d.todo.isEmpty
  | none => false
/-- A transfer waits for its charge (R289), behind the shadow that has still to be read here (R371), and for its page (R303, R370); that of a drain also until this package's own drain has come as far: its header is written, or its parity units
are cleared. -/
def transferWaits (s : State) (m : Msg) : Bool :=
  !(mayCharge s m.job 2) || shadowRead s m.job || writeHeld s (msgPa m) m.payload.length || bitAt 122 m.note &&
    (let cut := fldN 0 64 m.note
     drainToCome s m cut || match drainOf s m cut with
      | some (_, d) => decide (d.phase < if bitAt 120 m.note then 3 else 1)
      | none => false)
def firstTransfer (s : State) : Option (Nat × Msg) := firstMsg s (fun m => m.kind == 11) (transferWaits s)
def transferArrives (s : State) (m : Msg) : State :=
  let a := msgPa m
  let bs := if bitAt 120 m.note then xorBytes (memRead s.dram a m.payload.length) m.payload else m.payload
  let old := s.dramPoison
  let marked := fun (k : Nat) => m.poison && (!(bitAt 122 m.note) || decide (a / 128 ≤ k) && bitAt (64 + (k - a / 128)) m.note)
  let s := homeWrite (chargeJob s m.job 2 m.payload.length) (some m.job) a bs
  let s := markSectors s a m.payload.length fun k => marked k || (bitAt 120 m.note && old.contains k)
  if bitAt 122 m.note then
    sendMsg s { mkMsg s m.src 3 2 m.job with offset := m.offset, note := BitVec.ofNat 128 (2 ^ 122) }
  else s
def execCheckpointTransfer (s : State) : Host.Outcome State Fault Refusal :=
  .next (handleMsg s (firstTransfer s) transferArrives)
/-- A member's note about its drain. -/
def noteArrives (s : State) (m : Msg) : State :=
  match drainOf s m m.offset.toNat with
  | some (i, d) =>
    let r := fldN 16 16 m.aux
    putDrain s i (match fldN 0 8 m.aux with
      | 1 => { d with heard := setAdd d.heard r }
      | 2 => { d with heard2 := setAdd d.heard2 r }
      | 3 => { d with told := setAdd d.told r }
      | _ => { d with told := setAdd d.told r, whole := true })
  | none => s
def controlWaits (s : State) (m : Msg) : Bool := isCkptNote m && drainToCome s m m.offset.toNat
/-- A message in transit is discarded for want of a way (R380): the command that it comes from is told, so that it ends with reason 4. A
memory request has its error reply; a channel message its answer; a collective of the sender's is ended for every member; a
page's migration is ended at the package that asked, and at the home that waits for a frame (log 37). -/
def dropTransit (s : State) (m : Msg) : State :=
  if m.kind = 0 ∨ m.kind = 2 ∨ m.kind = 4 then
    sendReply s m { replyTo s m (m.kind.toNat + 1) with err := true }
  else if m.kind = 7 then
    sendMsg s { mkMsg s m.src 3 2 m.job with
      src := m.dst, flow := m.flow, aux := BitVec.ofNat 64 (fldN 0 32 m.aux), err := true, note := BitVec.ofNat 128 (2 ^ 123) }
  else if m.kind = 8 ∧ !(unreached m) then
    sendMsg s { mkMsg s m.src 8 m.vc.toNat m.job with
      src := m.dst, cls := m.cls, flow := m.flow, aux := BitVec.ofNat 64 (fldN 16 8 m.aux * 65536 + bFinish),
      note := BitVec.ofNat 128 (fldN 0 88 m.note + 4 * 2 ^ 88 + 2 ^ 96) }
  else if m.kind = 10 ∧ fldN 32 32 m.aux = 0x4D494752 then migrDropped s m
  else s
/-- A message passes through to another package (R378, R380, R383); with no way known it is discarded, and the buffer in which it
arrived is free. -/
def passOn (s : State) (m : Msg) : State :=
  if routable s m.dst then sendMsg s { m with came := some (m.port, m.vc) }
  else dropTransit (freeInput s m (some (m.port, m.vc))) m
/-- The first control message, the first message that is discarded (R377), or the first that passes through. -/
def firstControl (s : State) : Option (Nat × Msg) :=
  (s.rx.zipIdx.find? fun x => discarded x.1 || transit s x.1 || (x.1.kind == 10 && !(controlWaits s x.1))).map fun x => (x.2, x.1)
/-- KIND 10: migration's and the drains' own messages, and what the management core is to have; a message with a reserved
KIND or reserved bytes is discarded and counted. -/
def controlArrives (s : State) (m : Msg) : State :=
  if discarded m then countDiscard s m
  else if transit s m then passOn s m
  else if fldN 32 32 m.aux = 0x4D494752 then migrControl s m
  else if isCkptNote m then noteArrives s m
  else { s with hostOut := s.hostOut ++ [.mgmt m] }
def execControlAndRouting (s : State) : Host.Outcome State Fault Refusal :=
  .next (handleMsg s (firstControl s) controlArrives)

-- Restore (R374).

/-- What a restore knows: the control block and its job; this rank, N, and each rank's store region (both slots). -/
structure Restore where
  ctl : List Byte
  job : BitVec 32
  rank : Nat
  n : Nat
  regions : List (List Byte)
  /-- The poisoned sectors of this rank's region. -/
  bad : List Nat
  deriving DecidableEq, Repr
def Restore.size (r : Restore) : Nat := 65536 * ctlGb r.ctl
def Restore.hdr (r : Restore) (slot k : Nat) : List Byte := bytesAt (slot * r.size) 64 (r.regions.getD k [])
/-- (STEP, CUT) of a rank's header; none: LOST. -/
def Restore.key (r : Restore) (slot k : Nat) : Option (Nat × Nat) :=
  let h := r.hdr slot k
  if (r.regions.getD k []).length < slot * r.size + 64 then none
  else if numAt 4 4 h == 2 && numAt 0x38 8 h == (crc64 (h.take 56)).toNat && numAt 0 4 h == r.job.toNat &&
      numAt 0x18 4 h == k && numAt 0x1C 4 h == r.n && numAt 0x20 1 h == ctlG r.ctl then some (numAt 8 8 h, numAt 16 8 h)
  else none
def keyLt (a b : Nat × Nat) : Bool := decide (a.1 < b.1) || (a.1 == b.1 && decide (a.2 < b.2))
/-- The key that the most ranks hold; ties go to the larger. -/
def Restore.slotKey (r : Restore) (slot : Nat) : Option (Nat × Nat) :=
  let ks := (List.range r.n).filterMap (r.key slot)
  let count := fun (x : Nat × Nat) => (ks.filter (· == x)).length
  ks.foldl (fun m x => match m with
    | none => some x
    | some y => if count y < count x ∨ (count y = count x ∧ keyLt y x) then some x else some y) none
def Restore.lost (r : Restore) (slot k : Nat) : Bool := r.key slot k != r.slotKey slot || (r.key slot k).isNone
/-- Every group has at most one LOST member. -/
def Restore.usable (r : Restore) (slot : Nat) : Bool :=
  (r.slotKey slot).isSome &&
    (List.range r.n).all fun k =>
      let base := groupBase r.ctl k
      decide (((span base (base + groupSize r.ctl r.n k)).filter (r.lost slot)).length ≤ 1)
def Restore.slot (r : Restore) : Option Nat :=
  match r.usable 0, r.usable 1 with
  | true, true => match r.slotKey 0, r.slotKey 1 with | some a, some b => if keyLt a b then some 1 else some 0 | _, _ => none
  | true, false => some 0
  | false, true => some 1
  | false, false => none
def Restore.stored (r : Restore) (slot rank t : Nat) : List Byte :=
  bytesAt (slot * r.size + 65536 * (t + 1)) 65536 (r.regions.getD rank [])
/-- Does a member of this rank's group hold a unit of a stripe: its parity, or data? -/
def Restore.holds (r : Restore) (t m : Nat) : Bool :=
  let g := groupSize r.ctl r.n r.rank
  t % g == m || (List.range (g - 1)).any fun q => dataHolder g t q == m && decide (t * (g - 1) + q < g * imageUnits r.ctl)
/-- The unit of a stripe that a member of the group holds: as stored, or, of a LOST member, by XOR of the stripe's others. -/
def Restore.member (r : Restore) (slot t m : Nat) : List Byte :=
  let base := groupBase r.ctl r.rank
  if !(r.lost slot (base + m)) then r.stored slot (base + m) t
  else
    ((List.range (groupSize r.ctl r.n r.rank)).filter fun k => k != m && r.holds t k).foldl
      (fun a k => xorBytes a (r.stored slot (base + k) t)) (List.replicate 65536 0)
/-- The poisoned sectors of that unit, as far as this rank's own store makes it so. -/
def Restore.memberBad (r : Restore) (slot t m : Nat) : List Nat :=
  let me := r.rank - groupBase r.ctl r.rank
  if m = me && !(r.lost slot r.rank) || (r.lost slot (groupBase r.ctl r.rank + m) && m != me && r.holds t me) then
    let first := (slot * r.size + 65536 * (t + 1)) / 128
    (r.bad.filter fun k => decide (first ≤ k) && decide (k < first + 512)).map (· - first)
  else []
/-- Unit u of this rank's image. -/
def Restore.unit (r : Restore) (slot u : Nat) : List Byte :=
  let g := groupSize r.ctl r.n r.rank
  let p := unitPlace r.ctl g r.rank u
  r.member slot p.1 (dataHolder g p.1 p.2)
def Restore.unitBad (r : Restore) (slot u : Nat) : List Nat :=
  let g := groupSize r.ctl r.n r.rank
  let p := unitPlace r.ctl g r.rank u
  r.memberBad slot p.1 (dataHolder g p.1 p.2)
/-- A LOST member's units are rebuilt in its store. -/
def Restore.rebuild (r : Restore) (s : State) (slot : Nat) : State :=
  let m := r.rank - groupBase r.ctl r.rank
  if !(r.lost slot r.rank) then s
  else
    ((List.range (stripes r.ctl (groupSize r.ctl r.n r.rank))).filter fun t => r.holds t m).foldl
      (fun s t => writeVa s r.job (stripeVa r.ctl r.rank slot t) (r.member slot t m)) s
/-- The restore on this package: its store, if it is LOST, its image and shadow are written, its pages clean, CUT set, the other slot's header 0. -/
def Restore.run (r : Restore) (s : State) (idx ctlPa slot cut : Nat) : State :=
  let lo := ctlLo r.ctl
  let s := { s with ckpts := tabPut s.ckpts idx { tabGet Ckpt.empty s.ckpts idx with
    pages := [], marked := [], marked1 := [], cut := cut, bell := none, draining := false, drains := [] } }
  let s := r.rebuild s slot
  let s := (List.range (imageUnits r.ctl)).foldl (fun s u =>
    let bs := r.unit slot u
    let bad := r.unitBad slot u
    writeVaMarked (writeVaMarked s r.job (lo + 65536 * u) bs bad) r.job (ctlShadow r.ctl + r.rank * ctlW r.ctl + 65536 * u) bs bad) s
  let s := (homeLeaves s r.job).foldl (fun s x =>
    if lo ≤ x.1 ∧ x.1 < lo + ctlW r.ctl then putEntry s x.2.addr (putFld 46 1 0 x.2.e) else s) s
  let s := partWrite s r.job (ctlPa + 0x10) (bytesOf 8 cut)
  writeVa s r.job (slotVa r.ctl r.rank (1 - slot) + 4) (bytesOf 4 0)
def restoreEnds (s : State) (job : BitVec 32) (status : Nat) : State :=
  { s with hostOut := s.hostOut ++ [.restored job status] }
/-- What a restore of a job knows, from its control block and what the other ranks' stores hold: a header of its own that cannot be
read is LOST. -/
def restoreOf (s : State) (job : BitVec 32) (ctl : List Byte) (peers : List (List Byte)) : Restore :=
  let rank := jobRank s job
  let n := commN (commWord s (fldN 16 8 (jobWord s job 11)))
  let size := 65536 * ctlGb ctl
  let bad := fun (slot : Nat) => match localOf s job (slotVa ctl rank slot) with | some a => dramPoisoned s a 64 | none => true
  let own := [0, 1].flatMap fun k =>
    (if bad k then List.replicate 64 0 else readVa s job (slotVa ctl rank k) 64) ++
      (readVa s job (slotVa ctl rank k) size).drop 64
  { ctl := ctl, job := job, rank := rank, n := n,
    regions := (List.range n).map fun k => if k = rank then own else peers.getD (k + 1) [],
    bad := badVa s job (slotVa ctl rank 0) (2 * size) }
/-- The operands of a restore: the VA of the control block in eight bytes, then each rank's store region; this rank's is
read from its own memory. -/
def restoreJob (s : State) (idx : Nat) (peers : List (List Byte)) : State :=
  let job := fld 0 32 (vget (jobAt s idx).w 0 0)
  match localOf s job (ofBytes ((peers.headD []).take 8)) with
  | none => restoreEnds s job 2
  | some pa =>
    let ctl := memRead s.dram pa 64
    let r := restoreOf s job ctl peers
    if (List.range (imageUnits ctl)).any fun u => (localOf s job (ctlLo ctl + 65536 * u)).isNone then restoreEnds s job 2
    else
      match r.slot with
      | none => restoreEnds s job 1
      | some slot =>
        let cut := match r.slotKey slot with | some k => k.2 | none => 0
        restoreEnds (r.run s idx pa slot cut) job 0
def execCheckpointRestore (jobIdx : Nat) (peers : List (List Byte)) (s : State) : Host.Outcome State Fault Refusal :=
  .next (if bitAt 63 (vget (jobAt s jobIdx).w 0 0) then restoreJob s jobIdx peers else s)

end Sys2Proof.Machine
end

