-- ==== Sys2Proof/Machine/Control.lean ====
section
/-!
DEFINITION. Staging and control registers (R30 to R34, R144 to R146) and the X unit: branches and calls (R150, R151),
loops (R152), bells (R156 to R159), task control (R160 to R164), segments (R166) and containment regions (R167).
-/
namespace Sys2Proof.Machine

-- Staging and control registers.

def execStg (p : BitVec 3) (e : BitVec 4) (a : BitVec 6) (s : State) : Host.Outcome State Fault Refusal :=
  settle (.stg p e a) (fun s => s.setMe { s.me with e := vput s.me.e e.toNat (s.rs a) }) s

/-- CRHANDLER (R30, R167). -/
def Task.crhandler (t : Task) : Word := if t.crdepth = 0 then 0 else vget t.crlevel (t.crdepth.toNat - 1) 0
/-- A half of a 128-bit register: LO for even offsets. -/
def half (w : BitVec 128) (k : Nat) : Word := fld (64 * (k % 2)) 64 w
def putHalf (w : BitVec 128) (k : Nat) (x : Word) : BitVec 128 := putFld (64 * (k % 2)) 64 x.toNat w
/-- The value of a control register (R30): of the task as it stands before the bundle. -/
def crRead (t : Task) (cycle ticks n : Nat) : Word :=
  match n with
  | 0x00 => t.taskid
  | 0x01 => t.groupid
  | 0x02 => t.clusterid
  | 0x03 => t.pkgid
  | 0x04 => t.meshpos
  | 0x05 => t.prio
  | 0x06 => t.slbase
  | 0x07 => t.slsize
  | 0x0C => t.cbells
  | 0x0D => t.pbells
  | 0x0E => t.mbells
  | 0x0F => t.savebase
  | 0x10 => t.flags.zeroExtend 64
  | 0x11 => t.rmode.zeroExtend 64
  | 0x12 => t.mrepleft.zeroExtend 64
  | 0x13 => t.ldepth.zeroExtend 64
  | 0x26 => t.segid.zeroExtend 64
  | 0x27 => t.segcount.zeroExtend 64
  | 0x28 => t.segsig.zeroExtend 64
  | 0x29 => t.crdepth.zeroExtend 64
  | 0x2A => t.crhandler
  | 0x30 => t.trapcause.zeroExtend 64
  | 0x31 => t.trappc
  | 0x32 => t.trapinfo
  | 0x33 => BitVec.ofNat 64 cycle
  | 0x34 => BitVec.ofNat 64 ticks
  | n =>
    if n < 0x0C then vget t.domain (n - 0x08) 0
    else if n < 0x1A then (vget t.lcount (n - 0x14) 0).zeroExtend 64
    else if n < 0x20 then vget t.lstride (n - 0x1A) 0
    else if n < 0x26 then vget t.lbody (n - 0x20) 0
    else if n < 0x2F then vget t.crlevel (n - 0x2B) 0
    else if n < 0x3E then vget t.mrx (n - 0x35) 0
    else if n < 0x50 then half (vget t.h ((n - 0x40) / 2) 0) n
    else if n < 0x70 then half (vget t.m ((n - 0x50) / 2) 0) n
    else vget t.e (n - 0x70) 0
def execCrd (p : BitVec 3) (d : BitVec 6) (crn : BitVec 7) (s : State) : Host.Outcome State Fault Refusal :=
  settle (.crd p d crn) (fun s => s.outS d (crRead s.src s.cycle s.ticks crn.toNat) bALU) s

/-- The bits of the resume registers that are not reserved (R51). -/
def mrxMask (n : Nat) : Word :=
  if n = 0 ∨ n = 3 then 0x80003F3FFFFFFFFF else if n = 8 then 0x8000000000000001 else 0xFFFFFFFFFFFFFFFF
/-- Is a restore stub running? -/
def Task.restoring (t : Task) : Bool := match t.stub with | some u => !u.drain | none => false
/-- The bits of the map registers that are not reserved (R8, R309), and those of a half. -/
def mapMask : BitVec 128 := BitVec.ofNat 128 (2 ^ 116 - 1)
def mapHalf (n : Nat) : Word := half mapMask n
/-- A control register written (R30, R31, R51, R146), which is then no longer undefined (R341): reserved bits are ignored (R8). -/
def crWrite (cycle n : Nat) (w : Word) (t : Task) : Task :=
  let t := { t with undefC := setDel t.undefC n }
  match n with
  | 0x10 => t.writeFlags cycle (fld 0 10 w)
  | 0x11 => { t with rmode := fld 0 3 w }
  | 0x12 => { t with mrepleft := fld 0 16 w }
  | 0x13 => { t with ldepth := fld 0 3 w }
  | 0x26 => { t with segid := fld 0 32 w }
  | 0x27 => { t with segcount := fld 0 32 w, segSet := t.segSet ||| 1 }
  | 0x28 => { t with segsig := fld 0 32 w, segSet := t.segSet ||| 2 }
  | 0x30 => { t with trapcause := fld 0 16 w }
  | 0x31 => { t with trappc := pcWordOf (fld 58 6 w) (addrOf w) }
  | 0x32 => { t with trapinfo := w }
  | n =>
    if n < 0x14 then t
    else if n < 0x1A then { t with lcount := vput t.lcount (n - 0x14) (fld 0 32 w) }
    else if n < 0x20 then { t with lstride := vput t.lstride (n - 0x1A) (w &&& ~~~ 3#64) }
    else if n < 0x26 then { t with lbody := vput t.lbody (n - 0x20) ((fld 0 57 w).zeroExtend 64) }
    else if n < 0x35 then t
    else if n < 0x3E then
      if t.restoring then { t with mrx := vput t.mrx (n - 0x35) (w &&& mrxMask (n - 0x35)) } else t
    else if n < 0x40 then t
    else if n < 0x50 then { t with h := vput t.h ((n - 0x40) / 2) (putHalf (vget t.h ((n - 0x40) / 2) 0) n w) }
    else if n < 0x70 then { t with m := vput t.m ((n - 0x50) / 2) (putHalf (vget t.m ((n - 0x50) / 2) 0) n (w &&& mapHalf n)) }
    else { t with e := vput t.e (n - 0x70) w }
def execCwr (p : BitVec 3) (d : BitVec 6) (crn : BitVec 7) (s : State) : Host.Outcome State Fault Refusal :=
  settle (.cwr p d crn) (fun s => s.setMe (crWrite s.cycle crn.toNat (s.rs d) s.me)) s

-- Branches and calls.

/-- The next PC is a target. -/
def goto (target : Word) (s : State) : State := s.setMe { s.me with branch := some target }
/-- The levels that a jump ends (R151): bodies that hold its bundle and not its target, innermost first. -/
def levelsLeft (t : Task) (target : Word) : List Nat :=
  ((List.range t.ldepth.toNat).reverse).filter fun d => t.inBody d t.pc && !(t.inBody d target)
/-- A jump with the loop exit of R151. -/
def jumpTo (target : Word) (s : State) : State :=
  goto target (s.setMe ((levelsLeft s.src target).foldl (fun t d =>
    { t with lcount := vput t.lcount d 0, first := t.first &&& ~~~ (1#6 <<< d), ldepth := t.ldepth - 1 }) s.me))

def execBr (c : BitVec 3) (n : Bool) (off : BitVec 23) (s : State) : Host.Outcome State Fault Refusal :=
  settle (.br c n off) (fun s => goto (branchTo s.src.pc (sext64 off)) s) s
def execJmp (off : BitVec 23) (s : State) : Host.Outcome State Fault Refusal :=
  settle (.jmp off) (fun s => jumpTo (branchTo s.src.pc (sext64 off)) s) s
def execJmpr (c : BitVec 3) (n : Bool) (a : BitVec 6) (s : State) : Host.Outcome State Fault Refusal :=
  settle (.jmpr c n a) (fun s => jumpTo (addrOf (s.rs a)) s) s
def execCall (off : BitVec 23) (s : State) : Host.Outcome State Fault Refusal :=
  settle (.call off)
    (fun s => goto (branchTo s.src.pc (sext64 off)) (s.outS 62 (nextAddr s.src.pc) bALU)) s
def execRet (c : BitVec 3) (n : Bool) (s : State) : Host.Outcome State Fault Refusal :=
  settle (.ret c n) (fun s => goto (addrOf (s.rs 62)) s) s

-- Loops.

/-- LOOP (R152): a level starts, or the body is passed over. LDEPTH is below 6 where it is defined (R76, R152). -/
def startLoop (n : BitVec 32) (len : BitVec 9) (s : State) : State :=
  let t := s.me
  let start := nextAddr s.src.pc
  if n = 0 then s.setMe { t with loop0 := some (addrOf (start + 16 * len.zeroExtend 64)) }
  else
    let d := min s.src.ldepth.toNat 5
    s.setMe { t with
      lbody := vput t.lbody d (bodyWord start len), lcount := vput t.lcount d n,
      first := t.first ||| (1#6 <<< d), ldepth := BitVec.ofNat 3 (d + 1) }
def execLoop (a : BitVec 6) (len : BitVec 9) (s : State) : Host.Outcome State Fault Refusal :=
  settle (.loop a len) (fun s => startLoop (fld 0 32 (s.rs a)) len s) s

-- Bells.

/-- The bell that an operand names (R156). -/
def State.bellOf (s : State) (a : BitVec 6) : BellLoc := bellLoc (clOf s.cur) (fld 0 16 (s.rs a))
def execArm (a b : BitVec 6) (keep : Bool) (t : BitVec 16) (s : State) : Host.Outcome State Fault Refusal :=
  settle (.arm a b keep t) (fun s => doArm s (s.bellOf a) t keep (fld 0 40 (s.rs b)).toInt) s

/-- What an ARRIVE waits for (R158, R251): earlier commands of the classes of its mask, earlier RELs that cover one of
them, and the Slate accesses of earlier bundles that are still outstanding. -/
def arriveAfter (s : State) (mask : BitVec 16) : List Nat :=
  ((cmdsOf s s.src.tid).filter fun x => bitAt (cmdCls x.2.i) mask).map (fun x => x.2.id) ++
    ((s.fences.filter fun f => f.tid == s.src.tid && f.rel && f.mask &&& mask != 0).map Fence.id ++
      (s.src.mq.map MJob.id ++
        s.src.inflight.filterMap fun p => match p.val with | .record id _ _ _ => some id | _ => none))
def arriveOn (bell mask : BitVec 16) (scope : BitVec 2) (s : State) : State :=
  let t := s.src
  State.progress { s with arrivals := s.arrivals ++
    [{ tid := t.tid, group := t.group, launch := t.launch, cluster := clOf s.cur, job := t.job, bell := bell,
       scope := scope, after := arriveAfter s mask, released := false, cut := none }] }
def execArrive (a b : BitVec 6) (scope : BitVec 2) (s : State) : Host.Outcome State Fault Refusal :=
  settle (.arrive a b scope) (fun s => arriveOn (fld 0 16 (s.rs a)) (fld 0 16 (s.rs b)) scope s) s

/-- WAIT (R159): the phase has passed, and the acquire performs; or the task leaves the ready set. -/
def waitOn (bell phase : BitVec 16) (scope : BitVec 2) (s : State) : State :=
  if phasePassed (getBell s (bellLoc (clOf s.cur) bell)).phase phase then acquireFor s s.cur scope
  else s.setMe { s.me with wait := some ⟨bell, phase, scope⟩ }
def execWait (a b : BitVec 6) (scope : BitVec 2) (s : State) : Host.Outcome State Fault Refusal :=
  settle (.wait a b scope) (fun s => waitOn (fld 0 16 (s.rs a)) (fld 0 16 (s.rs b)) scope s) s

-- Task control and traps.

def execNop (s : State) : Host.Outcome State Fault Refusal := settle .nop (fun s => s) s
/-- YIELD (R160): the other context is primary in the next cycle; in a drain stub it ends the stub (R340). -/
def yieldCore (s : State) : State :=
  let s := s.setCore (coreOf s.cur) { s.core (coreOf s.cur) with yielded := some (s.cur, s.cycle) }
  match s.me.stub with
  | some u => if u.drain then s.setMe { s.me with stub := some { u with done := true } } else s
  | none => s
def execYield (s : State) : Host.Outcome State Fault Refusal := settle .yield yieldCore s
/-- EXIT (R161): regions close without unwinding, and active levels are discarded. -/
def execExit (s : State) : Host.Outcome State Fault Refusal :=
  settle .exit (fun s => s.setMe { s.me with exited := true, crdepth := 0, ldepth := 0 }) s
def execTrap (code : BitVec 27) (s : State) : Host.Outcome State Fault Refusal :=
  settle (.trap code) (fun s => s.setMe { s.me with swTrap := some code }) s
def execTret (s : State) : Host.Outcome State Fault Refusal :=
  settle .tret (fun s => s.setMe { s.me with ret := some s.src.trappc }) s

-- Segments and containment regions.

/-- SEG (R166): the next segment starts; while counting is suspended it does nothing. -/
def execSeg (id : BitVec 27) (s : State) : Host.Outcome State Fault Refusal :=
  settle (.seg id) (fun s =>
    if s.src.counts then s.setMe { s.me with
      segid := id.zeroExtend 32, segcount := 0, segsig := 0, segSet := 3,
      undefC := s.me.undefC.filter fun n => n < 0x26 || 0x28 < n }
    else s) s
def execCropen (off : BitVec 27) (s : State) : Host.Outcome State Fault Refusal :=
  settle (.cropen off) (fun s =>
    let d := s.src.crdepth.toNat
    s.setMe { s.me with crlevel := vput s.me.crlevel d (branchTo s.src.pc (sext64 off)),
                        crdepth := BitVec.ofNat 3 (d + 1) }) s
/-- CRCLOSE (R167): the commands of the region pass to the one around it. An event of a copy error that is already pending, as it
may be when the handler closes the region, keeps the depth of the region that it found: the spec does not say whether it passes
too (log 76). -/
def closeRegion (s : State) : State :=
  let d := s.src.crdepth.toNat - 1
  let up := fun (c : Cmd) =>
    if c.tid = s.src.tid ∧ c.region = some d then { c with region := if d = 0 then none else some (d - 1) } else c
  { s.setMe { s.me with crdepth := BitVec.ofNat 3 d } with engs := s.engs.map fun e => (e.1, e.2.map up) }
def execCrclose (s : State) : Host.Outcome State Fault Refusal := settle .crclose closeRegion s

-- Whole bundles.

/-- A bundle without an instruction (R58): it issues, and counts (R165). Beside other slots it adds nothing. -/
def execFillerBundle (s : State) : Host.Outcome State Fault Refusal :=
  .next (if s.before.isSome then s else closeBundle (opened false s))
/-- The illegal-instruction trap of R76; TRAPINFO as the decoder gives it. -/
def execIllegalEncoding (info : BitVec 64) (s : State) : Host.Outcome State Fault Refusal :=
  .next (takeTrap s s.cur 1 info s.me.pcWord)

end Sys2Proof.Machine
end

