-- ==== Sys2Proof/Machine/Context.lean ====
section
/-!
DEFINITION. Contexts taken out and restored (R48 to R54, R337 to R341, R351): requests, the hardware save and restore,
drain and restore stubs, and the debug halt.
-/
namespace Sys2Proof.Machine

-- Leaving.

def isChrcv : Instr → Bool
  | .chrcv _ _ _ => true
  | _ => false
/-- A task's channel receive is outstanding. R50 has it complete before a save, though other copy commands keep running
(R49); log 62. -/
def receiving (s : State) (t : Task) : Bool := (cmdsOf s t.tid).any fun c => isChrcv c.2.i
/-- May a task's context be taken out now (R50, R338)? It stands at a boundary, its results have landed, its channel
receives are complete, and its matrix work is at a pass boundary. -/
def mayLeave (s : State) (t : Task) : Bool :=
  t.active && !t.exited && t.atBoundary && t.pend.isEmpty && t.inflight.isEmpty && !(receiving s t) &&
    t.mq.all fun j => !j.begun
/-- The stubs of the range that covers an address: drain stub, restore stub (R94). -/
def stubAt (t : Task) (a : Word) : Option (Nat × Nat) :=
  (t.code.stubs.find? fun r => decide (r.1 ≤ a.toNat) && decide (a.toNat < r.2.1)).map fun r => (r.2.2.1, r.2.2.2)
/-- The drain stub to which a task is diverted; none when the hardware saves (R338). -/
def drainStub (t : Task) : Option Nat := if t.wait.isSome then none else (stubAt t (addrOf t.pc)).map Prod.fst

/-- A tile's metadata, and an accumulator's, as R52 lays them out. -/
def tileMeta (t : Tile) : List Byte :=
  bytesOf 2 t.tag.toNat ++ bytesOf 2 t.mask.toNat ++ List.replicate 28 0 ++ t.side.toList.flatMap fun x => bytesOf 4 x.toNat
def accMeta (a : Acc) : List Byte :=
  a.exp.toList.flatMap (fun x => bytesOf 1 x.toNat) ++ bytesOf 2 a.written.toNat ++ bytesOf 2 a.overflow.toNat ++
    bytesOf 1 a.tag.toNat ++ bytesOf 1 (if a.imode then 1 else 0) ++ List.replicate 10 0
/-- A control register's slot; reserved numbers are written 0. -/
def savedCr (t : Task) (cycle ticks n : Nat) : Word :=
  if n = 0x2F ∨ n = 0x3E ∨ n = 0x3F then 0 else crRead t cycle ticks n
/-- The save area of R52. -/
def saveImage (t : Task) (cycle ticks : Nat) : List Byte :=
  bytesOf 8 0x06400001 ++ bytesOf 8 t.pcWord.toNat ++
    bytesOf 8 (maskOf 8 fun n => n != 0 && vget t.c n false).toNat ++
    bytesOf 8 (match t.wait with | some w => 1 + w.bell.toNat * 2 ^ 16 + w.phase.toNat * 2 ^ 32 | none => 0) ++
    List.replicate 224 0 ++
    ((List.range 64).flatMap fun n => bytesOf 8 (if n = 0 then 0 else (vget t.s n 0).toNat)) ++
    ((List.range 8).flatMap fun n => bytesOf 128 (if n = 0 then 2 ^ 1024 - 1 else (vget t.k n 0).toNat)) ++
    ((List.range 128).flatMap fun n => bytesOf 8 (savedCr t cycle ticks n).toNat) ++
    t.v.toList.flatMap tileMeta ++ t.a.toList.flatMap accMeta ++
    (t.v.toList.flatMap fun x => x.lanes.toList.flatMap fun l => bytesOf 4 l.toNat) ++
    t.a.toList.flatMap fun x => x.elem.toList.flatMap fun l => bytesOf 8 l.toNat

/-- Does the task have a save area (R55)? -/
def hasArea (t : Task) : Bool := !(bitAt 63 t.savebase)
def areaOf (t : Task) : Nat := fldN 0 23 t.savebase
/-- The context is free, and the task out. -/
def goOut (s : State) (ctx : Nat) (t : Task) (stubbed : Bool) : State :=
  { s.setCtx ctx Task.empty with outs := s.outs ++ [⟨t, clOf ctx, stubbed⟩] }
/-- The resume registers are written, and the queue that they describe is emptied (R50, R51). -/
def stopMatrix (t : Task) : Task := { t with mrx := resumeRegs t, held := t.mq, mq := [] }
/-- The hardware save (R52). -/
def hardwareSave (s : State) (ctx : Nat) : State :=
  let t := { stopMatrix (s.ctx ctx) with preempt := false }
  let cl := s.cl (clOf ctx)
  let s := if hasArea t then s.setCl (clOf ctx) (slWrite cl (areaOf t) (saveImage t s.cycle s.ticks)) else s
  goOut s ctx { t with bbuf := none } false
/-- Diversion to a drain stub (R339). -/
def divertTo (s : State) (ctx stub : Nat) : State :=
  let t := stopMatrix (s.ctx ctx)
  s.setCtx ctx { t with
    preempt := false, trappc := t.pcWord, keptPc := t.pcWord, trapcause := BitVec.ofNat 16 cPreempt, trapinfo := 0,
    stub := some ⟨true, none, false⟩, pc := addrOf (BitVec.ofNat 64 stub) }
/-- A context that may leave is taken out, or diverted (R338). -/
def takeOut (s : State) (ctx : Nat) : State :=
  match drainStub (s.ctx ctx) with
  | some a => divertTo s ctx a
  | none => hardwareSave s ctx

/-- Is the launch of a task pre-emptible (R322)? -/
def preemptible (s : State) (launch : Nat) : Bool :=
  match tabFind s.launches launch with | some l => bitAt 2 l.flags | none => false

def execPreemptionTaken (ctx : Nat) (s : State) : Host.Outcome State Fault Refusal :=
  .next (
    let s' := landCtx ctx s
    if (s'.ctx ctx).preempt && mayLeave s' (s'.ctx ctx) then takeOut s' ctx else s)
/-- The debug halt (R351): asked for; taken at the boundary, as for pre-emption. -/
def execDebugHalt (ctx : Nat) (s : State) : Host.Outcome State Fault Refusal :=
  .next (
    let s' := landCtx ctx s
    let t := s'.ctx ctx
    if !t.active || t.exited then s
    else if mayLeave s' t then takeOut (s'.setCtx ctx { t with debug := true }) ctx
    else s'.setCtx ctx { t with debug := true })

-- The ends of stubs.

/-- A drain stub's YIELD has issued, and its results have landed (R340). -/
def stubEnded (t : Task) : Bool :=
  t.active && t.inflight.isEmpty && t.mq.isEmpty && match t.stub with | some u => u.drain && u.done | none => false
def execTaskOut (ctx : Nat) (s : State) : Host.Outcome State Fault Refusal :=
  .next (
    let s' := landCtx ctx s
    let t := s'.ctx ctx
    if stubEnded t then goOut s' ctx { t with stub := none, bbuf := none } true else s)
/-- Has a stub overrun its 5,600 cycles? -/
def stubLate (t : Task) (cycle : Nat) : Bool :=
  t.active && match t.stub with
  | some ⟨_, some c, false⟩ => decide (c + 5600 < cycle)
  | _ => false
def execStubOverrun (ctx : Nat) (s : State) : Host.Outcome State Fault Refusal :=
  let t := s.ctx ctx
  .next (if stubLate t s.cycle then
      stubFailure s ctx (match t.stub with | some ⟨false, _, _⟩ => 3 | _ => 1) t.pcWord
    else s)

-- Coming back.

/-- CLUSTERID (R30). -/
def clusterIdOf (ctx : Nat) : Word :=
  BitVec.ofNat 64 (ctx % 2 * 2 ^ 20 + coreOf ctx % 8 * 2 ^ 16 + clOf ctx / 20 * 2 ^ 8 + clOf ctx)

/-- A tile and an accumulator from their slots (R52): the reserved bits [7:6] of a tag read 0 (R8, R22), the mask of a
spatial tile is 0xFFFF (R24), and an invalid tag is written as saved (R23). -/
def loadTile (m lanes : List Byte) : Tile :=
  let t : Tile :=
    { lanes := vgen 1024 fun k => BitVec.ofNat 32 (numAt (4 * k) 4 lanes), tag := BitVec.ofNat 8 (numAt 0 1 m) &&& 0x3F,
      mask := BitVec.ofNat 16 (numAt 2 2 m), side := vgen 32 fun k => BitVec.ofNat 32 (numAt (32 + 4 * k) 4 m) }
  t.norm
def loadAcc (m el : List Byte) : Acc :=
  { elem := vgen 1024 fun k => BitVec.ofNat 36 (numAt (8 * k) 8 el), exp := vgen 16 fun k => BitVec.ofNat 8 (numAt k 1 m),
    written := BitVec.ofNat 16 (numAt 16 2 m), overflow := BitVec.ofNat 16 (numAt 18 2 m),
    tag := BitVec.ofNat 8 (numAt 20 1 m) &&& 0x3F, imode := numAt 21 1 m % 2 == 1 }
/-- The control registers that restore writes (R53): the RW ones, CRDEPTH and CRLEVEL0 to CRLEVEL3. -/
def loadCrs (cr : Nat → Word) (t : Task) : Task :=
  { t with
    flags := fld 0 10 (cr 0x10), rmode := fld 0 3 (cr 0x11), mrepleft := fld 0 16 (cr 0x12), ldepth := fld 0 3 (cr 0x13),
    lcount := vgen 6 fun n => fld 0 32 (cr (0x14 + n)), lstride := vgen 6 fun n => cr (0x1A + n) &&& ~~~ 3#64,
    lbody := vgen 6 fun n => (fld 0 57 (cr (0x20 + n))).zeroExtend 64, segid := fld 0 32 (cr 0x26),
    segcount := fld 0 32 (cr 0x27), segsig := fld 0 32 (cr 0x28), crdepth := fld 0 3 (cr 0x29),
    crlevel := vgen 4 fun n => cr (0x2B + n), trapcause := fld 0 16 (cr 0x30),
    trappc := pcWordOf (fld 58 6 (cr 0x31)) (addrOf (cr 0x31)), trapinfo := cr 0x32, mrx := vgen 9 fun n => cr (0x35 + n) &&& mrxMask n,
    h := vgen 8 fun n => cr (0x41 + 2 * n) ++ cr (0x40 + 2 * n), m := vgen 16 fun n => (cr (0x51 + 2 * n) ++ cr (0x50 + 2 * n)) &&& mapMask,
    e := vgen 16 fun n => cr (0x70 + n) }
/-- The registers of a save area (R53); a register whose line is poisoned is poisoned (R357). -/
def loadImage (cl : Cluster) (a : Nat) (t : Task) : Task :=
  let n8 := fun o => BitVec.ofNat 64 (slNum cl (a + o) 8)
  let pcw : Word := n8 8
  let w : Word := n8 0x18
  let bad := fun (o n : Nat) => anyPoison cl (a + o) n
  let t := loadCrs (fun n => n8 (0x700 + 8 * n)) t
  { t with
    pc := addrOf pcw, first := fld 58 6 pcw,
    c := vgen 8 fun n => n != 0 && bitAt n (n8 0x10),
    wait := if bitAt 0 w then some ⟨fld 16 16 w, fld 32 16 w, match t.wait with | some x => x.scope | none => 0⟩ else none,
    s := vgen 64 fun n => if n = 0 then 0 else n8 (0x100 + 8 * n),
    k := vgen 8 fun n => if n = 0 then 0 else BitVec.ofNat 1024 (slNum cl (a + 0x300 + 128 * n) 128),
    v := vgen 32 fun n => loadTile (slRead cl (a + 0xB00 + 160 * n) 160) (slRead cl (a + 0x2000 + 4096 * n) 4096),
    a := vgen 8 fun n => loadAcc (slRead cl (a + 0x1F00 + 32 * n) 32) (slRead cl (a + 0x22000 + 8192 * n) 8192),
    poisonS := (span 1 64).foldl (fun l n => if bad (0x100 + 8 * n) 8 then setAdd l n else l) t.poisonS,
    poisonV := (List.range 32).foldl (fun l n => if bad (0x2000 + 4096 * n) 4096 || bad (0xB00 + 160 * n) 160 then setAdd l n else l) t.poisonV,
    poisonA := (List.range 8).foldl (fun l n => if bad (0x22000 + 8192 * n) 8192 || bad (0x1F00 + 32 * n) 32 then setAdd l n else l) t.poisonA,
    poisonC := (span 1 8).foldl (fun l n => if bad 0x10 8 then setAdd l n else l) t.poisonC,
    poisonK := (span 1 8).foldl (fun l n => if bad (0x300 + 128 * n) 128 then setAdd l n else l) t.poisonK }

/-- A wait that is registered again: its phase may have passed while the task was out (R53). -/
def rewait (s : State) (ctx : Nat) : State :=
  let t := s.ctx ctx
  match t.wait with
  | none => s
  | some w =>
    if phasePassed (getBell s (bellLoc (clOf ctx) w.bell)).phase w.phase then
      let s := acquireFor s ctx w.scope
      s.setCtx ctx { s.ctx ctx with wait := none }
    else s
/-- The hardware restore (R53). -/
def hardwareRestore (s : State) (ctx : Nat) (t : Task) : State :=
  let t := if hasArea t then loadImage (s.cl (clOf ctx)) (areaOf t) t else t
  let t := { t with
    clusterid := clusterIdOf ctx, flags := if t.pendCnf then t.flags ||| fCNF else t.flags, pendCnf := false,
    debug := false, preempt := false }
  rewait (actResume (s.setCtx ctx t) ctx) ctx

/-- Undefined registers at the entry of a restore stub (R341). Reading an undefined value never traps (R7): an undefined tag
is one of the valid tags (R23), and an undefined LDEPTH a depth that R30 allows; tags, modes and control registers are listed as
undefined until the stub has written them, and no check is made on them (log 21). -/
def freeTag (w : Word) : BitVec 8 :=
  if bitAt 0 w then BitVec.ofNat 8 (1 + 4 * (1 + fldN 1 2 w) + if bitAt 3 w then 32 else 0) else 0
def freeAcc (f p : Nat) : Acc :=
  { elem := vgen 1024 (Config.freeElem f p), exp := vgen 16 fun i => fld 0 8 (Config.freeLane f p i),
    written := Config.freeRows f p, overflow := Config.freeRows f (p + 8), tag := freeTag (Config.freeWord f (p + 8)),
    imode := Config.freeBit f (p + 8) }
def scrambled (f : Nat) (t : Task) : Task :=
  { t with
    s := vgen 64 fun n => if n = 0 then 0 else Config.freeWord f n, c := vgen 8 fun n => n != 0 && Config.freeBit f n,
    k := vgen 8 fun n => if n = 0 then 0 else Config.freeMask f n,
    v := vgen 32 fun n => freeTile f n (freeTag (Config.freeWord f (64 + n))),
    a := vgen 8 fun n => freeAcc f (32 + n),
    flags := fld 0 10 (Config.freeWord f 128), rmode := fld 0 3 (Config.freeWord f 129),
    mrepleft := fld 0 16 (Config.freeWord f 130), ldepth := BitVec.ofNat 3 (fldN 0 3 (Config.freeWord f 131) % 7),
    lcount := vgen 6 fun n => fld 0 32 (Config.freeWord f (132 + n)),
    lstride := vgen 6 fun n => Config.freeWord f (138 + n) &&& ~~~ 3#64,
    lbody := vgen 6 fun n => (fld 0 57 (Config.freeWord f (144 + n))).zeroExtend 64,
    segid := fld 0 32 (Config.freeWord f 150), segcount := fld 0 32 (Config.freeWord f 151),
    segsig := fld 0 32 (Config.freeWord f 152), trapcause := fld 0 16 (Config.freeWord f 153),
    trapinfo := Config.freeWord f 154,
    h := vgen 8 fun n => Config.freeWord f (156 + 2 * n) ++ Config.freeWord f (157 + 2 * n),
    m := vgen 16 fun n => (Config.freeWord f (172 + 2 * n) ++ Config.freeWord f (173 + 2 * n)) &&& mapMask,
    e := vgen 16 fun n => Config.freeWord f (204 + n), poisonS := [], poisonV := [], poisonA := [], poisonC := [],
    poisonK := [], undefV := List.range 32, undefA := List.range 8, undefC := span 0x12 0x29 }
/-- Restore through the paired restore stub (R341). -/
def stubRestore (s : State) (ctx : Nat) (t : Task) : State :=
  let a := match stubAt t (addrOf t.keptPc) with | some x => x.2 | none => 0
  let t := scrambled s.fresh t
  s.bump.setCtx ctx { t with
    clusterid := clusterIdOf ctx, trappc := t.keptPc, mrx := Vector.replicate 9 0, bbuf := none, first := 0,
    stub := some ⟨false, none, false⟩, pc := addrOf (BitVec.ofNat 64 a), debug := false, preempt := false }

/-- Does another run of a launch use a core (R345, R346)? -/
def otherRun (cores : List (Nat × Nat)) (run core : Nat) : Bool := cores.any fun c => c.1 != run && c.2 == core
/-- May a task that is out come back to a context (R337)? Its group is on the cluster and is not being displaced, the
context is free, and no other run of its launch uses the core (R345). -/
def mayReturn (s : State) (o : OutTask) (ctx : Nat) : Bool :=
  !(s.ctx ctx).active && !(s.core (coreOf ctx)).retired &&
    match tabFind s.groups o.task.group with
    | some g => g.cluster == clOf ctx && g.away.isNone && g.displacing.isNone &&
        (match tabFind s.launches g.launch with | some l => !(otherRun l.cores g.run (coreOf ctx)) | none => true)
    | none => false
/-- A run of a launch uses a core (R346). -/
def useCore (s : State) (grp core : Nat) : State :=
  match tabFind s.groups grp with
  | some g =>
    match tabFind s.launches g.launch with
    | some l =>
      if l.cores.contains (g.run, core) then s
      else { s with launches := tabPut s.launches g.launch { l with cores := l.cores ++ [(g.run, core)] } }
    | none => s
  | none => s
/-- A task that is out comes back to a context (R53, R341). -/
def restoreOut (s : State) (idx ctx : Nat) : State :=
  match s.outs[idx]? with
  | some o =>
    let s := useCore { s with outs := s.outs.eraseIdx idx } o.task.group (coreOf ctx)
    if o.stubbed then stubRestore s ctx o.task else hardwareRestore s ctx o.task
  | none => s
def execContextRestore (idx ctx : Nat) (s : State) : Host.Outcome State Fault Refusal :=
  .next (
    match s.outs[idx]? with
    | some o => if mayReturn s o ctx then restoreOut s idx ctx else s
    | none => s)

end Sys2Proof.Machine
end

