-- ==== Sys2Proof/Machine/Records.lean ====
section
/-!
DEFINITION. Launch records from submission to the head of their queue (R317 to R327), and the Timetable's reads of code
objects and bell tables (R92 to R95, R324, R325).
-/
namespace Sys2Proof.Machine

-- Submission (R317, R319).

/-- The first queue of a port, and how many it has. -/
def portFirst (s : State) (port : Nat) : Nat := if port = 0 then 0 else fldN 0 18 s.qsplit
def portCount (s : State) (port : Nat) : Nat :=
  if port = 0 then fldN 0 18 s.qsplit else Config.queues - fldN 0 18 s.qsplit
/-- A write into the BAR2 window: every slot whose byte 0x3F it includes is submitted. -/
def slotWrite (s : State) (port offset : Nat) (data : List Byte) : State :=
  let data := data.take (64 * portCount s port - offset)
  let a := 64 * portFirst s port + offset
  let s := { s with slots := memWrite s.slots a data }
  ((span (a / 64) (ceilDiv (a + data.length) 64)).filter fun q =>
    decide (a ≤ 64 * q + 63) && decide (64 * q + 63 < a + data.length)).foldl (fun s q =>
      submitRecord s q (memRead s.slots (64 * q) 64) true) s
/-- A read of the BAR2 window gives zeros (R317). -/
def slotRead (n : Nat) : List Byte := List.replicate n 0
def execLaunchRecordSubmit (port offset : Nat) (data : List Byte) (s : State) : Host.Outcome State Fault Refusal :=
  .next (slotWrite s port offset data)

-- Head records (R327).

def isTileRec (r : List Byte) : Bool := bitAt 4 (BitVec.ofNat 8 (numAt 0x16 1 r))
def isReplRec (r : List Byte) : Bool := bitAt 1 (BitVec.ofNat 8 (numAt 0x16 1 r))
def recPrio (r : List Byte) : Nat := numAt 0x15 1 r % 4
def recDep (r : List Byte) (k : Nat) : Word := BitVec.ofNat 64 (numAt (0x20 + 8 * k) 8 r)
def depsHold (s : State) (r : List Byte) : Bool := (List.range 4).all fun k => depHolds s (recDep r k)
def Launch.tile (l : Launch) : Bool := bitAt 4 l.flags
def Launch.repl (l : Launch) : Bool := bitAt 1 l.flags
def Launch.cosched (l : Launch) : Bool := bitAt 0 l.flags && !l.tile
def Launch.placedAll (l : Launch) : Nat := vget l.placed 0 0 + vget l.placed 1 0 + vget l.placed 2 0
/-- The groups of a run that are known so far. -/
def Launch.total (l : Launch) : Nat := if l.tile then l.tiles.length else l.groups
/-- A launch has placed all its groups. One of no groups is placed when it completes (R325). -/
def Launch.full (l : Launch) : Bool :=
  l.aborted || ((if l.tile then l.consumed == l.groups else l.groups != 0) && l.placedAll == l.runs * l.total)
/-- The oldest record of a queue that has not placed all its groups. A stopped queue has none: a launch of which some groups are
placed when EN is cleared goes on with those, and places no further one until EN is set again, which R327 does not say (log 81). -/
def headRec (s : State) (q : Nat) : Option QRec :=
  let x := s.queue q
  if x.tile || !x.en then none
  else x.recs.find? fun r => !r.done && match r.launch with
    | none => true
    | some l => match tabFind s.launches l with | some y => !y.full | none => false
/-- Its launch, once it has been checked. -/
def headLaunch (s : State) (q : Nat) : Option (Nat × Launch) :=
  ((headRec s q).bind QRec.launch).bind fun l => (tabFind s.launches l).map fun x => (l, x)

-- Reads by the Timetable.

/-- What a read at a virtual address finds: the bytes that the check has read already; a piece that is read now; a translation
fault (R295) or an error at an address; a sector of another package that has to be asked for, or one that is on its way. -/
inductive TtRead where
  | ok (bs : List Byte)
  | got (va : Nat) (bs : List Byte)
  | fault (va kind : Nat)
  | ask (pkg pa : Nat)
  | wait
  deriving DecidableEq, Repr
/-- The reader number of a queue's reads among the fetches in flight. -/
def readerOf (q : Nat) : Nat := Config.contexts + q
/-- One piece within a sector. A piece that has been read is not read again, also after a RESTART (R325). -/
def ttPiece (s : State) (q : Nat) (job : BitVec 32) (kept : List (Nat × List Byte)) (va n : Nat) : TtRead :=
  match kept.find? fun x => x.1 == va && x.2.length == n with
  | some x => .ok x.2
  | none =>
  match walkPage s job va with
  | .error k => .fault va k
  | .ok l =>
    if !(leafR l.e) then .fault va 2
    else
      let pa := leafAddr l.level l.e va
      if leafPkg l.e = s.pkg then
        if dramPoisoned s pa n then .fault va 5 else .got va (memRead s.dram pa n)
      else
        match s.ifetch.find? fun f => f.ctx == readerOf q && f.pkg == leafPkg l.e && f.pa == pa / 128 * 128 with
        | some ⟨_, _, _, _, some bs⟩ => if bs.isEmpty then .fault va 5 else .got va (bytesAt (pa % 128) n bs)
        | some _ => .wait
        | none => .ask (leafPkg l.e) (pa / 128 * 128)
/-- n bytes, sector by sector. -/
def ttRead (s : State) (q : Nat) (job : BitVec 32) (kept : List (Nat × List Byte)) : Nat → Nat → Nat → TtRead
  | 0, _, _ => .ok []
  | fuel + 1, va, n =>
    if n = 0 then .ok []
    else
      let k := pieceLen va n
      match ttPiece s q job kept (va % 2 ^ 52) k with
      | .ok bs =>
        match ttRead s q job kept fuel (va + k) (n - k) with
        | .ok r => .ok (bs ++ r)
        | x => x
      | x => x
def ttBytes (s : State) (q : Nat) (job : BitVec 32) (kept : List (Nat × List Byte)) (va n : Nat) : TtRead :=
  ttRead s q job kept (n / 128 + 2) va n

-- The checks of R325.

/-- What a record's reads have given. -/
structure HeadData where
  hdr : List Byte
  entry : Nat
  segs : List Byte
  stubs : List Byte
  bells : List Byte
  deriving DecidableEq, Repr
/-- The outcome of reading and checking a head record. -/
inductive HeadCheck where
  | ok (l : Launch)
  | reject (check : Nat)
  /-- A piece has been read. -/
  | got (va : Nat) (bs : List Byte)
  /-- Check that a CANCEL fails, address, kind. -/
  | fault (check va kind : Nat)
  | ask (pkg pa : Nat)
  | wait
  deriving DecidableEq, Repr
/-- A read, then what follows. -/
def afterRead (check : Nat) (r : TtRead) (k : List Byte → HeadCheck) : HeadCheck :=
  match r with
  | .ok bs => k bs
  | .got va bs => .got va bs
  | .fault va n => .fault check va n
  | .ask p a => .ask p a
  | .wait => .wait

def hdrOk (h : List Byte) : Bool := numAt 0 4 h == 0x454E4155 && numAt 4 4 h == 1
/-- An entry of the bell table: bell number, TARGET, PENDING; and its reserved bits are 0. -/
def bellEntry (b : List Byte) (k : Nat) : Nat × Nat × Int :=
  (numAt (16 + 16 * k) 2 b, numAt (18 + 16 * k) 2 b, toSigned 40 (numAt (24 + 16 * k) 8 b))
def bellEntries (b : List Byte) : List (Nat × Nat × Int) := (List.range (numAt 9 1 b)).map (bellEntry b)
/-- Check 7: the ranges fit (R41, R46, R324). -/
def bellsOk (s : State) (job : BitVec 32) (b : List Byte) : Bool :=
  let ncb := numAt 0 2 b % 512
  let npb := numAt 2 2 b % 8192
  let nmb := numAt 4 2 b % 8192
  let mbase := numAt 6 2 b % 4096
  decide (ncb ≤ 256) && decide (npb + nmb ≤ 4096) && decide (mbase + nmb ≤ 4096) &&
    (nmb == 0 || (let w := commWord s (numAt 8 1 b); commEn w && commJob w == job)) &&
    (bellEntries b).all fun e =>
      let i := e.1 % 4096
      e.1 / 4096 % 4 == 0 && match e.1 / 16384 with
        | 0 => decide (i < ncb)
        | 1 => decide (i < npb)
        | 2 => decide (i < nmb)
        | _ => false
/-- Check 9: every reserved field of the record and of its bell table is zero. -/
def reservedOk (r b : List Byte) : Bool :=
  numAt 0x0B 1 r == 0 && numAt 0x0C 4 r / 2 ^ 17 == 0 && (isTileRec r || numAt 0x0C 4 r == 0) && numAt 0x13 1 r == 0 &&
    numAt 0x14 1 r / 32 == 0 && numAt 0x15 1 r / 4 == 0 && numAt 0x16 1 r / 32 == 0 && numAt 0x1E 2 r / 16 == 0 &&
    (List.range 4).all (fun k => fldN 18 6 (recDep r k) == 0) &&
    numAt 0 2 b / 512 == 0 && numAt 2 2 b / 8192 == 0 && numAt 4 2 b / 8192 == 0 && numAt 6 2 b / 4096 == 0 &&
    numAt 0x0A 6 b == 0 && (List.range (numAt 9 1 b)).all fun k => numAt (20 + 16 * k) 4 b == 0 && numAt (29 + 16 * k) 3 b == 0
/-- SLSIZE (R321, R326), and check 4. -/
def recMin (h : List Byte) : Nat := numAt 0x34 4 h
def recSlate (r h : List Byte) : Nat :=
  let n := numAt 0x10 4 r % 2 ^ 24
  (if n = 0 then alignUp 4096 (recMin h) else n) +
    if bitAt 2 (BitVec.ofNat 8 (numAt 0x16 1 r)) then Config.saveBytes * (numAt 0x14 1 r % 32) else 0
def slateOk (r h : List Byte) : Bool :=
  let n := numAt 0x10 4 r % 2 ^ 24
  (n == 0 || (n % 4096 == 0 && decide (recMin h ≤ n))) && decide (recSlate r h ≤ Config.slateBytes)
/-- Check 6: a tile launch, and no other, names a tile queue of the job. -/
def tileOk (s : State) (job : BitVec 32) (r : List Byte) : Bool :=
  let n := numAt 0x0C 4 r % 2 ^ 17
  let named := (s.queue n).tile && (s.queue n).job == job
  if isTileRec r then named else !(named && n != 0)

/-- The checks in the order of R325, from 1; none when all pass. -/
def firstBad (s : State) (job : BitVec 32) (r : List Byte) (d : HeadData) : Option Nat :=
  let tasks := numAt 0x14 1 r % 32
  let checks :=
    [hdrOk d.hdr, decide (numAt 6 2 r / 16 < numAt 0x1C 4 d.hdr), decide (1 ≤ tasks) && decide (tasks ≤ 16),
     slateOk r d.hdr, !(isTileRec r) || numAt 8 4 r % 2 ^ 24 != 0, tileOk s job r,
     numAt 0x18 8 r % 64 == 0 && bellsOk s job d.bells, !(isReplRec r) || numAt 4 2 d.bells % 8192 == 0, reservedOk r d.bells]
  (checks.findIdx? fun b => !b).map (· + 1)
/-- The code object of a launch (R92 to R95). -/
def codeOf (code : Nat) (d : HeadData) : CodeObj :=
  let base := (code + numAt 8 8 d.hdr) % 2 ^ 52
  { base := base, len := numAt 0x10 8 d.hdr,
    trap := if numAt 0x30 4 d.hdr = 0xFFFFFFFF then none else some ((base + numAt 0x30 4 d.hdr) % 2 ^ 52),
    segs := (List.range (d.segs.length / 16)).map fun k =>
      (numAt (16 * k) 4 d.segs, numAt (16 * k + 4) 4 d.segs, numAt (16 * k + 8) 4 d.segs),
    stubs := (List.range (d.stubs.length / 32)).map fun k =>
      let a := fun o => (base + numAt (32 * k + o) 8 d.stubs) % 2 ^ 52
      (a 0, a 8, a 16, a 24) }
/-- The launch of a record that has passed. -/
def newLaunch (s : State) (q num : Nat) (job : BitVec 32) (r : List Byte) (d : HeadData) : Launch :=
  let code := numAt 0 8 r % 2 ^ 52
  let c := codeOf code d
  { queue := q, num := num, job := job, bytes := r, code := c, entry := (c.base + d.entry) % 2 ^ 52 / 16 * 16,
    groups := numAt 8 4 r % 2 ^ 24, tasks := numAt 0x14 1 r % 32, slsize := recSlate r d.hdr, prio := recPrio r,
    flags := BitVec.ofNat 8 (numAt 0x16 1 r), ncb := numAt 0 2 d.bells % 512, npb := numAt 2 2 d.bells % 8192,
    nmb := numAt 4 2 d.bells % 8192, mbase := numAt 6 2 d.bells % 4096, comm := numAt 8 1 d.bells,
    hasTable := !d.bells.isEmpty, bells := bellEntries d.bells, did := BitVec.ofNat 32 s.did, pbells := Vector.replicate 3 0,
    placed := Vector.replicate 3 0, retired := 0, consumed := 0, tiles := [], started := false,
    aborted := false, sigs := Vector.replicate 3 0, runs := if isReplRec r then 2 else 1, cores := [],
    held := false, voted := !(isReplRec r) }
/-- Reading and checking a record (R325). CODE and BELLS are checked for alignment before they are read; a header that
fails its check ends the reading of the object. -/
def checkHead (s : State) (q : Nat) (r : QRec) : HeadCheck :=
  let job := (s.queue q).job
  let code := numAt 0 8 r.bytes % 2 ^ 52
  let bva := numAt 0x18 8 r.bytes % 2 ^ 52
  let rd := ttBytes s q job r.kept
  if code % 64 ≠ 0 then .reject 1
  else
    afterRead 1 (rd code 64) fun h =>
    let bells := fun (k : List Byte → HeadCheck) =>
      if bva = 0 ∨ bva % 64 ≠ 0 then k []
      else afterRead 7 (rd bva 16) fun b => afterRead 7 (rd (bva + 16) (16 * numAt 9 1 b)) fun e => k (b ++ e)
    bells fun b =>
    let d : HeadData := { hdr := h, entry := 0, segs := [], stubs := [], bells := b }
    let idx := numAt 6 2 r.bytes / 16
    if !(hdrOk h) || decide (numAt 0x1C 4 h ≤ idx) then
      match firstBad s job r.bytes d with | some n => .reject n | none => .reject 1
    else
      afterRead 1 (rd (code + numAt 0x18 4 h + 8 * idx) 8) fun e =>
      afterRead 1 (rd (code + numAt 0x20 4 h) (16 * numAt 0x24 4 h)) fun sg =>
      afterRead 1 (rd (code + numAt 0x28 4 h) (32 * numAt 0x2C 4 h)) fun st =>
      match firstBad s job r.bytes d with
      | some n => .reject n
      | none => .ok (newLaunch s q r.num job r.bytes { d with entry := ofBytes e, segs := sg, stubs := st })

/-- A record of a queue changed. -/
def putRec (s : State) (q : Nat) (r : QRec) : State :=
  let x := s.queue q
  s.setQueue q { x with recs := x.recs.map fun y => if y.num = r.num then r else y }
/-- The sectors of other packages that were asked for are dropped. -/
def dropReads (s : State) (q : Nat) : State := { s with ifetch := s.ifetch.filter fun f => f.ctx != readerOf q }
/-- A record about a queue's head record. -/
def headRecord (s : State) (q : Nat) (r : QRec) (kind : Nat) (reply : Bool) (detail : List Word) : State :=
  (postRecord s (s.queue q).job
    { kind := kind, reply := reply, time := 0, source := 0, queue := q, value := r.num, detail := detail }).1
/-- A record is rejected (R325): it does not run, and its queue stops. It is given launch 0, which is no launch: it is never
head again, and it never completes. -/
def rejectHead (s : State) (q : Nat) (r : QRec) (check : Nat) : State :=
  stopQueue (headRecord (dropReads (putRec s q { r with fault := none, launch := some 0, kept := [] }) q) q r 6 false
    [BitVec.ofNat 64 check]) q

/-- A head record that is still to be checked and does not wait for a reply. -/
def uncheckedHead (s : State) (q : Nat) : Option QRec :=
  (headRec s q).filter fun r => r.launch.isNone && r.fault.isNone
/-- Can the check of a queue's head go on? -/
def checkMoves (s : State) (q : Nat) : Bool :=
  match uncheckedHead s q with
  | some r => (match checkHead s q r with | .wait => false | _ => true)
  | none => false
/-- One step of the reading and checking of a head record (R325). A page on a package to which the Ridge knows no way is a case that
R325 does not name: the model rejects the record with check 1, also where it is the bell table that lies there (log 81). -/
def headStep (s : State) (q : Nat) (r : QRec) : State :=
  match checkHead s q r with
  | .wait => s
  | .ask p a =>
    if !(routable s p) then rejectHead s q r 1
    else askSector s (readerOf q) p a (s.queue q).job
  | .reject n => rejectHead s q r n
  | .got va bs => putRec s q { r with kept := r.kept ++ [(va, bs)] }
  | .fault c va k =>
    let tok := freeToken s
    headRecord (dropReads (putRec s q { r with fault := some (tok, c) }) q) q r 1 true
      [BitVec.ofNat 64 (va + k * 2 ^ 52), 0, 0, BitVec.ofNat 64 tok]
  | .ok l =>
    let n := s.nextId
    let w := numAt 0x17 1 r.bytes
    let s := dropReads (putRec s q { r with launch := some n, kept := [] }) q
    let x := s.queue q
    let s := s.setQueue q { x with weight := if w = 0 then x.weight else w, since := none }
    { s with launches := tabPut s.launches n l, nextId := s.nextId + 1, did := s.did + 1 }
def execHeadRecordCheck (q : Nat) (s : State) : Host.Outcome State Fault Refusal :=
  .next (match uncheckedHead s q with | some r => headStep s q r | none => s)

-- Replies to a head record's fault (R325, R355).

/-- The record that a token names. -/
def tokenRec (s : State) (job : BitVec 32) (tok : Nat) : Option (Nat × QRec × Nat) :=
  s.queues.findSome? fun q =>
    if q.2.job = job then
      (q.2.recs.find? fun r => match r.fault with | some f => f.1 == tok | none => false).map fun r =>
        (q.1, r, match r.fault with | some f => f.2 | none => 1)
    else none

end Sys2Proof.Machine
end

