-- ==== Sys2Proof/Machine/Timetable.lean ====
section
/-!
DEFINITION. The Timetable (R10 to R15, R40, R47, R327 to R333, R343 to R346, R467): placement, tile launches, completion,
displacement, launch control and the vote of replicated launches.
-/
namespace Sys2Proof.Machine

-- Free resources (R329).

def freeRun (used : List (Nat × Nat)) (size lim a : Nat) : Bool :=
  decide (a + size ≤ lim) && used.all fun u => decide (a + size ≤ u.1) || decide (u.2 ≤ a)
/-- The first free run: it begins at 0 or where a used run ends. -/
def firstRun (used : List (Nat × Nat)) (size lim : Nat) : Option Nat :=
  (0 :: used.map Prod.snd).foldl (fun best a =>
    if freeRun used size lim a then (match best with | some b => some (min a b) | none => some a) else best) none
/-- Windows, cluster bells and package-level bells in use, as runs. -/
def usedSlate (s : State) (cluster : Nat) : List (Nat × Nat) :=
  (s.groups.filter fun g => g.2.cluster == cluster && g.2.away.isNone).map fun g => (g.2.slbase, g.2.slbase + g.2.slsize)
def usedCbells (s : State) (cluster : Nat) : List (Nat × Nat) :=
  (s.groups.filter fun g => g.2.cluster == cluster && g.2.away.isNone && g.2.ncb != 0).map fun g =>
    (g.2.cbell, g.2.cbell + g.2.ncb)
def usedPbells (s : State) : List (Nat × Nat) :=
  (s.bells.filter fun b => b.2.holder.isSome).map fun b => (b.1, b.1 + 1)
/-- The contexts of a cluster that may take a task, context 0 of every core first: free, on a core that is not retired
(R365), and that no other run of the launch uses (R345, R346). -/
def freeCtxs (s : State) (cluster run : Nat) (cores : List (Nat × Nat)) : List Nat :=
  ((List.range 8).map (fun k => 2 * k) ++ (List.range 8).map fun k => 2 * k + 1).filter fun k =>
    let x := 16 * cluster + k
    !(s.ctx x).active && !(s.core (coreOf x)).retired && !(otherRun cores run (coreOf x))

-- Places.

/-- The run, and the GROUPID, of the next group of a launch (R327, R345). -/
def Launch.next (l : Launch) : Option (Nat × Nat) :=
  ((List.range l.runs).find? fun r => decide (vget l.placed r 0 < l.total)).map fun r => (r, vget l.placed r 0)
/-- The package-level bells that the first placement of a run needs (R329): the bells of its own mesh range are not its
package bells. Each run has its own package bells (R345). -/
def Launch.mesh (l : Launch) : List (Nat × Nat) := if l.nmb = 0 then [] else [(l.mbase, l.mbase + l.nmb)]
def bellsFree (s : State) (l : Launch) (a : Nat) : Bool :=
  (l.npb == 0 && a == 0 || l.npb != 0 && freeRun (usedPbells s ++ l.mesh) l.npb Config.packageBells a) &&
    l.mesh.all fun m => freeRun (usedPbells s) (m.2 - m.1) Config.packageBells m.1
/-- Is a place good for the next group (R329)? -/
def placeOk (s : State) (l : Launch) (run gid : Nat) (p : Place) : Bool :=
  decide (p.cluster < Config.clusters) && p.ctxs.length == l.tasks && p.ctxs.eraseDups.length == l.tasks &&
    p.ctxs.all (fun c => (freeCtxs s p.cluster run l.cores).contains c) &&
    p.slbase % 4096 == 0 && freeRun (usedSlate s p.cluster) l.slsize Config.slateBytes p.slbase &&
    (l.ncb == 0 && p.cbell == 0 || l.ncb != 0 && freeRun (usedCbells s p.cluster) l.ncb Config.clusterBells p.cbell) &&
    (gid != 0 || bellsFree s l p.pbell)
/-- The package bells that the next group needs: the first run found; none when they, or the mesh bells, are not free. -/
def bellRoom (s : State) (l : Launch) (gid : Nat) : Option Nat :=
  if gid = 0 then
    (if l.npb = 0 then some 0 else firstRun (usedPbells s ++ l.mesh) l.npb Config.packageBells).filter (bellsFree s l)
  else some 0
/-- The window and the cluster bells that a group finds on a cluster: the first found. -/
def clusterRoom (s : State) (l : Launch) (cluster : Nat) : Option (Nat × Nat) :=
  match firstRun (usedSlate s cluster) l.slsize Config.slateBytes,
        (if l.ncb = 0 then some 0 else firstRun (usedCbells s cluster) l.ncb Config.clusterBells) with
  | some a, some cb => some (a, cb)
  | _, _ => none
/-- A place on a cluster, the first found. -/
def placeOn (s : State) (l : Launch) (run gid cluster : Nat) : Option Place :=
  let cs := (freeCtxs s cluster run l.cores).take l.tasks
  match clusterRoom s l cluster, bellRoom s l gid with
  | some r, some pb =>
    let p : Place := ⟨cluster, r.1, cs, r.2, pb⟩
    if placeOk s l run gid p then some p else none
  | _, _ => none
def firstPlace (s : State) (l : Launch) (run gid : Nat) : Option Place :=
  (List.range Config.clusters).findSome? (placeOn s l run gid)

-- A group is placed (R40, R47, R324, R329).

/-- A bell as a bell table sets it. Of two entries that name one bell, a case that R324 does not speak of, the model takes the first
(log 81). -/
def tableBell (holder : BitVec 32 × Option Nat × Option Nat) (l : Launch) (kind i : Nat) : Bell :=
  match l.bells.find? fun e => e.1 / 16384 == kind && e.1 % 4096 == i with
  | some e => { Bell.empty with holder := some holder, target := BitVec.ofNat 16 e.2.1, pending := e.2.2 }
  | none => { Bell.empty with holder := some holder }
/-- The first placement: the launch's package and mesh bells. The first of a run: its package bells. -/
def setBells (s : State) (id : Nat) (l : Launch) (run pbell : Nat) : State :=
  let s := (List.range l.npb).foldl (fun s i => setBell s (tableBell (l.job, none, some id) l 1 i) (.package (pbell + i))) s
  if run = 0 then
    (List.range l.nmb).foldl (fun s i =>
      setBell s (tableBell (l.job, some l.comm, some id) l 2 i) (.mesh (l.mbase + i))) s
  else s
/-- The window of a group: zeros, full lines, scratchpad banks, and the launch record (R40). -/
def prepareWindow (cl : Cluster) (a n : Nat) (record : List Byte) : Cluster :=
  let line := fun l => decide (a / 128 ≤ l) && decide (l < (a + n) / 128)
  let bank := fun b => decide (a < 0x20000 * b + 0x20000) && decide (0x20000 * b < a + n)
  slWrite { cl with
    slate := cl.slate.filter (fun c => !(decide (a ≤ c.1) && decide (c.1 < a + n))),
    lineEmpty := cl.lineEmpty.filter (fun l => !(line l)), poison := cl.poison.filter (fun l => !(line l)),
    undef := cl.undef.filter (fun x => !(line x.1)), mode := cl.mode.filter (fun m => !(bank m.1)),
    closing := cl.closing.filter (fun m => !(bank m.1)), fifo := cl.fifo.filter fun m => !(bank m.1) } a record
def domainReg (members pbell did : Nat) : Word :=
  BitVec.ofNat 64 (did % 2 ^ 32 + pbell % 2 ^ 16 * 2 ^ 32 + min members 0xFFFF * 2 ^ 48)
/-- The four membership registers (R14, R324, R329, R467). -/
def domains (s : State) (l : Launch) (gid cbell pbell : Nat) : Vector Word 4 :=
  let w := commWord s l.comm
  let mesh := l.hasTable && commEn w && commJob w == l.job
  let jw := jobWord s l.job 11
  let jc := commWord s (fldN 16 8 jw)
  let d0 := domainReg l.tasks (if l.ncb = 0 then 0xFFFF else cbell) gid
  let d1 := domainReg l.groups (if l.npb = 0 then 0xFFFF else 0x4000 + pbell) l.did.toNat
  let d2 := domainReg (if mesh then commN w else 1) (if l.nmb = 0 then 0xFFFF else 0x8000 + l.mbase)
    (if l.hasTable then l.comm else 0)
  let d3 := domainReg (if bitAt 15 jw && commEn jc then commN jc else 1)
    (if bitAt 15 jw then 0x8000 + fldN 0 12 jw else 0xFFFF) l.job.toNat
  vgen 4 fun k => match k with | 0 => d0 | 1 => d1 | 2 => d2 | _ => d3
/-- Task t of a group as it begins (R30, R47). -/
def startTask (s : State) (l : Launch) (id grp gid tid t ctx : Nat) (p : Place) : Task :=
  { Task.empty with
    active := true, tid := tid, launch := id, group := grp, job := l.job,
    taskid := BitVec.ofNat 64 (t + l.tasks * 2 ^ 16), groupid := BitVec.ofNat 64 gid, clusterid := clusterIdOf ctx,
    pkgid := BitVec.ofNat 64 s.pkg, meshpos := s.meshpos, prio := BitVec.ofNat 64 l.prio,
    slbase := BitVec.ofNat 64 p.slbase, slsize := BitVec.ofNat 64 l.slsize,
    domain := domains s l gid p.cbell p.pbell, cbells := BitVec.ofNat 64 (p.cbell + l.ncb * 2 ^ 16),
    pbells := BitVec.ofNat 64 (p.pbell + l.npb * 2 ^ 16), mbells := BitVec.ofNat 64 (l.mbase + l.nmb * 2 ^ 16),
    savebase := if bitAt 2 l.flags then BitVec.ofNat 64 (p.slbase + l.slsize - Config.saveBytes * (l.tasks - t))
      else BitVec.ofNat 64 (2 ^ 63),
    s := vput Task.empty.s 1 (BitVec.ofNat 64 p.slbase), pc := BitVec.ofNat 64 l.entry, code := l.code }
/-- The level-1 identifier of a launch (R467): the part's choice, made unique among the launches that have started. -/
def freshDid (s : State) (id n : Nat) : BitVec 32 :=
  (((List.range (s.launches.length + 1)).map fun k => BitVec.ofNat 32 (n + k)).find? fun d =>
    !(s.launches.any fun x => x.1 != id && x.2.started && x.2.did == d)).getD 0
/-- The next group of a launch is placed. -/
def placeGroup (s : State) (id : Nat) (l : Launch) (run gid : Nat) (p : Place) : State :=
  let l := if l.started then l else { l with started := true, did := freshDid s id (Config.launchHash l.did.toNat) }
  let pb := if gid = 0 then p.pbell else vget l.pbells run 0
  let p := { p with pbell := pb }
  let s := if gid = 0 then setBells s id l run pb else s
  let record := if l.tile then l.tiles.getD gid l.bytes else l.bytes
  let grp := s.nextId
  let cl := prepareWindow (s.cl p.cluster) p.slbase l.slsize record
  let cl := (List.range l.ncb).foldl (fun (cl : Cluster) i =>
    { cl with bells := tabPut cl.bells (p.cbell + i) (tableBell (l.job, none, some id) l 0 i) }) cl
  let s := s.setCl p.cluster cl
  let tids := (List.range l.tasks).map fun t => s.nextId + 1 + t
  let g : Group :=
    { launch := id, gid := gid, run := run, cluster := p.cluster, slbase := p.slbase, slsize := l.slsize, ncb := l.ncb,
      cbell := p.cbell, job := l.job, tasks := tids, left := l.tasks, away := none, displacing := none }
  let s := { s with groups := tabPut s.groups grp g, nextId := s.nextId + 1 + l.tasks }
  let ctxs := p.ctxs.map (16 * p.cluster + ·)
  let s := (List.range l.tasks).foldl (fun s t =>
    let ctx := ctxs.getD t 0
    s.setCtx ctx (startTask s l id grp gid (tids.getD t 0) t ctx p)) s
  let l := { l with placed := vput l.placed run (gid + 1), pbells := vput l.pbells run pb,
                    cores := l.cores ++ ctxs.map fun c => (run, coreOf c) }
  { s with launches := tabPut s.launches id l }

-- Decisions (R327, R328, R330, R343).

/-- The places of the next decision about a launch: one group, or every group of a COSCHED launch; none if it does not
fit. -/
def planFrom (s : State) (id : Nat) : Nat → Option (List Place)
  | 0 => some []
  | n + 1 =>
    match tabFind s.launches id with
    | none => none
    | some l =>
      match l.next with
      | none => some []
      | some (r, g) =>
        match firstPlace s l r g with
        | none => none
        | some p => (planFrom (placeGroup s id l r g p) id n).map (p :: ·)
/-- How many groups the next decision places. -/
def Launch.batch (l : Launch) : Nat := if l.cosched then l.runs * l.total - l.placedAll else 1
def planLaunch (s : State) (id : Nat) (l : Launch) : Option (List Place) := planFrom s id l.batch
/-- The launch whose record is reserving at a level: the head of its queue, until it has placed all its groups (R330). -/
def reserver (s : State) (level : Nat) : Option Nat :=
  (vget s.reserving level none).filter fun id =>
    match tabFind s.launches id with
    | some l => (match headLaunch s l.queue with | some h => h.1 == id | none => false)
    | none => false
/-- No group is placed at a level at or below a reserving record but its own (R330). -/
def reservedFor (s : State) (id prio : Nat) : Bool :=
  (List.range (prio + 1)).all fun p => match reserver s p with | some r => r == id | none => true
/-- A head launch that wants a place: its dependences hold, it is not held, and it has a group to place. -/
def wantsPlace (s : State) (q : Nat) : Option (Nat × Launch) :=
  (headLaunch s q).filter fun x => !x.2.held && x.2.next.isSome && depsHold s x.2.bytes
/-- The plan of a backlogged queue. -/
def backlog (s : State) (q : Nat) : Option (Nat × Launch × List Place) :=
  match wantsPlace s q with
  | some (id, l) => if reservedFor s id l.prio then (planLaunch s id l).map fun p => (id, l, p) else none
  | none => none

/-- Are the window and the bells of a displaced group free on a cluster? -/
def returnRoom (s : State) (g : Group) (cluster : Nat) : Bool :=
  freeRun (usedSlate s cluster) g.slsize Config.slateBytes g.slbase &&
    (g.ncb == 0 || freeRun (usedCbells s cluster) g.ncb Config.clusterBells g.cbell)
/-- The contexts of a cluster that its tasks may take. -/
def returnCtxs (s : State) (g : Group) (cluster : Nat) : List Nat :=
  freeCtxs s cluster g.run (match tabFind s.launches g.launch with | some l => l.cores | none => [])
/-- Can a displaced group be placed again on a cluster (R343)? Its image is in DRAM. -/
def returnOk (s : State) (g : Group) (cluster : Nat) : Bool :=
  decide (cluster < Config.clusters) && decide (g.left ≤ (returnCtxs s g cluster).length) && returnRoom s g cluster &&
    !(g.away.any (imageBusy s))
/-- The tasks that come back with their group: those that no debugger holds. -/
def backTasks (s : State) (grp : Nat) : List Nat :=
  (s.outs.filter fun o => o.task.group == grp && !o.task.debug).map fun o => o.task.tid
/-- The place of a displaced group on a cluster, with the first free contexts. -/
def backPlace (s : State) (grp : Nat) (g : Group) (cluster : Nat) : Place :=
  ⟨cluster, g.slbase, (returnCtxs s g cluster).take (backTasks s grp).length, g.cbell, 0⟩
/-- The launch of a displaced group that may come back, and its level. -/
def awayLevel (s : State) (g : Group) : Option Nat :=
  if g.away.isNone then none
  else ((tabFind s.launches g.launch).filter fun l => !l.held && !l.aborted).map Launch.prio
/-- What the Timetable does next: a displaced group comes back to a cluster, or a queue places. -/
inductive Decision where
  | back (q grp : Nat) (p : Place)
  | fresh (q : Nat) (pl : List Place)
  deriving DecidableEq, Repr
def Decision.queue : Decision → Nat
  | .back q _ _ => q
  | .fresh q _ => q
/-- A displaced group that may be placed at a level, and its cluster: it goes ahead of new groups of its level, and behind a
record that is reserving (R330, R343). -/
def backAt (s : State) (level : Nat) : Option Decision :=
  s.groups.findSome? fun g =>
    if awayLevel s g.2 = some level ∧ reservedFor s g.2.launch level then
      ((List.range Config.clusters).find? (returnOk s g.2)).map fun c =>
        .back (match tabFind s.launches g.2.launch with | some l => l.queue | none => 0) g.1 (backPlace s g.1 g.2 c)
    else none
def freshOf (s : State) (q : Nat) : Option Decision := (backlog s q).map fun x => .fresh q x.2.2
/-- The queues of a level, in increasing number from a number on, wrapping. -/
def turnOrder (s : State) (level : Nat) : List Nat :=
  let qs := (s.queues.filter fun q => match headLaunch s q.1 with | some x => x.2.prio == level | none => false).map Prod.fst
  let c := vget s.cursor level 0
  qs.filter (fun q => decide (c ≤ q)) ++ qs.filter fun q => decide (q < c)
/-- A turn ends when its queue is no longer backlogged (R328), at the next placement that may be made. -/
def endTurn (s : State) : State :=
  match s.ttTurn with
  | some (q, _, _) => if s.ttNext ≤ s.cycle ∧ (backlog s q).isNone then { s with ttTurn := none } else s
  | none => s
/-- The next decision (R328): the turn in progress goes on; else the first backlogged queue after the cursor of the lowest
level that has one. Displaced groups go ahead of new groups of their level. -/
def decision (s : State) : Option Decision :=
  let at' := fun (p : Nat) =>
    match backAt s p with
    | some d => some d
    | none => (turnOrder s p).findSome? (freshOf s)
  match s.ttTurn with
  | some (q, _, _) =>
    match headLaunch s q, freshOf s q with
    | some x, some d =>
      match (List.range (x.2.prio + 1)).findSome? (backAt s) with
      | some b => some b
      | none => some d
    | _, _ => (List.range 4).findSome? at'
  | none => (List.range 4).findSome? at'

/-- Places for a decision, checked and taken one after the other. -/
def takePlaces (s : State) (id : Nat) : List Place → Option State
  | [] => some s
  | p :: r =>
    match tabFind s.launches id with
    | none => none
    | some l =>
      match l.next with
      | none => none
      | some (run, gid) => if placeOk s l run gid p then takePlaces (placeGroup s id l run gid p) id r else none
/-- The turn after a queue has placed n groups (R328): the turn of another queue is over, and a new one begins with the queue's
weight, at the level of its head. The cursor of the turn's level stands at its queue, whatever the level of the later heads. -/
def afterTurn (s : State) (q prio n : Nat) : State :=
  let fresh := ((s.queue q).weight, prio)
  let turn := match s.ttTurn with | some (x, c, p) => if x = q then (c, p) else fresh | none => fresh
  { s with
    ttTurn := if n < turn.1 then some (q, turn.1 - n, turn.2) else none, ttNext := s.cycle + 8,
    cursor := vput s.cursor turn.2 (q + 1) }
/-- A record whose groups are all placed reserves no more (R330). -/
def stopReserving (s : State) (id : Nat) : State :=
  if (tabFind s.launches id).any fun l => l.next.isNone then
    { s with reserving := vgen 4 fun p => (vget s.reserving p none).filter (· != id) }
  else s
def placeFresh (s : State) (q : Nat) (pl : List Place) : State :=
  match backlog s q with
  | none => s
  | some (id, l, _) =>
    if pl.length ≠ l.batch then s
    else
      match takePlaces s id pl with
      | none => s
      | some s' => stopReserving ((afterTurn s' q l.prio pl.length).setQueue q { s'.queue q with since := none }) id
/-- The slots of the tasks of a displaced group are refetched from the addresses that its image records (R245; log 67): by TBINDs of
the part's own, in the first copy engine of the cluster. -/
def refetchSlots (s : State) (g : Group) (grp spot cluster : Nat) : State :=
  let slots := g.tasks.zipIdx.flatMap fun x => (List.range 8).filterMap fun n => (imageSlot s g spot x.2 n).map fun va => (x.1, n, va)
  slots.foldl (fun s x =>
    let s := updTask s x.1 fun t => { t with tbind := vput t.tbind x.2.1 (some ⟨x.2.2, none, false⟩) }
    let c := { markerCmd g.job s.nextId x.1 cluster with
      i := .tbind 0 0 0 (BitVec.ofNat 3 x.2.1), launch := g.launch, group := grp,
      w := vput (Vector.replicate 4 0) 0 (BitVec.ofNat 64 x.2.2) }
    { s.setEng (16 * cluster) (s.eng (16 * cluster) ++ [c]) with nextId := s.nextId + 1 }) s
/-- The window and the bells of a group as its image holds them, put into a cluster. -/
def mergeImage (cl im : Cluster) (g : Group) : Cluster :=
  let cl := prepareWindow cl g.slbase g.slsize []
  { cl with
    slate := cl.slate.filter (fun c => decide (c.1 < g.slbase)) ++ (im.slate ++
      cl.slate.filter fun c => decide (g.slbase + g.slsize ≤ c.1)),
    lineEmpty := im.lineEmpty.foldl setAdd cl.lineEmpty, poison := im.poison.foldl setAdd cl.poison,
    mode := im.mode.foldl (fun t x => tabPut t x.1 x.2) cl.mode, fifo := im.fifo.foldl (fun t x => tabPut t x.1 x.2) cl.fifo,
    bells := im.bells.foldl (fun t x => tabPut t x.1 x.2) cl.bells }
/-- The tasks of a group take contexts: those of a list, one each. -/
def takeContexts (s : State) (l : List (Nat × Nat)) : State :=
  l.foldl (fun s x => match s.outs.findIdx? fun o => o.task.tid == x.1 with
    | some i => restoreOut s i x.2
    | none => s) s
/-- A displaced group comes back (R55, R343): its state returns unchanged from its image, and its tasks take their contexts. -/
def bringBack (s : State) (grp : Nat) (p : Place) : State :=
  match tabFind s.groups grp with
  | some g =>
    match g.away with
    | some a =>
      if returnOk s g p.cluster && p.ctxs.length == (backTasks s grp).length && p.ctxs.eraseDups.length == p.ctxs.length &&
          p.ctxs.all (returnCtxs s g p.cluster).contains then
        let tids := backTasks s grp
        let s := s.setCl p.cluster (mergeImage (s.cl p.cluster) (displacedCl s g a.spot) g)
        let s := { s with
          groups := tabPut s.groups grp { g with cluster := p.cluster, away := none }, ttNext := s.cycle + 8,
          ckpts := s.ckpts.map fun k => if k.2.group = grp then (k.1, { k.2 with cluster := p.cluster }) else k,
          cutWait := s.cutWait.map fun r => if r.group = grp then { r with cluster := p.cluster } else r,
          outs := s.outs.map fun o => if o.task.group = grp then { o with cluster := p.cluster } else o }
        takeContexts (refetchSlots s g grp a.spot p.cluster) (tids.zip (p.ctxs.map (16 * p.cluster + ·)))
      else s
    | none => s
  | none => s
/-- Placement (R329): the Timetable's next decision, in the place that the event names; the part chooses among places. -/
def execGroupPlacement (q : Nat) (pl : List Place) (s : State) : Host.Outcome State Fault Refusal :=
  .next (
    if s.cycle < s.ttNext then s
    else
      match decision s with
      | some (.back q' g _) =>
        if q' = q then (match pl with | [p] => bringBack (endTurn s) g p | _ => s) else s
      | some (.fresh q' _) => if q' = q then placeFresh s q pl else s
      | none => s)

/-- A head record that has been unable to place for 256 ticks reserves (R330); one reserves at each level. -/
def mayReserve (s : State) (q : Nat) : Bool :=
  match wantsPlace s q, (s.queue q).since with
  | some (id, l), some (x, t) => x == id && (reserver s l.prio).isNone && decide (t + 256 ≤ s.ticks)
  | _, _ => false
def execRecordReserving (q : Nat) (s : State) : Host.Outcome State Fault Refusal :=
  .next (match wantsPlace s q with
    | some (id, l) => if mayReserve s q then { s with reserving := vput s.reserving l.prio (some id) } else s
    | none => s)
/-- Since when a queue's head record has been unable to place. -/
def waitingSince (s : State) (q : Nat) (x : Queue) : Option (Nat × Nat) :=
  match wantsPlace s q with
  | some (id, _) =>
    if (backlog s q).isSome then none
    else match x.since with | some (y, t) => if y = id then some (y, t) else some (id, s.ticks) | none => some (id, s.ticks)
  | none => none
/-- At each tick: since when each head record has been unable to place. -/
def markWaiting (s : State) : State :=
  { s with queues := s.queues.map fun q => (q.1, { q.2 with since := waitingSince s q.1 q.2 }) }

-- Tile launches (R333).

/-- The tiles of a record that run a row: each one's launch-record copy. -/
def tileCopies (record t : List Byte) : List (List Byte) :=
  let nrows := numAt 8 4 t
  let tiles := ceilDiv nrows 16
  (List.range tiles).filterMap fun u =>
    let n := min 16 (nrows - 16 * u)
    let m := if u + 1 < tiles then 0xFFFF else numAt 0x0C 2 t % 2 ^ n
    if m = 0 then none
    else
      some (bytesAt 0 16 record ++ bytesAt 0 4 t ++ bytesOf 4 (numAt 4 4 t + 16 * u) ++ bytesOf 4 n ++ bytesOf 2 m ++
        bytesAt 14 34 t)
/-- The tile launch at the head of a queue that can consume a record, the tile queue and the record. -/
def consumable (s : State) (q : Nat) : Option (Nat × Launch × Nat × QRec) :=
  match headLaunch s q with
  | some (id, l) =>
    let tq := numAt 0x0C 4 l.bytes % 2 ^ 17
    if l.tile && !l.held && decide (l.consumed < l.groups) && depsHold s l.bytes then
      ((s.queue tq).recs.find? fun r => !r.done).map fun r => (id, l, tq, r)
    else none
  | none => none
def execTileRecordConsumed (q : Nat) (s : State) : Host.Outcome State Fault Refusal :=
  .next (match consumable s q with
    | some (id, l, tq, r) =>
      let bad := numAt 0x0E 2 r.bytes != 0 || numAt 0x30 16 r.bytes != 0
      let s := if bad then
          (postRecord s (s.queue tq).job
            { kind := 7, reply := false, time := 0, source := 0, queue := l.queue, value := l.num,
              detail := [BitVec.ofNat 64 tq, BitVec.ofNat 64 ((s.queue tq).ringIdx r.num)] }).1
        else s
      let more := if bad then [] else tileCopies l.bytes r.bytes
      completeRecord { s with launches := tabPut s.launches id { l with consumed := l.consumed + 1, tiles := l.tiles ++ more } }
        tq r.num
    | none => s)

-- Completion (R325, R331).

/-- Are the global writes of a launch performed at system scope? -/
def launchWritten (s : State) (id : Nat) : Bool :=
  !((allCmds s).any fun c => c.launch == id) && !(s.wbs.any fun w => w.group != 0 && (tabFind s.groups w.group).isNone) &&
    !(s.arrivals.any fun a => a.launch == id)
def launchDone (s : State) (id : Nat) (l : Launch) : Bool :=
  if l.aborted then !(s.groups.any fun g => g.2.launch == id) && launchWritten s id
  else if l.groups = 0 ∧ !l.tile then
    depsHold s l.bytes && (match headLaunch s l.queue with | some h => h.1 == id | none => false)
  else l.full && l.retired == l.placedAll && l.voted && launchWritten s id
/-- The bells of a launch are given back. -/
def freeLaunchBells (s : State) (id : Nat) : State :=
  { s with bells := s.bells.map fun b => match b.2.holder with
      | some (_, _, some l) => if l = id then (b.1, b.2.freed) else b
      | _ => b }
def endLaunch (s : State) (id : Nat) : State :=
  removeX { freeLaunchBells s id with launches := tabDel s.launches id }
def execLaunchCompletes (l : Nat) (s : State) : Host.Outcome State Fault Refusal :=
  .next (match tabFind s.launches l with
    | some x => if launchDone s l x then completeRecord (endLaunch s l) x.queue x.num else s
    | none => s)

-- Replicated launches (R346).

/-- Every run has retired, and the vote is due. -/
def voteDue (l : Launch) : Bool := l.repl && !l.voted && !l.aborted && l.full && l.retired == l.placedAll
/-- A run is outvoted (R346, R364): its cores are queued for test, and retired. -/
def outvote (s : State) (l : Launch) (run : Nat) : State :=
  ((l.cores.filter fun c => c.1 == run).map Prod.snd).eraseDups.foldl (fun s k =>
    retireCore (s.setCore k { s.core k with queued := true }) k) s
def vote (s : State) (id : Nat) (l : Launch) : State :=
  let sig := fun k => vget l.sigs k 0
  let settle := fun (s : State) => { s with launches := tabPut s.launches id { l with voted := true } }
  if l.runs = 2 then
    if sig 0 = sig 1 then settle s else { s with launches := tabPut s.launches id { l with runs := 3 } }
  else if sig 2 = sig 0 then settle (outvote s l 1)
  else if sig 2 = sig 1 then settle (outvote s l 0)
  else
    let s := launchRecord s id 11 [sig 0, sig 1, sig 2]
    stopQueue (endLaunch s id) l.queue
def execReplicationVote (l : Nat) (s : State) : Host.Outcome State Fault Refusal :=
  .next (match tabFind s.launches l with
    | some x => if voteDue x && launchWritten s l then vote s l x else s
    | none => s)

-- Displacement (R55, R343).

/-- A group is to leave its cluster: each of its tasks that has not issued EXIT is asked to leave its context (R338). -/
def startDisplacing (s : State) (grp : Nat) (g : Group) : State :=
  let s := { s with groups := tabPut s.groups grp { g with displacing := some s.ticks } }
  ((ctxsOfGroup s grp).filter fun c => !(s.ctx c).exited).foldl (fun s c => s.setCtx c { s.ctx c with preempt := true }) s
/-- The displacement pool of a job (R461), and a place in it for a group's image: the first free one. -/
def poolRuns (s : State) (job : BitVec 32) : List (Nat × Nat) :=
  s.groups.filterMap fun g => g.2.away.bind fun a => if g.2.job = job then some (a.spot, a.spot + a.len) else none
/-- The group's part of its cluster, the undefined lines of its window given their bytes; and the bytes of its image, in whole sectors. -/
def leavingCl (s : State) (g : Group) : Cluster := g.lines.foldl slSettle (s.cl g.cluster)
def imageLen (s : State) (g : Group) : Nat :=
  alignUp 128 (g.slsize + (stateArea (s.cl g.cluster) g ((outTasks s g).map slotAddrs)).length)
def poolSpot (s : State) (g : Group) : Option Nat :=
  let base := (jobWord s g.job 14).toNat
  let used := (poolRuns s g.job).map fun r => (r.1 - base, r.2 - base)
  (firstRun used (imageLen s g) (jobWord s g.job 15).toNat).map (base + ·)
/-- Has everything of a group come to rest: its tasks are out, its commands have ended, and the pool has room for it? -/
def groupAtRest (s : State) (grp : Nat) : Bool :=
  (match tabFind s.groups grp with | some g => (poolSpot s g).isSome | none => false) && (ctxsOfGroup s grp).isEmpty && !((allCmds s).any fun c => c.group == grp) && !(s.arrivals.any fun a => a.group == grp) &&
    !(s.fences.any fun f => f.group == grp)
/-- A record about a group (R354): SOURCE gives its cluster and its GROUPID. -/
def groupRecord (s : State) (g : Group) (kind : Nat) (detail : List Word) : State :=
  let q := launchQueue s g.launch
  (postRecord s g.job
    { kind := kind, reply := false, time := 0, source := sourceOf (16 * g.cluster) 0 (BitVec.ofNat 64 g.gid),
      queue := q.1, value := q.2, detail := detail }).1
/-- The group's state goes to DRAM, and its record is posted: the bytes are those of its image (log 45). -/
def takeAway (s : State) (grp : Nat) (g : Group) : State :=
  let s := cacheFlush s g.cluster grp fun _ => true
  let cl := leavingCl s g
  let bell := fun b => decide (g.cbell ≤ b) && decide (b < g.cbell + g.ncb)
  let a : Away := { spot := (poolSpot s g).getD 0, len := imageLen s g }
  let s := putImage s cl g a.spot ((outTasks s g).map slotAddrs)
  let cl := { prepareWindow cl g.slbase g.slsize [] with
    bells := cl.bells.filter (fun b => !(bell b.1)), cache := tabDel cl.cache grp }
  let unbound := fun (o : OutTask) =>
    if o.task.group = grp then { o with task := { o.task with tbind := Vector.replicate 8 none } } else o
  let s := { s.setCl g.cluster cl with
    groups := tabPut s.groups grp { g with away := some a, displacing := none }, outs := s.outs.map unbound }
  groupRecord s g 8 [BitVec.ofNat 64 a.len, BitVec.ofNat 64 (s.ticks - g.displacing.getD s.ticks)]
/-- Where the placing of a launch's groups gets stuck (R329, R330): the state after those that can be placed, the launch, and the
run and GROUPID of the group that cannot. -/
def stuckAt (s : State) (id : Nat) : Nat → Option (State × Launch × Nat × Nat)
  | 0 => none
  | n + 1 =>
    match tabFind s.launches id with
    | none => none
    | some l =>
      match l.next with
      | none => none
      | some (r, g) =>
        match firstPlace s l r g with
        | none => some (s, l, r, g)
        | some p => stuckAt (placeGroup s id l r g p) id n
/-- Is there a displaced group of higher priority than a level that cannot come back to any cluster, of which a condition holds? -/
def higherAway (s : State) (prio : Nat) (p : Group → Bool) : Bool :=
  s.groups.any fun g => match awayLevel s g.2 with
    | some l => decide (l < prio) && reservedFor s g.2.launch l && p g.2 && !((List.range Config.clusters).any (returnOk s g.2))
    | none => false
/-- Is there a head record of higher priority than a level, with a group that cannot be placed, of which a condition holds? -/
def higherStuck (s : State) (prio : Nat) (p : State → Launch → Nat → Bool) : Bool :=
  s.queues.any fun q => match wantsPlace s q.1 with
    | some (id, l) =>
      decide (l.prio < prio) && reservedFor s id l.prio &&
        (match stuckAt s id l.batch with | some (s', l', _, g) => p s' l' g | none => false)
    | none => false
/-- Does a group of higher priority, a new one or one that is displaced, lack Slate or cluster bells on a cluster (R343)? -/
def roomWanted (s : State) (prio cluster : Nat) : Bool :=
  higherStuck s prio (fun s l g => (bellRoom s l g).isSome && (clusterRoom s l cluster).isNone) ||
    higherAway s prio fun g => !(returnRoom s g cluster)
/-- Does a group of higher priority, a new one or one that is displaced, lack nothing but contexts on a cluster (R337)? -/
def contextsWanted (s : State) (prio cluster : Nat) : Bool :=
  higherStuck s prio (fun s l g => (bellRoom s l g).isSome && (clusterRoom s l cluster).isSome) ||
    higherAway s prio fun g => returnRoom s g cluster
/-- A group begins to be displaced, when the Timetable may ask for it; one that is being displaced and has come to rest
leaves. -/
def execGroupDisplacement (idx : Nat) (s : State) : Host.Outcome State Fault Refusal :=
  .next (match tabFind s.groups idx with
    | some g =>
      match g.displacing with
      | some _ => if groupAtRest s idx then takeAway s idx g else s
      | none =>
        if g.away.isNone && preemptible s g.launch &&
            (match tabFind s.launches g.launch with | some l => roomWanted s l.prio g.cluster | none => false) then
          startDisplacing s idx g
        else s
    | none => s)

-- Pre-emption (R337).

/-- A cluster still has a spare core (R365). -/
def spareLeft (s : State) (cluster : Nat) : Bool := Config.spareCore cluster && !(s.spares.contains (1, cluster))
/-- The number of a cluster's unused spare among the cores that test slices run on (log 41). -/
def spareUnit (cluster : Nat) : Nat := 8 * Config.clusters + cluster
/-- The cores of a cluster that take a slice, in the order of its cycle: its logical cores, then its spare (R367). -/
def sliceUnits (s : State) (cluster : Nat) : List (Nat × Nat) :=
  ((List.range 8).map fun k => (k, 8 * cluster + k)).filter (fun k => !(s.core k.2).retired) ++
    if spareLeft s cluster then [(8, spareUnit cluster)] else []
/-- The core whose turn it is on a cluster. -/
def nextSlice (s : State) (cluster : Nat) : Option (Nat × Nat) :=
  let l := sliceUnits s cluster
  (l.find? fun k => decide ((s.cl cluster).sliceAt ≤ k.1)).or l.head?
/-- May a test slice want a core: one queued for test, or, while no core is queued, one whose turn it is (R367)? -/
def sliceWants (s : State) (core : Nat) : Bool :=
  (s.core core).queued ||
    (!(s.cores.any fun c => c.2.queued) && decide (core < 8 * Config.clusters) &&
      (nextSlice s (core / 8)).map Prod.snd == some core)
/-- A task of a pre-emptible launch, outside stubs, that has not been asked to leave. -/
def askable (s : State) (t : Task) : Bool :=
  t.active && !t.exited && t.stub.isNone && !t.preempt && preemptible s t.launch
/-- Does a group of higher priority lack a task's context? -/
def contextWanted (s : State) (ctx : Nat) : Bool :=
  let t := s.ctx ctx
  askable s t && (match tabFind s.launches t.launch with | some l => contextsWanted s l.prio (clOf ctx) | none => false)
/-- May the Timetable ask for a context (R337): for a test slice; or for a group of higher priority, bell-waiting tasks first? -/
def mayPreempt (s : State) (ctx : Nat) : Bool :=
  askable s (s.ctx ctx) &&
    (sliceWants s (coreOf ctx) ||
      (contextWanted s ctx &&
        ((s.ctx ctx).wait.isSome || !(s.ctxs.any fun x => x.2.wait.isSome && contextWanted s x.1))))
/-- The Timetable asks for a context. -/
def execPreemptionRequest (ctx : Nat) (s : State) : Host.Outcome State Fault Refusal :=
  .next (if mayPreempt s ctx then s.setCtx ctx { s.ctx ctx with preempt := true } else s)
/-- Does a placement of higher priority need a free context of a cluster (R337): of a new group, or of one that is displaced? -/
def contextNeeded (s : State) (prio cluster : Nat) : Bool :=
  (s.queues.any fun q => match wantsPlace s q.1 with
    | some (id, l) =>
      decide (l.prio < prio) && reservedFor s id l.prio && (bellRoom s l (match l.next with | some x => x.2 | none => 0)).isSome &&
        (clusterRoom s l cluster).isSome
    | none => false) ||
    s.groups.any fun g => match awayLevel s g.2 with
      | some p => decide (p < prio) && returnRoom s g.2 cluster
      | none => false

-- Launch control (R343, R344).

/-- The running launch that a request names. -/
def reqLaunch (s : State) (r : LReq) : Option (Nat × Launch) :=
  s.launches.find? fun l => l.2.queue == r.queue.toNat && l.2.num == r.seq.toNat && l.2.started
/-- A launch-control request: 1 DISPLACE, 2 RESUME, 3 ABORT; other codes are malformed. Completion follows R302. -/
def launchControl (s : State) (op : Nat) (r : LReq) : State :=
  let d := { noDone with caddr := r.caddr, cval := r.cval, port := r.port }
  let fail := fun (k : Nat) => addDone s { d with status := statusWord k 0 }
  if op = 0 ∨ 3 < op ∨ r.rsvd ≠ 0 then fail 2
  else
    match reqLaunch s r with
    | none => fail 3
    | some (id, l) =>
      if op = 3 then addDone (abortLaunch s id 1) d
      else if op = 2 then addDone { s with launches := tabPut s.launches id { l with held := false } } d
      else if !(preemptible s id) then fail 1
      else
        let s := { s with launches := tabPut s.launches id { l with held := true } }
        let s := (s.groups.filter fun g => g.2.launch == id && g.2.away.isNone && g.2.displacing.isNone).foldl
          (fun s g => startDisplacing s g.1 g.2) s
        addDone s { d with launch := some id }
def execDisplace (r : LReq) (s : State) : Host.Outcome State Fault Refusal := .next (launchControl s 1 r)
def execResume (r : LReq) (s : State) : Host.Outcome State Fault Refusal := .next (launchControl s 2 r)
def execAbort (r : LReq) (s : State) : Host.Outcome State Fault Refusal := .next (launchControl s 3 r)

end Sys2Proof.Machine
end

