-- ==== Sys2Proof/Machine/Replies.lean ====
section
/-!
DEFINITION. Fault replies and the fault ring (R266, R325, R353, R355).
-/
namespace Sys2Proof.Machine

/-- The halted command of a job that a token names, and its engine. -/
def tokenCmd (s : State) (job : BitVec 32) (tok : Nat) : Option (Nat × Cmd) :=
  s.engs.findSome? fun e =>
    (e.2.find? fun c => c.job == job && match c.halt with | some h => h.1 == tok | none => false).map fun c => (e.1, c)
/-- A reply that names nothing, or is not well formed, is ignored and counted. -/
def badReply (s : State) : State := { s with badReplies := s.badReplies + 1 }
/-- A command goes on from where it halted (R266): its page is walked again. -/
def restartCmd (s : State) (c : Cmd) (va : Nat) : State :=
  dropTlb (putCmd s { c with halt := none }) c.cluster fun e => e.covers c.job va
/-- RESTART (R355): a halted command continues; a head record is read again (R325). -/
def replyRestart (s : State) (r : FReply) : State :=
  if r.rsvd ≠ 0 then badReply s
  else
    match tokenCmd s r.job r.token.toNat with
    | some (_, c) => (match c.halt with | some (_, va, _) => restartCmd s c va | none => s)
    | none =>
      match tokenRec s r.job r.token.toNat with
      | some (q, x, _) => putRec s q { x with fault := none }
      | none => badReply s
def execFaultReplyRestart (r : FReply) (s : State) : Host.Outcome State Fault Refusal := .next (replyRestart s r)
/-- CANCEL (R355): the command ends as a copy error, reason 5; a head record is rejected (R325). -/
def replyCancel (s : State) (r : FReply) : State :=
  if r.rsvd ≠ 0 then badReply s
  else
    match tokenCmd s r.job r.token.toNat with
    | some (e, c) => copyError s e c 5 false
    | none =>
      match tokenRec s r.job r.token.toNat with
      | some (q, x, check) => rejectHead s q x check
      | none => badReply s
def execFaultReplyCancel (r : FReply) (s : State) : Host.Outcome State Fault Refusal := .next (replyCancel s r)

/-- A deferred-fault record that waits enters its job's ring when there is room (R353). -/
def ringWaits (s : State) (i : Nat) : Bool := !(jobAt s i).waiting.isEmpty && !(ringFull (jobAt s i))
def execFaultRingRecordEnters (job : BitVec 32) (s : State) : Host.Outcome State Fault Refusal :=
  .next (match jobIdx s job with | some i => drainWaiting i 1 s | none => s)

end Sys2Proof.Machine
end

