-- ==== Sys2Proof/Machine/Sparing.lean ====
section
/-!
DEFINITION. Sparing and link health (R362, R364 to R367, R375, R384), and the clocks' throttling (R466).
-/
namespace Sys2Proof.Machine

-- Cores (R365, R367).

/-- Neither context of a core holds a task. -/
def coreFree (s : State) (core : Nat) : Bool := !(s.ctx (2 * core)).active && !(s.ctx (2 * core + 1)).active
/-- A retired core can be remapped to its cluster's spare. -/
def mayRemap (s : State) (core : Nat) : Bool :=
  (s.core core).retired && coreFree s core && spareLeft s (core / 8) && decide (core < 8 * Config.clusters)
/-- The logical core is remapped (R365): its number stays, and its replacement is tested first (R367). What is known of the core, its
last passing slice, its residue stops and its corrected errors, is the replacement's from now on. -/
def execCoreRemap (core : Nat) (s : State) : Host.Outcome State Fault Refusal :=
  .next (if mayRemap s core then
      let spare := spareUnit (core / 8)
      let x := s.core spare
      { s.setCore core { s.core core with
          retired := false, queued := true, lastPass := x.lastPass, residue := x.residue, stopAt := x.stopAt } with
        spares := s.spares ++ [(1, core / 8)],
        errs := (s.errs.filter fun e => e.1 != (1, core)).map fun e => if e.1 = (1, spare) then ((1, core), e.2) else e }
    else s)
/-- The cluster of a core, or of a spare. -/
def sliceCluster (core : Nat) : Nat := if core < 8 * Config.clusters then core / 8 else core - 8 * Config.clusters
/-- Its place in the cycle. -/
def sliceSlot (core : Nat) : Nat := if core < 8 * Config.clusters then core % 8 else 8
/-- May a test slice run on a core: both contexts are free, and it is queued for test, or no core is and it is the core's turn on
its cluster (R367)? An unused spare holds no task. -/
def mayTest (s : State) (core : Nat) : Bool :=
  if core < 8 * Config.clusters then coreFree s core && sliceWants s core
  else
    decide (core < 9 * Config.clusters) && !(s.cores.any fun c => c.2.queued) && (nextSlice s (sliceCluster core)).map Prod.snd == some core
/-- The record of a failed slice (KIND 15) goes to the fault queue of every job on the package (log 41). -/
def sliceRecord (s : State) (core : Nat) : State :=
  (enabledJobs s).foldl (fun s j =>
    (postRecord s j
      { kind := 15, reply := false, time := 0, source := 0, queue := 0, value := 0,
        detail := [BitVec.ofNat 64 (sliceCluster core + sliceSlot core * 256), BitVec.ofNat 64 (s.cl (sliceCluster core)).pattern,
                   BitVec.ofNat 64 (s.core core).lastPass] }).1) s
/-- A core is retired (R364); a spare that is retired before it has taken a core's place is spare no more. Once it has, its errors are
those of the logical core (log 41). -/
def retireUnit1 (s : State) (core : Nat) : State :=
  if core < 8 * Config.clusters then retireCore s core
  else if core < 9 * Config.clusters && spareLeft s (sliceCluster core) then
    { retireCore s core with spares := s.spares ++ [(1, sliceCluster core)] }
  else s
/-- A core that fails its slice is retired (R364). -/
def sliceFails (s : State) (core : Nat) : State :=
  let s := retireUnit1 s core
  sliceRecord (s.setCore core { s.core core with queued := false }) core
/-- A test slice (R367): the cluster's pattern index and its cycle go on; a core that fails is retired. -/
def execTestSlice (core : Nat) (pass : Bool) (s : State) : Host.Outcome State Fault Refusal :=
  .next (
    if !(mayTest s core) then s
    else
      let s := if pass then s.setCore core { s.core core with queued := false, lastPass := s.ticks }
        else sliceFails s core
      let k := sliceCluster core
      let cl := s.cl k
      s.setCl k { cl with pattern := cl.pattern + 1, sliceAt := sliceSlot core + 1 })

-- Eave ways and DRAM rows (R365).

/-- The units among which a spare is shared (log 41): the 16 ways of a slice, way w of slice n being unit 16 n + w; the rows of a
pseudo-channel, row r of channel n being unit 2^32 n + r. -/
def spareGroup (cls idx : Nat) : Nat := if cls = 2 then idx / 16 else idx / 2 ^ 32
/-- How many spares such a group has: one way; the spare rows of the pseudo-channel. -/
def spareCount (cls group : Nat) : Nat := if cls = 2 then 1 else Config.spareRows group
def mayRetire (s : State) (cls idx : Nat) : Bool :=
  (cls == 2 || cls == 3) && !(s.spares.contains (cls, idx)) && !(s.worn.contains (cls, idx))
/-- Is a spare left that a way or row can take? -/
def wayLeft (s : State) (cls idx : Nat) : Bool :=
  decide ((s.spares.filter fun x => x.1 == cls && spareGroup cls x.2 == spareGroup cls idx).length < spareCount cls (spareGroup cls idx))
/-- A way (class 2) or a DRAM row (class 3) is retired (R364): while a spare is left, its contents go to it; nothing else changes. -/
def remapUnit (s : State) (cls idx : Nat) : State :=
  if !(mayRetire s cls idx) then s
  else sparingRecord (if wayLeft s cls idx then { s with spares := s.spares ++ [(cls, idx)] }
    else { s with worn := s.worn ++ [(cls, idx)] }) cls idx
def execSpareRemap (cls idx : Nat) (s : State) : Host.Outcome State Fault Refusal := .next (remapUnit s cls idx)

-- Links (R366, R375, R384).

/-- Messages that the Ridge holds for a down link, or for want of a way, take a new path (R384). -/
def reroute (s : State) : State :=
  let moved := fun (m : Msg) => routable s m.dst && (m.port == 30 || (decide (m.port < 18) && !(s.port m.port).up))
  s.outbox.foldl (fun s m => if moved m then atPort s m (outPort s m) else { s with outbox := s.outbox ++ [m] }) { s with outbox := [] }
/-- A port goes down. -/
def portDown (s : State) (port : Nat) : State :=
  reroute (s.setPort port { s.port port with up := false, part := Vector.replicate 16 0 }).bump
def execLinkDown (port : Nat) (s : State) : Host.Outcome State Fault Refusal :=
  .next (if port < 18 then portDown s port else s)
/-- A lane is retired (R364, R366): the link goes on with 6 lanes, or, when it has no more than 6, is taken down. No
message is lost, duplicated or reordered. -/
def retireLane (s : State) (port : Nat) : State :=
  if 18 ≤ port then s
  else
    let n := (s.port port).lanes
    if n < 6 then s
    else
      let s := sparingRecord s 4 port
      let s := s.setPort port { s.port port with lanes := if n = 8 then 6 else n - 1 }
      if n = 8 then s else portDown s port
def execLaneRetire (port : Nat) (s : State) : Host.Outcome State Fault Refusal := .next (retireLane s port)

-- Corrected errors (R364).

def errCount (s : State) (u : Nat × Nat) : Nat := match s.errs.find? fun x => x.1 == u with | some x => x.2 | none => 0
/-- A corrected error of a unit is counted; past the threshold of its class, the unit is retired, and its count starts again. A
lane's unit is 8 port + lane. -/
def corrected (s : State) (cls idx : Nat) : State :=
  let n := errCount s (cls, idx) + 1
  let others := s.errs.filter fun x => x.1 != (cls, idx)
  match tabFind s.limits cls with
  | some lim =>
    if n ≤ lim then { s with errs := others ++ [((cls, idx), n)] }
    else
      let s := { s with errs := others }
      if cls = 1 then retireUnit1 s idx
      else if cls = 4 then retireLane s (idx / 8)
      else remapUnit s cls idx
  | none => { s with errs := others ++ [((cls, idx), n)] }
/-- A flit fails its CRC and is resent (R375): the error is counted for the port's first lane (R364; log 41), and no message changes. -/
def execFlitCrcError (port vc : Nat) (s : State) : Host.Outcome State Fault Refusal :=
  .next (if port < 18 ∧ vc < 16 then corrected s 4 (8 * port) else s)

-- Clocks (R466). TIME counts from the fabric reference: a tick has 512 · 360,360 parts whatever the arithmetic clock, and a cycle at
-- 50 (14 - n) MHz has 3,603,600 / (14 - n) of them: 716.8 cycles to a tick at 700 MHz. 360,360 is the least common multiple of 1 to 14.

def tickLen : Nat := 184504320
def cycleLen (s : State) : Nat := 3603600 / (14 - s.throttle)

/-- The temperature of the hottest junction: at 95 degrees the arithmetic clock steps down by 50 MHz, to 50 MHz at the least (log 83),
and STATUS.THROTTLE is set; at 105 the part shuts down. -/
def hotJunction (s : State) (t : Nat) : State :=
  let s := { s with temp := BitVec.ofNat 64 (t % 256) }
  if t < 95 then s
  else { s with throttle := min (s.throttle + 1) 13, status := s.status ||| 0x10000, shut := s.shut || decide (105 ≤ t) }
/-- The hottest junction has reached 95 degrees. -/
def execThermalThrottle (s : State) : Host.Outcome State Fault Refusal := .next (hotJunction s (max 95 (min 104 (fldN 0 8 s.temp))))
/-- The hottest junction has reached 105 degrees. -/
def execThermalShutdown (s : State) : Host.Outcome State Fault Refusal := .next (hotJunction s (max 105 (fldN 0 8 s.temp)))

end Sys2Proof.Machine
end

