-- ==== Sys2Proof/Machine/Host.lean ====
section
/-!
DEFINITION. Host attachment (R299, R317, R318, R343, R355, R380, R383, R386, R389, R411, R455 to R465): the tables, the
request windows, the management registers, the memory aperture, and resets.
-/
namespace Sys2Proof.Machine

/-- A write that is ignored as a whole, which ERRCNT counts (R465). -/
def countIgnored (s : State) : State := { s with errcnt := min (s.errcnt + 1) 0xFFFFFFFF }

-- The job table (R461).

/-- The bits that words of an entry hold; FQHEAD, FQTAIL and the counters are treated apart. -/
def jobMask (k : Nat) : Word :=
  if k = 0 then 0x80000000FFFFFFFF
  else if k = 1 then 0x00003FFFFFFF0000
  else if k = 2 then 0x000F3FFFFFFFFFC0
  else if k = 5 then 0x0000000007FF07FF
  else if 6 ≤ k ∧ k ≤ 8 then 0x80000FFFFFFFFFFF
  else if k = 9 then 0x0000000001FF00FF
  else if k = 10 then 0x0000FFFFFFFF0000
  else if k = 11 then 0x0000000000FF8FFF
  else if k = 12 ∨ k = 14 then 0x00003FFFFFFFFFFF
  else 0xFFFFFFFFFFFFFFFF
/-- PTROOT, FQRING, FQROUTE, FQVEC, the phase-bell word and the pools are written only while EN = 0. -/
def jobFixed (k : Nat) : Bool := (decide (1 ≤ k) && decide (k ≤ 3)) || k == 5 || (decide (11 ≤ k) && decide (k ≤ 15))
/-- A reserved routing code (R461). -/
def badRoute (x : Word) : Bool := (List.range 32).any fun k => fldN (2 * k) 2 x == 3
/-- Would a JFLOW make partitions overlap (R395)? -/
def flowOverlap (s : State) (i : Nat) (x : Word) : Bool :=
  let lo := fldN 0 8 x
  let hi := lo + fldN 16 9 x
  lo != hi && s.jobs.any fun j =>
    let y := vget j.2.w 9 0
    j.1 != i && fldN 16 9 y != 0 && decide (lo < fldN 0 8 y + fldN 16 9 y) && decide (fldN 0 8 y < hi)
/-- The level-3 phase bell that a word of a job names (R467). -/
def phaseBell (x : Word) : Option Nat := if bitAt 15 x then some (fldN 0 12 x) else none
/-- The package-level bell of that index serves the job: it starts from the reset values of R42 when V is set (R467). -/
def holdPhase (s : State) (i : Nat) (old : Option Nat) : State :=
  let x := vget (jobAt s i).w 11 0
  let h := some (fld 0 32 (vget (jobAt s i).w 0 0), some (fldN 16 8 x), (none : Option Nat))
  let now := phaseBell x
  let s := match old with
    | some b => if now = some b then s else setBell s (getBell s (.mesh b)).freed (.mesh b)
    | none => s
  match now with
  | some b =>
    let y := if old = some b then getBell s (.mesh b) else Bell.empty
    { s with bells := tabPut s.bells b { y with holder := h } }
  | none => s
/-- A write of one word of an entry. -/
def jobWrite (s : State) (i k : Nat) (data : Word) : State :=
  let j := jobAt s i
  let en := bitAt 63 (vget j.w 0 0)
  let x := data &&& jobMask k
  let put := setJobWord s i k x
  if k = 0 then
    if bitAt 63 data && s.jobs.any fun y => y.1 != i && bitAt 63 (vget y.2.w 0 0) && fld 0 32 (vget y.2.w 0 0) == fld 0 32 data
    then countIgnored s
    else holdPhase put i (phaseBell (vget j.w 11 0))
  else if en && jobFixed k then countIgnored s
  else if k = 3 then (if badRoute data then countIgnored s else put)
  else if k = 4 then setJobWord s i 4 (putFld 0 32 (fldN 0 32 data) (vget j.w 4 0))
  else if 6 ≤ k ∧ k ≤ 8 then
    setJobAt s i { j with w := vput j.w k x, tokens := vput j.tokens (k - 6) (256 * (fldN 20 24 x : Int)) }
  else if k = 9 then
    if (s.bindings.any fun b => b.2.job == fld 0 32 (vget j.w 0 0)) || flowOverlap s i x then countIgnored s else put
  else if k = 11 then holdPhase put i (phaseBell (vget j.w 11 0))
  else if 16 ≤ k then countIgnored s
  else put
/-- A write of the 8 bytes at an offset of the job table. -/
def writeJobTable (s : State) (offset : Nat) (data : Word) : State :=
  if offset / 256 < Config.jobs then jobWrite s (offset / 256) (offset % 256 / 8) data else countIgnored s
def execJobTableWrite (offset : Nat) (data : BitVec 64) (s : State) : Host.Outcome State Fault Refusal :=
  .next (writeJobTable s offset data)

-- The queue table (R318).

/-- A write of QCTL. -/
def qctlWrite (q : Queue) (data : Word) : Word :=
  let ovf := if bitAt 3 data then 0 else fldN 3 1 q.qctl
  if q.en then putFld 3 1 ovf (putFld 0 1 (fldN 0 1 data) q.qctl)
  else putFld 4 1 (fldN 4 1 q.qctl) (putFld 3 1 ovf (data &&& 0xFFFFFFFF0FFF0F07))
/-- A write of one word of a queue's entry. -/
def queueWrite (s : State) (q k : Nat) (data : Word) : State :=
  let x := s.queue q
  if k = 0 then
    if bitAt 2 data && !(bitAt 1 data) then countIgnored s else s.setQueue q { x with qctl := qctlWrite x data }
  else if x.en then countIgnored s
  else if k = 1 then s.setQueue q { x with qring := data &&& 0x00003FFFFFFFFFFF }
  else if k = 2 then s.setQueue q { x with qcaddr := data }
  else s.setQueue q { x with qcv := data, recs := x.recs.filter fun r => decide (data.toNat < r.num) }
def writeQueueTable (s : State) (port offset : Nat) (data : Word) : State :=
  if offset / 32 < portCount s port then queueWrite s (portFirst s port + offset / 32) (offset % 32 / 8) data else countIgnored s
def execQueueTableWrite (port offset : Nat) (data : BitVec 64) (s : State) : Host.Outcome State Fault Refusal :=
  .next (writeQueueTable s port offset data)
/-- QSPLIT (R465): a multiple of 1,024, written only while every queue has EN = 0. -/
def writeQsplit (s : State) (data : Word) : State :=
  let n := fldN 0 18 data
  if n % 1024 = 0 ∧ n ≤ Config.queues ∧ !(s.queues.any fun q => q.2.en) then { s with qsplit := BitVec.ofNat 64 n } else countIgnored s
def execQsplitWrite (data : BitVec 64) (s : State) : Host.Outcome State Fault Refusal := .next (writeQsplit s data)

-- Channels and communicators (R386, R389).

def chanMask : BitVec 256 := 0x0000000000000000FFFFFFFFFFFFFFFF0001FFFF000007FF0FFF3F07FFFFFFFF
def commMask : BitVec 512 := BitVec.ofNat 512
  (0xFFFFFFFF + 0x3F * 2 ^ 32 + 0xFFFFFFFF * 2 ^ 48 + (2 ^ 46 - 1) * 2 ^ 128 + (2 ^ 46 - 1) * 2 ^ 192 + 0xFFFF * 2 ^ 256)
/-- A write of a channel entry: ignored while EN = 1, unless it clears EN. -/
def writeChannel (s : State) (chan : Nat) (data : BitVec 256) : State :=
  let c := s.chan chan
  if Config.channels ≤ chan ∨ (chanEn c.w ∧ chanEn data) then countIgnored s
  else s.setChan chan { Chan.empty with w := data &&& chanMask, sendSeq := c.sendSeq }
def execChannelTableWrite (chan : Nat) (data : BitVec 256) (s : State) : Host.Outcome State Fault Refusal :=
  .next (writeChannel s chan data)
/-- A write of a communicator entry, likewise. -/
def writeCommunicator (s : State) (comm : Nat) (data : BitVec 512) : State :=
  if Config.communicators ≤ comm ∨ (commEn (commWord s comm) ∧ commEn data) then countIgnored s
  else { s with comms := tabPut s.comms comm (data &&& commMask), commSeq := tabDel s.commSeq comm,
                commCred := tabDel s.commCred comm }
def execCommunicatorTableWrite (comm : Nat) (data : BitVec 512) (s : State) : Host.Outcome State Fault Refusal :=
  .next (writeCommunicator s comm data)

-- Routing (R380, R383).

def execRouteTableWrite (dst : Nat) (data : BitVec 64) (s : State) : Host.Outcome State Fault Refusal :=
  .next (if dst < 2048 then reroute { s with routes := tabPut s.routes dst (data &&& 0xF0000000000FFFFF) }.bump else countIgnored s)
def writeRidgecfg (s : State) (data : Word) : State := reroute { s with ridgecfg := data &&& 0x8000000FFFFFFFFF }.bump
def execRidgecfgWrite (data : BitVec 64) (s : State) : Host.Outcome State Fault Refusal := .next (writeRidgecfg s data)

-- Management registers (R465).

/-- CAPS: clusters with a spare core, retired lanes. -/
def capsWord (s : State) : Word :=
  BitVec.ofNat 64 (((List.range Config.clusters).filter Config.spareCore).length +
    256 * ((List.range 18).foldl (fun n p => n + (8 - (s.port p).lanes)) 0 % 256))
/-- The word at an offset of the management registers, as a port reads it. -/
def mgmtRead (s : State) (port offset : Nat) : Word :=
  if offset = 0x000 then 0x00030640
  else if offset = 0x008 then s.status ||| ((Config.linkState port).zeroExtend 64 <<< 4)
  else if offset = 0x010 then s.pkgnum
  else if offset = 0x018 then s.qsplit
  else if offset = 0x020 then vget s.apbase port 0
  else if offset = 0x028 then capsWord s
  else if offset = 0x030 then s.temp
  else if offset = 0x038 then s.power
  else if offset = 0x040 then BitVec.ofNat 64 s.errcnt
  else if offset = 0x048 then s.ridgecfg
  else 0
/-- A write of a management register. Port 2 is the management core, which alone writes the registers marked MC. -/
def mgmtWrite (s : State) (port offset : Nat) (data : Word) : State :=
  if offset = 0x010 then if port = 2 then { s with pkgnum := data &&& 0x7FF } else countIgnored s
  else if offset = 0x048 then if port = 2 then writeRidgecfg s data else countIgnored s
  else if offset = 0x018 then writeQsplit s data
  else if offset = 0x020 then { s with apbase := vput s.apbase port (data &&& 0xFFE03FF000000000) }
  else countIgnored s

-- Request windows (R299, R343, R355, R411, R459).

/-- A posted slot of a window: 1 translation, 2 launch control, 3 fault reply, 4 purlin, 5 management mailbox. -/
def postSlot (s : State) (port w : Nat) (bytes : List Byte) : State :=
  let b : BitVec 512 := BitVec.ofNat 512 (ofBytes bytes)
  let op := fldN 0 32 b
  if w = 1 then xlateRequest s (if op ≤ 5 then op else 0) (xreqOf port b)
  else if w = 2 then launchControl s (if op ≤ 3 then op else 0) (lreqOf port b)
  else if w = 3 then
    match decodeFaultReply (fld 0 128 b) with
    | .ok (.faultReplyRestart r) => replyRestart s r
    | .ok (.faultReplyCancel r) => replyCancel s r
    | _ => badReply s
  else if w = 4 then
    match decodePurlinReq port b with
    | .ok (.load r) => loadKernel s r
    | .ok (.unload r) => unloadKernel s r
    | .ok (.bind r) => bindFlow s r
    | .ok (.unbind r) => unbindFlow s r
    | _ => reservedPurlin s (preqOf port b)
  else { s with hostOut := s.hostOut ++ [.mail port bytes] }
def slotBytes (w : Nat) : Nat := if w = 3 then 16 else 64
/-- A write into a window: every slot whose last byte it includes is posted. -/
def windowWrite (s : State) (port w offset : Nat) (data : List Byte) : State :=
  let n := slotBytes w
  let data := data.take (4096 - offset)
  let m := memWrite (tabGet [] s.windows (8 * port + w)) offset data
  let s := { s with windows := tabPut s.windows (8 * port + w) m }
  ((span (offset / n) (ceilDiv (offset + data.length) n)).filter fun k =>
    decide (offset ≤ n * k + n - 1) && decide (n * k + n - 1 < offset + data.length)).foldl
      (fun s k => postSlot s port w (memRead m (n * k) n)) s

-- BAR0 (R458).

/-- The MSI-X table of a port is written; an entry that is pending and no longer masked is raised (log 40). -/
def msixWrite (s : State) (port offset : Nat) (data : List Byte) : State :=
  let kept := data.zipIdx.map fun x => x.1 ^^^ (if (offset + x.2) % 16 = 12 then 1 else 0)
  let s := { s with msix := vput s.msix port (memWrite (vget s.msix port []) offset kept) }
  (span (offset / 16) (ceilDiv (offset + data.length) 16)).foldl (fun s v =>
    let p := vget s.msixPend port []
    if bitAt (v % 8) (memGet p (v / 8)) && !(bitAt 0 (msixByte s port (16 * v + 12))) then
      raiseMsix { s with msixPend := vput s.msixPend port (memWrite p (v / 8) [memGet p (v / 8) &&& ~~~ (BitVec.ofNat 8 (2 ^ (v % 8)))]) } port v
    else s) s
/-- The 8 bytes at an offset of BAR0, as a port reads them. -/
def barRead (s : State) (port offset : Nat) : Word :=
  if offset < 0x1000 then mgmtRead s port offset
  else if 0x100000 ≤ offset ∧ offset < 0x110000 then vget (jobAt s ((offset - 0x100000) / 256)).w (offset % 256 / 8) 0
  else if 0x200000 ≤ offset ∧ offset < 0x220000 then fld (offset % 32 * 8) 64 (s.chan ((offset - 0x200000) / 32)).w
  else if 0x220000 ≤ offset ∧ offset < 0x224000 then fld (offset % 64 * 8) 64 (commWord s ((offset - 0x220000) / 64))
  else if 0x400000 ≤ offset ∧ offset < 0x800000 then
    let x := s.queue (portFirst s port + (offset - 0x400000) / 32)
    if portCount s port ≤ (offset - 0x400000) / 32 then 0
    else if offset % 32 = 0 then x.qctl else if offset % 32 = 8 then x.qring else if offset % 32 = 16 then x.qcaddr else x.qcv
  else if 0x800000 ≤ offset ∧ offset < 0x880000 then
    let q := fun k => if (offset - 0x800000) / 4 + k < portCount s port then
        (s.queue (portFirst s port + (offset - 0x800000) / 4 + k)).discards else 0
    BitVec.ofNat 64 (q 0 + q 1 * 2 ^ 32)
  else if 0xF00000 ≤ offset ∧ offset < 0xF08000 then
    BitVec.ofNat 64 (ofBytes ((List.range 8).map fun k => msixByte s port (offset - 0xF00000 + k)))
  else if 0xF80000 ≤ offset ∧ offset < 0xF80100 then BitVec.ofNat 64 (memNum (vget s.msixPend port []) (offset - 0xF80000) 8)
  else 0
/-- n bytes at a place, those that a write covers replaced. -/
def mergeBytes (old : List Byte) (at' offset : Nat) (data : List Byte) : List Byte :=
  old.zipIdx.map fun x =>
    if offset ≤ at' + x.2 ∧ at' + x.2 < offset + data.length then data.getD (at' + x.2 - offset) 0 else x.1
/-- A write of part of a word writes the word; a bit that a 1 clears is written 0 where the write does not cover it. -/
def wordWrites (s : State) (port offset : Nat) (data : List Byte) (f : State → Nat → Word → State) : State :=
  (span (offset / 8) (ceilDiv (offset + data.length) 8)).foldl (fun s k =>
    let old := barRead s port (8 * k)
    let old := if 0x400000 ≤ offset ∧ k % 4 = 0 then old &&& ~~~ 8#64 else old
    f s (8 * k) (BitVec.ofNat 64 (ofBytes (mergeBytes (bytesOf 8 old.toNat) (8 * k) offset data)))) s
/-- The entries of n bytes, from a base, that a write touches, each with its new bytes. -/
def entryWrites (s : State) (port base n offset : Nat) (data : List Byte) (f : State → Nat → Nat → State) : State :=
  (span ((offset - base) / n) (ceilDiv (offset - base + data.length) n)).foldl (fun s k =>
    let old := (List.range (n / 8)).flatMap fun i => bytesOf 8 (barRead s port (base + n * k + 8 * i)).toNat
    f s k (ofBytes (mergeBytes old (base + n * k) offset data))) s
/-- A write to BAR0 of a host port, or of the management core (port 2). -/
def barWrite (s : State) (port offset : Nat) (data : List Byte) : State :=
  if data.isEmpty then s
  else if offset < 0x1000 then wordWrites s port offset data fun s o x => mgmtWrite s port o x
  else if offset < 0x6000 then windowWrite s port (offset / 0x1000) (offset % 0x1000) data
  else if 0x100000 ≤ offset ∧ offset < 0x110000 then
    wordWrites s port offset data fun s o x => writeJobTable s (o - 0x100000) x
  else if 0x200000 ≤ offset ∧ offset < 0x220000 then
    entryWrites s port 0x200000 32 offset data fun s k x => writeChannel s k (BitVec.ofNat 256 x)
  else if 0x220000 ≤ offset ∧ offset < 0x224000 then
    entryWrites s port 0x220000 64 offset data fun s k x => writeCommunicator s k (BitVec.ofNat 512 x)
  else if 0x400000 ≤ offset ∧ offset < 0x800000 then
    wordWrites s port offset data fun s o x => writeQueueTable s port (o - 0x400000) x
  else if 0xF00000 ≤ offset ∧ offset < 0xF08000 then msixWrite s port (offset - 0xF00000) data
  else countIgnored s
def execRegisterWrite (port offset : Nat) (data : List Byte) (s : State) : Host.Outcome State Fault Refusal :=
  .next (barWrite s port offset data)

-- The aperture (R460).

/-- The package and the local address that an offset of the aperture names. -/
def apPlace (s : State) (port offset : Nat) : Nat × Nat :=
  let b := vget s.apbase port 0
  (fldN 53 11 b, fldN 36 10 b * 2 ^ 36 + offset % 2 ^ 36)
/-- Is there memory at an address of a package that the Ridge knows? -/
def apOk (s : State) (p : Nat × Nat) (n : Nat) : Bool := routable s p.1 && decide (p.2 + n ≤ Config.dramBytes)
/-- The pieces of an access within sectors: offset in the access, address, bytes. -/
def sectorPieces (pa n : Nat) : List (Nat × Nat × Nat) :=
  (span (pa / 128) (ceilDiv (pa + n) 128)).map fun k =>
    let a := max pa (128 * k)
    (a - pa, a, min (pa + n) (128 * k + 128) - a)
def execApertureRead (port offset len : Nat) (s : State) : Host.Outcome State Fault Refusal :=
  .next (
    let p := apPlace s port offset
    if len = 0 then s
    else if !(apOk s p len) then { s with hostOut := s.hostOut ++ [.abort port] }
    else (sectorPieces p.2 len).foldl (fun s x => queueHost s port p.1 x.2.1 x.2.2 none) s)
def execApertureWrite (port offset : Nat) (data : List Byte) (s : State) : Host.Outcome State Fault Refusal :=
  .next (
    let p := apPlace s port offset
    if data.isEmpty then s
    else if !(apOk s p data.length) then countIgnored s
    else (sectorPieces p.2 data.length).foldl (fun s x => queueHost s port p.1 x.2.1 x.2.2 (some (bytesAt x.1 x.2.2 data))) s)

-- Resets (R463, R464).

/-- A function-level reset of one port. -/
def functionReset (s : State) (port : Nat) : State :=
  let mine := fun q => queuePort s q == port
  let s := { s with windows := s.windows.filter fun w => w.1 / 8 != port }
  let s := ((s.launches.filter fun l => mine l.2.queue && !l.2.aborted).map Prod.fst).foldl (fun s l => abortLaunch s l 1) s
  let l := s.queues.map fun q => if mine q.1 then (q.1, { q.2 with qctl := putFld 0 1 0 q.2.qctl }) else q
  { s with queues := l, msix := vput s.msix port [], msixPend := vput s.msixPend port [], apbase := vput s.apbase port 0,
           hostAcc := s.hostAcc.filter fun a => a.port != port || a.data.isSome }
def execFunctionLevelReset (port : Nat) (s : State) : Host.Outcome State Fault Refusal :=
  .next (if port < 2 then functionReset s port else s)
/-- A package reset: the state after it, with the sparing tables (R365), and what has left the package or waits outside it. -/
def execPackageReset (s : State) : Host.Outcome State Fault Refusal :=
  .next { State.reset with
    cores := (s.cores.filter fun c => c.2.retired).map fun c => (c.1, { Core.empty with retired := true }),
    ports := (s.ports.filter fun p => decide (p.2.lanes < 8)).map fun p =>
      (p.1, { Port.init with lanes := p.2.lanes, up := decide (6 ≤ p.2.lanes) }),
    errs := s.errs, limits := s.limits, spares := s.spares, worn := s.worn, hostOut := s.hostOut, wire := s.wire, inbox := s.inbox, fresh := s.fresh + 1, stamp := s.fresh,
    nextId := s.nextId }

-- Bring-up (R463).

/-- Do the ports answer configuration requests with Configuration Request Retry Status, and are their BARs disabled? -/
def configRetry (s : State) : Bool := !(bitAt 0 s.status)
/-- One step of bring-up. In step 2 the sparing tables are in force already: they stand in State. What step 4 writes, the
management core writes through the inbox. A failed signature halts with BOOTERR set. -/
def bringUp (s : State) : State :=
  match s.boot with
  | 0 => s
  | 1 => { s with boot := 0, jobs := [], queues := [], chans := [], comms := [], status := s.status ||| 1 }
  | 3 => { s with boot := 2, cycle := 0, ticks := 0, phase := 0 }
  | 5 => if Config.firmwareSigned then { s with boot := 4 } else { s with status := s.status ||| 2 }
  | n + 1 => { s with boot := n }
/-- What the part takes in before READY: a reset, the sensors' events, and what the management core writes. -/
def beforeReady : Instr → Bool
  | .packageReset => true
  | .thermalThrottle => true
  | .thermalShutdown => true
  | .routeTableWrite _ _ => true
  | .ridgecfgWrite _ => true
  | .registerWrite port _ _ => port == 2
  | _ => false
/-- What a port answers to a request in a disabled BAR: a read is aborted, and a write does nothing. -/
def turnedAway (s : State) : Instr → State
  | .apertureRead port _ _ => { s with hostOut := s.hostOut ++ [.abort port] }
  | _ => s

end Sys2Proof.Machine
end

