-- ==== Sys2Proof/Machine/Landing.lean ====
section
/-!
DEFINITION. Results that land before their bound (R72, R73), pending traps (R351), and the end of a task (R9, R10, R161).
-/
namespace Sys2Proof.Machine

/-- A bounded result may land in any cycle up to its bound (R72): until the bound its destination is undefined, so what
lands early is its flags. -/
def execBoundedResultLands (ctx idx : Nat) (s : State) : Host.Outcome State Fault Refusal :=
  .next (s.setCtx ctx ((s.ctx ctx).landOne s.cycle idx))
def execScoreboardedResultCompletes (ctx idx : Nat) (s : State) : Host.Outcome State Fault Refusal :=
  .next (s.setCtx ctx ((s.ctx ctx).completeOne s.cycle idx))
def execPendingTrapTaken (ctx : Nat) (s : State) : Host.Outcome State Fault Refusal :=
  let t := s.ctx ctx
  .next (if t.active && !t.exited && !t.pend.isEmpty && !t.handler && t.stub.isNone then takePending s ctx else s)

-- The end of a task.

/-- A task has exited (R161): its results have landed, and its matrix work and commands have ended. -/
def hasExited (s : State) (ctx : Nat) : Bool :=
  let t := s.ctx ctx
  t.active && t.exited && t.inflight.isEmpty && t.mq.isEmpty && (cmdsOf s t.tid).isEmpty &&
    !(s.fences.any fun f => f.tid == t.tid && f.rel)
/-- Its context is free, and its group may retire (R10); the registers hold what they held (R423, R429). -/
def freeTask (s : State) (ctx : Nat) : State :=
  let g := (s.ctx ctx).group
  let s := s.setCtx ctx (s.ctx ctx).left
  match tabFind s.groups g with
  | none => s
  | some x =>
    let s := { s with groups := tabPut s.groups g { x with left := x.left - 1 } }
    if x.left ≤ 1 then retireGroup s g else s
def execTaskExited (ctx : Nat) (s : State) : Host.Outcome State Fault Refusal :=
  .next (
    let s' := landCtx ctx s
    if hasExited s' ctx then freeTask s' ctx else s)

end Sys2Proof.Machine
end

