-- ==== Sys2Proof/Machine/Matrix.lean ====
section
/-!
DEFINITION. The M unit: matrix instructions enter their context's queue (R211, R215 to R225), MREP (R85), and the steps of
the engine: an instruction begins, a pass ends, an operation completes, a configuration is applied (R211, R223 to R228).
-/
namespace Sys2Proof.Machine

-- M slots.

def execMma (p acc : BitVec 3) (v : BitVec 5) (s1 s2 : BitVec 6) (o : Bool) (s : State) :
    Host.Outcome State Fault Refusal := settle (.mma p acc v s1 s2 o) (enqueue (.mma p acc v s1 s2 o)) s
def execMmas (p acc : BitVec 3) (s1 s2 : BitVec 6) (o : Bool) (s : State) : Host.Outcome State Fault Refusal :=
  settle (.mmas p acc s1 s2 o) (enqueue (.mmas p acc s1 s2 o)) s
def execMmat (p acc : BitVec 3) (v : BitVec 5) (s1 s2 : BitVec 6) (o : Bool) (s : State) :
    Host.Outcome State Fault Refusal := settle (.mmat p acc v s1 s2 o) (enqueue (.mmat p acc v s1 s2 o)) s
def execMmah (p acc : BitVec 3) (v : BitVec 5) (s1 s2 : BitVec 6) (o : Bool) (s : State) :
    Host.Outcome State Fault Refusal := settle (.mmah p acc v s1 s2 o) (enqueue (.mmah p acc v s1 s2 o)) s
def execMldb (p : BitVec 3) (s1 s2 : BitVec 6) (o : Bool) (s : State) : Host.Outcome State Fault Refusal :=
  settle (.mldb p s1 s2 o) (enqueue (.mldb p s1 s2 o)) s
def execMclr (p acc : BitVec 3) (o : Bool) (s : State) : Host.Outcome State Fault Refusal :=
  settle (.mclr p acc o) (enqueue (.mclr p acc o)) s
def execMacc (p acc src : BitVec 3) (s : State) : Host.Outcome State Fault Refusal :=
  settle (.macc p acc src) (enqueue (.macc p acc src)) s
def execMcfg (p : BitVec 3) (s1 : BitVec 6) (s : State) : Host.Outcome State Fault Refusal :=
  settle (.mcfg p s1) (enqueue (.mcfg p s1)) s
def execMdrn (p acc : BitVec 3) (v : BitVec 5) (s1 : BitVec 6) (o : Bool) (s : State) :
    Host.Outcome State Fault Refusal := settle (.mdrn p acc v s1 o) (enqueue (.mdrn p acc v s1 o)) s
def execMdrns (p acc : BitVec 3) (opts : BitVec 5) (s1 s2 : BitVec 6) (o : Bool) (s : State) :
    Host.Outcome State Fault Refusal := settle (.mdrns p acc opts s1 s2 o) (enqueue (.mdrns p acc opts s1 s2 o)) s
def execMrep (p : BitVec 3) (count : BitVec 16) (s : State) : Host.Outcome State Fault Refusal :=
  settle (.mrep p count) (fun s => s.setMe { s.me with mrepleft := count, mrepArmed := true, undefC := setDel s.me.undefC 0x12 }) s

-- The engine of a core.

/-- The head of a context's queue. -/
def headJob (s : State) (ctx : Nat) : Option MJob := (s.ctx ctx).mq.head?
/-- Every matrix instruction that either context of a core issued before number id has completed (R223). -/
def earlierDone (s : State) (core id : Nat) : Bool :=
  !([2 * core, 2 * core + 1].any fun c => (s.ctx c).mq.any fun j => decide (j.id < id))
/-- An MCFG issued before number id is still to be applied. -/
def cfgBefore (s : State) (core id : Nat) : Bool :=
  [2 * core, 2 * core + 1].any fun c => (s.ctx c).mq.any fun j => isMcfg j.i && decide (j.id < id)
/-- May the head of a context begin (R211, R223)? -/
def mayBegin (s : State) (core c : Nat) : Bool :=
  let t := s.ctx (2 * core + c)
  match headJob s (2 * core + c) with
  | none => false
  | some j =>
    t.active && !j.begun && !(isMcfg j.i) && !t.holdsMatrix && !(cfgBefore s core j.id) &&
      (fld 0 2 (s.core core).cfg == 1 ||
        (match headJob s (2 * core + (1 - c)) with | some k => !k.begun | none => true))
/-- Which context's instruction begins next: they alternate when both have work. -/
def nextBegin (s : State) (core : Nat) : Option Nat :=
  let a := mayBegin s core 0
  let b := mayBegin s core 1
  if a && b then some (1 - (s.core core).mlast % 2) else if a then some 0 else if b then some 1 else none
/-- The pass or operation in progress of a context whose time has run. -/
def dueJob (s : State) (ctx : Nat) : Option MJob :=
  match headJob s ctx with
  | some j => if j.begun && decide (j.due ≤ s.cycle) then some j else none
  | none => none
/-- The MCFG of a core that can be applied: it does not begin while its context is about to be saved (R50). -/
def dueMcfg (s : State) (core : Nat) : Option (Nat × MJob) :=
  [2 * core, 2 * core + 1].findSome? fun c =>
    match headJob s c with
    | some j =>
      if isMcfg j.i && !(s.ctx c).holdsMatrix && earlierDone s core j.id then some (c, j) else none
    | none => none

def execMatrixInstructionBegins (core ctx : Nat) (s : State) : Host.Outcome State Fault Refusal :=
  .next (
    let n := 2 * core + ctx
    let s' := landCtx n s
    match headJob s' n with
    | some j =>
      if nextBegin s' core = some ctx then
        let s' := s'.setCore core { s'.core core with mlast := ctx }
        (s'.setCtx n (setHead (s'.ctx n) (startPass s' n j))).bump
      else s
    | none => s)

/-- The end of a pass (R217, R227, R228): applied; reissued after a residue, which is a retry; or, at the third mismatch,
the instruction stops; two residue stops of a core within one tick retire it (R364). -/
def endPass (s : State) (n : Nat) (out : PassOutcome) (j : MJob) : State :=
  match out with
  | .uncorrect => matrixStop s n 1 j
  | .residue =>
    if j.retries < 2 then
      let s := countRetry s n j
      s.setCtx n (setHead (s.ctx n)
        { j with retries := j.retries + 1, due := s.cycle + passTime (s.core (coreOf n)).cfg (visited j) })
    else
      let k := s.core (coreOf n)
      let s' := matrixStop (s.setCore (coreOf n) { k with stopAt := some s.ticks }) n 0 j
      if k.stopAt = some s.ticks then retireCore s' (coreOf n) else s'
  | .good => if jobPoison s n j then matrixStop s n 2 j else (applyPass s n j).bump
def execMatrixPass (core ctx : Nat) (out : PassOutcome) (s : State) : Host.Outcome State Fault Refusal :=
  .next (
    let n := 2 * core + ctx
    let s' := landCtx n s
    match dueJob s' n with
    | some j => if isMM j.i then endPass s' n out j else s
    | none => s)

def execMatrixOperationCompletes (core ctx : Nat) (s : State) : Host.Outcome State Fault Refusal :=
  .next (
    let n := 2 * core + ctx
    let s' := landCtx n s
    match dueJob s' n with
    | some j =>
      if isMM j.i then s else if jobPoison s' n j then matrixStop s' n 2 j else finishOp s' n j
    | none => s)

def execMcfgApplied (core : Nat) (s : State) : Host.Outcome State Fault Refusal :=
  .next (
    match dueMcfg s core with
    | some (c, j) =>
      let s := s.setCore core { s.core core with cfg := fld 0 3 j.s1 }
      s.setCtx c { s.ctx c with mq := (s.ctx c).mq.tail }
    | none => s)

/-- The matrix event that is due on a core. -/
def matrixEvent (s : State) (core : Nat) : Option Instr :=
  let one := fun (c : Nat) =>
    (dueJob s (2 * core + c)).map fun j =>
      if isMM j.i then Instr.matrixPass core c .good else .matrixOperationCompletes core c
  match one 0 with
  | some i => some i
  | none =>
    match one 1 with
    | some i => some i
    | none =>
      match dueMcfg s core with
      | some _ => some (.mcfgApplied core)
      | none => (nextBegin s core).map (Instr.matrixInstructionBegins core)

end Sys2Proof.Machine
end

