-- ==== Sys2Proof/Machine/Vfn.lean ====
section
/-!
DEFINITION. The functions of VFN (R179). Each is enclosed between two dyadic numbers that no FP32 value separates; the
FP32 values that bracket it follow, and Config.vfnUpper chooses one of them. Fixed-point numbers have `fxN` fraction
bits.
-/
namespace Sys2Proof.Machine

/-- Fraction bits of the fixed-point numbers below. -/
def fxN : Nat := 720
def fxOne : Int := (2 : Int) ^ fxN
def fxMul (a b : Int) : Int := a * b / fxOne
def fxDiv (a b : Int) : Int := a * fxOne / b

/-- The error allowed for a series: 2^(60 - fxN). -/
def fxSlack : Int := (2 : Int) ^ 60

/-- Sum of t + f t + f (f t) .. for k = 1, 2 .. while fuel lasts or the term is zero; `next k t` gives the next term. -/
def fxSeries (next : Nat → Int → Int) : Nat → Nat → Int → Int → Int
  | 0, _, _, acc => acc
  | fuel + 1, k, t, acc => if t = 0 then acc else fxSeries next fuel (k + 1) (next k t) (acc + t)

/-- ln x for x = (1 + y) / (1 - y): 2 (y + y^3/3 + ..). -/
def fxAtanh (y : Int) : Int :=
  let y2 := fxMul y y
  let rec go (fuel k : Nat) (p acc : Int) : Int :=
    match fuel with
    | 0 => acc
    | fuel + 1 => if p = 0 then acc else go fuel (k + 2) (fxMul p y2) (acc + p / (k : Int))
  go 800 1 y 0

/-- ln 2 = 2 atanh (1/3). -/
def fxLn2 : Int := 2 * fxAtanh (fxOne / 3)

/-- atan (1/n), for Machin's formula. -/
def fxAtanInv (n : Int) : Int :=
  let rec go (fuel k : Nat) (p acc : Int) : Int :=
    match fuel with
    | 0 => acc
    | fuel + 1 =>
      if p = 0 then acc else go fuel (k + 2) (-(p / (n * n))) (acc + p / (k : Int))
  go 800 1 (fxOne / n) 0

def fxPi : Int := 4 * (4 * fxAtanInv 5 - fxAtanInv 239)

/-- The integer square root, by Newton from above. -/
def isqrtGo : Nat → Nat → Nat → Nat
  | 0, _, r => r
  | fuel + 1, n, r => let r' := (r + n / r) / 2; if r' < r then isqrtGo fuel n r' else r
def isqrt (n : Nat) : Nat := if n = 0 then 0 else isqrtGo 4096 n (2 ^ (n.log2 / 2 + 1))

/-- e^z for |z| at most 1. -/
def fxExpSmall (z : Int) : Int := fxSeries (fun k t => fxMul t z / (k : Int)) 400 1 fxOne 0

/-- e^z as (m, k): m * 2^k with m fixed-point between 1 and 2. -/
def fxExp (z : Int) : Int × Int :=
  let k := z / fxLn2
  (fxExpSmall (z - k * fxLn2), k)

/-- Fixed-point of m * 2^k; k may be negative. -/
def fxShift (m : Int) (k : Int) : Int := if 0 ≤ k then m * (2 : Int) ^ k.toNat else m / (2 : Int) ^ (-k).toNat

/-- An FP32 operand as fixed-point: exact. -/
def fxOf (neg : Bool) (m : Nat) (e : Int) : Int := fxShift (if neg then -(m : Int) else (m : Int)) (e + (fxN : Int))

/-- sin and cos of a fixed-point angle of any size below 2^20 + 1. -/
def fxReduce (x : Int) : Int × Int :=
  let half := fxPi / 2
  let q := (2 * x + half) / (2 * half)
  (x - q * half, q % 4)
def fxSinSmall (z : Int) : Int :=
  let z2 := fxMul z z
  fxSeries (fun k t => -(fxMul t z2) / ((2 * k * (2 * k + 1) : Nat) : Int)) 300 1 z 0
def fxCosSmall (z : Int) : Int :=
  let z2 := fxMul z z
  fxSeries (fun k t => -(fxMul t z2) / ((2 * k * (2 * k - 1) : Nat) : Int)) 300 1 fxOne 0
/-- sin (x + 90 degrees * add). -/
def fxSin (x : Int) (add : Int) : Int :=
  let r := fxReduce x
  match ((r.2 + add) % 4).toNat with
  | 0 => fxSinSmall r.1
  | 1 => fxCosSmall r.1
  | 2 => -(fxSinSmall r.1)
  | _ => -(fxCosSmall r.1)

/-- The standard normal distribution function below 0, for x fixed-point between 0 and 16: 1/2 - phi(x) (x + x^3/3 +
x^5/15 + ..). -/
def fxQ (x : Int) : Int :=
  let x2 := fxMul x x
  let sum := fxSeries (fun k t => fxMul t x2 / ((2 * k + 1 : Nat) : Int)) 1600 1 x 0
  let ex := fxExp (-(x2 / 2))
  let root : Int := (isqrt ((2 * fxPi * fxOne).toNat) : Int)
  fxOne / 2 - fxMul (fxDiv (fxShift ex.1 ex.2) root) sum

/-- An enclosure: lo * 2^e ≤ value ≤ hi * 2^e; equal ends: exact. -/
structure Encl where
  lo : Int
  hi : Int
  e : Int
  deriving DecidableEq, Repr

/-- A fixed-point result within the slack. -/
def enclFx (x : Int) : Encl := ⟨x - fxSlack, x + fxSlack, -(fxN : Int)⟩

/-- The value x less, and plus, a positive amount below x * 2^-80: the tail of a function that tends to x. -/
def enclBelow (m : Int) (e : Int) : Encl := ⟨m * (2 : Int) ^ 80 - m, m * (2 : Int) ^ 80, e - 80⟩

/-- A positive value below every FP32 value. -/
def enclTiny (neg : Bool) : Encl := if neg then ⟨-1, 0, -200⟩ else ⟨0, 1, -200⟩

/-- Enclosures of EXP2, LOG2 (x > 0), RCP, RSQ (x > 0), TANH, SIGM, GELU, SILU, SIN, COS for a nonzero finite operand. -/
def enclExp2 (neg : Bool) (m : Nat) (e : Int) : Encl :=
  let x := fxOf neg m e
  let i := x / fxOne
  let f := x - i * fxOne
  if 200 ≤ i then ⟨1, 1, 200⟩
  else if i < -300 then enclTiny false
  else if f = 0 then ⟨1, 1, i⟩
  else
    let v := fxExpSmall (fxMul f fxLn2)
    ⟨v - fxSlack, v + fxSlack, i - (fxN : Int)⟩

def enclLog2 (m : Nat) (e : Int) : Encl :=
  -- m * 2^e = y * 2^k with y in [1, 2)
  let g : Int := (m.log2 : Int)
  let k := e + g
  let y := fxShift (m : Int) ((fxN : Int) - g)
  if y = fxOne then ⟨k, k, 0⟩
  else enclFx (k * fxOne + fxDiv (2 * fxAtanh (fxDiv (y - fxOne) (y + fxOne))) fxLn2)

def enclRsq (m : Nat) (e : Int) : Encl :=
  -- 1 / sqrt(m 2^e); with e even, 2^400 / sqrt m, scaled
  let m' := if e % 2 = 0 then m else 2 * m
  let e' := if e % 2 = 0 then e else e - 1
  let r := isqrt (2 ^ 800 / m')
  let exact := r * r * m' = 2 ^ 800
  ⟨(r : Int), if exact then (r : Int) else (r : Int) + 1, -400 - e' / 2⟩

/-- e^x / (1 + e^x) for |x| below 200. -/
def fxSigm (x : Int) : Int :=
  let ex := fxExp x
  let v := fxShift ex.1 ex.2
  fxDiv v (fxOne + v)

/-- Is |m * 2^e| below 2^k? -/
def below (m : Nat) (e k : Int) : Bool := decide ((m.log2 : Int) + e < k)

def enclTanh (neg : Bool) (m : Nat) (e : Int) : Encl :=
  let sm : Int := if neg then -(m : Int) else (m : Int)
  if below m e (-60) then
    -- |x| - |x|^3 < |tanh x| < |x|
    let b := enclBelow (m : Int) e
    if neg then ⟨-b.hi, -b.lo, b.e⟩ else b
  else if !(below m e 6) then (if neg then ⟨-(2 : Int) ^ 80, 1 - (2 : Int) ^ 80, -80⟩ else ⟨(2 : Int) ^ 80 - 1, (2 : Int) ^ 80, -80⟩)
  else
    let s := fxSigm (2 * fxShift sm (e + (fxN : Int)))
    enclFx (2 * s - fxOne)

def enclSigm (neg : Bool) (m : Nat) (e : Int) : Encl :=
  if !(below m e 7) then (if neg then enclTiny false else ⟨(2 : Int) ^ 80 - 1, (2 : Int) ^ 80, -80⟩)
  else enclFx (fxSigm (fxOf neg m e))

def enclSilu (neg : Bool) (m : Nat) (e : Int) : Encl :=
  if below m e (-60) then
    -- x/2 < x sigm x < x/2 + x^2
    ⟨(if neg then -(m : Int) else (m : Int)) * (2 : Int) ^ 80, (if neg then -(m : Int) else (m : Int)) * (2 : Int) ^ 80 + 1, e - 81⟩
  else if !(below m e 8) then (if neg then enclTiny true else enclBelow (m : Int) e)
  else
    let x := fxOf neg m e
    enclFx (fxMul x (fxSigm x))

def enclGelu (neg : Bool) (m : Nat) (e : Int) : Encl :=
  if below m e (-60) then
    ⟨(if neg then -(m : Int) else (m : Int)) * (2 : Int) ^ 80, (if neg then -(m : Int) else (m : Int)) * (2 : Int) ^ 80 + 1, e - 81⟩
  else if !(below m e 4) then (if neg then enclTiny true else enclBelow (m : Int) e)
  else
    let x := fxOf false m e
    let q := fxQ x
    if neg then enclFx (-(fxMul x q)) else enclFx (fxMul x (fxOne - q))

def enclSin (neg : Bool) (m : Nat) (e : Int) : Encl :=
  if below m e (-60) then
    let b := enclBelow (m : Int) e
    if neg then ⟨-b.hi, -b.lo, b.e⟩ else b
  else enclFx (fxSin (fxOf neg m e) 0)

def enclCos (neg : Bool) (m : Nat) (e : Int) : Encl :=
  if below m e (-60) then ⟨(2 : Int) ^ 80 - 1, (2 : Int) ^ 80, -80⟩
  else enclFx (fxSin (fxOf neg m e) 1)

/-- One end of an enclosure rounded into FP32, zero taking the sign of the value. -/
def enclEnd (rnd : Nat) (neg : Bool) (x e : Int) : Nat × Flags :=
  if x = 0 then (fp32.sign neg, 0) else roundQuot fp32 rnd (decide (x < 0)) x.natAbs 1 e

/-- The FP32 result of an enclosed value: the exact value where it is one, else one of its two neighbours (R179),
with NX, UF, OF and NFP of R102. -/
def pickEncl (fn : Nat) (op : BitVec 32) (c : Encl) : Nat × Flags :=
  let neg := decide (c.lo < 0)
  let dn := enclEnd 3 neg c.lo c.e
  let up := enclEnd 2 neg c.hi c.e
  if dn.1 = up.1 then (dn.1, dn.2)
  else
    let b := if Config.vfnUpper fn op then up else dn
    let ovf := up.1 = fp32.inf false || dn.1 = fp32.inf true
    let small := fun (x : Nat) => !(valLt (.fin false 1 (-126)) (unpack fp32 x).abs)
    let tiny := small dn.1 && small up.1
    (b.1, fNX ||| fIf ovf fOF ||| fIf (!(unpack fp32 b.1).finite) fNFP ||| fIf tiny fUF)

/-- SQRT, correctly rounded: the root with a sticky bit (R179). -/
def vfnSqrt (rnd : Nat) (m : Nat) (e : Int) : Nat × Flags :=
  let m' := (if e % 2 = 0 then m else 2 * m) * 2 ^ 120
  let e' := (if e % 2 = 0 then e else e - 1) - 120
  let r := isqrt m'
  roundQuot fp32 rnd false (2 * r + (if r * r = m' then 0 else 1)) 1 (e' / 2 - 1)

/-- 1/x: exact quotient ends. -/
def vfnRcp (op : BitVec 32) (neg : Bool) (m : Nat) (e : Int) : Nat × Flags :=
  let dn := roundQuot fp32 3 neg 1 m (-e)
  let up := roundQuot fp32 2 neg 1 m (-e)
  if dn.1 = up.1 then dn
  else
    let b := if Config.vfnUpper 2 op then up else dn
    let ovf := !(unpack fp32 dn.1).finite || !(unpack fp32 up.1).finite
    (b.1, fNX ||| fIf ovf fOF ||| fIf (!(unpack fp32 b.1).finite) fNFP |||
      fIf (bitAt 3 dn.2 || bitAt 3 up.2) fUF)

/-- VFN on an FP32 operand (R179): pattern and flags. -/
def vfn32 (fn rnd : Nat) (op : BitVec 32) : Nat × Flags :=
  let nan := fp32.nan
  let pinf := fp32.inf false
  match unpack fp32 op.toNat with
  | .nan => (nan, fNFC)
  | .inf neg =>
    match fn with
    | 0 => (if neg then 0 else pinf, fNFC)
    | 1 => if neg then (nan, fNFC ||| fNV) else (pinf, fNFC)
    | 2 => (fp32.sign neg, fNFC)
    | 3 => if neg then (nan, fNFC ||| fNV) else (0, fNFC)
    | 4 => if neg then (nan, fNFC ||| fNV) else (pinf, fNFC)
    | 5 => (fp32.sign neg + 0x3F800000, fNFC)
    | 6 => (if neg then 0 else 0x3F800000, fNFC)
    | 7 => (if neg then fp32.sign true else pinf, fNFC)
    | 8 => (if neg then fp32.sign true else pinf, fNFC)
    | _ => (nan, fNFC ||| fNV)
  | .fin neg m e =>
    if m = 0 then
      match fn with
      | 0 => (0x3F800000, 0)
      | 1 => (fp32.inf true, fDZ ||| fNFP)
      | 2 => (fp32.inf neg, fDZ ||| fNFP)
      | 3 => (fp32.inf neg, fDZ ||| fNFP)
      | 6 => (0x3F000000, 0)
      | 10 => (0x3F800000, 0)
      | _ => (op.toNat, 0)
    else
      match fn with
      | 0 =>
        let c := enclExp2 neg m e
        -- overflow gives +infinity (R179)
        if 128 ≤ c.e + (c.lo.natAbs.log2 : Int) then (pinf, fOF ||| fNX ||| fNFP) else pickEncl 0 op c
      | 1 => if neg then (nan, fNV ||| fNFP) else pickEncl 1 op (enclLog2 m e)
      | 2 => vfnRcp op neg m e
      | 3 => if neg then (nan, fNV ||| fNFP) else pickEncl 3 op (enclRsq m e)
      | 4 => if neg then (nan, fNV ||| fNFP) else vfnSqrt rnd m e
      | 5 => pickEncl 5 op (enclTanh neg m e)
      | 6 => pickEncl 6 op (enclSigm neg m e)
      | 7 => pickEncl 7 op (enclGelu neg m e)
      | 8 => pickEncl 8 op (enclSilu neg m e)
      | 9 => if below m e 20 then pickEncl 9 op (enclSin neg m e) else (nan, fNV ||| fNFP)
      | _ => if below m e 20 then pickEncl 10 op (enclCos neg m e) else (nan, fNV ||| fNFP)

/-- VFN in a view: a 16-bit operand converts exactly to FP32, and the FP32 result is rounded into the view (R179). -/
def vfnView (t fn rnd : Nat) (x : Nat) : Nat × Flags :=
  if t = 0 then vfn32 fn rnd (BitVec.ofNat 32 x)
  else
    let f := viewFmt t
    let w := (cvtFmt f fp32 0 x).1
    let r := vfn32 fn rnd (BitVec.ofNat 32 w)
    let v := unpack fp32 r.1
    let y := roundVal f rnd v
    (y.1, r.2 ||| y.2)

end Sys2Proof.Machine
end

