-- ==== Sys2Proof/Machine/Vector.lean ====
section
/-!
DEFINITION. V unit, element by element: results under a mask (R169 to R171), arithmetic (R177, R178), VFN (R179),
compares and masks (R180 to R182), integers (R183), conversion and quantisation (R184 to R186), scaling and bias (R187).
-/
namespace Sys2Proof.Machine

/-- The meaning of a V slot: it takes a vector unit (R68). -/
def vsettle (i : Instr) (effect : State → State) (s : State) : Host.Outcome State Fault Refusal :=
  settle i (fun s => effect (takeUnit i s)) s

-- Operands.

/-- RMODE.RND and RMODE.F8NAN (R33). -/
def State.rnd (s : State) : Nat := fldN 0 2 s.src.rmode
def State.f8nan (s : State) : Bool := bitAt 2 s.src.rmode
/-- An operand of a reconstructing instruction (R175). -/
def State.sv (s : State) (n : BitVec 5) : WithFlags Tile := (s.rv n).spatial
/-- The side-car of v(n) as it stands when this slot acts: a result that does not write it leaves it (R171). -/
def State.sideOf (s : State) (n : BitVec 5) : Vector (BitVec 32) 32 :=
  match s.me.pendOf (.v n.toNat) with
  | some ⟨_, .tile t, _, _, _, _, _⟩ => t.side
  | _ => (vget s.me.v n.toNat Tile.zero).side
/-- Every scale 1.0. -/
def sideOnes : Vector (BitVec 32) 32 := Vector.replicate 32 0x3F800000
/-- The tag and the mask of a binary transparent result (R118). -/
def tagOf2 (a b : Tile) : BitVec 8 := joinTag a.tag b.tag
def maskOf2 (a b : Tile) : BitVec 16 := a.mask ||| b.mask

-- Results.

/-- The lanes of a result, each from its elements, and the flags of the selected ones (R169). -/
def lanesOf (view : Nat) (sel : Nat → Bool) (f : Nat → Nat → Nat × Flags) : Vector (BitVec 32) 1024 × Flags :=
  let r := vgen 1024 fun n =>
    if sel n then
      let es := (List.range (perLane view)).map fun b => f (n / 64) (perLane view * (n % 64) + b)
      (packLane view fun b => (es.getD b (0, 0)).1, orFlags es)
    else (0, 0)
  (r.map Prod.fst, r.toList.foldl (fun f x => f ||| x.2) 0)
/-- A computed tile under K and M (R169, R170): D is read where it is kept. -/
def State.merged (s : State) (d : BitVec 5) (k : BitVec 3) (m : Bool) (r : Tile) : Tile :=
  if k = 0 then r
  else
    let km := s.rk k
    let o := s.rv d
    { r with
      lanes := vgen 1024 fun n => if bitAt n km then vget r.lanes n 0 else if m then 0 else o.lane (n / 64) (n % 64),
      tag := if m then r.tag else joinTag r.tag o.tag,
      mask := if m then r.mask else r.mask ||| o.mask }
/-- The bound of an instruction, with implicit reconstruction (R173). -/
def State.bound (s : State) (i : Instr) (b : Nat) : Nat := b + if reconstructs i s then bRecon else 0
/-- An element-by-element result in D. -/
def State.eltwise (s : State) (i : Instr) (view : BitVec 3) (d : BitVec 5) (k : BitVec 3) (m : Bool)
    (tag : BitVec 8) (mask : BitVec 16) (recon : Flags) (b : Nat) (f : Nat → Nat → Nat × Flags) : State :=
  let km := s.rk k
  let r := lanesOf view.toNat (fun n => k == 0 || bitAt n km) f
  s.outV d (s.merged d k m { lanes := r.1, tag := tag, mask := mask, side := s.sideOf d }) (r.2 ||| recon) (s.bound i b)
/-- Without flags. -/
def plain (x : Nat) : Nat × Flags := (x, 0)

/-- A transparent instruction of two tiles. -/
def State.trans2 (s : State) (i : Instr) (t : BitVec 3) (d a b : BitVec 5) (k : BitVec 3) (m : Bool)
    (f : Nat → Nat → Nat × Flags) : State :=
  let x := s.rv a
  let y := s.rv b
  s.eltwise i t d k m (tagOf2 x y) (maskOf2 x y) 0 bElem fun r c => f (x.elem t.toNat r c) (y.elem t.toNat r c)
/-- A reconstructing instruction of one tile, and of two. -/
def State.recon1 (s : State) (i : Instr) (t : BitVec 3) (d a : BitVec 5) (k : BitVec 3) (m : Bool) (b : Nat)
    (f : Nat → Nat × Flags) : State :=
  let x := s.sv a
  s.eltwise i t d k m 0 0xFFFF x.2 b fun r c => f (x.1.elem t.toNat r c)
def State.recon2 (s : State) (i : Instr) (t : BitVec 3) (d a b : BitVec 5) (k : BitVec 3) (m : Bool)
    (f : Nat → Nat → Nat × Flags) : State :=
  let x := s.sv a
  let y := s.sv b
  s.eltwise i t d k m 0 0xFFFF (x.2 ||| y.2) bElem fun r c => f (x.1.elem t.toNat r c) (y.1.elem t.toNat r c)
/-- VFMA and VFMS: D is read too. -/
def State.recon3 (s : State) (i : Instr) (t : BitVec 3) (d a b : BitVec 5) (k : BitVec 3) (m : Bool)
    (f : Nat → Nat → Nat → Nat × Flags) : State :=
  let x := s.sv a
  let y := s.sv b
  let z := s.sv d
  s.eltwise i t d k m 0 0xFFFF (x.2 ||| y.2 ||| z.2) bElem fun r c =>
    f (x.1.elem t.toNat r c) (y.1.elem t.toNat r c) (z.1.elem t.toNat r c)

-- Arithmetic.

def execVadd (t : BitVec 3) (d a b : BitVec 5) (k : BitVec 3) (m : Bool) (s : State) :
    Host.Outcome State Fault Refusal :=
  vsettle (.vadd t d a b k m) (fun s => s.trans2 (.vadd t d a b k m) t d a b k m (fAdd (viewFmt t.toNat) s.rnd)) s
def execVsub (t : BitVec 3) (d a b : BitVec 5) (k : BitVec 3) (m : Bool) (s : State) :
    Host.Outcome State Fault Refusal :=
  vsettle (.vsub t d a b k m) (fun s => s.trans2 (.vsub t d a b k m) t d a b k m (fSub (viewFmt t.toNat) s.rnd)) s
def execVmul (t : BitVec 3) (d a b : BitVec 5) (k : BitVec 3) (m : Bool) (s : State) :
    Host.Outcome State Fault Refusal :=
  vsettle (.vmul t d a b k m) (fun s => s.recon2 (.vmul t d a b k m) t d a b k m (fMul (viewFmt t.toNat) s.rnd)) s
def execVfma (t : BitVec 3) (d a b : BitVec 5) (k : BitVec 3) (m : Bool) (s : State) :
    Host.Outcome State Fault Refusal :=
  vsettle (.vfma t d a b k m)
    (fun s => s.recon3 (.vfma t d a b k m) t d a b k m (fFma (viewFmt t.toNat) s.rnd false false)) s
def execVfms (t : BitVec 3) (d a b : BitVec 5) (k : BitVec 3) (m : Bool) (s : State) :
    Host.Outcome State Fault Refusal :=
  vsettle (.vfms t d a b k m)
    (fun s => s.recon3 (.vfms t d a b k m) t d a b k m (fFma (viewFmt t.toNat) s.rnd false true)) s
def execVmin (t : BitVec 3) (d a b : BitVec 5) (k : BitVec 3) (m : Bool) (s : State) :
    Host.Outcome State Fault Refusal :=
  vsettle (.vmin t d a b k m) (fun s => s.recon2 (.vmin t d a b k m) t d a b k m (fMin (viewFmt t.toNat))) s
def execVmax (t : BitVec 3) (d a b : BitVec 5) (k : BitVec 3) (m : Bool) (s : State) :
    Host.Outcome State Fault Refusal :=
  vsettle (.vmax t d a b k m) (fun s => s.recon2 (.vmax t d a b k m) t d a b k m (fMax (viewFmt t.toNat))) s
def execVabs (t : BitVec 3) (d a : BitVec 5) (k : BitVec 3) (m : Bool) (s : State) :
    Host.Outcome State Fault Refusal :=
  vsettle (.vabs t d a k m) (fun s => s.recon1 (.vabs t d a k m) t d a k m bElem (fAbs (viewFmt t.toNat))) s
def execVneg (t : BitVec 3) (d a : BitVec 5) (k : BitVec 3) (m : Bool) (s : State) :
    Host.Outcome State Fault Refusal :=
  vsettle (.vneg t d a k m) (fun s =>
    let x := s.rv a
    s.eltwise (.vneg t d a k m) t d k m x.tag x.mask 0 bElem fun r c => fNeg (viewFmt t.toNat) (x.elem t.toNat r c)) s
def execVclamp (t : BitVec 3) (d a b : BitVec 5) (k : BitVec 3) (m : Bool) (s : State) :
    Host.Outcome State Fault Refusal :=
  vsettle (.vclamp t d a b k m) (fun s => s.recon2 (.vclamp t d a b k m) t d a b k m (fClamp (viewFmt t.toNat))) s
def execVfn (t : BitVec 3) (d a fn : BitVec 5) (k : BitVec 3) (m : Bool) (s : State) :
    Host.Outcome State Fault Refusal :=
  vsettle (.vfn t d a fn k m)
    (fun s => s.recon1 (.vfn t d a fn k m) t d a k m bFn (vfnView t.toNat fn.toNat s.rnd)) s

-- Compare, select and masks.

/-- VCMP on INT32 (R180). -/
def compareLane (cc : Nat) (x y : BitVec 32) : Bool :=
  match cc with
  | 0 => x == y
  | 1 => x != y
  | 2 => x.slt y
  | 3 => x.sle y
  | 4 => y.slt x
  | _ => y.sle x
def execVcmp (t kd : BitVec 3) (a b : BitVec 5) (cc : BitVec 3) (s : State) : Host.Outcome State Fault Refusal :=
  vsettle (.vcmp t kd a b cc) (fun s =>
    let x := s.sv a
    let y := s.sv b
    let r := vgen 1024 fun n =>
      let p := x.1.lane (n / 64) (n % 64)
      let q := y.1.lane (n / 64) (n % 64)
      if t = 0 then fCompare fp32 cc.toNat p.toNat q.toNat else (compareLane cc.toNat p q, 0)
    s.outK kd (maskOf 1024 fun n => (vget r n (false, 0)).1) (r.toList.foldl (fun f z => f ||| z.2) (x.2 ||| y.2))
      (s.bound (.vcmp t kd a b cc) bElem)) s
def execVsel (d a b : BitVec 5) (k : BitVec 3) (s : State) : Host.Outcome State Fault Refusal :=
  vsettle (.vsel d a b k) (fun s =>
    let x := s.rv a
    let y := s.rv b
    let km := s.rk k
    s.outV d { lanes := vgen 1024 fun n => if bitAt n km then x.lane (n / 64) (n % 64) else y.lane (n / 64) (n % 64),
               tag := tagOf2 x y, mask := maskOf2 x y, side := s.sideOf d } 0 bElem) s
def execKand (kd ka kb : BitVec 3) (s : State) : Host.Outcome State Fault Refusal :=
  vsettle (.kand kd ka kb) (fun s => s.outK kd (s.rk ka &&& s.rk kb) 0 bElem) s
def execKor (kd ka kb : BitVec 3) (s : State) : Host.Outcome State Fault Refusal :=
  vsettle (.kor kd ka kb) (fun s => s.outK kd (s.rk ka ||| s.rk kb) 0 bElem) s
def execKnot (kd ka : BitVec 3) (s : State) : Host.Outcome State Fault Refusal :=
  vsettle (.knot kd ka) (fun s => s.outK kd (~~~ s.rk ka) 0 bElem) s

-- Integer and bitwise instructions.

def execVand (t : BitVec 3) (d a b : BitVec 5) (k : BitVec 3) (m : Bool) (s : State) :
    Host.Outcome State Fault Refusal :=
  vsettle (.vand t d a b k m) (fun s => s.recon2 (.vand t d a b k m) t d a b k m fun x y => plain (x &&& y)) s
def execVor (t : BitVec 3) (d a b : BitVec 5) (k : BitVec 3) (m : Bool) (s : State) :
    Host.Outcome State Fault Refusal :=
  vsettle (.vor t d a b k m) (fun s => s.recon2 (.vor t d a b k m) t d a b k m fun x y => plain (x ||| y)) s
def execVxor (t : BitVec 3) (d a b : BitVec 5) (k : BitVec 3) (m : Bool) (s : State) :
    Host.Outcome State Fault Refusal :=
  vsettle (.vxor t d a b k m) (fun s => s.recon2 (.vxor t d a b k m) t d a b k m fun x y => plain (x ^^^ y)) s
/-- An integer as the low w bits of its two's complement. -/
def lowBits (w : Nat) (x : Int) : Nat := (x % (2 : Int) ^ w).toNat
/-- A sum or product: INT32 wraps, INT8 saturates with SAT (R183). -/
def intResult (t : BitVec 3) (x : Int) : Nat × Flags :=
  if t = 4 then let r := satInt 8 x; (lowBits 8 r.1, r.2) else (lowBits 32 x, 0)
def signedEl (t : BitVec 3) (x : Nat) : Int := toSigned (elemBits t.toNat) x
/-- The shift amount of an element of B. -/
def shiftEl (t : BitVec 3) (y : Nat) : Nat := if t = 4 then y % 8 else y % 32
def execVshl (t : BitVec 3) (d a b : BitVec 5) (k : BitVec 3) (m : Bool) (s : State) :
    Host.Outcome State Fault Refusal :=
  vsettle (.vshl t d a b k m)
    (fun s => s.recon2 (.vshl t d a b k m) t d a b k m fun x y => plain (x <<< shiftEl t y % 2 ^ elemBits t.toNat)) s
def execVshr (t : BitVec 3) (d a b : BitVec 5) (k : BitVec 3) (m : Bool) (s : State) :
    Host.Outcome State Fault Refusal :=
  vsettle (.vshr t d a b k m)
    (fun s => s.recon2 (.vshr t d a b k m) t d a b k m fun x y =>
      plain (lowBits (elemBits t.toNat) (signedEl t x / (2 : Int) ^ shiftEl t y))) s
def execViadd (t : BitVec 3) (d a b : BitVec 5) (k : BitVec 3) (m : Bool) (s : State) :
    Host.Outcome State Fault Refusal :=
  vsettle (.viadd t d a b k m)
    (fun s => s.recon2 (.viadd t d a b k m) t d a b k m fun x y => intResult t (signedEl t x + signedEl t y)) s
def execVimul (t : BitVec 3) (d a b : BitVec 5) (k : BitVec 3) (m : Bool) (s : State) :
    Host.Outcome State Fault Refusal :=
  vsettle (.vimul t d a b k m)
    (fun s => s.recon2 (.vimul t d a b k m) t d a b k m fun x y => intResult t (signedEl t x * signedEl t y)) s

-- Conversion and quantisation.

/-- An element of a view as a value. -/
def viewVal (view : Nat) (x : Nat) : Val :=
  match view with
  | 3 => unpack8 x
  | 4 => let v := toSigned 8 x; .fin (decide (v < 0)) v.natAbs 0
  | 5 => let v := toSigned 32 x; .fin (decide (v < 0)) v.natAbs 0
  | t => unpack (viewFmt t) x
/-- One element converted (R103, R104, R184). -/
def convertEl (rnd : Nat) (f8nan : Bool) (src dst : Nat) (x : Nat) : Nat × Flags :=
  let v := viewVal src x
  match dst with
  | 3 => satFp8 rnd f8nan v
  | 4 => if src = 4 ∨ src = 5 then let r := satInt 8 (signedEl (BitVec.ofNat 3 src) x); (lowBits 8 r.1, r.2)
         else valToInt rnd true 8 v
  | 5 => if src = 4 ∨ src = 5 then plain (lowBits 32 (signedEl (BitVec.ofNat 3 src) x)) else valToInt rnd true 32 v
  | t =>
    match src with
    | 3 => cvtFrom8 (viewFmt t) x
    | 4 => intToFmt (viewFmt t) rnd (toSigned 8 x)
    | 5 => intToFmt (viewFmt t) rnd (toSigned 32 x)
    | u => cvtFmt (viewFmt u) (viewFmt t) rnd x
def execVcvt (t : BitVec 3) (d a : BitVec 5) (src : BitVec 3) (part : BitVec 2) (k : BitVec 3) (m : Bool) (s : State) :
    Host.Outcome State Fault Refusal :=
  vsettle (.vcvt t d a src part k m) (fun s =>
    let x := s.rv a
    let conv := convertEl s.rnd s.f8nan src.toNat t.toNat
    let cs := viewCols src
    let cd := viewCols t
    if cd ≤ cs then
      let p := if cd < cs then cd * part.toNat else 0
      s.eltwise (.vcvt t d a src part k m) t d k m x.tag x.mask 0 bElem fun r c => conv (x.elem src.toNat r (p + c))
    else
      -- columns that it does not write are kept: D is read (R170)
      let o := s.rv d
      let km := s.rk k
      let lo := cs * part.toNat / perLane t.toNat
      let hi := lo + cs / perLane t.toNat
      let inPart := fun (n : Nat) => decide (lo ≤ n % 64) && decide (n % 64 < hi)
      let r := lanesOf t.toNat (fun n => inPart n && (k == 0 || bitAt n km)) fun r c =>
        conv (x.elem src.toNat r (c - cs * part.toNat))
      let old := fun (n : Nat) => o.lane (n / 64) (n % 64)
      s.outV d
        { lanes := vgen 1024 fun n =>
            if !(inPart n) then old n else if k = 0 ∨ bitAt n km then vget r.1 n 0 else if m then 0 else old n,
          tag := tagOf2 x o, mask := maskOf2 x o, side := s.sideOf d } r.2 bElem) s

/-- The 64 FP32 values of row i. -/
def Tile.row32 (t : Tile) (i : Nat) : List Nat := (List.range 64).map fun j => (t.lane i j).toNat
/-- Entry (i, b) of a side-car. -/
def sideAt (v : Vector (BitVec 32) 32) (i b : Nat) : BitVec 32 := vget v (2 * i + b) 0
def execVqnt (d a b : BitVec 5) (h : Bool) (s : State) : Host.Outcome State Fault Refusal :=
  vsettle (.vqnt d a b h) (fun s =>
    let x := s.rv a
    let y := s.rv b
    let o := s.rv d
    let q := (List.range 16).map fun i => quantiseBlock s.rnd (x.row32 i ++ y.row32 i)
    let byte := fun (i k : Nat) => ((q.getD i ([], 0)).1.getD k (0, 0)).1
    let new := fun (n : Nat) => packLane 3 fun e => byte (n / 64) (4 * (n % 32) + e)
    let scale := fun (i : Nat) => (q.getD i ([], 0)).2
    let f := q.foldl (fun f r => f ||| orFlags r.1) 0
    s.outV d
      (if h then
        { lanes := vgen 1024 fun n => if n % 64 < 32 then o.lane (n / 64) (n % 64) else new n,
          tag := joinTag (tagOf2 x y) o.tag, mask := maskOf2 x y ||| o.mask,
          side := vgen 32 fun n => if n % 2 = 1 then scale (n / 2) else sideAt o.side (n / 2) 0 }
      else
        { lanes := vgen 1024 fun n => if n % 64 < 32 then new n else 0,
          tag := tagOf2 x y, mask := maskOf2 x y,
          side := vgen 32 fun n => if n % 2 = 0 then scale (n / 2) else 0x3F800000 })
      f bCol) s
def execVdq (d a : BitVec 5) (q : BitVec 2) (k : BitVec 3) (m : Bool) (s : State) :
    Host.Outcome State Fault Refusal :=
  vsettle (.vdq d a q k m) (fun s =>
    let x := s.rv a
    let km := s.rk k
    let r := lanesOf 0 (fun n => k == 0 || bitAt n km) fun i j =>
      decode8 0 (x.elem 3 i (64 * q.toNat + j)) (sideAt x.side i (q.toNat / 2))
    s.outV d (s.merged d k m { lanes := r.1, tag := x.tag, mask := x.mask, side := sideOnes }) r.2 bElem) s

-- Scaling and bias.

def execVscr (t : BitVec 3) (d a b : BitVec 5) (k : BitVec 3) (m : Bool) (s : State) :
    Host.Outcome State Fault Refusal :=
  vsettle (.vscr t d a b k m) (fun s =>
    let x := s.sv a
    let y := s.rv b
    s.eltwise (.vscr t d a b k m) t d k m 0 0xFFFF x.2 bElem fun r c =>
      fMul (viewFmt t.toNat) s.rnd (x.1.elem t.toNat r c) (y.elem t.toNat r 0)) s
def execVscc (t : BitVec 3) (d a b : BitVec 5) (k : BitVec 3) (m : Bool) (s : State) :
    Host.Outcome State Fault Refusal :=
  vsettle (.vscc t d a b k m) (fun s =>
    let x := s.rv a
    let y := s.rv b
    s.eltwise (.vscc t d a b k m) t d k m x.tag x.mask 0 bElem fun r c =>
      fMul (viewFmt t.toNat) s.rnd (x.elem t.toNat r c) (y.elem t.toNat 0 c)) s
def execVbias (t : BitVec 3) (d a b : BitVec 5) (k : BitVec 3) (m : Bool) (s : State) :
    Host.Outcome State Fault Refusal :=
  vsettle (.vbias t d a b k m) (fun s =>
    let x := s.rv a
    let y := s.rv b
    s.eltwise (.vbias t d a b k m) t d k m x.tag x.mask 0 bElem fun r c =>
      if isHaar x.tag ∧ approxRows (tagLevels x.tag) ≤ r then plain (x.elem t.toNat r c)
      else fAdd (viewFmt t.toNat) s.rnd (x.elem t.toNat r c) (y.elem t.toNat 0 c)) s

end Sys2Proof.Machine
end

