-- ==== Sys2Proof/Machine/VectorMove.lean ====
section
/-!
DEFINITION. V unit, movement: broadcast, rotation and reduction (R188 to R190), the wavelet instructions (R191 to R194),
moves and scalar exchange (R195, R196), Slate accesses and records (R197 to R200), streams (R201 to R203), VFLAGS (R204).
-/
namespace Sys2Proof.Machine

-- Broadcast, rotation, reduction.

/-- A whole tile built from elements. -/
def fullLanes (view : Nat) (f : Nat → Nat → Nat) : Vector (BitVec 32) 1024 :=
  vgen 1024 fun n => packLane view fun b => f (n / 64) (perLane view * (n % 64) + b)
/-- A moved spatial tile: operand reconstructed, result spatial. -/
def State.moveRows (s : State) (i : Instr) (d a : BitVec 5) (row : Nat → Nat) : State :=
  let x := s.sv a
  s.outV d { lanes := vgen 1024 fun n => x.1.lane (row (n / 64)) (n % 64), tag := 0, mask := 0xFFFF,
             side := s.sideOf d } x.2 (s.bound i bRow)
/-- Columns moved: transparent. -/
def State.moveCols (s : State) (t : BitVec 3) (d a : BitVec 5) (col : Nat → Nat) : State :=
  let x := s.rv a
  s.outV d { lanes := fullLanes t.toNat fun r c => x.elem t.toNat r (col c), tag := x.tag, mask := x.mask,
             side := s.sideOf d } 0 bCol
def execVbcr (t : BitVec 3) (d a : BitVec 5) (imm : BitVec 8) (s : State) : Host.Outcome State Fault Refusal :=
  vsettle (.vbcr t d a imm) (fun s => s.moveRows (.vbcr t d a imm) d a fun _ => imm.toNat) s
def execVbcc (t : BitVec 3) (d a : BitVec 5) (imm : BitVec 8) (s : State) : Host.Outcome State Fault Refusal :=
  vsettle (.vbcc t d a imm) (fun s => s.moveCols t d a fun _ => imm.toNat) s
def execVrotr (t : BitVec 3) (d a : BitVec 5) (imm : BitVec 8) (s : State) : Host.Outcome State Fault Refusal :=
  vsettle (.vrotr t d a imm) (fun s => s.moveRows (.vrotr t d a imm) d a fun r => (r + imm.toNat) % 16) s
def execVrotc (t : BitVec 3) (d a : BitVec 5) (imm : BitVec 8) (s : State) : Host.Outcome State Fault Refusal :=
  vsettle (.vrotc t d a imm) (fun s => s.moveCols t d a fun c => (c + imm.toNat) % colsOf t.toNat) s

/-- A tree over neighbouring pairs (R189). -/
def treeFold (f : Nat → Nat → Nat × Flags) : Nat → List Nat → Nat × Flags
  | 0, l => (l.headD 0, 0)
  | fuel + 1, l =>
    match l with
    | [] => (0, 0)
    | [x] => (x, 0)
    | l =>
      let r := (pairUp l).map fun p => f p.1 p.2
      let z := treeFold f fuel (r.map Prod.fst)
      (z.1, z.2 ||| orFlags r)
/-- SUM, MAX, MIN in a view. -/
def reduceOp (t : Nat) (rnd : Nat) (op : BitVec 2) (x y : Nat) : Nat × Flags :=
  if t = 5 then
    let a := toSigned 32 x
    let b := toSigned 32 y
    plain (if op = 0 then lowBits 32 (a + b) else if op = 1 then (if a < b then y else x) else if b < a then y else x)
  else if op = 0 then fAdd (viewFmt t) rnd x y
  else if op = 1 then fMax (viewFmt t) x y
  else fMin (viewFmt t) x y
/-- 2^L x (R189). -/
def scaleSum (t rnd levels x : Nat) : Nat × Flags :=
  if t = 5 then plain (x * 2 ^ levels % 2 ^ 32)
  else
    let f := viewFmt t
    fMul f rnd ((f.bias + levels) * 2 ^ f.fb) x
/-- VREDR of column c: SUM of a Haar tile from its approximation rows. -/
def reduceCol (t rnd : Nat) (op : BitVec 2) (x : Tile) (c : Nat) : Nat × Flags :=
  if op = 0 ∧ isHaar x.tag then
    let l := tagLevels x.tag
    let z := treeFold (reduceOp t rnd 0) 5 ((List.range (approxRows l)).map fun i => x.elem t i c)
    let r := scaleSum t rnd l z.1
    (r.1, r.2 ||| z.2)
  else treeFold (reduceOp t rnd op) 5 ((List.range 16).map fun i => x.elem t i c)
def execVredr (t : BitVec 3) (d a : BitVec 5) (op : BitVec 2) (s : State) : Host.Outcome State Fault Refusal :=
  vsettle (.vredr t d a op) (fun s =>
    let x : WithFlags Tile := if op = 0 then (s.rv a, 0) else s.sv a
    let r := (List.range (colsOf t.toNat)).map fun c => reduceCol t.toNat s.rnd op x.1 c
    s.outV d { lanes := fullLanes t.toNat fun _ c => (r.getD c (0, 0)).1, tag := 0, mask := 0xFFFF,
               side := s.sideOf d } (orFlags r ||| x.2) (s.bound (.vredr t d a op) bRow)) s
def execVredc (t : BitVec 3) (d a : BitVec 5) (op : BitVec 2) (s : State) : Host.Outcome State Fault Refusal :=
  vsettle (.vredc t d a op) (fun s =>
    let x := s.rv a
    let r := (List.range 16).map fun i =>
      treeFold (reduceOp t.toNat s.rnd op) 8 ((List.range (colsOf t.toNat)).map fun c => x.elem t.toNat i c)
    s.outV d { lanes := fullLanes t.toNat fun i _ => (r.getD i (0, 0)).1, tag := x.tag, mask := x.mask,
               side := s.sideOf d } (orFlags r) bCol) s

/-- The raw lanes of v(n): the stored contents, undefined in an absent row (R24). -/
def State.rawLanes (s : State) (n : BitVec 5) : Vector (BitVec 32) 1024 :=
  let x := s.rv n
  vgen 1024 fun i => if x.absent (i / 64) then Config.freeLane s.stamp (s.pos n.toNat) (2048 + i) else vget x.lanes i 0
def execVshuf (t : BitVec 3) (d a b : BitVec 5) (k : BitVec 3) (m : Bool) (s : State) :
    Host.Outcome State Fault Refusal :=
  vsettle (.vshuf t d a b k m) (fun s =>
    let x := s.rv a
    let raw := s.rawLanes a
    let y := s.rv b
    s.eltwise (.vshuf t d a b k m) t d k m x.tag x.mask 0 bCol fun r c =>
      plain (rawElem raw t.toNat r (y.elem t.toNat r c % colsOf t.toNat))) s
def execVshfr (t : BitVec 3) (d a b : BitVec 5) (k : BitVec 3) (m : Bool) (s : State) :
    Host.Outcome State Fault Refusal :=
  vsettle (.vshfr t d a b k m) (fun s =>
    let x := s.rv a
    let raw := s.rawLanes a
    let y := s.rv b
    s.eltwise (.vshfr t d a b k m) t d k m x.tag 0xFFFF 0 bRow fun r c =>
      plain (rawElem raw t.toNat (y.elem t.toNat r c % 16) c)) s

-- Wavelet instructions.

/-- A tag of DOM 01 (R22). -/
def haarTag (levels : Nat) (thr : Bool) : BitVec 8 := BitVec.ofNat 8 (1 + 4 * levels + if thr then 32 else 0)
def execVhaar (d a : BitVec 5) (lv h : BitVec 3) (th : Bool) (s : State) : Host.Outcome State Fault Refusal :=
  vsettle (.vhaar d a lv h th) (fun s =>
    let r := haarTile lv.toNat (if th then some (vget s.src.h h.toNat 0) else none) (s.rv a).cols
    s.outV d { lanes := lanesOfCols r.1, tag := haarTag lv.toNat th, mask := r.2.1, side := s.sideOf d } r.2.2 bRow) s
def execVihaar (d a : BitVec 5) (s : State) : Host.Outcome State Fault Refusal :=
  vsettle (.vihaar d a) (fun s =>
    let x := s.sv a
    s.outV d { lanes := x.1.lanes, tag := 0, mask := 0xFFFF, side := s.sideOf d } x.2 bRow) s
def execVthr (d a : BitVec 5) (h : BitVec 3) (s : State) : Host.Outcome State Fault Refusal :=
  vsettle (.vthr d a h) (fun s =>
    let x := s.rv a
    let l := tagLevels x.tag
    let cols := x.cols.map (thresholdCol (vget s.src.h h.toNat 0) l)
    s.outV d { lanes := lanesOfCols cols, tag := if isHaar x.tag then x.tag ||| 0x20 else x.tag, mask := survival l cols, side := s.sideOf d } 0 bElem) s
def execVtag (d a : BitVec 5) (tag : BitVec 8) (s : State) : Host.Outcome State Fault Refusal :=
  vsettle (.vtag d a tag) (fun s =>
    let x := s.rv a
    let lanes := if tagValid x.tag && isHaar x.tag then vgen 1024 fun n => x.lane (n / 64) (n % 64) else x.lanes
    let cols := (List.range 64).map fun j => (List.range 16).map fun i => (vget lanes (64 * i + j) 0).toNat
    s.outV d { lanes := lanes, tag := tag, mask := if isHaar tag then survival (tagLevels tag) cols else 0xFFFF,
               side := x.side } 0 bElem) s

-- Moves and scalar exchange.

def execVmov (d a : BitVec 5) (k : BitVec 3) (m : Bool) (s : State) : Host.Outcome State Fault Refusal :=
  vsettle (.vmov d a k m) (fun s =>
    let x := s.rv a
    s.outV d (s.merged d k m { x with lanes := vgen 1024 fun n => x.lane (n / 64) (n % 64) }) 0 bElem) s
/-- An element from the low bits of a scalar (R195). -/
def scalarEl (view : Nat) (w : Word) : Nat := fldN 0 (elemBits view) w
def execVsplat (t : BitVec 3) (d : BitVec 5) (sa : BitVec 6) (k : BitVec 3) (m : Bool) (s : State) :
    Host.Outcome State Fault Refusal :=
  vsettle (.vsplat t d sa k m) (fun s =>
    let x := scalarEl t.toNat (s.rs sa)
    s.eltwise (.vsplat t d sa k m) t d k m 0 0xFFFF 0 bElem fun _ _ => plain x) s
def execViota (t : BitVec 3) (d : BitVec 5) (mode : BitVec 2) (s : State) : Host.Outcome State Fault Refusal :=
  vsettle (.viota t d mode) (fun s =>
    let v := fun (i j : Nat) => if mode = 0 then j else if mode = 1 then i else 64 * i + j
    s.outV d { lanes := fullLanes t.toNat fun i j => if t = 0 then (intToFmt fp32 0 (v i j)).1 else v i j,
               tag := 0, mask := 0xFFFF, side := s.sideOf d } 0 bElem) s
/-- Row and column of VINS and VEXT (R196). -/
def elRow (b : Word) : Nat := fldN 0 4 b
def elCol (t : BitVec 3) (b : Word) : Nat := fldN 8 8 b % colsOf t.toNat
def execVins (t : BitVec 3) (d : BitVec 5) (sa sb : BitVec 6) (s : State) : Host.Outcome State Fault Refusal :=
  vsettle (.vins t d sa sb) (fun s =>
    let x := s.rv d
    let r := elRow (s.rs sb)
    let c := elCol t (s.rs sb)
    let v := scalarEl t.toNat (s.rs sa)
    let w := perLane t.toNat
    let lane := packLane t.toNat fun b => if b = c % w then v else x.elem t.toNat r (w * (c / w) + b)
    s.outV d
      { x with
        lanes := vgen 1024 fun n =>
          if n / 64 = r then (if n % 64 = c / w then lane else x.lane r (n % 64)) else vget x.lanes n 0,
        mask := if isHaar x.tag then x.mask ||| BitVec.ofNat 16 (2 ^ r) else x.mask,
        side := s.sideOf d } 0 bElem) s
def execVext (t : BitVec 3) (d : BitVec 5) (sa sb : BitVec 6) (s : State) : Host.Outcome State Fault Refusal :=
  vsettle (.vext t d sa sb) (fun s =>
    let x := (s.rv d).elem t.toNat (elRow (s.rs sb)) (elCol t (s.rs sb))
    s.outS sa (if t = 4 ∨ t = 5 then BitVec.ofInt 64 (signedEl t x) else BitVec.ofNat 64 x) bRow) s

-- Slate loads and stores.

/-- A side-car from its 128-byte image (R197). -/
def sideOfBytes (l : List Byte) : Vector (BitVec 32) 32 := vgen 32 fun n => BitVec.ofNat 32 (numAt (4 * n) 4 l)
def bytesOfSide (v : Vector (BitVec 32) 32) : List Byte := v.toList.flatMap fun x => bytesOf 4 x.toNat
/-- The bounds of VLD (R173) and VPOP (R203), and of the flags of a store that reconstructs. -/
def bVLD : Nat := 6
def bVPOP : Nat := 8
def execVld (t : BitVec 3) (d : BitVec 5) (sa sb : BitVec 6) (k : BitVec 3) (m : Bool) (s : State) :
    Host.Outcome State Fault Refusal :=
  vsettle (.vld t d sa sb k m) (fun s =>
    let b := s.rs sb
    let rows := (List.range 16).map fun i => slRead s.myCl ((s.rs sa).toNat + i * vPitch b) 256
    let side := if vLsc b then sideOfBytes (slRead s.myCl (vSca b) 128) else s.sideOf d
    s.scored (.v d.toNat) (.tile (s.merged d k m { lanes := lanesOfRows rows, tag := 0, mask := 0xFFFF, side := side }))
      bVLD 0) s
/-- Selected lanes of a row written at a (R198). -/
def storeRow (cl : Cluster) (a : Nat) (x : Tile) (sel : BitVec 1024) (i : Nat) : Cluster :=
  if (List.range 64).all fun j => bitAt (64 * i + j) sel then slWrite cl a (rowBytes x.lanes i)
  else
    (List.range 64).foldl (fun cl j =>
      if bitAt (64 * i + j) sel then slWrite cl (a + 4 * j) (bytesOf 4 (vget x.lanes (64 * i + j) 0).toNat) else cl) cl
def execVst (t : BitVec 3) (d : BitVec 5) (sa sb : BitVec 6) (k : BitVec 3) (s : State) :
    Host.Outcome State Fault Refusal :=
  vsettle (.vst t d sa sb k) (fun s =>
    let b := s.rs sb
    let x := s.sv d
    let cl := (List.range 16).foldl (fun cl i => storeRow cl ((s.rs sa).toNat + i * vPitch b) x.1 (s.rk k) i) s.myCl
    let cl := if vLsc b then slWrite cl (vSca b) (bytesOfSide x.1.side) else cl
    let s' := s.setMyCl cl
    if reconstructs (.vst t d sa sb k) s then s'.flagsOnly x.2 bRecon else s') s
def execVldt (t : BitVec 3) (d : BitVec 5) (sa : BitVec 6) (s : State) : Host.Outcome State Fault Refusal :=
  vsettle (.vldt t d sa) (fun s =>
    let ea := (s.rs sa).toNat
    let h := slRead s.myCl ea 128
    let s' := s.scored (.v d.toNat)
      (.record s.nextId ea (recLen h) { Tile.zero with tag := recTag h, mask := recSurv h }) 0 0
    { fillRecords s.cur s' with nextId := s.nextId + 1 }) s
/-- What VSTT stores (R200): the tile, the set applied, the flags of the transform. -/
def recordOf (t : BitVec 3) (b : Word) (h : Vector (BitVec 128) 8) (x : Tile) :
    Tile × Option (Nat × BitVec 128) × Flags :=
  let lv := min (fldN 4 3 b) 4
  let n := fldN 0 3 b
  let set := vget h n 0
  if t ≠ 0 then (x, none, 0)
  else if isHaar x.tag then
    if bitAt 3 b then
      let l := tagLevels x.tag
      let cols := x.cols.map (thresholdCol set l)
      ({ x with lanes := lanesOfCols cols, tag := x.tag ||| 0x20, mask := survival l cols }, some (n, set), 0)
    else (x, none, 0)
  else if lv ≠ 0 then
    let r := haarTile lv (if bitAt 3 b then some set else none) x.cols
    ({ x with lanes := lanesOfCols r.1, tag := haarTag lv (bitAt 3 b), mask := r.2.1 },
      if bitAt 3 b then some (n, set) else none, r.2.2)
  else (x, none, 0)
def execVstt (t : BitVec 3) (d : BitVec 5) (sa sb : BitVec 6) (s : State) : Host.Outcome State Fault Refusal :=
  vsettle (.vstt t d sa sb) (fun s =>
    let r := recordOf t (s.rs sb) s.src.h (s.rv d)
    let x := r.1
    let bs := recBytes x.tag x.mask t.toNat r.2.1 (fun i b => sideAt x.side i b) x.rowRead
    (s.setMyCl (slWrite s.myCl (s.rs sa).toNat bs)).flagsOnly r.2.2 bElem) s

-- Streams.

def fifoOf (cl : Cluster) (b : Nat) : Fifo := tabGet ⟨[], []⟩ cl.fifo b
def setFifo (cl : Cluster) (b : Nat) (f : Fifo) : Cluster := { cl with fifo := tabPut cl.fifo b f }
/-- The cycles after which a pushed entry is visible (R202). -/
def bPush : Nat := 8
def execVpush (t : BitVec 3) (d : BitVec 5) (sa : BitVec 6) (k : BitVec 3) (s : State) :
    Host.Outcome State Fault Refusal :=
  vsettle (.vpush t d sa k) (fun s =>
    let rows := pushRows (s.rk k)
    if rows.isEmpty then s
    else
      let b := streamBank s sa
      let x := s.sv d
      let f := fifoOf s.myCl b
      let s' := s.setMyCl (setFifo s.myCl b
        { f with rows := f.rows ++ rows.map fun i => ⟨s.cycle + bPush, rowBytes x.1.lanes i, false⟩ })
      if reconstructs (.vpush t d sa k) s then s'.flagsOnly x.2 bRecon else s') s
def execVpop (t : BitVec 3) (d : BitVec 5) (sa sb : BitVec 6) (s : State) : Host.Outcome State Fault Refusal :=
  vsettle (.vpop t d sa sb) (fun s =>
    let b := streamBank s sa
    let f := fifoOf s.myCl b
    let n := min 16 (visible s.cycle f)
    let got := (f.rows.take n).map FRow.bytes
    let x : Tile := { lanes := lanesOfRows (got ++ List.replicate (16 - n) (List.replicate 256 0)), tag := 0,
                      mask := 0xFFFF, side := s.sideOf d }
    let s' := s.setMyCl (setFifo s.myCl b { f with rows := f.rows.drop n })
    (s'.scored (.v d.toNat) (.tile x) bVPOP 1).scored (.s sb.toNat) (.word (BitVec.ofNat 64 n)) bVPOP 1) s

-- Flags.

/-- The cycle by which every bounded result of the task has landed (R204). -/
def quietAt (t : Task) (cycle : Nat) : Nat :=
  t.inflight.foldl (fun m p => if p.sb then m else max m p.due) cycle
def execVflags (sa sb : BitVec 6) (s : State) : Host.Outcome State Fault Refusal :=
  vsettle (.vflags sa sb)
    (fun s => s.scored (.s sa.toNat) (.readFlags (fld 0 10 (s.rs sb))) (quietAt s.src s.cycle - s.cycle) 0) s

end Sys2Proof.Machine
end

