-- ==== Sys2Proof/Machine/Dispatch.lean ====
section
/-!
DEFINITION. The meaning of every instruction and step: one arm for each constructor, each a direct call of its meaning.
-/
namespace Sys2Proof.Machine

def exec (i : Instr) (s : State) : Host.Outcome State Fault Refusal :=
  match i with
  | .add p d a b => Sys2Proof.Machine.execAdd p d a b s
  | .addi p d a imm => Sys2Proof.Machine.execAddi p d a imm s
  | .sub p d a b => Sys2Proof.Machine.execSub p d a b s
  | .mul p d a b => Sys2Proof.Machine.execMul p d a b s
  | .mulhs p d a b => Sys2Proof.Machine.execMulhs p d a b s
  | .mulhz p d a b => Sys2Proof.Machine.execMulhz p d a b s
  | .divs p d a b => Sys2Proof.Machine.execDivs p d a b s
  | .divz p d a b => Sys2Proof.Machine.execDivz p d a b s
  | .rems p d a b => Sys2Proof.Machine.execRems p d a b s
  | .remz p d a b => Sys2Proof.Machine.execRemz p d a b s
  | .and p d a b => Sys2Proof.Machine.execAnd p d a b s
  | .or p d a b => Sys2Proof.Machine.execOr p d a b s
  | .xor p d a b => Sys2Proof.Machine.execXor p d a b s
  | .andn p d a b => Sys2Proof.Machine.execAndn p d a b s
  | .shl p d a b => Sys2Proof.Machine.execShl p d a b s
  | .shrs p d a b => Sys2Proof.Machine.execShrs p d a b s
  | .shrz p d a b => Sys2Proof.Machine.execShrz p d a b s
  | .rotl p d a b => Sys2Proof.Machine.execRotl p d a b s
  | .mins p d a b => Sys2Proof.Machine.execMins p d a b s
  | .minz p d a b => Sys2Proof.Machine.execMinz p d a b s
  | .maxs p d a b => Sys2Proof.Machine.execMaxs p d a b s
  | .maxz p d a b => Sys2Proof.Machine.execMaxz p d a b s
  | .clz p d a => Sys2Proof.Machine.execClz p d a s
  | .ctz p d a => Sys2Proof.Machine.execCtz p d a s
  | .popc p d a => Sys2Proof.Machine.execPopc p d a s
  | .bfx p d a b sx => Sys2Proof.Machine.execBfx p d a b sx s
  | .bfi p d a b => Sys2Proof.Machine.execBfi p d a b s
  | .mov p d a => Sys2Proof.Machine.execMov p d a s
  | .movi p d imm => Sys2Proof.Machine.execMovi p d imm s
  | .movhi p d q val => Sys2Proof.Machine.execMovhi p d q val s
  | .sel p d a b n => Sys2Proof.Machine.execSel p d a b n s
  | .cmp p cd a b cond => Sys2Proof.Machine.execCmp p cd a b cond s
  | .cand p cd ca cb => Sys2Proof.Machine.execCand p cd ca cb s
  | .cor p cd ca cb => Sys2Proof.Machine.execCor p cd ca cb s
  | .cxor p cd ca cb => Sys2Proof.Machine.execCxor p cd ca cb s
  | .lea p d a b n => Sys2Proof.Machine.execLea p d a b n s
  | .tidx p d a b g => Sys2Proof.Machine.execTidx p d a b g s
  | .lds p d a sz sx fb imm => Sys2Proof.Machine.execLds p d a sz sx fb imm s
  | .sts p d a sz imm => Sys2Proof.Machine.execSts p d a sz imm s
  | .amos p d a b op => Sys2Proof.Machine.execAmos p d a b op s
  | .stg p e a => Sys2Proof.Machine.execStg p e a s
  | .crd p d crn => Sys2Proof.Machine.execCrd p d crn s
  | .cwr p d crn => Sys2Proof.Machine.execCwr p d crn s
  | .fadd p d a b sub => Sys2Proof.Machine.execFadd p d a b sub s
  | .fmul p d a b => Sys2Proof.Machine.execFmul p d a b s
  | .ffma p d a b neg => Sys2Proof.Machine.execFfma p d a b neg s
  | .fcmp p cd a b cond => Sys2Proof.Machine.execFcmp p cd a b cond s
  | .fcvt p d a kind => Sys2Proof.Machine.execFcvt p d a kind s
  | .br c n off => Sys2Proof.Machine.execBr c n off s
  | .jmp off => Sys2Proof.Machine.execJmp off s
  | .jmpr c n a => Sys2Proof.Machine.execJmpr c n a s
  | .call off => Sys2Proof.Machine.execCall off s
  | .ret c n => Sys2Proof.Machine.execRet c n s
  | .loop a len => Sys2Proof.Machine.execLoop a len s
  | .arm a b keep t => Sys2Proof.Machine.execArm a b keep t s
  | .arrive a b scope => Sys2Proof.Machine.execArrive a b scope s
  | .wait a b scope => Sys2Proof.Machine.execWait a b scope s
  | .trap code => Sys2Proof.Machine.execTrap code s
  | .seg id => Sys2Proof.Machine.execSeg id s
  | .cropen off => Sys2Proof.Machine.execCropen off s
  | .boundedResultLands ctx idx => Sys2Proof.Machine.execBoundedResultLands ctx idx s
  | .scoreboardedResultCompletes ctx idx => Sys2Proof.Machine.execScoreboardedResultCompletes ctx idx s
  | .pendingTrapTaken ctx => Sys2Proof.Machine.execPendingTrapTaken ctx s
  | .taskExited ctx => Sys2Proof.Machine.execTaskExited ctx s
  | .debugHalt ctx => Sys2Proof.Machine.execDebugHalt ctx s
  | .vadd t d a b k m => Sys2Proof.Machine.execVadd t d a b k m s
  | .vsub t d a b k m => Sys2Proof.Machine.execVsub t d a b k m s
  | .vmul t d a b k m => Sys2Proof.Machine.execVmul t d a b k m s
  | .vfma t d a b k m => Sys2Proof.Machine.execVfma t d a b k m s
  | .vfms t d a b k m => Sys2Proof.Machine.execVfms t d a b k m s
  | .vmin t d a b k m => Sys2Proof.Machine.execVmin t d a b k m s
  | .vmax t d a b k m => Sys2Proof.Machine.execVmax t d a b k m s
  | .vabs t d a k m => Sys2Proof.Machine.execVabs t d a k m s
  | .vneg t d a k m => Sys2Proof.Machine.execVneg t d a k m s
  | .vclamp t d a b k m => Sys2Proof.Machine.execVclamp t d a b k m s
  | .vfn t d a fn k m => Sys2Proof.Machine.execVfn t d a fn k m s
  | .vcmp t kd a b cc => Sys2Proof.Machine.execVcmp t kd a b cc s
  | .vsel d a b k => Sys2Proof.Machine.execVsel d a b k s
  | .kand kd ka kb => Sys2Proof.Machine.execKand kd ka kb s
  | .kor kd ka kb => Sys2Proof.Machine.execKor kd ka kb s
  | .knot kd ka => Sys2Proof.Machine.execKnot kd ka s
  | .vand t d a b k m => Sys2Proof.Machine.execVand t d a b k m s
  | .vor t d a b k m => Sys2Proof.Machine.execVor t d a b k m s
  | .vxor t d a b k m => Sys2Proof.Machine.execVxor t d a b k m s
  | .vshl t d a b k m => Sys2Proof.Machine.execVshl t d a b k m s
  | .vshr t d a b k m => Sys2Proof.Machine.execVshr t d a b k m s
  | .viadd t d a b k m => Sys2Proof.Machine.execViadd t d a b k m s
  | .vimul t d a b k m => Sys2Proof.Machine.execVimul t d a b k m s
  | .vcvt t d a src part k m => Sys2Proof.Machine.execVcvt t d a src part k m s
  | .vqnt d a b h => Sys2Proof.Machine.execVqnt d a b h s
  | .vdq d a q k m => Sys2Proof.Machine.execVdq d a q k m s
  | .vscr t d a b k m => Sys2Proof.Machine.execVscr t d a b k m s
  | .vscc t d a b k m => Sys2Proof.Machine.execVscc t d a b k m s
  | .vbias t d a b k m => Sys2Proof.Machine.execVbias t d a b k m s
  | .vbcr t d a imm => Sys2Proof.Machine.execVbcr t d a imm s
  | .vbcc t d a imm => Sys2Proof.Machine.execVbcc t d a imm s
  | .vrotr t d a imm => Sys2Proof.Machine.execVrotr t d a imm s
  | .vrotc t d a imm => Sys2Proof.Machine.execVrotc t d a imm s
  | .vredr t d a op => Sys2Proof.Machine.execVredr t d a op s
  | .vredc t d a op => Sys2Proof.Machine.execVredc t d a op s
  | .vshuf t d a b k m => Sys2Proof.Machine.execVshuf t d a b k m s
  | .vshfr t d a b k m => Sys2Proof.Machine.execVshfr t d a b k m s
  | .vhaar d a lv h th => Sys2Proof.Machine.execVhaar d a lv h th s
  | .vihaar d a => Sys2Proof.Machine.execVihaar d a s
  | .vthr d a h => Sys2Proof.Machine.execVthr d a h s
  | .vtag d a tag => Sys2Proof.Machine.execVtag d a tag s
  | .vmov d a k m => Sys2Proof.Machine.execVmov d a k m s
  | .vsplat t d sa k m => Sys2Proof.Machine.execVsplat t d sa k m s
  | .viota t d mode => Sys2Proof.Machine.execViota t d mode s
  | .vins t d sa sb => Sys2Proof.Machine.execVins t d sa sb s
  | .vext t d sa sb => Sys2Proof.Machine.execVext t d sa sb s
  | .vld t d sa sb k m => Sys2Proof.Machine.execVld t d sa sb k m s
  | .vst t d sa sb k => Sys2Proof.Machine.execVst t d sa sb k s
  | .vldt t d sa => Sys2Proof.Machine.execVldt t d sa s
  | .vstt t d sa sb => Sys2Proof.Machine.execVstt t d sa sb s
  | .vpush t d sa k => Sys2Proof.Machine.execVpush t d sa k s
  | .vpop t d sa sb => Sys2Proof.Machine.execVpop t d sa sb s
  | .vflags sa sb => Sys2Proof.Machine.execVflags sa sb s
  | .mma p acc v s1 s2 o => Sys2Proof.Machine.execMma p acc v s1 s2 o s
  | .mmas p acc s1 s2 o => Sys2Proof.Machine.execMmas p acc s1 s2 o s
  | .mmat p acc v s1 s2 o => Sys2Proof.Machine.execMmat p acc v s1 s2 o s
  | .mmah p acc v s1 s2 o => Sys2Proof.Machine.execMmah p acc v s1 s2 o s
  | .mldb p s1 s2 o => Sys2Proof.Machine.execMldb p s1 s2 o s
  | .mclr p acc o => Sys2Proof.Machine.execMclr p acc o s
  | .macc p acc src => Sys2Proof.Machine.execMacc p acc src s
  | .mcfg p s1 => Sys2Proof.Machine.execMcfg p s1 s
  | .mdrn p acc v s1 o => Sys2Proof.Machine.execMdrn p acc v s1 o s
  | .mdrns p acc opts s1 s2 o => Sys2Proof.Machine.execMdrns p acc opts s1 s2 o s
  | .mrep p count => Sys2Proof.Machine.execMrep p count s
  | .matrixInstructionBegins core ctx => Sys2Proof.Machine.execMatrixInstructionBegins core ctx s
  | .matrixPass core ctx out => Sys2Proof.Machine.execMatrixPass core ctx out s
  | .matrixOperationCompletes core ctx => Sys2Proof.Machine.execMatrixOperationCompletes core ctx s
  | .mcfgApplied core => Sys2Proof.Machine.execMcfgApplied core s
  | .cpy p g cls xf md => Sys2Proof.Machine.execCpy p g cls xf md s
  | .cpys p g cls xf md => Sys2Proof.Machine.execCpys p g cls xf md s
  | .tbind p g cls slot => Sys2Proof.Machine.execTbind p g cls slot s
  | .tcpy p g cls xf slot dir => Sys2Proof.Machine.execTcpy p g cls xf slot dir s
  | .gath p g cls xf => Sys2Proof.Machine.execGath p g cls xf s
  | .scat p g cls xf => Sys2Proof.Machine.execScat p g cls xf s
  | .ramo p g cls op ret => Sys2Proof.Machine.execRamo p g cls op ret s
  | .pfch p g cls tgt => Sys2Proof.Machine.execPfch p g cls tgt s
  | .migr p g cls => Sys2Proof.Machine.execMigr p g cls s
  | .fence p scope mask => Sys2Proof.Machine.execFence p scope mask s
  | .rel p scope mask => Sys2Proof.Machine.execRel p scope mask s
  | .tlbi p => Sys2Proof.Machine.execTlbi p s
  | .chsnd p g cls => Sys2Proof.Machine.execChsnd p g cls s
  | .chrcv p g cls => Sys2Proof.Machine.execChrcv p g cls s
  | .coll p g cls kind op ty => Sys2Proof.Machine.execColl p g cls kind op ty s
  | .rshd p g cls m => Sys2Proof.Machine.execRshd p g cls m s
  | .ckcut p g cls => Sys2Proof.Machine.execCkcut p g cls s
  | .qpush p g cls tile => Sys2Proof.Machine.execQpush p g cls tile s
  | .sete p g cls => Sys2Proof.Machine.execSete p g cls s
  | .bmode p g cls mode => Sys2Proof.Machine.execBmode p g cls mode s
  | .copyCommandBegins eng => Sys2Proof.Machine.execCopyCommandBegins eng s
  | .copySectorTransfer eng => Sys2Proof.Machine.execCopySectorTransfer eng s
  | .copyCommandCompletes eng => Sys2Proof.Machine.execCopyCommandCompletes eng s
  | .bmodeBegins eng => Sys2Proof.Machine.execBmodeBegins eng s
  | .clusterCacheEviction cluster gid idx => Sys2Proof.Machine.execClusterCacheEviction cluster gid idx s
  | .translationWalk cluster idx => Sys2Proof.Machine.execTranslationWalk cluster idx s
  | .launchRecordSubmit port offset data => Sys2Proof.Machine.execLaunchRecordSubmit port offset data s
  | .headRecordCheck q => Sys2Proof.Machine.execHeadRecordCheck q s
  | .groupPlacement q pl => Sys2Proof.Machine.execGroupPlacement q pl s
  | .recordReserving q => Sys2Proof.Machine.execRecordReserving q s
  | .tileRecordConsumed q => Sys2Proof.Machine.execTileRecordConsumed q s
  | .launchCompletes l => Sys2Proof.Machine.execLaunchCompletes l s
  | .preemptionRequest ctx => Sys2Proof.Machine.execPreemptionRequest ctx s
  | .preemptionTaken ctx => Sys2Proof.Machine.execPreemptionTaken ctx s
  | .taskOut ctx => Sys2Proof.Machine.execTaskOut ctx s
  | .stubOverrun ctx => Sys2Proof.Machine.execStubOverrun ctx s
  | .contextRestore idx ctx => Sys2Proof.Machine.execContextRestore idx ctx s
  | .groupDisplacement idx => Sys2Proof.Machine.execGroupDisplacement idx s
  | .replicationVote l => Sys2Proof.Machine.execReplicationVote l s
  | .displace r => Sys2Proof.Machine.execDisplace r s
  | .resume r => Sys2Proof.Machine.execResume r s
  | .abort r => Sys2Proof.Machine.execAbort r s
  | .map r => Sys2Proof.Machine.execMap r s
  | .unmap r => Sys2Proof.Machine.execUnmap r s
  | .protect r => Sys2Proof.Machine.execProtect r s
  | .inval r => Sys2Proof.Machine.execInval r s
  | .unfwd r => Sys2Proof.Machine.execUnfwd r s
  | .migrationPage eng => Sys2Proof.Machine.execMigrationPage eng s
  | .migrationPageLands idx => Sys2Proof.Machine.execMigrationPageLands idx s
  | .faultReplyRestart r => Sys2Proof.Machine.execFaultReplyRestart r s
  | .faultReplyCancel r => Sys2Proof.Machine.execFaultReplyCancel r s
  | .faultRingRecordEnters job => Sys2Proof.Machine.execFaultRingRecordEnters job s
  | .collectiveDoneSend comm => Sys2Proof.Machine.execCollectiveDoneSend comm s
  | .flitCrcError port vc => Sys2Proof.Machine.execFlitCrcError port vc s
  | .linkDown port => Sys2Proof.Machine.execLinkDown port s
  | .laneRetire port => Sys2Proof.Machine.execLaneRetire port s
  | .collectiveChunkStart eng => Sys2Proof.Machine.execCollectiveChunkStart eng s
  | .collectiveChunkEnd eng => Sys2Proof.Machine.execCollectiveChunkEnd eng s
  | .reshardStepBegins comm => Sys2Proof.Machine.execReshardStepBegins comm s
  | .regulatedRequestBegins jobIdx k n => Sys2Proof.Machine.execRegulatedRequestBegins jobIdx k n s
  | .purlinKernelRun bind proc => Sys2Proof.Machine.execPurlinKernelRun bind proc s
  | .purlinWatchdog proc => Sys2Proof.Machine.execPurlinWatchdog proc s
  | .load r => Sys2Proof.Machine.execLoad r s
  | .unload r => Sys2Proof.Machine.execUnload r s
  | .bind r => Sys2Proof.Machine.execBind r s
  | .unbind r => Sys2Proof.Machine.execUnbind r s
  | .unbindCompletes bind => Sys2Proof.Machine.execUnbindCompletes bind s
  | .padd d a b => Sys2Proof.Machine.execPadd d a b s
  | .psub d a b => Sys2Proof.Machine.execPsub d a b s
  | .pand d a b => Sys2Proof.Machine.execPand d a b s
  | .por d a b => Sys2Proof.Machine.execPor d a b s
  | .pxor d a b => Sys2Proof.Machine.execPxor d a b s
  | .pshl d a b => Sys2Proof.Machine.execPshl d a b s
  | .pshr d a b sg => Sys2Proof.Machine.execPshr d a b sg s
  | .pcmp d a b cond => Sys2Proof.Machine.execPcmp d a b cond s
  | .psel d a b c => Sys2Proof.Machine.execPsel d a b c s
  | .pmov d a => Sys2Proof.Machine.execPmov d a s
  | .pmovi d imm => Sys2Proof.Machine.execPmovi d imm s
  | .pbr c mode off => Sys2Proof.Machine.execPbr c mode off s
  | .ploop src len count => Sys2Proof.Machine.execPloop src len count s
  | .pmld k reg a inc off => Sys2Proof.Machine.execPmld k reg a inc off s
  | .pmst k reg a inc off => Sys2Proof.Machine.execPmst k reg a inc off s
  | .pfld k reg a inc off => Sys2Proof.Machine.execPfld k reg a inc off s
  | .pfst k reg a inc off => Sys2Proof.Machine.execPfst k reg a inc off s
  | .pvadd d a b t => Sys2Proof.Machine.execPvadd d a b t s
  | .pvmax d a b t => Sys2Proof.Machine.execPvmax d a b t s
  | .pvmul d a b t => Sys2Proof.Machine.execPvmul d a b t s
  | .pvacc a b t op inc => Sys2Proof.Machine.execPvacc a b t op inc s
  | .pvnf a t => Sys2Proof.Machine.execPvnf a t s
  | .pvcvt d a t u h => Sys2Proof.Machine.execPvcvt d a t u h s
  | .pfwd a => Sys2Proof.Machine.execPfwd a s
  | .preply a b c => Sys2Proof.Machine.execPreply a b c s
  | .ptrap code => Sys2Proof.Machine.execPtrap code s
  | .cutPageCopy jobIdx => Sys2Proof.Machine.execCutPageCopy jobIdx s
  | .checkpointDrain jobIdx => Sys2Proof.Machine.execCheckpointDrain jobIdx s
  | .checkpointRestore jobIdx peers => Sys2Proof.Machine.execCheckpointRestore jobIdx peers s
  | .testSlice core pass => Sys2Proof.Machine.execTestSlice core pass s
  | .coreRemap core => Sys2Proof.Machine.execCoreRemap core s
  | .functionLevelReset port => Sys2Proof.Machine.execFunctionLevelReset port s
  | .apertureRead port offset len => Sys2Proof.Machine.execApertureRead port offset len s
  | .apertureWrite port offset data => Sys2Proof.Machine.execApertureWrite port offset data s
  | .jobTableWrite offset data => Sys2Proof.Machine.execJobTableWrite offset data s
  | .queueTableWrite port offset data => Sys2Proof.Machine.execQueueTableWrite port offset data s
  | .channelTableWrite chan data => Sys2Proof.Machine.execChannelTableWrite chan data s
  | .communicatorTableWrite comm data => Sys2Proof.Machine.execCommunicatorTableWrite comm data s
  | .qsplitWrite data => Sys2Proof.Machine.execQsplitWrite data s
  | .routeTableWrite dst data => Sys2Proof.Machine.execRouteTableWrite dst data s
  | .ridgecfgWrite data => Sys2Proof.Machine.execRidgecfgWrite data s
  | .registerWrite port offset data => Sys2Proof.Machine.execRegisterWrite port offset data s
  | .illegalEncoding info => Sys2Proof.Machine.execIllegalEncoding info s
  | .endToEndCreditReturn chan num peer n => Sys2Proof.Machine.execEndToEndCreditReturn chan num peer n s
  | .spareRemap cls idx => Sys2Proof.Machine.execSpareRemap cls idx s
  | .yield => Sys2Proof.Machine.execYield s
  | .exit => Sys2Proof.Machine.execExit s
  | .tret => Sys2Proof.Machine.execTret s
  | .crclose => Sys2Proof.Machine.execCrclose s
  | .nop => Sys2Proof.Machine.execNop s
  | .translationRequestCompletes => Sys2Proof.Machine.execTranslationRequestCompletes s
  | .sectorReadRequest => Sys2Proof.Machine.execSectorReadRequest s
  | .readReply => Sys2Proof.Machine.execReadReply s
  | .sectorWrite => Sys2Proof.Machine.execSectorWrite s
  | .writeAcknowledge => Sys2Proof.Machine.execWriteAcknowledge s
  | .atomicRequest => Sys2Proof.Machine.execAtomicRequest s
  | .atomicReply => Sys2Proof.Machine.execAtomicReply s
  | .bellEventArrive => Sys2Proof.Machine.execBellEventArrive s
  | .bellEventReady => Sys2Proof.Machine.execBellEventReady s
  | .bellEventComplete => Sys2Proof.Machine.execBellEventComplete s
  | .channelMessageSegment => Sys2Proof.Machine.execChannelMessageSegment s
  | .collectivePiece => Sys2Proof.Machine.execCollectivePiece s
  | .collectiveDone => Sys2Proof.Machine.execCollectiveDone s
  | .collectiveFinish => Sys2Proof.Machine.execCollectiveFinish s
  | .purlinReply => Sys2Proof.Machine.execPurlinReply s
  | .controlAndRouting => Sys2Proof.Machine.execControlAndRouting s
  | .checkpointTransfer => Sys2Proof.Machine.execCheckpointTransfer s
  | .regulatorRefill => Sys2Proof.Machine.execRegulatorRefill s
  | .pdrop => Sys2Proof.Machine.execPdrop s
  | .pdone => Sys2Proof.Machine.execPdone s
  | .thermalThrottle => Sys2Proof.Machine.execThermalThrottle s
  | .thermalShutdown => Sys2Proof.Machine.execThermalShutdown s
  | .packageReset => Sys2Proof.Machine.execPackageReset s
  | .fillerBundle => Sys2Proof.Machine.execFillerBundle s

end Sys2Proof.Machine
end

