-- ==== Sys2Proof/Machine/Incidents.lean ====
section
/-!
DEFINITION. What befalls the part from outside its instructions and events: uncorrectable errors, which poison their units
(R357, R362), corrected errors and thresholds (R364), link credits (R379), the sensors (R465).
-/
namespace Sys2Proof.Machine

/-- A poisoned Slate line, also as the matrix instructions hold it whose operands were taken at issue (log 25). -/
def poisonLine (s : State) (cluster line : Nat) : State :=
  let mark := fun (j : MJob) => { j with img := j.img.map fun g => { g with poison := setAdd g.poison line } }
  let cl := s.cl cluster
  let s := s.setCl cluster { cl with poison := setAdd cl.poison line }
  { s with
    ctxs := s.ctxs.map fun x =>
      if clOf x.1 = cluster then (x.1, { x.2 with mq := x.2.mq.map mark, held := x.2.held.map mark }) else x,
    outs := s.outs.map fun o =>
      if o.cluster = cluster then { o with task := { o.task with held := o.task.held.map mark } } else o }
/-- An entry of a list, changed. -/
def mapAt {α : Type} (l : List α) (i : Nat) (f : α → α) : List α := l.zipIdx.map fun x => if x.2 = i then f x.1 else x.1
/-- The stream of a FIFO bank, changed. -/
def mapFifo (s : State) (cluster bank : Nat) (f : Fifo → Fifo) : State :=
  let cl := s.cl cluster
  match tabFind cl.fifo bank with
  | some x => s.setCl cluster { cl with fifo := tabPut cl.fifo bank (f x) }
  | none => s
/-- A poisoned register (R357): of scalars and of k0, c0 that read as constants there is none. -/
def poisonRegister (t : Task) (kind n : Nat) : Task :=
  if kind = 0 ∧ 0 < n ∧ n < 64 then { t with poisonS := setAdd t.poisonS n }
  else if kind = 1 ∧ 0 < n ∧ n < 8 then { t with poisonC := setAdd t.poisonC n }
  else if kind = 2 ∧ 0 < n ∧ n < 8 then { t with poisonK := setAdd t.poisonK n }
  else if kind = 3 ∧ n < 32 then { t with poisonV := setAdd t.poisonV n }
  else if kind = 4 ∧ n < 8 then { t with poisonA := setAdd t.poisonA n }
  else t
/-- An incident takes effect. -/
def takeIncident (s : State) : Incident → State
  | .slateLine cluster line => poisonLine s cluster line
  | .cacheLine cluster group pkg pa =>
    setGroupCache s cluster group ((groupCache s cluster group).map fun l =>
      if l.is pkg (pa / 128 * 128) then { l with poison := true } else l)
  | .fifoRow cluster bank i => mapFifo s cluster bank fun f => { f with rows := mapAt f.rows i fun r => { r with poison := true } }
  | .fifoMsg cluster bank i => mapFifo s cluster bank fun f => { f with msgs := mapAt f.msgs i fun m => { m with poison := true } }
  | .register ctx kind n => if (s.ctx ctx).active then s.setCtx ctx (poisonRegister (s.ctx ctx) kind n) else s
  | .sectors l => { s with dramPoison := l.foldl setAdd s.dramPoison }
  | .carried i => { s with rx := mapAt s.rx i fun m => { m with poison := true } }
  | .purlin proc => (match tabFind s.runs proc with | some r => trapRun s proc r 4 0 | none => s)
  | .corrected cls idx => corrected s cls idx
  | .threshold cls n => { s with limits := tabPut s.limits cls n }
  | .linkCredit port vc n =>
    let p := s.port port
    if port < 18 then s.setPort port { p with cred := vput p.cred vc (min 32 (vget p.cred vc 0 + n)) } else s
  | .sensors t p => hotJunction { s with power := p &&& 0xFFFF } (fldN 0 8 t)

end Sys2Proof.Machine
end

