-- ==== Sys2Proof/Machine/Events.lean ====
section
/-!
DEFINITION. Which steps of the part are due: the events that precede the cores' part of a cycle, and the events of the
copy engines. An event for which the part or the world chooses whether and when is an input instead (log 3).
-/
namespace Sys2Proof.Machine

/-- The first entry of a table that meets a condition, as an event. -/
def firstEntry {α : Type} (t : Tab α) (p : Nat → α → Bool) (f : Nat → Instr) : Option Instr :=
  (t.find? fun x => p x.1 x.2).map fun x => f x.1
/-- The first index of a list that meets a condition, as an event. -/
def firstIndex {α : Type} (l : List α) (p : α → Bool) (f : Nat → Instr) : Option Instr := (l.findIdx? p).map f
def whenSome {α : Type} (x : Option α) (i : Instr) : Option Instr := x.map fun _ => i

/-- The first received message that can be handled. -/
def rxEvent (s : State) : Option Instr :=
  whenSome (firstMsg s (fun m => m.kind == 1) fun _ => false) .readReply <|>
  whenSome (firstMsg s (fun m => m.kind == 3) fun _ => false) .writeAcknowledge <|>
  whenSome (firstMsg s (fun m => m.kind == 5) fun _ => false) .atomicReply <|>
  whenSome (firstMsg s (fun m => m.kind == 0) (requestWaits s)) .sectorReadRequest <|>
  whenSome (firstMsg s (fun m => m.kind == 2) (requestWaits s)) .sectorWrite <|>
  whenSome (firstMsg s (fun m => m.kind == 4) (requestWaits s)) .atomicRequest <|>
  whenSome (firstBell s 1) .bellEventArrive <|>
  whenSome (firstBell s 2) .bellEventReady <|>
  whenSome (firstBell s 3) .bellEventComplete <|>
  whenSome (appendChan s) .channelMessageSegment <|>
  whenSome (firstSegment s) .channelMessageSegment <|>
  whenSome (firstPiece s) .collectivePiece <|>
  whenSome (firstDone s) .collectiveDone <|>
  whenSome (firstFinish s) .collectiveFinish <|>
  whenSome (firstReply s) .purlinReply <|>
  whenSome (firstControl s) .controlAndRouting <|>
  whenSome (firstTransfer s) .checkpointTransfer

/-- The oldest walk that can end. -/
def oldestWalk (s : State) : Option Instr :=
  (s.clusters.flatMap fun c => c.2.walks.zipIdx.map fun w => (c.1, w)).foldl
    (fun (best : Option (Nat × Instr)) x =>
      let w := x.2.1
      if w.fault.isNone && walkInFlight s w && (match best with | some b => decide (w.id < b.1) | none => true) then
        some (w.id, .translationWalk x.1 x.2.2)
      else best) none |>.map Prod.snd

/-- What is due for a context: its task has ended, leaves, or has overrun a stub. -/
def ctxEvent (s : State) (ctx : Nat) : Option Instr :=
  let l := landCtx ctx s
  let t := l.ctx ctx
  if hasExited l ctx then some (.taskExited ctx)
  else if t.preempt && mayLeave s t then some (.preemptionTaken ctx)
  else if t.debug && mayLeave s t then some (.debugHalt ctx)
  else if stubEnded t then some (.taskOut ctx)
  else if stubLate (s.ctx ctx) s.cycle then some (.stubOverrun ctx)
  else none
def ctxEvents (s : State) : Option Instr := s.ctxs.findSome? fun x => if x.2.active then ctxEvent s x.1 else none
def matrixEvents (s : State) : Option Instr :=
  s.ctxs.findSome? fun x => if x.2.active && !x.2.mq.isEmpty then matrixEvent s (x.1 / 2) else none

/-- A task that is out comes back, at the beginning of a tick (R337; log 14). -/
def restoreEvent (s : State) : Option Instr :=
  if cycleLen s ≤ s.phase then none
  else
    s.outs.zipIdx.findSome? fun x =>
      let o := x.1
      let free := match tabFind s.launches o.task.launch with
        | some l => !l.held && !(contextNeeded s l.prio o.cluster)
        | none => false
      if free && !o.task.debug then
        ((List.range 16).find? fun k => mayReturn s o (16 * o.cluster + k)).map fun k =>
          .contextRestore x.2 (16 * o.cluster + k)
      else none
/-- The next decision of the Timetable (R328). -/
def placeEvent (s : State) : Option Instr :=
  if s.cycle < s.ttNext then none
  else
    (decision s).map fun d => match d with
      | .back q _ p => .groupPlacement q [p]
      | .fresh q pl => .groupPlacement q pl
/-- What is due at the Timetable. -/
def ttEvent (s : State) : Option Instr :=
  firstEntry s.queues (fun q _ => checkMoves s q) .headRecordCheck <|>
  firstEntry s.queues (fun q _ => (consumable s q).isSome) .tileRecordConsumed <|>
  placeEvent s <|>
  firstEntry s.queues (fun q _ => mayReserve s q) .recordReserving <|>
  firstEntry s.launches (fun l x => voteDue x && launchWritten s l) .replicationVote <|>
  firstEntry s.launches (launchDone s) .launchCompletes <|>
  firstEntry s.groups (fun g x => x.displacing.isSome && groupAtRest s g) .groupDisplacement <|>
  restoreEvent s

/-- The job number of an entry whose waiting fault records can enter its ring. -/
def ringEvent (s : State) : Option Instr :=
  s.jobs.findSome? fun j =>
    let n := fld 0 32 (vget j.2.w 0 0)
    if ringWaits s j.1 && jobIdx s n == some j.1 then some (.faultRingRecordEnters n) else none
/-- What is due at the home: translation requests, checkpoints, migrations, fault rings, spares. The reading of a shadow, and then
the copying that waits for it, come before the job's other background traffic (R371). -/
def homeEvent (s : State) : Option Instr :=
  ringEvent s <|>
  firstIndex s.waitDone (doneReady s) (fun _ => .translationRequestCompletes) <|>
  firstEntry s.ckpts (fun k x => x.reading && drainDue s k) .checkpointDrain <|>
  firstEntry s.ckpts (fun k _ => cutCopyDue s k) .cutPageCopy <|>
  firstIndex s.migr (migrReady s) .migrationPageLands <|>
  firstEntry s.ckpts (fun k _ => drainDue s k) .checkpointDrain <|>
  firstEntry s.cores (fun k _ => mayRemap s k) .coreRemap

/-- What is due at the collective engines and the purlin processors. -/
def collEvent (s : State) (eng : Nat) : Option Instr :=
  if (engineBusy s eng).isSome then if chunkOver s eng then some (.collectiveChunkEnd eng) else none
  else if (engineChoice s eng).isSome then some (.collectiveChunkStart eng)
  else none
def commEvent (s : State) (k : Coll) : Option Instr :=
  match currentColl s k.comm with
  | some k => if stepDue s k then some (.reshardStepBegins k.comm) else if doneDue s k then some (.collectiveDoneSend k.comm) else none
  | none => none
def purlinEvent (s : State) : Option Instr :=
  firstEntry s.runs (fun _ r => runLate s r) .purlinWatchdog <|>
  (s.bindings.findSome? fun b =>
    (b.2.procs.find? fun p => (startableMsg s b.1 p).isSome).map fun p => .purlinKernelRun b.1 p) <|>
  firstEntry s.bindings (fun i b => b.unbinding.isSome && bindingIdle s i b) .unbindCompletes
def ridgeEvent (s : State) : Option Instr :=
  purlinEvent s <|> s.colls.findSome? (commEvent s) <|>
    if s.colls.isEmpty then none else (List.range 8).findSome? (collEvent s)

/-- The first event that is due. -/
def dueEvent (s : State) : Option Instr :=
  rxEvent s <|> oldestWalk s <|> matrixEvents s <|> ctxEvents s <|> homeEvent s <|> ttEvent s <|> ridgeEvent s

/-- The event of a copy engine in this cycle. Sectors move on even cycles (R66; log 12). -/
def engineEvent (s : State) (e : Nat) : Option Instr :=
  if (endedReshard s e).isSome then some (.copyCommandCompletes e)
  else
  match engineHead s e with
  | none => none
  | some c =>
    if c.marker then some (.copyCommandBegins e)
    else if c.halt.isSome then none
    else if (quiescent s e).isSome then some (.bmodeBegins e)
    else if (bmodeBank c).isNone && (beginnable s e).isSome then some (.copyCommandBegins e)
    else if migrMoves s e then some (.migrationPage e)
    else if (completable s e).isSome then some (.copyCommandCompletes e)
    else if (movable s e).isSome && s.cycle % 2 == 0 then some (.copySectorTransfer e)
    else none

end Sys2Proof.Machine
end

