-- ==== Sys2Proof/Machine/Run.lean ====
section
/-!
DEFINITION. One step of the package (log 2): an incident, an input, a purlin instruction, an event that is due, one core's part of a
cycle, one copy engine's event, or the end of the cycle.
-/
namespace Sys2Proof.Machine

/-- An outcome of a step of this machine. -/
abbrev Out := Host.Outcome State Fault Refusal
/-- What follows a next state. -/
def thenDo (o : Out) (f : State → State) : Out :=
  match o with
  | .next s => .next (f s)
  | .fault r => .fault r
  | .refused r => .refused r

-- Purlin processors (R396).

/-- The turn of the first processor from p on whose run goes on: its number plus one, or 0. -/
def procTurn (s : State) (p : Nat) : Nat :=
  match s.runs.find? fun x => decide (p ≤ x.1) with
  | some x => x.1 + 1
  | none => 0
/-- The next instruction of a run. -/
def runWord (s : State) (r : Run) : BitVec 32 :=
  match tabFind s.bindings r.bind with
  | some b => (match tabFind s.kernels b.kernel with | some k => k.words.getD r.pc 0 | none => 0)
  | none => 0
/-- A purlin processor executes one instruction; a run that has ended leaves its turn to the next. -/
def runPurlin (s : State) : Out :=
  let p := s.turn - 1
  match tabFind s.runs p with
  | none => .next { s with turn := procTurn s s.turn }
  | some r =>
    match decodePurlin (runWord s r) with
    | .ok i => thenDo (exec i s) fun s => { s with turn := procTurn s (p + 1) }
    | .error _ => .next { s with turn := procTurn s (p + 1) }

-- A core's part of a cycle (R59, R67, R335).

/-- The slots of a judged bundle act, in slot order, and the bundle ends (R69, R72). -/
def runSlots : List BSlot → State → Out
  | [], s => .next (closeBundle s)
  | x :: r, s =>
    match exec x.i { s with slotNo := x.n } with
    | .next s' => runSlots r s'
    | o => o
/-- A context about to issue a bundle. -/
def atBundle (s : State) (ctx : Nat) (bits : BitVec 128) : State :=
  { fetchDone s ctx with cur := ctx, bits := bits, slotNo := 0 }
/-- Does a bundle stand for one instruction: a single slot, without a slot fault, whose loop-edge flags let it act? -/
def soleSlot (t : Task) (bits : BitVec 128) : Option BSlot :=
  let b := decodeBundle bits
  match b.slots, b.faults with
  | [x], [] => if edgeActs t x && !(overLimit bits) then some x else none
  | _, _ => none
/-- Does a bundle hold a matrix instruction that consumes MREPLEFT (R85)? -/
def consumes (bits : BitVec 128) : Bool := (decodeBundle bits).slots.any fun x => isMM x.i
/-- A bundle that a context issues by itself. -/
def runBundle (s : State) (ctx : Nat) (bits : BitVec 128) (j : Judged) : Out :=
  let s := atBundle s ctx bits
  match j with
  | .stall => .next s
  | .illegal info => exec (.illegalEncoding info) s
  | .divert n v =>
    match soleSlot s.me bits with
    | some x => exec x.i { s with slotNo := x.n }
    | none => .next (s.divert n v)
  | .go l =>
    match soleSlot s.me bits with
    | some x => exec x.i { s with slotNo := x.n }
    | none => if l.isEmpty && !(consumes bits) then exec .fillerBundle s else runSlots l (opened (consumes bits) s)
/-- What a context offers is done. -/
def runOffer (s : State) (ctx : Nat) : Offer → Out
  | .idle => .next s
  | .fetchWait => .next s
  | .pending => exec (.pendingTrapTaken ctx) s
  | .fetchFault k =>
    let t := s.ctx ctx
    .next (takeTrap (fetchDone s ctx) ctx cFetch (addrOf t.pc ||| BitVec.ofNat 64 k) t.pcWord)
  | .judged bits j => runBundle s ctx bits j
/-- The secondary's bundle issues too when R67 lets it: judged before the primary acted, on the same undefined operands. -/
def runSecond (s0 : State) (c1 c2 : Nat) (o1 o2 : Offer) (s : State) : Out :=
  match o1.goes, o2.goes with
  | some (b1, l1), some (b2, l2) =>
    let p1 := { s0 with cur := c1 }
    let p2 := { s0 with cur := c2 }
    if slotsFit b1 b2 && decide (unitsUsed p1 b1 l1 + unitsUsed p2 b2 l2 ≤ vectorFree p1) &&
        !((enginesUsed p2 b2 l2).any (enginesUsed p1 b1 l1).contains) then
      runSlots l2 (opened (consumes b2) { atBundle s c2 b2 with stamp := s0.stamp })
    else .next s
  | _, _ => .next s
/-- A context whose fetch has to wait asks for what it needs. -/
def askFetch (s : State) (ctx : Nat) : Offer → State
  | .fetchWait => fetchAsk s ctx
  | _ => s
/-- The two contexts of a core, as the cycle finds them: results have landed. -/
def landedCore (s : State) (core : Nat) : State := landCtx (2 * core + 1) (landCtx (2 * core) s)
/-- The primary context of a core in this cycle. -/
def primary (s : State) (core : Nat) (o0 o1 : Offer) : Nat :=
  if o0.eligible && o1.eligible then primaryOf (s.core core) s.cycle (s.ctx (2 * core)) (s.ctx (2 * core + 1))
  else if o0.eligible then 0 else 1
/-- One core's part of a cycle. -/
def runCore (s : State) (core : Nat) : Out :=
  let s := landedCore s core
  let o0 := offer s (2 * core)
  let o1 := offer s (2 * core + 1)
  let s := askFetch (askFetch s (2 * core) o0) (2 * core + 1) o1
  let done := fun (s : State) => { s with coreIdx := core + 1 }
  if !o0.eligible && !o1.eligible then
    .next (done s)
  else
    let p := primary s core o0 o1
    let s := s.setCore core (chooseCore (s.core core) (o0.eligible && o1.eligible) p)
    let op := if p = 0 then o0 else o1
    let oq := if p = 0 then o1 else o0
    match runOffer s (2 * core + p) op with
    | .next s' => thenDo (runSecond s (2 * core + p) (2 * core + (1 - p)) op oq s') done
    | o => o

-- The end of a cycle (R35, R466).

/-- Does a schedule tick end with the cycle? -/
def tickEnds (s : State) : Bool := decide (tickLen ≤ s.phase + cycleLen s)
/-- The cycle ends: the cycle count, and TIME. -/
def endCycle (s : State) : State :=
  let phase := s.phase + cycleLen s
  let tick := tickEnds s
  let s := endTurn (sweepWalks (moveLinks (freeHeldCredits (postRings (stepHosts s.progress)))))
  { s with
    cycle := s.cycle + 1, ticks := if tick then s.ticks + 1 else s.ticks,
    phase := if tick then phase - tickLen else phase,
    coreIdx := 0, engIdx := 0, turn := procTurn s 0 }

-- A step.

/-- The first copy engine from engIdx on that has an event in this cycle. -/
def nextEngine (s : State) : Option (Nat × Instr) :=
  (s.engs.filter fun e => decide (s.engIdx ≤ e.1)).findSome? fun e => (engineEvent s e.1).map fun i => (e.1, i)
/-- The first core from coreIdx on that holds a task. -/
def nextCore (s : State) : Option Nat :=
  (s.ctxs.find? fun x => x.2.active && decide (s.coreIdx ≤ x.1 / 2)).map fun x => x.1 / 2
/-- The end of a cycle; at a tick the regulators refill (R290) and waiting records are noted (R330). -/
def closeCycle (s : State) : Out :=
  if tickEnds s then thenDo (exec .regulatorRefill s) fun s => markWaiting (endCycle s) else .next (endCycle s)
/-- One step. Before READY nothing runs but bring-up (R463). -/
def runStep (s : State) : Out :=
  if s.shut then
    match s.inbox with
    | .packageReset :: rest => exec .packageReset { s with inbox := rest }
    | _ => .fault .partShutDown
  else
    match s.incidents, s.inbox with
    | x :: rest, _ => .next (takeIncident { s with incidents := rest } x)
    | [], i :: rest =>
      if configRetry s && !(beforeReady i) then .next (turnedAway { s with inbox := rest } i) else exec i { s with inbox := rest }
    | [], [] =>
      if configRetry s then .next (bringUp s)
      else if s.turn ≠ 0 then runPurlin s
      else
        match dueEvent s with
        | some i => exec i s
        | none =>
          match nextCore s with
          | some c => runCore s c
          | none =>
            match nextEngine s with
            | some (e, i) => thenDo (exec i s) fun s => { s with engIdx := e + 1 }
            | none => closeCycle s

end Sys2Proof.Machine
end

