-- ==== Sys2Proof/Machine/Step.lean ====
section
/-!
DEFINITION. The step of the machine, and the placing of one instruction where the next step finds it.
-/
namespace Sys2Proof.Machine

/-- One step of the package (Machine/Run.lean). -/
def step (s : State) : Host.Outcome State Fault Refusal := runStep s

/-- A page-table leaf that maps a page of this package for reading, writing and execution (R294). -/
def placedLeaf (s : State) (frame : Nat) : Word :=
  BitVec.ofNat 64 (s.pkg * 2 ^ 53 + frame * 65536 + 0x1F)

/-- STATUS once bring-up has ended (R463). -/
def State.ready (s : State) : Word := (s.status &&& ~~~ 2#64) ||| 1
/-- A bundle where context 0 fetches next: the task runs, its page is in the translation unit, and its bundle in DRAM. -/
def State.withBundle (s : State) (w : Nat) : State :=
  let t := s.ctx 0
  let va := (addrOf t.pc).toNat
  let cl := s.cl 0
  let e : TlbEnt := { job := t.job, va := va, level := 3, leaf := placedLeaf s 0 }
  let s := s.setCtx 0 { t with active := true, exited := false, wait := none, pend := [], preempt := false,
                               debug := false, stub := none }
  let s := s.setCl 0 { cl with tlb := e :: cl.tlb }
  { s with dram := memWrite s.dram (va % 65536) (bytesOf 16 w),
           dramPoison := s.dramPoison.filter (· != va % 65536 / 128),
           shut := false, boot := 0, status := s.ready, inbox := [], incidents := [], turn := 0, coreIdx := 0 }

/-- A purlin instruction where processor 0 executes next. -/
def State.withPurlin (s : State) (w : Nat) : State :=
  { s with
    kernels := tabPut s.kernels 0 { job := 0, words := [BitVec.ofNat 32 w], flags := 0, fsmin := 0 },
    bindings := tabPut s.bindings 0
      { kernel := 0, job := 0, flow := 0, base := 0, fsize := 0, procs := [0], excl := false, source := false,
        queue := [], unbinding := none },
    runs := tabPut s.runs 0
      { bind := 0, id := 0, msg := mkMsg s s.pkg 7 6 0, w := Vector.replicate 16 0, z := Vector.replicate 8 0, buf := [], pc := 0,
        loops := [], flits := 0, cycles := 0, replies := [] },
    shut := false, boot := 0, status := s.ready, inbox := [], incidents := [], turn := 1 }

/-- An instruction stored where the next step fetches it: a purlin instruction of 32 bits, or a bundle. -/
def State.withFetchWord (s : State) (nbits w : Nat) : State :=
  if nbits ≤ 32 then s.withPurlin w else s.withBundle w

end Sys2Proof.Machine
end

