-- ==== Sys2Proof/WellFormed.lean ====
section
/-!
DEFINITION. Which instructions are well formed: those that some encoding stands for (02, R76 to R87; 12, R398, R399).
The steps of the part and of its hosts carry no encoding, and are well formed when their numbers lie in range.
-/
namespace Sys2Proof

/-- T codes 000 to 010, and all six views (R168). -/
def fpView (t : BitVec 3) : Bool := decide (t.toNat ≤ 2)
def anyView (t : BitVec 3) : Bool := decide (t.toNat ≤ 5)
def bitView (t : BitVec 3) : Bool := t == 0 || t == 5
def intView (t : BitVec 3) : Bool := t == 4 || t == 5

/-- K and U of a PM word: a vector register number has its high bit clear (R398). -/
def pmOk (k : Bool) (reg : BitVec 4) : Bool := k || !(bitAt 3 reg)

/-- Contexts, cores, engines, ports and jobs by number (R1, R13). -/
def ctxOk (n : Nat) : Bool := decide (n < Config.contexts)
def coreOk (n : Nat) : Bool := decide (n < 640)
def portOk (n : Nat) : Bool := decide (n < 2)

/-- Well-formedness of an instruction. -/
def Instr.wf : Instr → Bool
  | .movhi _ _ _ _ => true
  | .cmp _ _ _ _ cond => cond != 7
  | .lds _ _ _ sz sx _ _ => !(sz == 3 && sx)
  | .amos _ _ _ _ op => op != 7
  | .crd _ _ n => crListed n
  | .cwr _ _ n => crListed n && !(crReadOnly n)
  | .fcmp _ _ _ _ cond => decide (cond.toNat ≤ 4)
  | .vadd t _ _ _ _ _ => fpView t
  | .vsub t _ _ _ _ _ => fpView t
  | .vmul t _ _ _ _ _ => fpView t
  | .vfma t _ _ _ _ _ => fpView t
  | .vfms t _ _ _ _ _ => fpView t
  | .vmin t _ _ _ _ _ => fpView t
  | .vmax t _ _ _ _ _ => fpView t
  | .vabs t _ _ _ _ => fpView t
  | .vneg t _ _ _ _ => fpView t
  | .vclamp t _ _ _ _ _ => fpView t
  | .vfn t _ _ fn _ _ => fpView t && decide (fn.toNat ≤ 10)
  | .vcmp t _ _ _ cc => bitView t && cc != 7 && !(t == 5 && cc == 6)
  | .vand t _ _ _ _ _ => bitView t
  | .vor t _ _ _ _ _ => bitView t
  | .vxor t _ _ _ _ _ => bitView t
  | .vshl t _ _ _ _ _ => intView t
  | .vshr t _ _ _ _ _ => intView t
  | .viadd t _ _ _ _ _ => intView t
  | .vimul t _ _ _ _ _ => intView t
  | .vcvt t _ _ src part _ _ => vcvtLegal t src part
  | .vscr t _ _ _ _ _ => fpView t
  | .vscc t _ _ _ _ _ => fpView t
  | .vbias t _ _ _ _ _ => fpView t
  | .vbcr t _ _ imm => anyView t && decide (imm.toNat ≤ 15)
  | .vbcc t _ _ imm => anyView t && decide (imm.toNat < viewCols t)
  | .vrotr t _ _ imm => anyView t && decide (imm.toNat ≤ 15)
  | .vrotc t _ _ imm => anyView t && decide (imm.toNat < viewCols t)
  | .vredr t _ _ op => (fpView t || t == 5) && op != 3
  | .vredc t _ _ op => (fpView t || t == 5) && op != 3
  | .vshuf t _ _ _ _ _ => anyView t
  | .vshfr t _ _ _ _ _ => anyView t
  | .vhaar _ _ lv h th => lv != 0 && decide (lv.toNat ≤ 4) && (th || h == 0)
  | .vtag _ _ tag => tagLegal tag
  | .vsplat t _ _ _ _ => anyView t
  | .viota t _ mode => bitView t && mode != 3
  | .vins t _ _ _ => anyView t
  | .vext t _ _ _ => anyView t
  | .vld t _ _ _ _ _ => anyView t
  | .vst t _ _ _ _ => anyView t
  | .vldt t _ _ => decide (t.toNat ≤ 3)
  | .vstt t _ _ _ => decide (t.toNat ≤ 3)
  | .vpush t _ _ _ => anyView t
  | .vpop t _ _ _ => anyView t
  | .mdrns _ _ opts _ _ _ => fld 3 2 opts != 3
  | .cpy _ _ _ xf md => !(cpyMdReserved xf md) && cpyLegal xf md
  | .cpys _ _ _ xf md => fld 3 6 md == 0 && decide (xf.toNat ≤ 2) && fld 1 2 md != 3
  | .tcpy _ _ _ xf _ dir => xf == 0 || (xf == 2 && !dir)
  | .gath _ _ _ xf => xf == 0 || xf == 2
  | .scat _ _ _ xf => xf == 0 || xf == 2
  | .ramo _ _ _ op _ => op != 7
  | .coll _ _ _ kind op ty => collLegal kind op ty && (decide (kind.toNat ≤ 1) || op == 0)
  | .bmode _ _ _ mode => mode != 3
  | .pcmp _ _ _ cond => decide (cond.toNat ≤ 5)
  | .pbr c mode off => mode != 3 && (mode != 2 || c == 0) && off != 0
  | .ploop src _ count => src == 0 || (src == 1 && count == 0)
  | .pmld k reg _ _ _ => pmOk k reg
  | .pmst k reg _ _ _ => pmOk k reg
  | .pfld k reg _ _ _ => pmOk k reg
  | .pfst k reg _ _ _ => pmOk k reg
  | .pvadd _ _ _ t => pType t
  | .pvmax _ _ _ t => pType t
  | .pvmul _ _ _ t => pType t
  | .pvacc _ _ t op _ => pType t && op != 3
  | .pvnf _ t => pType t
  | .pvcvt _ _ t u h => pvcvtLegal t u h
  | .boundedResultLands c _ => ctxOk c
  | .scoreboardedResultCompletes c _ => ctxOk c
  | .pendingTrapTaken c => ctxOk c
  | .taskExited c => ctxOk c
  | .debugHalt c => ctxOk c
  | .matrixInstructionBegins core c => coreOk core && decide (c < 2)
  | .matrixPass core c _ => coreOk core && decide (c < 2)
  | .matrixOperationCompletes core c => coreOk core && decide (c < 2)
  | .mcfgApplied core => coreOk core
  | .preemptionRequest c => ctxOk c
  | .preemptionTaken c => ctxOk c
  | .taskOut c => ctxOk c
  | .stubOverrun c => ctxOk c
  | .launchRecordSubmit p _ _ => portOk p
  | .functionLevelReset p => portOk p
  | .apertureRead p _ _ => portOk p
  | .apertureWrite p _ _ => portOk p
  | .registerWrite p _ _ => portOk p
  | .testSlice core _ => decide (core < 9 * Config.clusters)
  | .coreRemap core => coreOk core
  | _ => true

/-- An instruction that has an encoding. -/
def Instr.encodable (i : Instr) : Bool := (encode i).isSome

end Sys2Proof
end

