-- ==== Sys2Proof/Safety.lean ====
section
/-!
DEFINITION. What a safe run is, in the terms that the statements use: the memories keep their canonical form, and a step
does not stop. Also the words in which the statements speak of a bundle's slots: a slot that acts, the result it gives,
and what it leaves alone.
-/
namespace Sys2Proof

/-- An instruction that stands in a slot of a bundle (R57). -/
def Instr.inSlot (i : Instr) : Bool :=
  match encode i with
  | some (.slot _ _) => true
  | _ => false

/-- Instructions of a bundle that only give a result: a register, a condition, a mask or a tile, and flags. -/
def Instr.givesResult : Instr → Bool
  | .vst _ _ _ _ _ => false
  | .vstt _ _ _ _ => false
  | .vpush _ _ _ _ => false
  | .vpop _ _ _ _ => false
  | .vflags _ _ => false
  | .vldt _ _ _ => false
  | i => Machine.isV i || scalarResult i
where
  /-- The instructions of the S unit that write a scalar or a condition and touch nothing else. -/
  scalarResult : Instr → Bool
    | .sts _ _ _ _ _ => false
    | .amos _ _ _ _ _ => false
    | .stg _ _ _ => false
    | .cwr _ _ _ => false
    | i => match encode i with
      | some (.slot w _) => fld 29 3 w == 0
      | _ => false

/-- The instructions of the M unit that enter their context's queue (R211): all but MREP. -/
def Instr.queues : Instr → Bool
  | .mrep _ _ => false
  | i => match encode i with
    | some (.slot w _) => fld 29 3 w == 3
    | _ => false

/-- The instructions of the C unit that a copy engine takes as commands (R86, R233): all but FENCE, REL and TLBI. -/
def Instr.isCommand : Instr → Bool
  | .fence _ _ _ => false
  | .rel _ _ _ => false
  | .tlbi _ => false
  | i => match encode i with
    | some (.slot w _) => fld 29 3 w == 4
    | _ => false

namespace Machine

/-- Every memory of the package is in canonical form. -/
def State.memOk (s : State) : Bool :=
  memWf s.dram && memWf s.slots && memWf s.flow && s.clusters.all fun c => memWf c.2.slate

/-- A part that has not shut down and is READY, which no incident and no input befalls (R463, R466). -/
abbrev State.Running (s : State) : Prop := s.shut = false ∧ s.incidents = [] ∧ configRetry s = false

/-- A step that answers a next state. -/
def State.runs? (s : State) : Bool :=
  match step s with
  | .next _ => true
  | .fault _ => false
  | .refused _ => false

-- The faults of a bundle.

/-- A fault of slot n of a bundle, with its REASON (R76): those of a header are of slot 0, with REASON 6; any other word has the
fault for which the decoder refuses it, or REASON 10 for a use that its instruction's description calls illegal, which is judged
when the slot acts at this loop edge (R64) or stands in the encoding alone. -/
def SlotFault (s : State) (bits : BitVec 128) (n r : Nat) : Prop :=
  let w0 := bundleSlot bits 0
  let g := headerGroup w0 n
  n < 4 ∧
    if n = 0 ∧ isHeader w0 = true then
      r = 6 ∧ (fld 27 2 w0 ≠ 0 ∨ ∃ j, 1 ≤ j ∧ j ≤ 3 ∧ groupError (bundleSlot bits j) (headerGroup w0 j) = true)
    else
      match decodeSlot ⟨bundleSlot bits n, g, isHeader w0⟩ with
      | .error e => r = e.reason
      | .ok .filler => False
      | .ok (.instr i) =>
        r = 10 ∧ (staticIllegal i = true ∨
          (edgeActs s.me ⟨n, bitAt 8 g, bitAt 7 g, i⟩ = true ∧ ∃ x, slotVerdict i (s.atSlot bits n) = .illegal x))
/-- The reserved bits of the formats that also have reserved values (R77 to R87): unit, opcode, mask. -/
def reservedBits : List (BitVec 3 × BitVec 7 × BitVec 32) :=
  [(0, 0x20, 0xC000), (0, 0x2F, 0xC000), (0, 0x2A, 0x7F), (0, 0x2B, 0x7F), (2, 0x08, 0xF80), (2, 0x09, 0xF80),
    (2, 0x0C, 0x300001), (2, 0x0D, 1), (2, 0x19, 0x70), (2, 0x1A, 0xE00), (2, 0x1E, 1), (2, 0x1F, 1), (2, 0x20, 1),
    (2, 0x21, 1), (2, 0x22, 0xFC1), (2, 0x23, 0xFC1), (2, 0x26, 0x801), (2, 0x27, 0xFF1), (2, 0x28, 0xF81), (2, 0x29, 1),
    (2, 0x2A, 0xF80), (2, 0x2B, 0xF80), (2, 0x2C, 0x71), (2, 0x2D, 0x71), (2, 0x2E, 0x1FFC1), (2, 0x30, 1), (2, 0x31, 0xFF1),
    (2, 0x32, 0x71), (2, 0x33, 0xF81), (2, 0x34, 0x71), (2, 0x35, 0x3E0071), (4, 0x02, 0x1F8), (4, 0x03, 0x1F8),
    (4, 0x04, 0x1F0), (4, 0x07, 0x1F0), (4, 0x10, 0x1F0), (4, 0x05, 0x1FF), (4, 0x06, 0x1FF), (4, 0x09, 0x1FF),
    (4, 0x0D, 0x1FF), (4, 0x0E, 0x1FF), (4, 0x11, 0x1FF), (4, 0x13, 0x1FF), (4, 0x08, 0x1FE), (4, 0x12, 0x1FE),
    (4, 0x0F, 0x100), (4, 0x14, 0x1FC)]

-- Slots.

/-- A slot of a bundle whose slots act (R59), which no predicate and no condition suppresses (R70). -/
def Acting (i : Instr) (s : State) : Prop := s.before.isSome = true ∧ suppressed i s = false
/-- A bundle of one slot that issues: nothing stalls, no check fails, the slot is not suppressed, and the task has not
issued EXIT (R60, R70, R161). -/
def Issues (i : Instr) (s : State) : Prop :=
  s.before = none ∧ verdict i s = .go ∧ suppressed i s = false ∧ s.me.exited = false

/-- A slot that acts answers the next state t. -/
def Does (i : Instr) (s t : State) : Prop := Acting i s → exec i s = .next t

/-- A V slot that gives tile x in v(d), of which P holds, with flags of which Q holds, within a bound (R71, R173). -/
def GivesTile (i : Instr) (s : State) (d : BitVec 5) (bound : Nat) (P : Tile → Flags → Prop) : Prop :=
  s.before.isSome = true → ∃ x f, exec i s = .next ((takeUnit i s).outV d x f bound) ∧ P x f
/-- Is lane n selected by a mask (R169)? k0 selects every lane. -/
def State.picks (s : State) (k : BitVec 3) (n : Nat) : Bool := k == 0 || bitAt n (s.rk k)
/-- An element-by-element result (R169 to R171): element (r, c) of the result is f r c where K selects its lane; elsewhere 0
under zeroing, and D's under merging. Its flags are those of the selected elements, and those of a reconstruction. Its
side-car is the one that D has. Its tag and mask are given; a merge joins D's (R170, R118). -/
def Elementwise (i : Instr) (s : State) (view : Nat) (d : BitVec 5) (k : BitVec 3) (m : Bool) (tag : BitVec 8)
    (mask : BitVec 16) (recon : Flags) (bound : Nat) (f : Nat → Nat → Nat × Flags) : Prop :=
  GivesTile i s d bound fun x fl =>
    (∀ r c, r < 16 → c < colsOf view → rawElem x.lanes view r c =
      if s.picks k (64 * r + c / perLane view) then (f r c).1 % 2 ^ elemBits view
      else if m then 0 else (s.rv d).elem view r c) ∧
    (∀ n, n < 10 → (fl.getLsbD n = true ↔ recon.getLsbD n = true ∨ ∃ r c, r < 16 ∧ c < colsOf view ∧
      s.picks k (64 * r + c / perLane view) = true ∧ (f r c).2.getLsbD n = true)) ∧
    x.side = s.sideOf d ∧
    (k = 0 ∨ m = true → x.tag = tag ∧ x.mask = mask) ∧
    (k ≠ 0 → m = false → x.tag = joinTag tag (s.rv d).tag ∧ x.mask = mask ||| (s.rv d).mask)

/-- What the test after an event makes of a replica y of a mesh bell (R385): once its own counts are complete it is READY, which
the root learns; when every member is ready at the root, the phase completes, its early arrivals counted into the next. Said here of
a replica without held events, whose next phase is not complete at once, when no cut waits for the phase. -/
def MeshTested (s u : State) (y z : Bell) : Prop :=
  let w := commWord u (bellComm y)
  let ready := setAdd y.readyFrom (commRank w)
  let next := { y with phase := y.phase + 1, count := BitVec.ofNat 16 y.early, early := 0, ready := false, readyFrom := [] }
  (y.ready = true ∨ bellDone y = false → z = y) ∧
    (y.ready = false → bellDone y = true → s.cutWait = [] →
      (commPkg u w 0 ≠ u.pkg → z = { y with ready := true }) ∧
      (commPkg u w 0 = u.pkg → ready.length ≠ commN w → z = { y with ready := true, readyFrom := ready }) ∧
      (commPkg u w 0 = u.pkg → ready.length = commN w → y.held = [] → bellDone next = false → z = next))

/-- Messages to a package leave through a port, if at all: its route, or torus way, does not list port 31, local delivery (R380). -/
def State.NotLocal (s : State) (dst : Nat) : Prop :=
  31 ∉ routePorts s dst ∧ (bitAt 63 s.ridgecfg = true → 31 ∉ torusPorts s none dst)
/-- The Ridge knows a way to another package. -/
def State.Leaves (s : State) (dst : Nat) : Prop := dst ≠ s.pkg ∧ routable s dst = true ∧ s.NotLocal dst

/-- A write of the part's own of these bytes performs at once, and no table entry of the job stands among them. -/
def State.Undisturbed (s : State) (job : BitVec 32) (pa : Nat) (bs : List Byte) : Prop :=
  writeHeld s pa bs.length = false ∧ (∀ w ∈ s.wbs, w.pkg = s.pkg → w.pa + 128 ≤ pa ∨ pa + bs.length ≤ w.pa) ∧
    ∀ x ∈ homeLeaves { s with dram := memWrite s.dram pa bs } job, x.2.addr + 8 ≤ pa ∨ pa + bs.length ≤ x.2.addr

/-- The number that a finite value stands for (R96). -/
def Val.rat : Val → Rat
  | .fin neg m e => (if neg then -1 else 1) * m * 2 ^ e
  | _ => 0

-- What an instruction leaves alone.

/-- The register files and FLAGS of a task (R17, R32) are the same. -/
def Task.SameRegs (t u : Task) : Prop :=
  t.s = u.s ∧ t.c = u.c ∧ t.k = u.k ∧ t.v = u.v ∧ t.a = u.a ∧ t.h = u.h ∧ t.m = u.m ∧ t.e = u.e ∧ t.flags = u.flags ∧
    t.rmode = u.rmode
/-- The registers of the loop sequencer (R34) and the first-iteration bits (R64). -/
def Task.SameLoops (t u : Task) : Prop :=
  t.ldepth = u.ldepth ∧ t.lcount = u.lcount ∧ t.lstride = u.lstride ∧ t.lbody = u.lbody ∧ t.first = u.first
/-- The registers that a trap writes (R163), the mode, and the containment regions (R30). -/
def Task.SameTraps (t u : Task) : Prop :=
  t.trapcause = u.trapcause ∧ t.trappc = u.trappc ∧ t.trapinfo = u.trapinfo ∧ t.handler = u.handler ∧
    t.crdepth = u.crdepth ∧ t.crlevel = u.crlevel
/-- Every byte of DRAM and of every Slate reads the same, and every full/empty bit. -/
def SameMem (s t : State) : Prop :=
  (∀ a, memGet t.dram a = memGet s.dram a) ∧
    ∀ k a, slGet (t.cl k) a = slGet (s.cl k) a ∧ lineFull (t.cl k) (lineOf a) = lineFull (s.cl k) (lineOf a)
/-- Every other context is the same. -/
def OthersSame (s t : State) : Prop := ∀ c, c ≠ s.cur → t.ctx c = s.ctx c

end Machine

end Sys2Proof
end

