-- ==== Sys2Proof/Certificates/Slice0/Obligations.lean ====
section
/-!
DEFINITION. The statements for the provers.
-/
open Sys2Proof Sys2Proof.Machine

-- Encodings.

/-- The encoder and the decoder agree on every well-formed instruction that has an encoding: slots with their header
groups in the formats of R78 to R87, and purlin words (R398, R399), every operand at every value. -/
def Obligations.DecodeOfEncodeIsTheInstruction : Prop :=
  ∀ (i : Instr) (e : Enc), i.wf = true → encode i = some e → decodeEnc e = .ok i

/-- A word has one meaning at most one way: the instruction to which a slot word with its header group decodes is encoded by
that word and that group, when the loop-edge flags are clear and the group suits the slot (R61, R76); and a purlin word that
decodes is the one encoding of a well-formed instruction (R398, R399). In a bundle without a header (hdr = false) the word alone
is the encoding: its instruction has a group whose flags and extension bits are 0, and whose IMX bits are 0 or extend a signed
immediate by its sign (R61, R63). -/
def Obligations.EachWordHasOneEncoding : Prop :=
  (∀ (w : BitVec 32) (g : BitVec 9) (i : Instr), fld 7 2 g = 0 → groupError w g = false →
    decodeSlot ⟨w, g, true⟩ = .ok (.instr i) → encode i = some (.slot w g) ∧ i.wf = true) ∧
  (∀ (w : BitVec 32) (i : Instr), decodeSlot ⟨w, 0, false⟩ = .ok (.instr i) →
    i.wf = true ∧ ∃ g, encode i = some (.slot w g) ∧ fld 5 4 g = 0 ∧ (fld 0 5 g = 0 ∨ fld 0 5 g = 31)) ∧
  ∀ (w : BitVec 32) (i : Instr), decodePurlin w = .ok i → encode i = some (.purlin w) ∧ i.wf = true

/-- Words that the spec prints decode to the instructions that they stand for: the bundle of the example of 02 (ADDI with
its header group, VADD, MMA), LOOP (R155), LDS (R143), CPY (07), and PDROP by R399. -/
def Obligations.PrintedWordsDecode : Prop :=
  decodeSlot ⟨0x0082032C, 0x140, true⟩ = .ok (.instr (.addi 0 0x28 1 0x12C)) ∧
  decodeSlot ⟨0x404642A0, 0, true⟩ = .ok (.instr (.vadd 0 3 4 5 2 false)) ∧
  decodeSlot ⟨0x60513296, 0, true⟩ = .ok (.instr (.mma 2 1 6 10 11 false)) ∧
  decodeSlot ⟨0x21980100, 0, false⟩ = .ok (.instr (.loop 12 1)) ∧
  decodeSlot ⟨0x09828FA0, 0, false⟩ = .ok (.instr (.lds 0 10 7 3 false true 0)) ∧
  decodeSlot ⟨0x80424A78, 0, true⟩ = .ok (.instr (.cpy 0 1 2 5 0x78)) ∧
  decodePurlin 0x64000000 = .ok .pdrop

/-- R76, for the 16 bytes of every bundle: TRAPINFO names its lowest faulting slot and that slot's lowest REASON; a bundle
without a slot fault has REASON 5 beyond the limits of R66, else REASON 8 for the conflict of R74, with WHOLE set; any other bundle
is not illegal. Within a word the decoder finds a reserved unit (0), a header outside slot 0 (1), an unassigned opcode (2), a
nonzero reserved field (3) before a reserved value (4, 9), and a filler's bits (7). Two of its points are the model's choice, not
R76's words: a slot of an unassigned opcode or of a reserved unit is judged in the shape of log 65 (DESIGN CHOICE), and a use that the
encoding alone shows to be illegal is one also in a slot that a predicate, a condition or a loop edge suppresses (log 17, DEDUCED). -/
def Obligations.IllegalBundleNamesItsLowestFault : Prop :=
  (∀ (s : State) (bits : BitVec 128),
    (∀ n r, SlotFault s bits n r → (∀ m q, SlotFault s bits m q → n < m ∨ (n = m ∧ r ≤ q)) →
      judge s bits = .illegal (BitVec.ofNat 64 (256 * r + n))) ∧
    ((∀ n r, ¬ SlotFault s bits n r) →
      (overLimit bits = true → judge s bits = .illegal 0x508) ∧
      (overLimit bits = false → tileConflict s.me (decodeBundle bits).slots = true → judge s bits = .illegal 0x808) ∧
      (overLimit bits = false → tileConflict s.me (decodeBundle bits).slots = false → ∀ x, judge s bits ≠ .illegal x))) ∧
  (∀ bits : BitVec 128, overLimit bits = true ↔ 2 < unitCount bits 0 ∨ 1 < unitCount bits 1 ∨ 2 < unitCount bits 2 ∨
    1 < unitCount bits 3 ∨ 2 < unitCount bits 4) ∧
  ∀ f : SlotBits,
    (fld 29 3 f.w = 7 → decodeSlot f = .error .reservedUnit) ∧
    (fld 29 3 f.w = 5 → decodeSlot f = .error .headerOutside) ∧
    (fld 29 3 f.w = 6 → decodeSlot f = if fld 0 29 f.w = 0 then .ok .filler else .error .fillerBits) ∧
    (f.op = 0 ∨ (fld 29 3 f.w = 0 ∧ 0x30 < f.op.toNat) ∨ (fld 29 3 f.w = 1 ∧ 0x11 < f.op.toNat) ∨
      (fld 29 3 f.w = 2 ∧ 0x35 < f.op.toNat) ∨ (fld 29 3 f.w = 3 ∧ 0x0B < f.op.toNat) ∨
      (fld 29 3 f.w = 4 ∧ 0x14 < f.op.toNat) →
      (fld 29 3 f.w).toNat ≤ 4 → decodeSlot f = .error .unassignedOpcode) ∧
    ∀ x ∈ reservedBits, fld 29 3 f.w = x.1 → f.op = x.2.1 → f.w &&& x.2.2 ≠ 0 → decodeSlot f = .error .reservedField

-- The step.

/-- Which step is next (log 2): a part that has shut down does nothing until a package reset, and every other step of it
stops (R466, log 73); else an incident (log 57), an input, of which a part that is not READY takes in the few of its bring-up, a
step of bring-up (R463, log 9), a purlin instruction, an event that is due, in this order; and a package with no task, no message
and no engine only counts cycles, with a tick every 716.8 of them at 700 MHz, whatever the clock was before in that tick (R35, R466, log 10). -/
def Obligations.StepTakesItsTurns : Prop :=
  (∀ s : State, s.shut = true →
    (∀ rest, s.inbox = .packageReset :: rest → step s = exec .packageReset { s with inbox := rest }) ∧
    ((∀ rest, s.inbox ≠ .packageReset :: rest) → step s = .fault .partShutDown)) ∧
  (∀ (s : State) x rest, s.shut = false → s.incidents = x :: rest →
    step s = .next (takeIncident { s with incidents := rest } x)) ∧
  (∀ (s : State) i rest, s.shut = false → s.incidents = [] → s.inbox = i :: rest →
    (configRetry s = false ∨ beforeReady i = true → step s = exec i { s with inbox := rest }) ∧
    (configRetry s = true → beforeReady i = false → step s = .next (turnedAway { s with inbox := rest } i))) ∧
  (∀ s : State, s.shut = false → s.incidents = [] → s.inbox = [] → configRetry s = true → step s = .next (bringUp s)) ∧
  (∀ (s : State) p r i, s.Running → s.inbox = [] → s.turn = p + 1 → tabFind s.runs p = some r →
    decodePurlin (runWord s r) = .ok i →
    step s = thenDo (exec i s) fun s => { s with turn := procTurn s (p + 1) }) ∧
  (∀ (s : State) i, s.Running → s.inbox = [] → s.turn = 0 → dueEvent s = some i → step s = exec i s) ∧
  ∀ s : State, s.Running → s.inbox = [] → s.turn = 0 → dueEvent s = none → nextCore s = none →
    nextEngine s = none → s.fences = [] → s.arrivals = [] → s.jobs = [] → s.queues = [] → s.wbs = [] → s.hostAcc = [] →
    ∃ t, step s = .next t ∧ t.cycle = s.cycle + 1 ∧ t.ctxs = s.ctxs ∧ SameMem s t ∧
      tickLen * t.ticks + t.phase = tickLen * s.ticks + s.phase + cycleLen s

/-- No instruction and no step of the part is refused, and none faults: whatever the state, a part that has not shut
down has a next state. That every row of the table is one instruction that completes is logs 3 and 58; that a part that has shut
down (R466) stops with a fault is log 73. -/
def Obligations.StepAlwaysAnswers : Prop :=
  (∀ i s, ∃ t, exec i s = .next t) ∧ ∀ s : State, s.shut = false → ∃ t, step s = .next t

/-- A step runs the decoded instruction: when a core's turn finds one context with a bundle to issue, the bundle's 16
bytes are those at the PC (R56, R65), and what runs is the instruction that they decode to, its slots in slot order,
a bundle of fillers as the instruction that only goes on, or the illegal-instruction trap of R76; after it the core's turn is over.
When both contexts offer a bundle (R67), the primary's runs, and the secondary's after it in the same cycle exactly when both
together stay within the limits, no vector unit and no copy engine is wanted twice; it acts on what it was judged on. Whose turn it
is, is the model's order (log 2). -/
def Obligations.StepRunsTheDecodedBundle : Prop :=
  (∀ (s : State) (c k : Nat) (bits : BitVec 128) (j : Judged),
    s.Running → s.inbox = [] → s.turn = 0 → dueEvent s = none → nextCore s = some c → (k = 0 ∨ k = 1) →
    let s1 := landedCore s c
    let ctx := 2 * c + k
    offer s1 ctx = .judged bits j → offer s1 (2 * c + (1 - k)) = .idle →
    let s2 := atBundle (s1.setCore c (chooseCore (s1.core c) false k)) ctx bits
    fetch s1 ctx = .bundle bits ∧
    (∀ x l, j = .go l → soleSlot s2.me bits = some x →
      decodeBundleOne bits = some x.i ∧
      step s = thenDo (exec x.i { s2 with slotNo := x.n }) fun t => { t with coreIdx := c + 1 }) ∧
    (∀ l, j = .go l → l ≠ [] → soleSlot s2.me bits = none →
      step s = thenDo (runSlots l (opened (consumes bits) s2)) fun t => { t with coreIdx := c + 1 }) ∧
    (j = .go [] → consumes bits = false → soleSlot s2.me bits = none →
      step s = thenDo (exec .fillerBundle s2) fun t => { t with coreIdx := c + 1 }) ∧
    (decodeBundle bits = ⟨[], []⟩ → overLimit bits = false →
      ∀ l, j = .go l → l = [] ∧ soleSlot s2.me bits = none ∧ consumes bits = false) ∧
    ∀ info, j = .illegal info →
      step s = thenDo (exec (.illegalEncoding info) s2) fun t => { t with coreIdx := c + 1 }) ∧
  ∀ (s : State) (c p : Nat) (b1 b2 : BitVec 128) (l1 l2 : List BSlot),
    s.Running → s.inbox = [] → s.turn = 0 → dueEvent s = none → nextCore s = some c → (p = 0 ∨ p = 1) →
    let s1 := landedCore s c
    offer s1 (2 * c + p) = .judged b1 (.go l1) → offer s1 (2 * c + (1 - p)) = .judged b2 (.go l2) →
    primaryOf (s1.core c) s1.cycle (s1.ctx (2 * c)) (s1.ctx (2 * c + 1)) = p →
    let s2 := s1.setCore c (chooseCore (s1.core c) true p)
    let p1 := { s2 with cur := 2 * c + p }
    let p2 := { s2 with cur := 2 * c + (1 - p) }
    let fits := slotsFit b1 b2 = true ∧ unitsUsed p1 b1 l1 + unitsUsed p2 b2 l2 ≤ vectorFree p1 ∧
      ∀ e, e ∈ enginesUsed p1 b1 l1 → e ∉ enginesUsed p2 b2 l2
    ∀ t, runBundle s2 (2 * c + p) b1 (.go l1) = .next t →
      (fits → step s =
        thenDo (runSlots l2 (opened (consumes b2) { atBundle t (2 * c + (1 - p)) b2 with stamp := s2.stamp })) fun t =>
          { t with coreIdx := c + 1 }) ∧
      (¬ fits → step s = .next { t with coreIdx := c + 1 })

-- Bundles.

/-- A bundle of one slot (R60, R70, R351): when nothing stalls and no check fails, it issues: the slot acts in the
opened bundle, and the bundle ends. When something stalls, nothing happens. When a check fails, the bundle is
nullified and the event is taken. A slot of a bundle that a predicate or a condition suppresses has no effect (R70).
Which of two failing checks is taken is the order of log 18. -/
def Obligations.BundleOfOneSlot : Prop :=
  ∀ (i : Instr) (s : State), i.inSlot = true →
    (s.before = none →
      (verdict i s = .go → ∃ t, exec i (opened (isMM i) s) = .next t ∧ exec i s = .next (closeBundle t)) ∧
      (verdict i s = .stall → exec i s = .next s) ∧
      (verdict i s ≠ .go → verdict i s ≠ .stall → exec i s = .next (s.divert s.slotNo (verdict i s)))) ∧
    (s.before.isSome = true → suppressed i s = true → exec i s = .next s)

/-- R18, R59: the constants s0, c0 and k0 read 0, 1 and all ones; any other register reads as it stood before the bundle,
and a register whose result is still due reads an undefined value (R72), which no statement fixes. A write to s0, c0 or k0
changes no register, at any time. -/
def Obligations.ConstantRegistersAndReads : Prop :=
  ∀ (s : State), s.rs 0 = 0 ∧ s.rc 0 = true ∧ s.rk 0 = BitVec.allOnes 1024 ∧
    (∀ n, n ≠ 0 → s.src.pendOf (.s n.toNat) = none → s.rs n = vget s.src.s n.toNat 0) ∧
    (∀ n, n ≠ 0 → s.src.pendOf (.c n.toNat) = none → s.rc n = vget s.src.c n.toNat false) ∧
    (∀ n, n ≠ 0 → s.src.pendOf (.k n.toNat) = none → s.rk n = vget s.src.k n.toNat 0) ∧
    (∀ n, s.src.pendOf (.v n.toNat) = none → s.rv n = vget s.src.v n.toNat Tile.zero) ∧
    ∀ (d : Dest) (v : RVal) (f : Flags) (bound n : Nat), d = .s 0 ∨ d = .c 0 ∨ d = .k 0 →
      s.me.inflight = [] → (∀ c, v ≠ .readFlags c) →
      let t := (s.result d v f bound).me.landDue n
      t.s = s.me.s ∧ t.c = s.me.c ∧ t.k = s.me.k ∧ t.v = s.me.v

/-- R71, R72: a bounded result has landed when its bound has passed, whatever else is in flight: its register holds
the value, its flags are set, and FLAGS keeps every flag that it had (R32). Within its bound the model lands a result
at a cycle of its own choice (log 5). -/
def Obligations.ResultLandsByItsBound : Prop :=
  ∀ (s : State) (f : Flags) (bound n : Nat), s.cycle + bound ≤ n →
    (∀ p ∈ s.me.inflight, p.isRead = false) →
    (∀ (r : BitVec 6) (w : Word), r ≠ 0 →
      vget ((s.result (.s r.toNat) (.word w) f bound).me.landDue n).s r.toNat 0 = w) ∧
    (∀ (r : BitVec 3) (b : Bool), r ≠ 0 →
      vget ((s.result (.c r.toNat) (.bit b) f bound).me.landDue n).c r.toNat false = b) ∧
    (∀ (r : BitVec 3) (m : BitVec 1024), r ≠ 0 →
      vget ((s.result (.k r.toNat) (.mask m) f bound).me.landDue n).k r.toNat 0 = m) ∧
    (∀ (r : BitVec 5) (x : Tile), vget ((s.result (.v r.toNat) (.tile x) f bound).me.landDue n).v r.toNat Tile.zero = x) ∧
    ∀ (d : Dest) (v : RVal), (∀ i e l t, v ≠ .record i e l t) → (∀ c, v ≠ .readFlags c) →
      ((s.result d v f bound).me.landDue n).flags &&& (f ||| s.me.flags) = f ||| s.me.flags

/-- What an instruction leaves alone that only gives a result: every register, flag, accumulator, loop register, control
register, the PC and the mode stand as they did (the result is in flight until it lands, R72), and so does the rest of the
package: every byte, every full bit, every other context, and every core but for the vector unit that a V slot takes. It
completes. -/
def Obligations.ResultInstructionsFrame : Prop :=
  ∀ (i : Instr) (s : State), i.givesResult = true → Acting i s →
    ∃ t, exec i s = .next t ∧
      (∃ l, t = (if isV i then takeUnit i s else s).setMe { s.me with inflight := l }) ∧
      t.me.SameRegs s.me ∧ t.me.SameLoops s.me ∧ t.me.SameTraps s.me ∧ SameMem s t ∧ OthersSame s t

-- The S unit.

/-- R129 (less the high products and the bit counts), R130: what the integer instructions give, each by its class bound
(R71). -/
def Obligations.IntegerInstructionsGiveTheirResults : Prop :=
  ∀ (s : State) (p : BitVec 3) (d a b : BitVec 6) (imm : BitVec 14),
    let x := s.rs a
    let y := s.rs b
    let n := y.toNat % 64
    Does (.add p d a b) s (s.outS d (x + y) 2) ∧ Does (.addi p d a imm) s (s.outS d (x + imm.signExtend 64) 2) ∧
    Does (.sub p d a b) s (s.outS d (x - y) 2) ∧ Does (.mul p d a b) s (s.outS d (x * y) 4) ∧
    Does (.and p d a b) s (s.outS d (x &&& y) 2) ∧ Does (.or p d a b) s (s.outS d (x ||| y) 2) ∧
    Does (.xor p d a b) s (s.outS d (x ^^^ y) 2) ∧ Does (.andn p d a b) s (s.outS d (x &&& ~~~y) 2) ∧
    Does (.shl p d a b) s (s.outS d (x <<< n) 2) ∧ Does (.shrs p d a b) s (s.outS d (x.sshiftRight n) 2) ∧
    Does (.shrz p d a b) s (s.outS d (x >>> n) 2) ∧ Does (.rotl p d a b) s (s.outS d (x <<< n ||| x >>> (64 - n)) 2) ∧
    Does (.mins p d a b) s (s.outS d (if x.toInt ≤ y.toInt then x else y) 2) ∧
    Does (.minz p d a b) s (s.outS d (if x.toNat ≤ y.toNat then x else y) 2) ∧
    Does (.maxs p d a b) s (s.outS d (if x.toInt ≤ y.toInt then y else x) 2) ∧
    Does (.maxz p d a b) s (s.outS d (if x.toNat ≤ y.toNat then y else x) 2) ∧
    Does (.mov p d a) s (s.outS d x 2)

/-- R129: MULHS and MULHZ give the high half of the 128-bit product, signed and unsigned; CLZ and CTZ count the zeros above
and below the first one bit, 64 of 0; POPC counts the one bits. -/
def Obligations.HighProductsAndBitCounts : Prop :=
  (∀ (s : State) (p : BitVec 3) (d a b : BitVec 6),
    Does (.mulhs p d a b) s
      (s.outS d (((s.rs a).signExtend 128 * (s.rs b).signExtend 128).extractLsb' 64 64) 4) ∧
    Does (.mulhz p d a b) s
      (s.outS d (((s.rs a).zeroExtend 128 * (s.rs b).zeroExtend 128).extractLsb' 64 64) 4)) ∧
  ∀ (s : State) (p : BitVec 3) (d a : BitVec 6),
    let x := s.rs a
    ∃ lead trail ones : Nat,
      Does (.clz p d a) s (s.outS d (BitVec.ofNat 64 lead) 2) ∧ Does (.ctz p d a) s (s.outS d (BitVec.ofNat 64 trail) 2) ∧
      Does (.popc p d a) s (s.outS d (BitVec.ofNat 64 ones) 2) ∧
      (x = 0 → lead = 64 ∧ trail = 64) ∧
      (x ≠ 0 → lead < 64 ∧ x.getLsbD (63 - lead) = true ∧ (∀ i, 63 - lead < i → x.getLsbD i = false) ∧
        trail < 64 ∧ x.getLsbD trail = true ∧ ∀ i, i < trail → x.getLsbD i = false) ∧
      ones = ((List.range 64).filter fun i => x.getLsbD i).length

/-- R131: a division gives the quotient rounded toward zero and the remainder that goes with it; by zero, all ones and A.
Its destination is scoreboarded, and it completes within 40 cycles when the task has no earlier division outstanding. -/
def Obligations.DivisionsGiveQuotientAndRemainder : Prop :=
  ∀ (s : State) (p : BitVec 3) (d a b : BitVec 6),
    let x := s.rs a
    let y := s.rs b
    let gives := fun (i : Instr) (w : Word) =>
      Acting i s → ∃ bound, exec i s = .next (s.scored (.s d.toNat) (.word w) bound 2) ∧
        ((∀ q ∈ s.me.inflight, q.early ≠ 2) → bound = 40)
    ∃ qs rs qz rz : Word,
      gives (.divs p d a b) qs ∧ gives (.rems p d a b) rs ∧ gives (.divz p d a b) qz ∧ gives (.remz p d a b) rz ∧
      (y = 0 → qs = -1 ∧ qz = -1 ∧ rs = x ∧ rz = x) ∧
      (x.toInt = -2 ^ 63 → y.toInt = -1 → qs = x ∧ rs = 0) ∧
      (y ≠ 0 → x.toNat = qz.toNat * y.toNat + rz.toNat ∧ rz.toNat < y.toNat) ∧
      (y ≠ 0 → ¬(x.toInt = -2 ^ 63 ∧ y.toInt = -1) →
        x.toInt = qs.toInt * y.toInt + rs.toInt ∧ rs.toInt.natAbs < y.toInt.natAbs ∧
          (rs ≠ 0 → (rs.toInt < 0 ↔ x.toInt < 0)))

/-- R132: BFX extracts the field of width w' = min(w, 64 - p) at p, zero- or sign-extended; BFI inserts it; a field of no
width gives 0, and leaves D. -/
def Obligations.BitFieldsExtractAndInsert : Prop :=
  ∀ (s : State) (p : BitVec 3) (d a b : BitVec 6) (sx : Bool),
    let lo := (s.rs b).toNat % 64
    let w := min (min ((s.rs b).toNat / 256 % 128) 64) (64 - lo)
    ∃ x y : Word, Does (.bfx p d a b sx) s (s.outS d x 2) ∧ Does (.bfi p d a b) s (s.outS d y 2) ∧
      (w = 0 → x = 0 ∧ y = s.rs d) ∧
      ∀ i, i < 64 → 0 < w →
        x.getLsbD i = (if i < w then (s.rs a).getLsbD (lo + i) else sx && (s.rs a).getLsbD (lo + w - 1)) ∧
        y.getLsbD i = if lo ≤ i ∧ i < lo + w then (s.rs a).getLsbD (i - lo) else (s.rs d).getLsbD i

/-- R133 to R135, R138, R139: MOVI, MOVHI, SEL and LEA; TIDX gives the base offset plus the sum of coordinate times stride
over six dimensions, modulo 2^64. -/
def Obligations.MovesSelectsAndScaledSums : Prop :=
  (∀ (s : State) (p n : BitVec 3) (d a b : BitVec 6) (imm : BitVec 19) (q : BitVec 2) (val : BitVec 16),
    Does (.movi p d imm) s (s.outS d (imm.signExtend 64) 2) ∧
    (∃ x : Word, Does (.movhi p d q val) s (s.outS d x 2) ∧ ∀ i, i < 64 → x.getLsbD i =
      if 16 * q.toNat ≤ i ∧ i < 16 * q.toNat + 16 then val.getLsbD (i - 16 * q.toNat) else (s.rs d).getLsbD i) ∧
    Does (.sel p d a b n) s (s.outS d (if s.rc n = true then s.rs a else s.rs b) 2) ∧
    Does (.lea p d a b n) s (s.outS d (s.rs a + BitVec.ofNat 64 ((s.rs b).toNat * 2 ^ n.toNat)) 2)) ∧
  ∀ (s : State) (p : BitVec 3) (d a b : BitVec 6) (g : BitVec 2),
    let e := fun n => (vget s.src.e (4 * g.toNat + n) 0).toNat
    let coord := fun n => if n < 4 then (s.rs a).toNat / 65536 ^ n % 65536 else (s.rs b).toNat / 65536 ^ (n - 4) % 65536
    let stride := fun n => e (n / 2) / (2 ^ 32) ^ (n % 2) % 2 ^ 32
    Does (.tidx p d a b g) s
      (s.outS d (BitVec.ofNat 64 (e 3 + ((List.range 6).map fun n => coord n * stride n).sum)) 2)

/-- R136, R137: the comparisons of CMP, and the logic of conditions. -/
def Obligations.ConditionsCompareAndCombine : Prop :=
  ∀ (s : State) (p cd ca cb : BitVec 3) (a b : BitVec 6),
    let x := s.rs a
    let y := s.rs b
    Does (.cmp p cd a b 0) s (s.outC cd (decide (x = y)) 0 2) ∧ Does (.cmp p cd a b 1) s (s.outC cd (decide (x ≠ y)) 0 2) ∧
    Does (.cmp p cd a b 2) s (s.outC cd (decide (x.toInt < y.toInt)) 0 2) ∧
    Does (.cmp p cd a b 3) s (s.outC cd (decide (x.toInt ≤ y.toInt)) 0 2) ∧
    Does (.cmp p cd a b 4) s (s.outC cd (decide (x.toNat < y.toNat)) 0 2) ∧
    Does (.cmp p cd a b 5) s (s.outC cd (decide (x.toNat ≤ y.toNat)) 0 2) ∧
    Does (.cmp p cd a b 6) s (s.outC cd (decide (x &&& y ≠ 0)) 0 2) ∧
    Does (.cand p cd ca cb) s (s.outC cd (s.rc ca && s.rc cb) 0 2) ∧
    Does (.cor p cd ca cb) s (s.outC cd (s.rc ca || s.rc cb) 0 2) ∧
    Does (.cxor p cd ca cb) s (s.outC cd (s.rc ca ^^ s.rc cb) 0 2)

/-- R140: LDS gives the little-endian value of the bytes at its address, zero- or sign-extended, scoreboarded, within 4
cycles (R140's bound is that of a load without bank conflict; that no access of the model meets one is log 66, DESIGN CHOICE, and that
the bytes are those at issue is log 23, DEDUCED); STS stores the low bytes of D there, and every other byte of Slate, every full bit and all else stands. -/
def Obligations.SlateLoadsAndStores : Prop :=
  ∀ (s : State) (p : BitVec 3) (d a : BitVec 6) (sz : BitVec 2) (sx fb : Bool) (imm : BitVec 10),
    let n := 2 ^ sz.toNat
    let ea := (s.rs a + imm.signExtend 64 * BitVec.ofNat 64 n).toNat
    let k := clOf s.cur
    (∃ x : Word, Does (.lds p d a sz sx fb imm) s (s.scored (.s d.toNat) (.word x) 4 0) ∧
      (∀ i, i < n → x.extractLsb' (8 * i) 8 = slGet (s.cl k) (ea + i)) ∧
      ∀ i, 8 * n ≤ i → i < 64 → x.getLsbD i = (sx && (slGet (s.cl k) (ea + n - 1)).getLsbD 7)) ∧
    (Acting (.sts p d a sz imm) s → ∃ cl, exec (.sts p d a sz imm) s = .next (s.setCl k cl) ∧
      (∀ i, i < n → slGet cl (ea + i) = (s.rs d).extractLsb' (8 * i) 8) ∧
      (∀ x, (x < ea ∨ ea + n ≤ x) → slGet cl x = slGet (s.cl k) x) ∧
      cl.lineEmpty = (s.cl k).lineEmpty ∧ cl.bells = (s.cl k).bells ∧ cl.cache = (s.cl k).cache)

/-- R142: AMOS gives the old word and stores the new one, which its op makes of the old word, B and, for CAS, D; every other
byte of Slate stands. The old word lands within the 4 cycles of an LDS without bank conflict; that no access of the model meets one
is log 66 (DESIGN CHOICE), and that the word is read and written at issue is log 23 (DEDUCED). -/
def Obligations.SlateAtomics : Prop :=
  ∀ (s : State) (p op : BitVec 3) (d a b : BitVec 6), op ≠ 7 → Acting (.amos p d a b op) s →
    let ea := (s.rs a).toNat
    let k := clOf s.cur
    ∃ (old new : Word) (cl : Cluster),
      exec (.amos p d a b op) s = .next ((s.setCl k cl).scored (.s d.toNat) (.word old) 4 0) ∧
      (∀ i, i < 8 → old.extractLsb' (8 * i) 8 = slGet (s.cl k) (ea + i) ∧
        slGet cl (ea + i) = new.extractLsb' (8 * i) 8) ∧
      (∀ x, (x < ea ∨ ea + 8 ≤ x) → slGet cl x = slGet (s.cl k) x) ∧ cl.lineEmpty = (s.cl k).lineEmpty ∧
      (op = 0 → new = old + s.rs b) ∧
      (op = 1 → new = if old.toInt ≤ (s.rs b).toInt then old else s.rs b) ∧
      (op = 2 → new = if old.toInt ≤ (s.rs b).toInt then s.rs b else old) ∧
      (op = 3 → new = old &&& s.rs b) ∧ (op = 4 → new = old ||| s.rs b) ∧ (op = 5 → new = s.rs b) ∧
      (op = 6 → new = if old = s.rs d then s.rs b else old)

/-- R144, R145, R30, R31: STG writes one staging register and nothing else; CRD gives the register of its number as it
stood before the bundle; CWR writes the register of its number, of which CRD then reads what R30, R31, R34, R51 and R309 keep of the
value; the resume registers of the matrix engine take a write in a restore stub alone (R146). -/
def Obligations.StagingAndControlRegisters : Prop :=
  ∀ (s : State) (p : BitVec 3) (e : BitVec 4) (d : BitVec 6) (n : BitVec 7),
    Does (.stg p e d) s (s.setMe { s.me with e := vput s.me.e e.toNat (s.rs d) }) ∧
    Does (.crd p d n) s (s.outS d (crRead s.src s.cycle s.ticks n.toNat) 2) ∧
    (crListed n = true → crReadOnly n = false → Acting (.cwr p d n) s →
      ∃ u, exec (.cwr p d n) s = .next (s.setMe u) ∧
        (∀ m : BitVec 7, crListed m = true → m ≠ n →
          crRead u s.cycle s.ticks m.toNat = crRead s.me s.cycle s.ticks m.toNat) ∧
        u.pc = s.me.pc ∧ u.s = s.me.s ∧ u.v = s.me.v ∧ u.inflight = s.me.inflight ∧
        (0x40 ≤ n.toNat → crRead u s.cycle s.ticks n.toNat =
          if 0x50 ≤ n.toNat ∧ n.toNat < 0x70 ∧ n.toNat % 2 = 1 then s.rs d &&& 0x000FFFFFFFFFFFFF else s.rs d) ∧
        (n = 0x11 → crRead u s.cycle s.ticks n.toNat = s.rs d &&& 7) ∧
        (n = 0x10 → s.me.landedAt ≠ s.cycle → crRead u s.cycle s.ticks n.toNat = s.rs d &&& 0x3FF) ∧
        (n = 0x32 → crRead u s.cycle s.ticks n.toNat = s.rs d) ∧
        (n = 0x12 ∨ n = 0x30 → crRead u s.cycle s.ticks n.toNat = s.rs d &&& 0xFFFF) ∧
        (n = 0x13 → crRead u s.cycle s.ticks n.toNat = s.rs d &&& 7) ∧
        ((0x14 ≤ n.toNat ∧ n.toNat ≤ 0x19) ∨ n = 0x26 ∨ n = 0x27 ∨ n = 0x28 →
          crRead u s.cycle s.ticks n.toNat = s.rs d &&& 0xFFFFFFFF) ∧
        (0x1A ≤ n.toNat → n.toNat ≤ 0x1F → crRead u s.cycle s.ticks n.toNat = s.rs d &&& 0xFFFFFFFFFFFFFFFC) ∧
        (0x20 ≤ n.toNat → n.toNat ≤ 0x25 → crRead u s.cycle s.ticks n.toNat = s.rs d &&& 0x01FFFFFFFFFFFFFF) ∧
        (n = 0x31 → crRead u s.cycle s.ticks n.toNat = s.rs d &&& 0xFC0FFFFFFFFFFFF0) ∧
        (0x35 ≤ n.toNat → n.toNat ≤ 0x3D → crRead u s.cycle s.ticks n.toNat =
          if s.me.restoring then
            s.rs d &&& (if n = 0x35 ∨ n = 0x38 then 0x80003F3FFFFFFFFF
              else if n = 0x3D then 0x8000000000000001 else 0xFFFFFFFFFFFFFFFF)
          else crRead s.me s.cycle s.ticks n.toNat))

/-- R147 to R149: the scalar FP32 instructions, in terms of the rounding of 03 (R101, R102), by RNE, with their flags, and
within 4 cycles; what that rounding is, NearestEvenRounding says. FCMP's flags are those of R148's table for every pair of operands:
NFC when either is not finite, NV when either is a NaN and COND is LT or LE, and no other. -/
def Obligations.ScalarFloatInstructions : Prop :=
  ∀ (s : State) (p cd : BitVec 3) (d a b : BitVec 6) (sub ng : Bool),
    let x := (s.rs a).toNat % 2 ^ 32
    let y := (s.rs b).toNat % 2 ^ 32
    let z := (s.rs d).toNat % 2 ^ 32
    let out := fun (r : Nat × Flags) => s.outSF d (BitVec.ofNat 64 r.1) r.2 4
    Does (.fadd p d a b sub) s (out (if sub = true then fSub fp32 0 x y else fAdd fp32 0 x y)) ∧
    Does (.fmul p d a b) s (out (fMul fp32 0 x y)) ∧ Does (.ffma p d a b ng) s (out (fFma fp32 0 ng false x y z)) ∧
    (∃ c : BitVec 3 → Bool × Flags,
      (∀ m : BitVec 3, m.toNat ≤ 4 → Does (.fcmp p cd a b m) s (s.outC cd (c m).1 (c m).2 4)) ∧
      let u := unpack fp32 x
      let v := unpack fp32 y
      (u.isNan = true ∨ v.isNan = true → (c 0).1 = false ∧ (c 1).1 = true ∧ (c 2).1 = false ∧ (c 3).1 = false ∧ (c 4).1 = true) ∧
      (∀ m : BitVec 3, m.toNat ≤ 4 → (c m).2 = (if u.finite = true ∧ v.finite = true then 0 else fNFC) |||
        (if (u.isNan = true ∨ v.isNan = true) ∧ (m = 2 ∨ m = 3) then fNV else 0)) ∧
      (u.isNan = false → v.isNan = false →
        (c 0).1 = valEq u v ∧ (c 1).1 = !(valEq u v) ∧ (c 2).1 = valLt u v ∧ (c 3).1 = (valLt u v || valEq u v) ∧
          (c 4).1 = false)) ∧
    (∃ r : BitVec 3 → Nat × Flags, (∀ m, Does (.fcvt p d a m) s (out (r m))) ∧
      r 0 = valToInt 0 true 64 (unpack fp32 x) ∧ r 1 = valToInt 0 false 64 (unpack fp32 x) ∧
      r 2 = intToFmt fp32 0 (s.rs a).toInt ∧ r 3 = intToFmt fp32 0 ((s.rs a).toNat : Int) ∧
      r 4 = cvtFmt fp32 bf16 0 x ∧ r 5 = cvtFmt bf16 fp32 0 (x % 65536) ∧ r 6 = cvtFmt fp32 fp16 0 x ∧
      r 7 = cvtFmt fp16 fp32 0 (x % 65536))

/-- R101, R102: one rounding of an exact value x = (-1)^neg * n / d * 2^e into FP32, BF16 and FP16, in all four directions, and
the operations that round so. To nearest: a finite result is a value of the format that no other beats, of two as near the even one,
and the result overflows from the midpoint above the largest finite value on. Toward zero: the greatest magnitude that is not above
x's. Away from zero: the least that is not below it; beyond the largest finite value there is none, and the result overflows. FP8
E4M3 (R103) rounds so too, but an overflow saturates, or gives NaN where f8nan asks for it.
NX tells whether the result is inexact, UF whether an inexact one is tiny, OF whether it overflows, with NFP when that gives an
infinity. Sums, products, fused sums and conversions of finite values are the rounding of the exact result (R147, R177, R404, R104),
and a NaN operand gives the canonical NaN (R99); a value becomes the integer of its direction, clamped (R149, R104). -/
def Obligations.NearestEvenRounding : Prop :=
  (∀ (f : Fmt) (rnd : Nat) (neg : Bool) (n d : Nat) (e : Int), f = fp32 ∨ f = bf16 ∨ f = fp16 → rnd < 4 → 0 < d →
    let x : Rat := (if neg then -1 else 1) * (n / d) * 2 ^ e
    let ulp : Rat := 2 ^ ((f.bias : Int) - f.fb)
    let most : Rat := (2 ^ (f.fb + 1) - 1) * ulp
    let inward := rnd = 1 ∨ (rnd = 2 ∧ neg = true) ∨ (rnd = 3 ∧ neg = false)
    let r := roundQuot f rnd neg n d e
    let v := unpack f r.1
    v.isNan = false ∧ v.neg? = neg ∧
    (v.finite = true →
      (r.2 &&& fNX = 0 ↔ v.rat = x) ∧ (r.2 &&& fUF = 0 ↔ v.rat = x ∨ 2 ^ f.emin ≤ |x|)) ∧
    (v.finite = false → r = (f.inf neg, fOF ||| fNX ||| fNFP)) ∧
    (rnd = 0 →
      (v.finite = true ↔ |x| < most + ulp / 2) ∧ (v.finite = true → r.2 &&& fOF = 0) ∧
      (v.finite = true → ∀ y, (unpack f y).finite = true → (unpack f y).rat ≠ v.rat →
        |x - v.rat| ≤ |x - (unpack f y).rat| ∧ (|x - v.rat| = |x - (unpack f y).rat| → r.1 % 2 = 0))) ∧
    (inward → v.finite = true ∧ |v.rat| ≤ |x| ∧ (∀ y, (unpack f y).finite = true → |(unpack f y).rat| ≤ |x| →
        |(unpack f y).rat| ≤ |v.rat|) ∧
      (2 * 2 ^ f.bias ≤ |x| → r = (f.maxFin neg, fOF ||| fNX)) ∧ (|x| < 2 * 2 ^ f.bias → r.2 &&& fOF = 0)) ∧
    (rnd ≠ 0 → ¬ inward →
      (v.finite = true ↔ |x| ≤ most) ∧ (v.finite = true → r.2 &&& fOF = 0 ∧ |x| ≤ |v.rat| ∧
        ∀ y, (unpack f y).finite = true → |x| ≤ |(unpack f y).rat| → |v.rat| ≤ |(unpack f y).rat|))) ∧
  (∀ (rnd : Nat) (f8nan neg : Bool) (n d : Nat) (e : Int), rnd < 4 → 0 < d →
    let x : Rat := (if neg then -1 else 1) * (n / d) * 2 ^ e
    let inward := rnd = 1 ∨ (rnd = 2 ∧ neg = true) ∨ (rnd = 3 ∧ neg = false)
    let r := satFp8Quot rnd f8nan neg n d e
    let v := unpack8 r.1
    let out := (if f8nan then 0x7F else if neg then 0xFE else 0x7E, fOF ||| fNX ||| if f8nan then fNFP else 0)
    let exceeds := if rnd = 0 then 464 < |x| else (inward ∧ 480 ≤ |x|) ∨ (¬ inward ∧ 448 < |x|)
    (exceeds → r = out) ∧
    (¬ exceeds → v.finite = true ∧ v.neg? = neg ∧ r.2 = (if v.rat = x then 0 else fNX ||| if |x| < 2 ^ (-6 : Int) then fUF else 0) ∧
      ∀ y, (unpack8 y).finite = true → (unpack8 y).rat ≠ v.rat →
        (rnd = 0 → |x - v.rat| ≤ |x - (unpack8 y).rat| ∧ (|x - v.rat| = |x - (unpack8 y).rat| → r.1 % 2 = 0)) ∧
        (inward → |v.rat| ≤ |x| ∧ (|(unpack8 y).rat| ≤ |x| → |(unpack8 y).rat| ≤ |v.rat|)) ∧
        (rnd ≠ 0 → ¬ inward → |x| ≤ |v.rat| ∧ (|x| ≤ |(unpack8 y).rat| → |v.rat| ≤ |(unpack8 y).rat|)))) ∧
  (∀ (f g : Fmt) (rnd a b c : Nat) (ng sub : Bool), f = fp32 ∨ f = bf16 ∨ f = fp16 → g = fp32 ∨ g = bf16 ∨ g = fp16 → rnd < 4 →
    let u := unpack f a
    let v := unpack f b
    let w := unpack f c
    let rounds := fun (g : Fmt) (q : Rat) (r : Nat × Flags) =>
      (q ≠ 0 → r = roundQuot g rnd (decide (q < 0)) q.num.natAbs q.den 0) ∧ (q = 0 → (unpack g r.1).isZero = true ∧ r.2 = 0)
    (u.finite = true → v.finite = true →
      rounds f (u.rat + v.rat) (fAdd f rnd a b) ∧ rounds f (u.rat - v.rat) (fSub f rnd a b) ∧
      rounds f (u.rat * v.rat) (fMul f rnd a b) ∧
      (u.rat * v.rat = 0 → (unpack f (fMul f rnd a b).1).neg? = (u.neg? != v.neg?)) ∧
      (u.rat + v.rat = 0 → (unpack f (fAdd f rnd a b).1).neg? = if u.neg? = v.neg? then u.neg? else rnd == 3) ∧
      (w.finite = true → rounds f ((if ng then -1 else 1) * (u.rat * v.rat) + (if sub then -1 else 1) * w.rat)
        (fFma f rnd ng sub a b c))) ∧
    (u.finite = true → rounds g u.rat (cvtFmt f g rnd a) ∧ (unpack g (cvtFmt f g rnd a).1).neg? = u.neg?) ∧
    (u.isNan = true ∨ v.isNan = true → fAdd f rnd a b = (f.nan, fNFC) ∧ fSub f rnd a b = (f.nan, fNFC) ∧
      fMul f rnd a b = (f.nan, fNFC) ∧ (fFma f rnd ng sub a b c).1 = f.nan) ∧
    (w.isNan = true → (fFma f rnd ng sub a b c).1 = f.nan) ∧
    (u.isNan = true → cvtFmt f g rnd a = (g.nan, fNFC)) ∧
    ∀ i : Int, rounds f i (intToFmt f rnd i)) ∧
  ∀ (f : Fmt) (rnd a w : Nat) (signed : Bool), f = fp32 ∨ f = bf16 ∨ f = fp16 → rnd < 4 → 0 < w →
    let u := unpack f a
    let lo : Int := if signed then -2 ^ (w - 1) else 0
    let hi : Int := if signed then 2 ^ (w - 1) - 1 else 2 ^ w - 1
    let pat := fun x : Int => (x % 2 ^ w).toNat
    (u.isNan = true → valToInt rnd signed w u = (0, fNV ||| fNFC)) ∧
    (∀ neg, u = .inf neg → valToInt rnd signed w u = (pat (if neg then lo else hi), fSAT ||| fNX ||| fNFC)) ∧
    (u.finite = true → ∃ k : Int,
      (rnd = 0 → |u.rat - k| ≤ 1 / 2 ∧ (|u.rat - k| = 1 / 2 → k % 2 = 0)) ∧
      (rnd = 1 → |(k : Rat)| ≤ |u.rat| ∧ |u.rat - k| < 1) ∧ (rnd = 2 → u.rat ≤ k ∧ k < u.rat + 1) ∧
      (rnd = 3 → k ≤ u.rat ∧ u.rat < k + 1) ∧
      (k < lo → valToInt rnd signed w u = (pat lo, fSAT ||| fNX)) ∧ (hi < k → valToInt rnd signed w u = (pat hi, fSAT ||| fNX)) ∧
      (lo ≤ k → k ≤ hi → valToInt rnd signed w u = (pat k, if (k : Rat) = u.rat then 0 else fNX)))

-- The X unit. A bundle of one slot that issues stands for the instruction; other slots act beside it (R59).

/-- R150, R151, R79: where the branches go, and what a taken one leaves alone. JMP and JMPR end the levels whose body holds
their bundle and not their target, also in a stub; BR, CALL and RET end none. CALL links. -/
def Obligations.BranchesGoToTheirTargets : Prop :=
  ∀ (s : State) (c : BitVec 3) (n : Bool) (a : BitVec 6) (off : BitVec 23),
    let bundle := fun (w : Word) => w &&& 0x000FFFFFFFFFFFF0
    let rel := bundle (s.me.pc + 16 * off.signExtend 64)
    let goes := fun (i : Instr) (target : Word) (loops : Task → Prop) (inflight : List Pending) => Issues i s →
      ∃ t, exec i s = .next t ∧ t.me.pc = target ∧ loops t.me ∧ t.me.inflight = inflight ∧ t.me.SameRegs s.me ∧
        t.me.SameTraps s.me ∧ SameMem s t ∧ OthersSame s t
    let kept := fun (u : Task) => u.SameLoops s.me
    let left := fun (target : Word) (d : Nat) => decide (d < s.me.ldepth.toNat) &&
      s.me.inBody d s.me.pc && !(s.me.inBody d target)
    let ended := fun (target : Word) (u : Task) => u.lstride = s.me.lstride ∧ u.lbody = s.me.lbody ∧
      u.ldepth.toNat = s.me.ldepth.toNat - ((List.range 7).filter (left target)).length ∧ ∀ d, d < 6 →
      (left target d = true → vget u.lcount d 0 = 0 ∧ u.first.getLsbD d = false) ∧
      (left target d = false → vget u.lcount d 0 = vget s.me.lcount d 0 ∧ u.first.getLsbD d = s.me.first.getLsbD d)
    goes (.br c n off) rel kept s.me.inflight ∧ goes (.jmp off) rel (ended rel) s.me.inflight ∧
    goes (.jmpr c n a) (bundle (s.rs a)) (ended (bundle (s.rs a))) s.me.inflight ∧
    goes (.call off) rel kept (s.outS 62 (bundle (s.me.pc + 16)) 2).me.inflight ∧
    goes (.ret c n) (bundle (s.rs 62)) kept s.me.inflight

/-- R152: LOOP starts a level; with a count of 0 it passes the body over, as if it had run out. R153: after a bundle that takes no branch, the sequencer ends every innermost level whose last iteration ends there,
and then loops back the level around them if that one's body ends there too; else the next bundle follows. R154, R34: when a
level loops back, each enabled stride is added to its register, as it stood before the bundle; both strides of one register
are added; a stride to s0 is discarded. -/
def Obligations.LoopsAndStrides : Prop :=
  (∀ (s : State) (a : BitVec 6) (len : BitVec 9), Issues (.loop a len) s → s.me.ldepth.toNat < 6 →
    let n := (s.rs a).setWidth 32
    let d := s.me.ldepth.toNat
    let start := (s.me.pc + 16) &&& 0x000FFFFFFFFFFFF0
    let last := (start + 16 * len.zeroExtend 64) &&& 0x000FFFFFFFFFFFF0
    (n ≠ 0 → ∃ t, exec (.loop a len) s = .next t ∧ t.me.pc = start ∧ t.me.ldepth.toNat = d + 1 ∧
      vget t.me.lcount d 0 = n ∧ t.me.bodyStart d = start ∧ t.me.bodyEnd d = last ∧ t.me.first.getLsbD d = true ∧
      (∀ e, e < 6 → e ≠ d → vget t.me.lcount e 0 = vget s.me.lcount e 0 ∧ vget t.me.lbody e 0 = vget s.me.lbody e 0 ∧
        t.me.first.getLsbD e = s.me.first.getLsbD e) ∧
      t.me.lstride = s.me.lstride ∧ t.me.SameRegs s.me ∧ t.me.SameTraps s.me ∧ SameMem s t ∧ OthersSame s t) ∧
    (n = 0 → s.me.stub = none → (d = 0 ∨ s.me.bodyEnd (d - 1) ≠ last) →
      ∃ t, exec (.loop a len) s = .next t ∧ t.me.pc = (last + 16) &&& 0x000FFFFFFFFFFFF0 ∧ t.me.SameLoops s.me ∧
        t.me.SameRegs s.me ∧ t.me.SameTraps s.me ∧ SameMem s t ∧ OthersSame s t)) ∧
  (∀ (s : State), Issues .nop s → s.me.stub = none → s.me.ldepth.toNat ≤ 6 →
    ∃ (t : State) (k : Nat), exec .nop s = .next t ∧ k ≤ s.me.ldepth.toNat ∧ t.me.ldepth.toNat = k ∧
      (∀ d, k ≤ d → d < s.me.ldepth.toNat → s.me.bodyEnd d = s.me.pc ∧ (vget s.me.lcount d 0).toNat ≤ 1 ∧
        vget t.me.lcount d 0 = 0 ∧ t.me.first.getLsbD d = false) ∧
      (∀ d, d + 1 < k → vget t.me.lcount d 0 = vget s.me.lcount d 0 ∧ t.me.first.getLsbD d = s.me.first.getLsbD d) ∧
      t.me.lbody = s.me.lbody ∧ t.me.lstride = s.me.lstride ∧
      ((k = 0 ∨ s.me.bodyEnd (k - 1) ≠ s.me.pc) ∧ t.me.pc = (s.me.pc + 16) &&& 0x000FFFFFFFFFFFF0 ∧
          (k ≠ 0 → vget t.me.lcount (k - 1) 0 = vget s.me.lcount (k - 1) 0 ∧
            t.me.first.getLsbD (k - 1) = s.me.first.getLsbD (k - 1)) ∧ t.me.s = s.me.s ∨
        k ≠ 0 ∧ s.me.bodyEnd (k - 1) = s.me.pc ∧ 1 < (vget s.me.lcount (k - 1) 0).toNat ∧
          t.me.pc = s.me.bodyStart (k - 1) ∧ vget t.me.lcount (k - 1) 0 = vget s.me.lcount (k - 1) 0 - 1 ∧
          t.me.first.getLsbD (k - 1) = false)) ∧
  ∀ (s : State) (d : Nat), Issues .nop s → s.me.stub = none → s.me.inflight = [] → s.me.ldepth.toNat = d + 1 → d < 6 →
    s.me.bodyEnd d = s.me.pc → 1 < (vget s.me.lcount d 0).toNat →
    let w := vget s.me.lstride d 0
    let add := fun (on reg lo r : Nat) =>
      if w.getLsbD on = true ∧ (w.extractLsb' reg 6).toNat = r then (w.extractLsb' lo 24).signExtend 64 else 0
    ∃ t, exec .nop s = .next t ∧ (∀ r, 0 < r → r < 64 →
        vget t.me.s r 0 = vget s.me.s r 0 + add 2 4 16 r + add 3 10 40 r) ∧
      vget t.me.s 0 0 = vget s.me.s 0 0 ∧ t.me.v = s.me.v ∧ t.me.c = s.me.c ∧ t.me.flags = s.me.flags ∧ SameMem s t

/-- R43, R44, R157: what one event does to a bell that is held: ARM sets TARGET and adds to PENDING, which saturates;
ARRIVE adds to COUNT; an ARM below COUNT, and an ARRIVE too many, only set OVERRUN. When COUNT reaches TARGET with nothing
pending, the phase completes. -/
def Obligations.BellEvents : Prop :=
  ∀ (b : Bell) (t : BitVec 16) (keep : Bool) (n : Int),
    let done := fun (b : Bell) =>
      if b.target ≠ 0 ∧ b.count = b.target ∧ b.pending = 0 then { b with phase := b.phase + 1, count := 0 } else b
    let clamp := fun (x : Int) => max (-2 ^ 39) (min x (2 ^ 39 - 1))
    let after := fun (x : Bell × Bool) => if bellDone x.1 = true then stepPhase x.1 else x.1
    (keep = false → t ≠ 0 → t.toNat < b.count.toNat →
      armBell b t keep n = ({ b with overrun := true }, true)) ∧
    (keep = true ∨ t = 0 ∨ b.count.toNat ≤ t.toNat →
      after (armBell b t keep n) = done { b with
        target := if keep = true then b.target else t,
        pending := clamp (b.pending + n), overrun := b.overrun || decide (clamp (b.pending + n) ≠ b.pending + n) }) ∧
    (b.target = 0 ∨ b.count = b.target → arriveBell b = ({ b with overrun := true }, true)) ∧
    (b.target ≠ 0 → b.count ≠ b.target → after (arriveBell b) = done { b with count := b.count + 1 }) ∧
    after (bytesBell b n) = done { b with
      pending := clamp (b.pending - n), overrun := b.overrun || decide (clamp (b.pending - n) ≠ b.pending - n) }

/-- R156 to R158: ARM and ARRIVE reach the bell that A names: of a cluster or package bell that is held, the event of
BellEvents, at once for ARM, and for an ARRIVE of cluster scope with nothing before it outstanding. R385: of a mesh bell, the
same events of this package's replica, with the test that follows them; while READY an ARM is held; an ARRIVE is sent to every other
replica, with the phase as its tag. -/
def Obligations.ArmAndArriveReachTheirBell : Prop :=
  (∀ (s : State) (a b : BitVec 6) (keep : Bool) (t : BitVec 16) (scope : BitVec 2) (l : BellLoc),
    l = bellLoc (clOf s.cur) ((s.rs a).setWidth 16) → (∀ i, l ≠ .mesh i) → (getBell s l).holder.isSome = true →
    let after := fun (x : Bell × Bool) => if bellDone x.1 = true then stepPhase x.1 else x.1
    (Acting (.arm a b keep t) s → ∃ u, exec (.arm a b keep t) s = .next u ∧
      getBell u l = after (armBell (getBell s l) t keep ((s.rs b).setWidth 40).toInt) ∧
      u.me.SameRegs s.me ∧ u.me.SameLoops s.me ∧ u.me.SameTraps s.me) ∧
    (Acting (.arrive a b scope) s → ∃ u, exec (.arrive a b scope) s = .next u ∧
      (scope = 0 → s.arrivals = [] → s.fences = [] → cmdsOf s s.src.tid = [] → s.src.mq = [] → s.src.inflight = [] →
        getBell u l = after (arriveBell (getBell s l)) ∧ u.me.SameRegs s.me ∧ u.me.SameLoops s.me ∧
          u.me.SameTraps s.me))) ∧
  ∀ (s : State) (a b : BitVec 6) (keep : Bool) (t : BitVec 16) (i : Nat),
    bellLoc (clOf s.cur) ((s.rs a).setWidth 16) = .mesh i →
    let x := getBell s (.mesh i)
    let n := ((s.rs b).setWidth 40).toInt
    x.holder.isSome = true →
    (Acting (.arm a b keep t) s → ∃ u, exec (.arm a b keep t) s = .next u ∧
      MeshTested s u (if x.ready then { x with held := x.held ++ [(some (t, keep), n)] } else (armBell x t keep n).1)
        (getBell u (.mesh i)) ∧
      u.me.SameRegs s.me ∧ u.me.SameLoops s.me ∧ u.me.SameTraps s.me) ∧
    (Acting (.arrive a b 0) s → s.arrivals = [] → s.fences = [] → s.wbs = [] → cmdsOf s s.src.tid = [] → s.src.mq = [] →
      s.src.inflight = [] → ∃ u, exec (.arrive a b 0) s = .next u ∧
        MeshTested s u (if x.ready then { x with overrun := true } else (arriveBell x).1) (getBell u (.mesh i)) ∧
        (∀ p ∈ commMembers s (commWord s (bellComm x)), p ≠ s.pkg → routable s p = true →
          ∃ m, (m ∈ u.outbox ∧ m.dst = p ∨ m ∈ u.rx) ∧ m.kind = 6 ∧
            m.aux = BitVec.ofNat 64 (0x8000 + i + x.phase.toNat * 2 ^ 16 + 2 ^ 32)) ∧
        u.me.SameRegs s.me ∧ u.me.SameLoops s.me ∧ u.me.SameTraps s.me)

/-- R159: WAIT goes on when ((PHASE - p) mod 65536) lies in 1 to 32767, with an acquire that drops the clean lines of the
group's cache when its scope is wider than the cluster; else the task waits, and issues nothing. -/
def Obligations.WaitGoesOnWhenThePhaseHasPassed : Prop :=
  ∀ (s : State) (a b : BitVec 6) (scope : BitVec 2), Acting (.wait a b scope) s →
    let bell := (s.rs a).setWidth 16
    let p := (s.rs b).setWidth 16
    let n := ((getBell s (bellLoc (clOf s.cur) bell)).phase - p).toNat
    (1 ≤ n ∧ n ≤ 32767 → scope = 0 → exec (.wait a b scope) s = .next s) ∧
    (1 ≤ n ∧ n ≤ 32767 → scope ≠ 0 → ∃ t, exec (.wait a b scope) s = .next t ∧ t.me = s.me ∧
      groupCache t (clOf s.cur) s.me.group = (groupCache s (clOf s.cur) s.me.group).filter (fun x => x.dirty ≠ 0) ∧
      SameMem s t ∧ OthersSame s t) ∧
    (¬(1 ≤ n ∧ n ≤ 32767) →
      exec (.wait a b scope) s = .next (s.setMe { s.me with wait := some ⟨bell, p, scope⟩ })) ∧
    ∀ (u : State) (c : Nat), (u.ctx c).wait.isSome = true → (u.ctx c).pend = [] → offer u c = .idle

/-- R160, R161, R58: NOP and a bundle of fillers do nothing; YIELD makes the other context primary in the next cycle, and in
no later one; after
EXIT no bundle of the task issues. -/
def Obligations.NopYieldExitAndFillers : Prop :=
  ∀ (s : State), Does .nop s s ∧
    (s.before = none → exec .fillerBundle s = .next (closeBundle (opened false s))) ∧
    (Acting .yield s → s.me.stub = none →
      exec .yield s = .next (s.setCore (coreOf s.cur) { s.core (coreOf s.cur) with yielded := some (s.cur, s.cycle) })) ∧
    (∀ (k : Core) (t0 t1 : Task) (c n m : Nat), c < 2 →
      primaryOf { k with yielded := some (2 * (coreOf s.cur) + c, n) } (n + 1) t0 t1 = 1 - c ∧
      (m ≠ n + 1 → primaryOf { k with yielded := some (2 * (coreOf s.cur) + c, n) } m t0 t1 =
        primaryOf { k with yielded := none } m t0 t1)) ∧
    (Acting .exit s → ∃ t, exec .exit s = .next t ∧ t.me.exited = true ∧ t.me.crdepth = 0 ∧ t.me.ldepth = 0 ∧
      t.me.SameRegs s.me ∧ SameMem s t ∧ OthersSame s t ∧ offer t s.cur = .idle)

/-- R163, R76, R351: a trap outside a handler and a stub, of code with a trap vector: TRAPCAUSE, TRAPPC and TRAPINFO
are written, the task is in handler mode, and its next bundle is at the trap vector; nothing else of the machine
changes but that a wait is left. An illegal bundle takes it with cause 1; a check that fails, with its cause and the
slot. R348, R349: a trap in handler mode, or of code without a trap vector, aborts the launch (R344): it is marked
aborted, and its groups are gone. TRAPINFO of the checks follows log 19. -/
def Obligations.TrapEntry : Prop :=
  (∀ (s : State) (v : Nat), s.me.stub = none → s.me.handler = false → s.me.code.trap = some v →
    let enters := fun (t : State) (cause : Nat) (info : Word) =>
      t.me.trapcause = BitVec.ofNat 16 cause ∧ t.me.trapinfo = info ∧ t.me.trappc = (s.me.first ++ 0#6 ++ s.me.pc.setWidth 52) ∧
      t.me.handler = true ∧ t.me.pc = (BitVec.ofNat 64 v &&& 0x000FFFFFFFFFFFF0) ∧ t.me.wait = none ∧
      t.me.SameRegs s.me ∧ t.me.SameLoops s.me ∧ t.me.crdepth = s.me.crdepth ∧ t.me.inflight = s.me.inflight ∧
      SameMem s t ∧ OthersSame s t
    (∀ info, ∃ t, exec (.illegalEncoding info) s = .next t ∧ enters t 1 info) ∧
    (∀ i c d, i.inSlot = true → s.before = none → verdict i s = .fault c d → ∃ t, exec i s = .next t ∧
      enters t c (BitVec.ofNat 64 (s.slotNo + d * 2 ^ 32))) ∧
    ∀ i r, i.inSlot = true → s.before = none → verdict i s = .illegal r → ∃ t, exec i s = .next t ∧
      enters t 1 (BitVec.ofNat 64 (s.slotNo + r * 256))) ∧
  ∀ (s : State) (info : Word), s.me.stub = none → (s.me.handler = true ∨ s.me.code.trap = none) →
    ∃ t, exec (.illegalEncoding info) s = .next t ∧
      (∀ l, tabFind s.launches s.me.launch = some l → ∃ l', tabFind t.launches s.me.launch = some l' ∧ l'.aborted = true) ∧
      ∀ g x, tabFind s.groups g = some x → x.launch = s.me.launch → tabFind t.groups g = none

/-- R162, R163: TRAP: the bundle acts and the sequencer with it, and then the trap is taken, with the code in TRAPINFO and
the PC word of the next bundle in TRAPPC. R164: TRET goes on at TRAPPC, address and FIRST bits, out of handler mode. -/
def Obligations.SoftwareTrapAndReturn : Prop :=
  ∀ (s : State) (code : BitVec 27) (v : Nat), s.me.stub = none →
    (Issues (.trap code) s → s.me.ldepth = 0 → s.me.code.trap = some v → ∃ t, exec (.trap code) s = .next t ∧
      t.me.trapcause = 14 ∧ t.me.trapinfo = code.zeroExtend 64 ∧
      t.me.trappc = (s.me.first ++ 0#6 ++ ((s.me.pc + 16) &&& 0x000FFFFFFFFFFFF0).setWidth 52) ∧ t.me.handler = true ∧
      t.me.pc = (BitVec.ofNat 64 v &&& 0x000FFFFFFFFFFFF0) ∧ t.me.SameRegs s.me ∧ t.me.SameLoops s.me ∧ SameMem s t ∧
      OthersSame s t) ∧
    (Issues .tret s → s.me.heldWait = none → ∃ t, exec .tret s = .next t ∧
      t.me.pc = (s.me.trappc &&& 0x000FFFFFFFFFFFF0) ∧ t.me.first = s.me.trappc.extractLsb' 58 6 ∧ t.me.handler = false ∧
      t.me.trappc = s.me.trappc ∧ t.me.SameRegs s.me ∧ t.me.ldepth = s.me.ldepth ∧ t.me.lcount = s.me.lcount ∧
      SameMem s t ∧ OthersSame s t)

/-- R165, R166: a bundle counts once, into SEGCOUNT and SEGSIG, outside handlers and stubs; SEG starts its segment at 0 and
0, and does nothing in a handler or a stub. R167: CROPEN opens a region, CRCLOSE closes the innermost one, and CRHANDLER
reads the handler of the innermost region, or 0; at CRCLOSE the region's commands are kept and pass to the region around it, or to none. -/
def Obligations.SegmentsAndRegions : Prop :=
  (∀ (s : State) (id : BitVec 27),
    (Issues .nop s → s.me.handler = false → s.me.stub = none → s.me.ldepth = 0 → ∃ t, exec .nop s = .next t ∧
      t.me.segcount = s.me.segcount + 1 ∧ t.me.segsig = bundleSig s.me.segsig s.bits false false ∧ t.me.segid = s.me.segid) ∧
    (Issues .nop s → s.me.handler = true ∨ s.me.stub.isSome = true → ∃ t, exec .nop s = .next t ∧
      t.me.segcount = s.me.segcount ∧ t.me.segsig = s.me.segsig) ∧
    (Issues (.seg id) s → ∃ t, exec (.seg id) s = .next t ∧ t.me.SameTraps s.me ∧ SameMem s t ∧
      (s.me.ldepth = 0 → t.me.SameRegs s.me ∧ t.me.SameLoops s.me) ∧ (s.me.handler = false → s.me.stub = none →
        t.me.segid = id.zeroExtend 32 ∧ t.me.segcount = 0 ∧ t.me.segsig = 0) ∧
      (s.me.handler = true ∨ s.me.stub.isSome = true →
        t.me.segid = s.me.segid ∧ t.me.segcount = s.me.segcount ∧ t.me.segsig = s.me.segsig))) ∧
  ∀ (s : State) (off : BitVec 27),
    (Acting (.cropen off) s → s.src = s.me → s.me.crdepth.toNat < 4 → ∃ t, exec (.cropen off) s = .next t ∧
      t.me.crdepth.toNat = s.me.crdepth.toNat + 1 ∧
      crRead t.me t.cycle t.ticks 0x2A = ((s.me.pc + 16 * off.signExtend 64) &&& 0x000FFFFFFFFFFFF0) ∧
      (∀ d, d < 4 → d ≠ s.me.crdepth.toNat → vget t.me.crlevel d 0 = vget s.me.crlevel d 0) ∧
      t.me.SameRegs s.me ∧ t.me.SameLoops s.me ∧ SameMem s t ∧ OthersSame s t) ∧
    (Acting .crclose s → s.src = s.me → 0 < s.me.crdepth.toNat → ∃ t, exec .crclose s = .next t ∧
      t.me.crdepth.toNat = s.me.crdepth.toNat - 1 ∧ t.me.crlevel = s.me.crlevel ∧
      crRead t.me t.cycle t.ticks 0x2A =
        (if s.me.crdepth.toNat = 1 then 0 else vget s.me.crlevel (s.me.crdepth.toNat - 2) 0) ∧
      cmdsOf t s.me.tid = (cmdsOf s s.me.tid).map (fun x =>
        if x.2.region = some (s.me.crdepth.toNat - 1) then
          (x.1, { x.2 with region := if s.me.crdepth.toNat = 1 then none else some (s.me.crdepth.toNat - 2) })
        else x) ∧
      t.me.SameRegs s.me ∧ t.me.SameLoops s.me ∧ SameMem s t ∧ OthersSame s t)


-- The V unit.

/-- R169 to R179: the element-by-element arithmetic. VADD, VSUB and VNEG are transparent to the transform (R174); the others
reconstruct their operands first, which adds 10 cycles. Two tags join as R118 and R170 say. The lesser, the greater, the clamp and the
sign changes are those of R178. VFN: the special values of R179's table, the exact conversions around a 16-bit view, SQRT as one rounding
of its root, RCP as one of the two FP32 values that bracket the quotient; which of the two, and where the other functions lie
between theirs, is log 11 (DEDUCED). -/
def Obligations.VectorArithmetic : Prop :=
  ∀ (s : State) (t : BitVec 3) (d a b fn : BitVec 5) (k : BitVec 3) (m : Bool),
    let v := t.toNat
    let fmt := viewFmt v
    let rnd := s.src.rmode.toNat % 4
    let x := s.rv a
    let y := s.rv b
    let xs := s.sv a
    let ys := s.sv b
    let zs := s.sv d
    let thin := fun (i : Instr) (f : Nat → Nat → Nat × Flags) =>
      Elementwise i s v d k m (tagOf2 x y) (maskOf2 x y) 0 8 fun r c => f (x.elem v r c) (y.elem v r c)
    let two := fun (i : Instr) (f : Nat → Nat → Nat × Flags) =>
      Elementwise i s v d k m 0 0xFFFF (xs.2 ||| ys.2) (s.bound i 8) fun r c => f (xs.1.elem v r c) (ys.1.elem v r c)
    let three := fun (i : Instr) (f : Nat → Nat → Nat → Nat × Flags) =>
      Elementwise i s v d k m 0 0xFFFF (xs.2 ||| ys.2 ||| zs.2) (s.bound i 8) fun r c =>
        f (xs.1.elem v r c) (ys.1.elem v r c) (zs.1.elem v r c)
    fpView t = true →
    thin (.vadd t d a b k m) (fAdd fmt rnd) ∧ thin (.vsub t d a b k m) (fSub fmt rnd) ∧
    two (.vmul t d a b k m) (fMul fmt rnd) ∧ three (.vfma t d a b k m) (fFma fmt rnd false false) ∧
    three (.vfms t d a b k m) (fFma fmt rnd false true) ∧ two (.vmin t d a b k m) (fMin fmt) ∧
    two (.vmax t d a b k m) (fMax fmt) ∧ two (.vclamp t d a b k m) (fClamp fmt) ∧
    Elementwise (.vabs t d a k m) s v d k m 0 0xFFFF xs.2 (s.bound (.vabs t d a k m) 8)
      (fun r c => fAbs fmt (xs.1.elem v r c)) ∧
    Elementwise (.vneg t d a k m) s v d k m x.tag x.mask 0 8 (fun r c => fNeg fmt (x.elem v r c)) ∧
    Elementwise (.vfn t d a fn k m) s v d k m 0 0xFFFF xs.2 (s.bound (.vfn t d a fn k m) 16)
      (fun r c => vfnView v fn.toNat rnd (xs.1.elem v r c)) ∧
    (∀ p q : BitVec 8, joinTag p q = if p &&& 0x1F = q &&& 0x1F then p ||| (q &&& 0x20) else p) ∧
    (∀ (f : Fmt) (p q : Nat), f = fp32 ∨ f = bf16 ∨ f = fp16 →
      let u := unpack f p
      let w := unpack f q
      let below := fun (u w : Val) => valLt u w || (u.isZero && w.isZero && u.neg? && !w.neg?)
      let nfc : Flags := if u.finite && w.finite then 0 else fNFC
      let sgn := 2 ^ (f.eb + f.fb)
      (u.isNan = true ∨ w.isNan = true →
        fMin f p q = (f.nan, fNFC) ∧ fMax f p q = (f.nan, fNFC) ∧ fClamp f p q = (f.nan, fNFC)) ∧
      (u.isNan = false → w.isNan = false →
        fMin f p q = (if below w u then q else p, nfc) ∧ fMax f p q = (if below u w then q else p, nfc) ∧
        fClamp f p q = ((fMax f (fMin f p (q % sgn)).1 (q % sgn + sgn)).1, nfc) ∧
        (w.finite = false → fClamp f p q = (p, fNFC))) ∧
      (u.isNan = true → fAbs f p = (f.nan, fNFC) ∧ fNeg f p = (f.nan, fNFC)) ∧
      (u.isNan = false → fAbs f p = (p % sgn, if u.finite then 0 else fNFC) ∧
        fNeg f p = (if u.neg? then p % sgn else p % sgn + sgn, if u.finite then 0 else fNFC))) ∧
    (∀ (fn rnd : Nat) (op : BitVec 32), fn ≤ 10 → rnd < 4 →
      let u := unpack fp32 op.toNat
      let one := 0x3F800000
      let inf := fun (neg : Bool) => fp32.inf neg
      let zero := fun (neg : Bool) => if neg then 0x80000000 else 0
      let bad : Nat × Flags := (fp32.nan, fNFC ||| fNV)
      (u = .nan → vfn32 fn rnd op = (fp32.nan, fNFC)) ∧
      (u = .inf false → vfn32 fn rnd op = [(inf false, fNFC), (inf false, fNFC), (0, fNFC), (0, fNFC), (inf false, fNFC),
        (one, fNFC), (one, fNFC), (inf false, fNFC), (inf false, fNFC), bad, bad].getD fn bad) ∧
      (u = .inf true → vfn32 fn rnd op = [(0, fNFC), bad, (zero true, fNFC), bad, bad, (zero true + one, fNFC), (0, fNFC),
        (zero true, fNFC), (zero true, fNFC), bad, bad].getD fn bad) ∧
      (u.isZero = true → vfn32 fn rnd op = [(one, 0), (inf true, fDZ ||| fNFP), (inf u.neg?, fDZ ||| fNFP), (inf u.neg?, fDZ ||| fNFP),
        (op.toNat, 0), (op.toNat, 0), (0x3F000000, 0), (op.toNat, 0), (op.toNat, 0), (op.toNat, 0), (one, 0)].getD fn bad) ∧
      (u.finite = true → u.rat < 0 → fn = 1 ∨ fn = 3 ∨ fn = 4 → vfn32 fn rnd op = (fp32.nan, fNV ||| fNFP)) ∧
      (u.finite = true → 2 ^ 20 ≤ |u.rat| → fn = 9 ∨ fn = 10 → vfn32 fn rnd op = (fp32.nan, fNV ||| fNFP)) ∧
      (op = 0x3F800000 → vfn32 1 rnd op = (0, 0)) ∧
      ∀ neg n e, u = .fin neg n e → 0 < n →
        (∃ dir, (dir = 2 ∨ dir = 3) ∧ (vfn32 2 rnd op).1 = (roundQuot fp32 dir neg 1 n (-e)).1) ∧
        (neg = false →
          let odd := (e % 2).toNat
          let r := Nat.sqrt (n * 2 ^ (120 + odd))
          vfn32 4 rnd op = roundQuot fp32 rnd false (2 * r + if r * r = n * 2 ^ (120 + odd) then 0 else 1) 1
            ((e - odd - 120) / 2 - 1))) ∧
    ∀ (view fn rnd p : Nat), view = 1 ∨ view = 2 →
      let f := viewFmt view
      let r := vfn32 fn rnd (BitVec.ofNat 32 (cvtFmt f fp32 0 p).1)
      let y := roundVal f rnd (unpack fp32 r.1)
      vfnView 0 fn rnd p = vfn32 fn rnd (BitVec.ofNat 32 p) ∧ vfnView view fn rnd p = (y.1, r.2 ||| y.2)

/-- R183: the integer and bitwise instructions: INT32 wraps, INT8 saturates its sums and products with SAT; shift amounts
are taken modulo the width. -/
def Obligations.VectorIntegers : Prop :=
  ∀ (s : State) (t : BitVec 3) (d a b : BitVec 5) (k : BitVec 3) (m : Bool),
    let v := t.toNat
    let w := elemBits v
    let xs := s.sv a
    let ys := s.sv b
    let two := fun (i : Instr) (f : Nat → Nat → Nat × Flags) =>
      Elementwise i s v d k m 0 0xFFFF (xs.2 ||| ys.2) (s.bound i 8) fun r c => f (xs.1.elem v r c) (ys.1.elem v r c)
    let sat := fun (x : Int) => max (-128) (min x 127)
    let arith := fun (f : Int → Int → Int) (x y : Nat) =>
      let z := f (toSigned w x) (toSigned w y)
      if v = 4 then ((sat z % 256).toNat, if sat z = z then (0 : Flags) else fSAT) else ((z % 2 ^ 32).toNat, 0)
    (bitView t = true →
      two (.vand t d a b k m) (fun x y => (x &&& y, 0)) ∧ two (.vor t d a b k m) (fun x y => (x ||| y, 0)) ∧
      two (.vxor t d a b k m) (fun x y => (x ^^^ y, 0))) ∧
    (intView t = true →
      two (.vshl t d a b k m) (fun x y => (x * 2 ^ (y % w), 0)) ∧
      two (.vshr t d a b k m) (fun x y => ((toSigned w x / 2 ^ (y % w) % 2 ^ w).toNat, 0)) ∧
      two (.viadd t d a b k m) (arith (· + ·)) ∧ two (.vimul t d a b k m) (arith (· * ·)))

/-- R180 to R182: VCMP writes the bit of each lane, with the flags of its comparisons and of a reconstruction; VSEL picks lanes, and
joins tags and masks (R118); KAND, KOR and KNOT combine masks. Finite values compare by the numbers that they are, and
the infinities lie beyond them (R148). -/
def Obligations.VectorComparesAndMasks : Prop :=
  ∀ (s : State) (t kd ka kb k cc : BitVec 3) (d a b : BitVec 5), s.before.isSome = true →
    let x := (s.sv a).1
    let y := (s.sv b).1
    let lane := fun (z : Tile) (n : Nat) => z.lane (n / 64) (n % 64)
    (t = 0 ∨ t = 5 → ∃ (r : BitVec 1024) (f : Flags),
      exec (.vcmp t kd a b cc) s =
        .next ((takeUnit (.vcmp t kd a b cc) s).outK kd r f (s.bound (.vcmp t kd a b cc) 8)) ∧
      (∀ j, j < 10 → (f.getLsbD j = true ↔ (s.sv a).2.getLsbD j = true ∨ (s.sv b).2.getLsbD j = true ∨ (t = 0 ∧ ∃ n, n < 1024 ∧
        (fCompare fp32 cc.toNat (lane x n).toNat (lane y n).toNat).2.getLsbD j = true))) ∧
      ∀ n, n < 1024 → r.getLsbD n =
        if t = 0 then (fCompare fp32 cc.toNat (lane x n).toNat (lane y n).toNat).1
        else
          let p := (lane x n).toInt
          let q := (lane y n).toInt
          if cc = 0 then decide (p = q) else if cc = 1 then decide (p ≠ q) else if cc = 2 then decide (p < q)
          else if cc = 3 then decide (p ≤ q) else if cc = 4 then decide (q < p) else decide (q ≤ p)) ∧
    (∀ p q : Nat, let u := unpack fp32 p
      let v := unpack fp32 q
      let un := u.isNan || v.isNan
      let nfc : Flags := if u.finite && v.finite then 0 else fNFC
      fCompare fp32 0 p q = (valEq u v, nfc) ∧ fCompare fp32 1 p q = (!(valEq u v), nfc) ∧
      fCompare fp32 2 p q = (valLt u v, nfc ||| if un then fNV else 0) ∧
      fCompare fp32 3 p q = (valLt u v || valEq u v, nfc ||| if un then fNV else 0) ∧
      fCompare fp32 4 p q = (valLt v u, nfc ||| if un then fNV else 0) ∧
      fCompare fp32 5 p q = (valLt v u || valEq u v, nfc ||| if un then fNV else 0) ∧ fCompare fp32 6 p q = (un, nfc)) ∧
    (∀ u v : Val,
      (u.finite = true → v.finite = true → (valLt u v = true ↔ u.rat < v.rat) ∧ (valEq u v = true ↔ u.rat = v.rat)) ∧
      (u.isNan = true ∨ v.isNan = true → valLt u v = false ∧ valEq u v = false) ∧
      (v.finite = true → valLt (.inf true) v = true ∧ valLt (.inf false) v = false ∧ valLt v (.inf true) = false ∧
        valLt v (.inf false) = true) ∧
      ∀ p q : Bool, valLt (.inf p) (.inf q) = (p && !q) ∧ valEq (.inf p) (.inf q) = (p == q)) ∧
    GivesTile (.vsel d a b k) s d 8 (fun z f => f = 0 ∧ z.side = s.sideOf d ∧
      z.tag = tagOf2 (s.rv a) (s.rv b) ∧ z.mask = maskOf2 (s.rv a) (s.rv b) ∧
      ∀ n, n < 1024 → vget z.lanes n 0 = if (s.rk k).getLsbD n = true then lane (s.rv a) n else lane (s.rv b) n) ∧
    exec (.kand kd ka kb) s = .next ((takeUnit (.kand kd ka kb) s).outK kd (s.rk ka &&& s.rk kb) 0 8) ∧
    exec (.kor kd ka kb) s = .next ((takeUnit (.kor kd ka kb) s).outK kd (s.rk ka ||| s.rk kb) 0 8) ∧
    exec (.knot kd ka) s = .next ((takeUnit (.knot kd ka) s).outK kd (~~~(s.rk ka)) 0 8)

/-- R184 to R187: VCVT converts element by element, PART choosing the half or quarter of the wider view; VQNT quantises the
128 FP32 values of a row pair into FP8 bytes and one scale, by the block rule of R106: the scale is the greatest finite magnitude over
448, rounded to nearest, and at least 2^-126, and each element is divided by it exactly and rounded once (R103); VDQ undoes it (R105); VSCR, VSCC and VBIAS take a column of B, and a
row of it. One element converts as R103 and R104 say: exactly from FP8, with one rounding between the formats, into FP8 and from and to
integers. That VQNT with h = 1 joins the THR tag and the mask of D, and that a VCVT into a wider row keeps the columns of D that its part does
not write as that part's tag and mask joined with D's, is log 23 (DEDUCED). -/
def Obligations.VectorConversionsAndScaling : Prop :=
  ∀ (s : State) (t src : BitVec 3) (part q : BitVec 2) (d a b : BitVec 5) (k : BitVec 3) (m h : Bool),
    let v := t.toNat
    let fmt := viewFmt v
    let rnd := s.src.rmode.toNat % 4
    let x := s.rv a
    let y := s.rv b
    let o := s.rv d
    let conv := convertEl rnd (s.src.rmode.getLsbD 2) src.toNat v
    let cs := viewCols src
    let cd := viewCols t
    let blocks := (List.range 16).map fun i => quantiseBlock rnd (x.row32 i ++ y.row32 i)
    (vcvtLegal t src part = true → cd = cs → Elementwise (.vcvt t d a src part k m) s v d k m x.tag x.mask 0 8
      (fun r c => conv (x.elem src.toNat r c))) ∧
    (vcvtLegal t src part = true → cd < cs → Elementwise (.vcvt t d a src part k m) s v d k m x.tag x.mask 0 8
      (fun r c => conv (x.elem src.toNat r (cd * part.toNat + c)))) ∧
    (vcvtLegal t src part = true → cs < cd → GivesTile (.vcvt t d a src part k m) s d 8 (fun z _ =>
      z.side = s.sideOf d ∧ z.tag = tagOf2 x o ∧ z.mask = maskOf2 x o ∧ ∀ r c, r < 16 → c < cd → rawElem z.lanes v r c =
        if c < cs * part.toNat ∨ cs * part.toNat + cs ≤ c then o.elem v r c
        else if s.picks k (64 * r + c / perLane v) then (conv (x.elem src.toNat r (c - cs * part.toNat))).1 % 2 ^ elemBits v
        else if m = true then 0 else o.elem v r c)) ∧
    GivesTile (.vqnt d a b h) s d 24 (fun z _ =>
      z.tag = (if h = false then tagOf2 x y else joinTag (tagOf2 x y) o.tag) ∧
      z.mask = (if h = false then maskOf2 x y else maskOf2 x y ||| o.mask) ∧
      (∀ r c, r < 16 → c < 256 → rawElem z.lanes 3 r c =
        if h = false then (if c < 128 then (((blocks.getD r ([], 0)).1.getD c (0, 0)).1) % 256 else 0)
        else if c < 128 then o.elem 3 r c else (((blocks.getD r ([], 0)).1.getD (c - 128) (0, 0)).1) % 256) ∧
      ∀ r, r < 16 → sideAt z.side r 0 = (if h = false then (blocks.getD r ([], 0)).2 else sideAt o.side r 0) ∧
        sideAt z.side r 1 = if h = false then 0x3F800000 else (blocks.getD r ([], 0)).2) ∧
    GivesTile (.vdq d a q k m) s d 8 (fun z _ => z.side = sideOnes ∧ (k = 0 ∨ m = true → z.tag = x.tag ∧ z.mask = x.mask) ∧
      ∀ r c, r < 16 → c < 64 → rawElem z.lanes 0 r c =
        if s.picks k (64 * r + c) then (decode8 0 (x.elem 3 r (64 * q.toNat + c)) (sideAt x.side r (q.toNat / 2))).1 % 2 ^ 32
        else if m = true then 0 else o.elem 0 r c) ∧
    (fpView t = true →
      Elementwise (.vscr t d a b k m) s v d k m 0 0xFFFF (s.sv a).2 (s.bound (.vscr t d a b k m) 8)
        (fun r c => fMul fmt rnd ((s.sv a).1.elem v r c) (y.elem v r 0)) ∧
      Elementwise (.vscc t d a b k m) s v d k m x.tag x.mask 0 8
        (fun r c => fMul fmt rnd (x.elem v r c) (y.elem v 0 c)) ∧
      Elementwise (.vbias t d a b k m) s v d k m x.tag x.mask 0 8 (fun r c =>
        if isHaar x.tag = true ∧ 16 / 2 ^ tagLevels x.tag ≤ r then (x.elem v r c, 0)
        else fAdd fmt rnd (x.elem v r c) (y.elem v 0 c))) ∧
    (∀ (rn p : Nat) (nan : Bool) (i j : Nat), rn < 4 → i < 3 → j < 3 →
      let u := unpack (viewFmt i) p
      let q := unpack8 p
      let f := viewFmt j
      convertEl rn nan i j p = cvtFmt (viewFmt i) f rn p ∧
      (u.isNan = true → convertEl rn nan i 3 p = (0x7F, fNFC)) ∧
      (∀ neg, u = .inf neg → convertEl rn nan i 3 p = (if neg then 0xFE else 0x7E, fNFC ||| fOF)) ∧
      (u.finite = true → convertEl rn nan i 3 p = satFp8Quot rn nan u.neg? u.rat.num.natAbs u.rat.den 0) ∧
      convertEl rn nan i 4 p = valToInt rn true 8 u ∧ convertEl rn nan i 5 p = valToInt rn true 32 u ∧
      (q.isNan = true → convertEl rn nan 3 j p = (f.nan, fNFC)) ∧
      (q.isNan = false → (convertEl rn nan 3 j p).2 = 0 ∧ (unpack f (convertEl rn nan 3 j p).1).finite = true ∧
        (unpack f (convertEl rn nan 3 j p).1).rat = q.rat ∧ (unpack f (convertEl rn nan 3 j p).1).neg? = q.neg?) ∧
      convertEl rn nan 4 j p = intToFmt f rn (toSigned 8 p) ∧ convertEl rn nan 5 j p = intToFmt f rn (toSigned 32 p) ∧
      convertEl rn nan 4 5 p = ((toSigned 8 p % 2 ^ 32).toNat, 0) ∧
      (let z := max (-128) (min (toSigned 32 p) 127)
       convertEl rn nan 5 4 p = ((z % 256).toNat, if z = toSigned 32 p then 0 else fSAT))) ∧
    (∀ (p : Nat) (sc : BitVec 32),
      let q := unpack8 p
      let w := unpack fp32 sc.toNat
      (q.isNan = true ∨ w.isNan = true → (decode8 0 p sc).1 = fp32.nan) ∧
      (q.finite = true → w.finite = true →
        (q.rat * w.rat ≠ 0 → decode8 0 p sc =
          roundQuot fp32 0 (decide (q.rat * w.rat < 0)) (q.rat * w.rat).num.natAbs (q.rat * w.rat).den 0) ∧
        (q.rat * w.rat = 0 → decode8 0 p sc = (if q.neg? = w.neg? then 0 else 0x80000000, 0)))) ∧
    ∀ xs : List Nat,
      let r := quantiseBlock rnd xs
      let sc := (unpack fp32 r.2.toNat).rat
      (∃ top : Rat, (top = 0 ∨ ∃ x ∈ xs, (unpack fp32 x).finite = true ∧ |(unpack fp32 x).rat| = top) ∧
        (∀ x ∈ xs, (unpack fp32 x).finite = true → |(unpack fp32 x).rat| ≤ top) ∧
        let near := (roundQuot fp32 0 false top.num.natAbs (top.den * 448) 0).1
        r.2 = if 2 ^ (-126 : Int) ≤ (unpack fp32 near).rat then BitVec.ofNat 32 near else 0x00800000) ∧
      r.1.length = xs.length ∧
      ∀ (j x : Nat), xs[j]? = some x →
        let u := unpack fp32 x
        let q := u.rat / sc
        r.1[j]? = some (
          if u.isNan then (0x7F, fNFC)
          else if u.finite then satFp8Quot rnd false u.neg? q.num.natAbs q.den 0
          else (if u.neg? then 0xFE else 0x7E, fNFC ||| fOF))

/-- R188 to R190, R195, R196: broadcasts, rotations and reductions along rows and columns, gathers by index, and moves: VMOV
copies the side-car too, and VINS makes the row it writes one that survives (R24). A reduction is R189's tree over neighbouring pairs; SUM
over the rows of a Haar tile is 2^L times that of its approximation rows. That VMOV writes the absent rows of a Haar tile as zeros is log
23 (DEDUCED). -/
def Obligations.VectorMovement : Prop :=
  ∀ (s : State) (t : BitVec 3) (d a b : BitVec 5) (imm : BitVec 8) (op mode : BitVec 2) (k : BitVec 3) (m : Bool)
    (sa sb : BitVec 6), anyView t = true →
    let v := t.toNat
    let x := s.rv a
    let xs := (s.sv a).1
    let y := s.rv b
    let rnd := s.src.rmode.toNat % 4
    let moved := fun (i : Instr) (bound : Nat) (tag : BitVec 8) (mask : BitVec 16) (f : Nat → Nat → Nat) =>
      GivesTile i s d bound fun z _ => z.tag = tag ∧ z.mask = mask ∧ z.side = s.sideOf d ∧
        ∀ r c, r < 16 → c < colsOf v → rawElem z.lanes v r c = f r c % 2 ^ elemBits v
    moved (.vbcr t d a imm) (s.bound (.vbcr t d a imm) 12) 0 0xFFFF (fun _ c => xs.elem v imm.toNat c) ∧
    moved (.vbcc t d a imm) 24 x.tag x.mask (fun r _ => x.elem v r imm.toNat) ∧
    moved (.vrotr t d a imm) (s.bound (.vrotr t d a imm) 12) 0 0xFFFF (fun r c => xs.elem v ((r + imm.toNat) % 16) c) ∧
    moved (.vrotc t d a imm) 24 x.tag x.mask (fun r c => x.elem v r ((c + imm.toNat) % colsOf v)) ∧
    (fpView t = true ∨ t = 5 → op ≠ 3 →
      moved (.vredr t d a op) (s.bound (.vredr t d a op) 12) 0 0xFFFF
        (fun _ c => (reduceCol v rnd op (if op = 0 then x else xs) c).1) ∧
      moved (.vredc t d a op) 24 x.tag x.mask
        (fun r _ => (treeFold (reduceOp v rnd op) 8 ((List.range (colsOf v)).map fun c => x.elem v r c)).1)) ∧
    (∀ (f : Nat → Nat → Nat × Flags) (l : List Nat) (n : Nat), n ≤ 8 → l.length = 2 ^ n → ∃ w : Nat → Nat → Nat,
      (∀ i, i < 2 ^ n → w 0 i = l.getD i 0) ∧ (∀ j i, j < n → i < 2 ^ (n - j - 1) → w (j + 1) i = (f (w j (2 * i)) (w j (2 * i + 1))).1) ∧
      (treeFold f 8 l).1 = w n 0 ∧ ∀ b, b < 10 → ((treeFold f 8 l).2.getLsbD b = true ↔
        ∃ j i, j < n ∧ i < 2 ^ (n - j - 1) ∧ (f (w j (2 * i)) (w j (2 * i + 1))).2.getLsbD b = true)) ∧
    (∀ p q : Nat, let sum := toSigned 32 p + toSigned 32 q
      reduceOp 5 rnd 0 p q = ((sum % 2 ^ 32).toNat, 0) ∧ reduceOp 5 rnd 1 p q = (if toSigned 32 p < toSigned 32 q then q else p, 0) ∧
      reduceOp 5 rnd 2 p q = (if toSigned 32 q < toSigned 32 p then q else p, 0) ∧
      (fpView t = true → reduceOp v rnd 0 p q = fAdd (viewFmt v) rnd p q ∧ reduceOp v rnd 1 p q = fMax (viewFmt v) p q ∧
        reduceOp v rnd 2 p q = fMin (viewFmt v) p q)) ∧
    (∀ (z : Tile) (c : Nat), op ≠ 0 ∨ isHaar z.tag = false →
      reduceCol v rnd op z c = treeFold (reduceOp v rnd op) 8 ((List.range 16).map fun i => z.elem v i c)) ∧
    (∀ (z : Tile) (c : Nat), isHaar z.tag = true → tagLevels z.tag ≤ 4 →
      let w := treeFold (reduceOp v rnd 0) 8 ((List.range (16 / 2 ^ tagLevels z.tag)).map fun i => z.elem v i c)
      let g := viewFmt v
      (t = 5 → reduceCol v rnd 0 z c = (w.1 * 2 ^ tagLevels z.tag % 2 ^ 32, w.2)) ∧
      (fpView t = true → ∃ two, (unpack g two).finite = true ∧ (unpack g two).rat = 2 ^ tagLevels z.tag ∧
        reduceCol v rnd 0 z c = ((fMul g rnd two w.1).1, (fMul g rnd two w.1).2 ||| w.2))) ∧
    Elementwise (.vshuf t d a b k m) s v d k m x.tag x.mask 0 24
      (fun r c => (rawElem (s.rawLanes a) v r (y.elem v r c % colsOf v), 0)) ∧
    Elementwise (.vshfr t d a b k m) s v d k m x.tag 0xFFFF 0 12
      (fun r c => (rawElem (s.rawLanes a) v (y.elem v r c % 16) c, 0)) ∧
    GivesTile (.vmov d a k m) s d 8 (fun z f => f = 0 ∧ z.side = x.side ∧ (k = 0 ∨ m = true → z.tag = x.tag ∧ z.mask = x.mask) ∧
      (k ≠ 0 → m = false → z.tag = joinTag x.tag (s.rv d).tag ∧ z.mask = x.mask ||| (s.rv d).mask) ∧
      ∀ n, n < 1024 → vget z.lanes n 0 = if s.picks k n then x.lane (n / 64) (n % 64)
        else if m = true then 0 else (s.rv d).lane (n / 64) (n % 64)) ∧
    Elementwise (.vsplat t d sa k m) s v d k m 0 0xFFFF 0 8 (fun _ _ => ((s.rs sa).toNat % 2 ^ elemBits v, 0)) ∧
    (t = 5 → moved (.viota t d mode) 8 0 0xFFFF
      (fun r c => if mode = 0 then c else if mode = 1 then r else 64 * r + c)) ∧
    (t = 0 → moved (.viota t d mode) 8 0 0xFFFF
      (fun r c => (intToFmt fp32 0 ((if mode = 0 then c else if mode = 1 then r else 64 * r + c : Nat) : Int)).1)) ∧
    (let r0 := (s.rs sb).toNat % 16
     let c0 := (s.rs sb).toNat / 256 % 256 % colsOf v
     GivesTile (.vins t d sa sb) s d 8 (fun z _ => z.side = s.sideOf d ∧ z.tag = (s.rv d).tag ∧
       z.mask = (if isHaar (s.rv d).tag = true then (s.rv d).mask ||| BitVec.ofNat 16 (2 ^ r0) else (s.rv d).mask) ∧
       ∀ r c, r < 16 → c < colsOf v → rawElem z.lanes v r c =
         if r = r0 ∧ c = c0 then (s.rs sa).toNat % 2 ^ elemBits v
         else if r = r0 then (s.rv d).elem v r c else rawElem (s.rv d).lanes v r c) ∧
     (s.before.isSome = true → exec (.vext t d sa sb) s = .next ((takeUnit (.vext t d sa sb) s).outS sa
       (if t = 4 ∨ t = 5 then BitVec.ofInt 64 (toSigned (elemBits v) ((s.rv d).elem v r0 c0))
        else BitVec.ofNat 64 ((s.rv d).elem v r0 c0)) 12)))

/-- R191 to R194, R114, R115: the wavelet instructions: the transform of each column, its thresholds, and the survival mask:
the approximation rows, and every row that is not all zero. VTAG keeps the contents, an absent row's as zeros (R194, R24). A level
of the transform halves the sums and differences of neighbouring rows, and its inverse adds and subtracts them; a threshold clears the
details that are not above it. -/
def Obligations.WaveletInstructions : Prop :=
  ∀ (s : State) (d a : BitVec 5) (lv h : BitVec 3) (th : Bool) (tag : BitVec 8),
    let x := s.rv a
    let col := fun (z : Tile) (j : Nat) => (List.range 16).map fun i => (z.lane i j).toNat
    let set := vget s.src.h h.toNat 0
    let stored := fun (z : Tile) (j i : Nat) => (vget z.lanes (64 * i + j) 0).toNat
    let survives := fun (z : Tile) (levels : Nat) => ∀ i, i < 16 → (z.mask.getLsbD i = true ↔
      i < 16 / 2 ^ levels ∨ ∃ j, j < 64 ∧ stored z j i % 2 ^ 31 ≠ 0)
    (lv ≠ 0 → lv.toNat ≤ 4 → th = true ∨ h = 0 → GivesTile (.vhaar d a lv h th) s d 12 (fun z _ =>
      fldN 0 2 z.tag = 1 ∧ tagLevels z.tag = lv.toNat ∧ bitAt 5 z.tag = th ∧ survives z lv.toNat ∧
      z.side = s.sideOf d ∧ ∀ j i, j < 64 → i < 16 → stored z j i =
        (let c := (haarFwd lv.toNat (col x j)).1
         (if th = true then thresholdCol set lv.toNat c else c).getD i 0) % 2 ^ 32)) ∧
    (isHaar x.tag = true → GivesTile (.vihaar d a) s d 12 (fun z _ =>
      z.tag = 0 ∧ z.mask = 0xFFFF ∧ ∀ j i, j < 64 → i < 16 → stored z j i =
        (haarInv (tagLevels x.tag) (col x j)).1.getD i 0 % 2 ^ 32)) ∧
    GivesTile (.vihaar d a) s d 12 (fun z _ => z.side = s.sideOf d ∧
      (isHaar x.tag = false → z.lanes = x.lanes)) ∧
    GivesTile (.vthr d a h) s d 8 (fun z f => f = 0 ∧ z.tag = (if isHaar x.tag then x.tag ||| 0x20 else x.tag) ∧ survives z (tagLevels x.tag) ∧
      ∀ j i, j < 64 → i < 16 → stored z j i = ((thresholdCol set (tagLevels x.tag) (col x j)).getD i 0) % 2 ^ 32) ∧
    GivesTile (.vtag d a tag) s d 8 (fun z f => f = 0 ∧ z.tag = tag ∧ z.side = x.side ∧
      (∀ n, n < 1024 → vget z.lanes n 0 =
        if tagValid x.tag = true ∧ isHaar x.tag = true then x.lane (n / 64) (n % 64) else vget x.lanes n 0) ∧
      (isHaar tag = false → z.mask = 0xFFFF) ∧ (isHaar tag = true → survives z (tagLevels tag))) ∧
    ∀ (c : List Nat) (levels : Nat), c.length = 16 → levels ≤ 4 →
      let half := fun x => (fMul fp32 0 x 0x3F000000).1
      (∃ w : Nat → Nat → Nat, (∀ i, i < 16 → w 0 i = c.getD i 0) ∧
        (∀ j i, j < levels → i < 16 / 2 ^ (j + 1) → w (j + 1) i = half (fAdd fp32 0 (w j (2 * i)) (w j (2 * i + 1))).1 ∧
          (haarFwd levels c).1.getD (16 / 2 ^ (j + 1) + i) 0 = half (fSub fp32 0 (w j (2 * i)) (w j (2 * i + 1))).1) ∧
        ∀ i, i < 16 / 2 ^ levels → (haarFwd levels c).1.getD i 0 = w levels i) ∧
      (∃ w : Nat → Nat → Nat, (∀ i, i < 16 / 2 ^ levels → w levels i = c.getD i 0) ∧
        (∀ j i, j < levels → i < 16 / 2 ^ (j + 1) →
          w j (2 * i + 1) = (fSub fp32 0 (w (j + 1) i) (c.getD (16 / 2 ^ (j + 1) + i) 0)).1 ∧
          w j (2 * i) = (fAdd fp32 0 (w (j + 1) i) (c.getD (16 / 2 ^ (j + 1) + i) 0)).1) ∧
        ∀ i, i < 16 → (haarInv levels c).1.getD i 0 = w 0 i) ∧
      (haarFwd levels c).1.length = 16 ∧ (haarInv levels c).1.length = 16 ∧
      ∀ i, i < 16 → (thresholdCol set levels c).getD i 0 =
        let level := if 8 ≤ i then 1 else if 4 ≤ i then 2 else if 2 ≤ i then 3 else 4
        let t := set.toNat / 2 ^ (32 * (level - 1)) % 2 ^ 32
        if 16 / 2 ^ levels ≤ i ∧ valLt (unpack fp32 (c.getD i 0)).abs (unpack fp32 t) = true then 0 else c.getD i 0

/-- R197, R198, R21: VLD gives the 16 rows of 256 bytes that it addresses, and the side-car where it is asked to, within the 6
cycles that R173 gives it without a bank conflict (that no access of the model meets one is log 66, DESIGN CHOICE; that it reads
Slate at issue is log 23, DEDUCED); VST stores the selected lanes of the spatial
tile, a later row over an earlier one, and the side-car where it is asked to; no other byte of Slate changes. -/
def Obligations.TileLoadsAndStores : Prop :=
  ∀ (s : State) (t : BitVec 3) (d : BitVec 5) (sa sb : BitVec 6) (k : BitVec 3) (m : Bool), s.before.isSome = true →
    let ea := (s.rs sa).toNat
    let b := s.rs sb
    let pitch := b.toNat % 2 ^ 24
    let lsc := b.getLsbD 47
    let sca := b.toNat / 2 ^ 24 % 2 ^ 23
    let cl := s.cl (clOf s.cur)
    let x := (s.sv d).1
    let byte := fun (lanes : Vector (BitVec 32) 1024) (i n : Nat) => (vget lanes (64 * i + n / 4) 0).extractLsb' (8 * (n % 4)) 8
    (∃ z, exec (.vld t d sa sb k m) s =
        .next ((takeUnit (.vld t d sa sb k m) s).scored (.v d.toNat) (.tile z) 6 0) ∧
      (k = 0 ∨ m = true → z.tag = 0 ∧ z.mask = 0xFFFF) ∧
      (k ≠ 0 → m = false → z.tag = joinTag 0 (s.rv d).tag ∧ z.mask = 0xFFFF ||| (s.rv d).mask) ∧
      (∀ n, n < 128 → lsc = true → (vget z.side (n / 4) 0).extractLsb' (8 * (n % 4)) 8 = slGet cl (sca + n)) ∧
      (lsc = false → z.side = s.sideOf d) ∧
      ∀ i n, i < 16 → n < 256 → byte z.lanes i n =
        if s.picks k (64 * i + n / 4) then slGet cl (ea + i * pitch + n)
        else if m = true then 0 else ((s.rv d).lane i (n / 4)).extractLsb' (8 * (n % 4)) 8) ∧
    (∃ u, exec (.vst t d sa sb k) s = .next u ∧
      (let cl' := u.cl (clOf s.cur)
       let hits := fun (i j a : Nat) => s.picks k (64 * i + j) = true ∧ ea + i * pitch + 4 * j ≤ a ∧ a < ea + i * pitch + 4 * j + 4
       let car := fun (a : Nat) => lsc = true ∧ sca ≤ a ∧ a < sca + 128
       (∀ a, (∀ i j, i < 16 → j < 64 → ¬hits i j a) → ¬car a → slGet cl' a = slGet cl a) ∧
       (∀ i n, i < 16 → n < 256 → s.picks k (64 * i + n / 4) = true →
         (∀ i' j, i < i' → i' < 16 → j < 64 → ¬hits i' j (ea + i * pitch + n)) → ¬car (ea + i * pitch + n) →
         slGet cl' (ea + i * pitch + n) = byte x.lanes i n) ∧
       (∀ n, n < 128 → lsc = true → slGet cl' (sca + n) = (vget x.side (n / 4) 0).extractLsb' (8 * (n % 4)) 8) ∧
       cl'.lineEmpty = cl.lineEmpty ∧ cl'.fifo = cl.fifo ∧ u.me.SameRegs s.me ∧ u.me.SameLoops s.me ∧
       u.me.SameTraps s.me ∧ u.dram = s.dram ∧ OthersSame s u))

/-- R199, R200, R120, R122: VLDT reads the record at its address, at once when its lines are full, else when they become
so: until then its destination is outstanding, and what the lines hold then lands. VSTT stores the record of its tile, transformed and
thresholded as its operand asks: header, the scales and bytes of each surviving row, and zero padding; no other byte of Slate
changes. A record holds, for each row that survives, its two scales, 1.0 in a format other than FP8, and its 256 bytes; the rows
that do not survive are zeros (R121, R24). -/
def Obligations.RecordLoadsAndStores : Prop :=
  ∀ (s : State) (t : BitVec 3) (d : BitVec 5) (sa sb : BitVec 6), s.before.isSome = true →
    let ea := (s.rs sa).toNat
    let cl := s.cl (clOf s.cur)
    let h := slRead cl ea 128
    let b := s.rs sb
    let o := s.rv d
    let lv := min (b.toNat / 16 % 8) 4
    let thr := b.getLsbD 3
    let haar := isHaar o.tag
    let set := vget s.src.h (b.toNat % 8) 0
    let col := fun (j : Nat) => (List.range 16).map fun i => (o.lane i j).toNat
    let stored := fun (z : Tile) (j i : Nat) => (vget z.lanes (64 * i + j) 0).toNat
    let survives := fun (z : Tile) (levels : Nat) => ∀ i, i < 16 → (z.mask.getLsbD i = true ↔
      i < 16 / 2 ^ levels ∨ ∃ j, j < 64 ∧ stored z j i % 2 ^ 31 ≠ 0)
    (∃ u, exec (.vldt t d sa) s = .next u ∧ u.me.SameRegs s.me ∧ u.me.SameLoops s.me ∧ u.me.SameTraps s.me ∧
      SameMem s u ∧ OthersSame s u ∧
      (fullFor s s.cur s.nextId ea (recLen h) = false → s.me.inflight = [] →
        ∃ p, u.me.inflight = [p] ∧ p.dest = some (.v d.toNat) ∧ p.sb = true ∧
          p.val = .record s.nextId ea (recLen h) { Tile.zero with tag := recTag h, mask := recSurv h }) ∧
      (fullFor s s.cur s.nextId ea (recLen h) = true → s.me.inflight = [] →
        ∃ p, u.me.inflight = [p] ∧ p.dest = some (.v d.toNat) ∧ p.sb = true ∧
          p.val = .tile { recTile (slRead cl ea (recLen h)) with tag := recTag h, mask := recSurv h } ∧
          p.due = s.cycle + 8 + popcount 16 (recSurv h).toNat)) ∧
    (∃ u bs, exec (.vstt t d sa sb) s = .next u ∧
      (let cl' := u.cl (clOf s.cur)
       (∀ a, (a < ea ∨ ea + bs.length ≤ a) → slGet cl' a = slGet cl a) ∧
       (∀ n, n < bs.length → slGet cl' (ea + n) = bs.getD n 0) ∧
       (∃ x : Tile, (thr = false → lv = 0 ∨ t ≠ 0 ∨ haar = true → x = o) ∧
         (t = 0 → haar = true → thr = true → x.tag = o.tag ||| 0x20 ∧ x.side = o.side ∧ survives x (tagLevels o.tag) ∧
           ∀ j i, j < 64 → i < 16 → stored x j i = ((thresholdCol set (tagLevels o.tag) (col j)).getD i 0) % 2 ^ 32) ∧
         (t = 0 → haar = false → lv ≠ 0 → fldN 0 2 x.tag = 1 ∧ tagLevels x.tag = lv ∧ bitAt 5 x.tag = thr ∧ x.side = o.side ∧
           survives x lv ∧ ∀ j i, j < 64 → i < 16 → stored x j i =
             (let c := (haarFwd lv (col j)).1
              (if thr = true then thresholdCol set lv c else c).getD i 0) % 2 ^ 32) ∧
         (t ≠ 0 ∨ (haar = false ∧ lv = 0) → x = o) ∧
         let rows := popcount 16 x.mask.toNat
         let sets := thr = true ∧ t = 0 ∧ (haar = true ∨ lv ≠ 0)
         bs.length = 32 * ((32 + 264 * rows + 31) / 32) ∧ recTag bs = x.tag ∧ numAt 1 1 bs = tagLevels x.tag ∧
         recSurv bs = x.mask ∧ recEfmt bs = t.toNat ∧ numAt 6 2 bs = rows ∧ recLen bs = bs.length ∧ numAt 12 4 bs = 0 ∧
         (sets → numAt 5 1 bs = b.toNat % 8 ∧ numAt 16 16 bs = set.toNat) ∧
         (¬ sets → numAt 5 1 bs = 128 ∧ numAt 16 16 bs = 0) ∧
         (∀ i, i < 16 → x.mask.getLsbD i = true →
           let e := 32 + 264 * popcount i x.mask.toNat
           (∀ k, k < 2 → numAt (e + 4 * k) 4 bs = if t = 3 then (vget x.side (2 * i + k) 0).toNat else 0x3F800000) ∧
           ∀ n, n < 256 → bs.getD (e + 8 + n) 0 = (x.lane i (n / 4)).extractLsb' (8 * (n % 4)) 8) ∧
         ∀ n, 32 + 264 * rows ≤ n → n < bs.length → bs.getD n 0 = 0) ∧
       cl'.lineEmpty = cl.lineEmpty ∧ u.me.SameRegs s.me ∧ u.dram = s.dram ∧ OthersSame s u)) ∧
    (∀ (bs : List Byte) (i : Nat), i < 16 →
      let z := recTile bs
      let e := 32 + 264 * popcount i (recSurv bs).toNat
      z.tag = recTag bs ∧ z.mask = recSurv bs ∧
      ((recSurv bs).getLsbD i = true →
        (∀ k, k < 2 → vget z.side (2 * i + k) 0 = if recEfmt bs = 3 then BitVec.ofNat 32 (numAt (e + 4 * k) 4 bs) else 0x3F800000) ∧
        ∀ n, n < 256 → (vget z.lanes (64 * i + n / 4) 0).extractLsb' (8 * (n % 4)) 8 = bs.getD (e + 8 + n) 0) ∧
      ((recSurv bs).getLsbD i = false → ∀ j, j < 64 → vget z.lanes (64 * i + j) 0 = 0)) ∧
    ∀ (u : State) (c : Nat) (p : Pending) (id ea len : Nat) (z : Tile), (u.ctx c).inflight = [p] → p.val = .record id ea len z →
      let w := landCtx c u
      (fullFor u c id ea len = false → (w.ctx c).inflight = [p]) ∧
      (fullFor u c id ea len = true → ∃ q, (w.ctx c).inflight = [q] ∧ q.dest = p.dest ∧ q.sb = p.sb ∧
        q.val = .tile { recTile (slRead (u.cl (clOf c)) ea len) with tag := z.tag, mask := z.mask } ∧
        q.due = u.cycle + 8 + popcount 16 z.mask.toNat)

/-- R201 to R204: VPUSH appends the rows that its mask selects to the bank's queue, each visible 8 cycles later; VPOP
takes up to 16 visible rows and their number; VFLAGS reads FLAGS when the bounded results before it have landed, and
clears the bits that its operand names. Corners of the queue, and when a VFLAGS reads, follow log 24. -/
def Obligations.StreamsAndFlagReads : Prop :=
  ∀ (s : State) (t : BitVec 3) (d : BitVec 5) (sa sb : BitVec 6) (k : BitVec 3), s.before.isSome = true →
    let cl := s.cl (clOf s.cur)
    let bank := streamBank s sa
    let q := (fifoOf cl bank).rows
    let n := min 16 (visible s.cycle (fifoOf cl bank))
    (∃ u, exec (.vpush t d sa k) s = .next u ∧
      (fifoOf (u.cl (clOf s.cur)) bank).rows =
        q ++ (pushRows (s.rk k)).map (fun i => (⟨s.cycle + 8, rowBytes (s.sv d).1.lanes i, false⟩ : FRow)) ∧
      u.me.SameRegs s.me ∧ u.me.SameLoops s.me ∧ u.me.SameTraps s.me ∧ SameMem s u ∧ OthersSame s u) ∧
    (∃ (u : State) (x : Tile), exec (.vpop t d sa sb) s = .next u ∧ (fifoOf (u.cl (clOf s.cur)) bank).rows = q.drop n ∧
      (∃ s' : State, u = (s'.scored (.v d.toNat) (.tile x) 8 1).scored (.s sb.toNat) (.word (BitVec.ofNat 64 n)) 8 1 ∧
        s'.me = s.me) ∧
      x.tag = 0 ∧ x.mask = 0xFFFF ∧
      (∀ i j, i < 16 → j < 64 → vget x.lanes (64 * i + j) 0 =
        if i < n then BitVec.ofNat 32 (numAt (4 * j) 4 ((q.getD i ⟨0, [], false⟩).bytes)) else 0) ∧
      u.me.SameRegs s.me ∧ SameMem s u ∧ OthersSame s u) ∧
    (∃ due, exec (.vflags sa sb) s = .next ((takeUnit (.vflags sa sb) s).scored (.s sa.toNat)
        (.readFlags ((s.rs sb).setWidth 10)) (due - s.cycle) 0) ∧ s.cycle ≤ due ∧
      ∀ p ∈ s.src.inflight, p.sb = false → p.due ≤ due) ∧
    ∀ (u : Task) (p : Pending) (c : Flags) (r cycle : Nat), p.val = .readFlags c → p.dest = some (.s r) → r < 64 →
      vget (u.land cycle p).s r 0 = u.flags.zeroExtend 64 ∧ (u.land cycle p).flags = u.flags &&& ~~~c


-- The M unit.

/-- R211, R215, R217, R85, R226: a matrix instruction (MMA, MMAS, MMAT, MMAH, MLDB, MCLR, MACC, MCFG, MDRN, MDRNS) enters its
context's queue with its registers as they stand, and its count of passes, which MREPLEFT gives; its Slate operands take their values
then (R268, log 25), and the tag that its accumulator takes is A's, or, where rows are written, the accumulator's with A's THR; MREP
sets MREPLEFT, which is then no undefined register (R341). Nothing else of the task's registers changes. A count that a restore stub
left undefined is log 21. -/
def Obligations.MatrixInstructionsQueue : Prop :=
  (∀ (i : Instr) (s : State), i.queues = true → Acting i s → ∃ (t : State) (j : MJob),
    exec i s = .next t ∧ t.me.mq = s.me.mq ++ [j] ∧ j.i = i ∧ j.s1 = s.rs (mf i).s1 ∧ j.s2 = s.rs (mf i).s2 ∧
    j.begun = false ∧ j.next = 0 ∧ j.id = s.nextId ∧ t.nextId = s.nextId + 1 ∧
    (isMM i = true → s.src.mrepleft ≠ 0 → s.src.undefC.contains 0x12 = false → j.n = s.src.mrepleft.toNat) ∧
    (isMM i = false ∨ s.src.mrepleft = 0 → j.n = 1) ∧
    (isMdrns i = false → ∀ r ∈ mRanges i j.n j.s1 j.s2 (viewNow s.src), ∀ a, r.1.toNat ≤ a → a < r.1.toNat + r.2 →
      ∀ cl, slGet (j.sees cl) a = slGet (s.cl (clOf s.cur)) a) ∧
    (∀ p a v s1 s2 o, i = .mma p a v s1 s2 o → s.src.mq = [] → s.src.mrepleft = 0 →
      let acc := vget s.src.a a.toNat (Acc.clear false)
      j.tag = if acc.written = 0 then s.vtag v.toNat else joinTag acc.tag (s.vtag v.toNat)) ∧
    t.me.SameRegs s.me ∧ t.me.SameLoops s.me ∧ t.me.SameTraps s.me ∧ SameMem s t ∧ OthersSame s t) ∧
  ∀ (p : BitVec 3) (count : BitVec 16) (s : State),
    Does (.mrep p count) s (s.setMe { s.me with
      mrepleft := count, mrepArmed := true, undefC := setDel s.me.undefC 0x12 })

/-- R206, R211, R216, R219, R221, R222, R224, R225, R223: the engine: an instruction begins when its turn has come and
its time runs (R206); a pass that ends well updates its accumulator, and takes the accumulator's tag (R217); a residue mismatch
discards the pass and reissues it, counted, at most twice (R227); a third one, an uncorrectable error or a poisoned operand stops the
instruction, with what is left in MREPLEFT and a matrix-error trap pending (R228), and two residue stops within a tick retire the core
(R364); MCLR, MACC, MLDB (rows and scales: R209, R219), MDRN and MDRNS complete, and a drain with O = 1 clears its accumulators
(R224, R225); MCFG is applied when all that came before it has completed. What the spec leaves
open of a pass, and when its Slate bytes are read, is log 25. -/
def Obligations.MatrixEngineSteps : Prop :=
  ∀ (s : State) (core c : Nat), c < 2 →
    let n := 2 * core + c
    let s1 := landCtx n s
    let u := s1.ctx n
    (∀ j, headJob s1 n = some j → nextBegin s1 core = some c → ∃ t j', exec (.matrixInstructionBegins core c) s = .next t ∧
      (t.ctx n).mq = j' :: u.mq.tail ∧ j'.begun = true ∧ j'.id = j.id ∧ j'.next = j.next ∧ SameMem s1 t ∧
      (∀ p s1' s2 o, j.i = .mldb p s1' s2 o → j'.due = s.cycle + 64) ∧
      (∀ p a o, j.i = .mclr p a o → j'.due = s.cycle + 1) ∧ (∀ p a b, j.i = .macc p a b → j'.due = s.cycle + 16) ∧
      (∀ p a v s1' o, j.i = .mdrn p a v s1' o → j'.due = s.cycle + 16) ∧
      (∀ p a opts s1' s2 o, j.i = .mdrns p a opts s1' s2 o → j'.due = s.cycle + 16 + 2 * linesWritten (drainWrites j u).1) ∧
      (isMM j.i = true → j'.due = s.cycle + (if visited j' = 0 then 1 else if visited j' = 16 then 32
        else 8 * ((visited j' + 3) / 4)) * if fld 0 2 (s1.core (coreOf n)).cfg = 1 then 2 else 1) ∧
      (∀ p a s1' s2 o, j.i = .mmas p a s1' s2 o → visited j' = 16) ∧
      (∀ v, passTileNo j = some v → j'.apois = u.poisonV.contains v ∧ ∃ x, j'.atile = some x ∧
        visited j' = if isHaar x.tag then popcount 16 x.mask.toNat else 16)) ∧
    (∀ j, dueJob s1 n = some j → isMM j.i = true → jobPoison s1 n j = false → u.preempt = false → u.debug = false →
      ∃ t, exec (.matrixPass core c .good) s = .next t ∧
        (let old := vget u.a (passAcc j) (Acc.clear false)
         let r := passResult j old (j.atile.getD Tile.zero) u.bbuf (j.sees (s1.cl (clOf n)))
         let tag := match j.i with
           | .mmas _ _ _ _ _ => if old.written = 0 then 0 else old.tag
           | .mmah _ _ _ _ _ _ => 0
           | _ => j.tag
         passAcc j < 8 → vget (t.ctx n).a (passAcc j) (Acc.clear false) = { r.1 with tag := tag }) ∧
        (∀ a, a < 8 → a ≠ passAcc j → vget (t.ctx n).a a (Acc.clear false) = vget u.a a (Acc.clear false)) ∧
        (j.n ≤ j.next + 1 → (t.ctx n).mq = u.mq.tail) ∧
        (j.next + 1 < j.n → ∃ j', (t.ctx n).mq = j' :: u.mq.tail ∧ j'.next = j.next + 1 ∧ j'.i = j.i) ∧
        (t.ctx n).v = u.v ∧ (t.ctx n).s = u.s ∧ SameMem s1 t) ∧
    (∀ j, dueJob s1 n = some j → isMM j.i = true →
      let stops := fun (out : PassOutcome) (reason : Nat) (P : State → Prop) => ∃ t, exec (.matrixPass core c out) s = .next t ∧
        (t.ctx n).mq = [] ∧ (t.ctx n).mrepleft = BitVec.ofNat 16 (j.n - j.next) ∧
        (t.ctx n).pend = u.pend ++ [⟨16, BitVec.ofNat 64 (j.next % 32 + 32 * (mf j.i).acc + 256 * mOpcode j.i + 65536 * reason), none⟩] ∧
        (t.ctx n).a = u.a ∧ (t.ctx n).v = u.v ∧ (t.ctx n).s = u.s ∧ P t
      (j.retries < 2 → s1.jobs = [] → ∃ t j', exec (.matrixPass core c .residue) s = .next t ∧ (t.ctx n).mq = j' :: u.mq.tail ∧
        j' = { j with retries := j.retries + 1, due := s.cycle + passTime (s1.core (coreOf n)).cfg (visited j) } ∧
        (t.core (coreOf n)).residue = (s1.core (coreOf n)).residue + 1 ∧ (t.ctx n).a = u.a ∧ SameMem s1 t) ∧
      (2 ≤ j.retries → (s1.core (coreOf n)).stopAt ≠ some s.ticks → stops .residue 0 fun t =>
        (t.core (coreOf n)).residue = (s1.core (coreOf n)).residue ∧ (t.core (coreOf n)).stopAt = some s.ticks ∧
        (t.core (coreOf n)).retired = (s1.core (coreOf n)).retired ∧ SameMem s1 t) ∧
      (2 ≤ j.retries → (s1.core (coreOf n)).stopAt = some s.ticks → stops .residue 0 fun t =>
        (t.core (coreOf n)).retired = true) ∧
      stops .uncorrect 1 (SameMem s1) ∧
      (j.apois = true ∨ (∃ r ∈ passRows j.i j.s1 j.s2 j.next, anyPoison (j.sees (s1.cl (clOf n))) r.1.toNat r.2 = true) →
        stops .good 2 (SameMem s1))) ∧
    (∀ j, dueJob s1 n = some j → jobPoison s1 n j = false →
      ∃ t, exec (.matrixOperationCompletes core c) s = .next t ∧
        (∀ p a o, j.i = .mclr p a o → vget (t.ctx n).a a.toNat (Acc.clear false) = Acc.clear o ∧
          (t.ctx n).mq = u.mq.tail ∧ SameMem s1 t) ∧
        (∀ p a b, j.i = .macc p a b → vget (t.ctx n).a a.toNat (Acc.clear false) =
          { (passAdd (vget u.a a.toNat (Acc.clear false)) (vget u.a b.toNat (Acc.clear false))).1 with tag := j.tag } ∧
          (t.ctx n).mq = u.mq.tail ∧ SameMem s1 t) ∧
        (∀ p s1' s2 o, j.i = .mldb p s1' s2 o → (∃ b, (t.ctx n).bbuf = some b ∧ b.o = o ∧ b.s1 = j.s1 ∧ b.s2 = j.s2 ∧
          b.rows = (readRows (j.sees (s1.cl (clOf n))) (passRows j.i j.s1 j.s2 0)).flatten ∧
          let scb := 8 * (j.s2.toNat / 2 ^ 35 % 2 ^ 20)
          ∀ c k, c < 2 → k < 64 → b.scales.getD (64 * c + k) 0 = if o = true ∨ scb = 0 then 0x3F800000
            else BitVec.ofNat 32 (slNum (j.sees (s1.cl (clOf n))) (scb + 8 + 256 * c + 4 * k) 4)) ∧
          (t.ctx n).mq = u.mq.tail ∧ SameMem s1 t) ∧
        (∀ p a v s1' o, j.i = .mdrn p a v s1' o →
          vget (t.ctx n).v v.toNat Tile.zero =
            (drainTile (vget u.a a.toNat (Acc.clear false)) (!(bitAt 4 j.s1)) (bitAt 3 j.s1) j.thr).1 ∧
          (o = false → (t.ctx n).a = u.a) ∧
          (o = true → vget (t.ctx n).a a.toNat (Acc.clear false) = Acc.clear (vget u.a a.toNat (Acc.clear false)).imode ∧
            ∀ g, g < 8 → g ≠ a.toNat → vget (t.ctx n).a g (Acc.clear false) = vget u.a g (Acc.clear false)) ∧
          (t.ctx n).mq = u.mq.tail ∧ SameMem s1 t) ∧
        (∀ p a opts s1' s2 o, j.i = .mdrns p a opts s1' s2 o →
          (∀ x, (∀ w ∈ (drainWrites j u).1, x < w.1 ∨ w.1 + w.2.length ≤ x) →
            slGet (t.cl (clOf n)) x = slGet (s1.cl (clOf n)) x) ∧
          ((drainWrites j u).1.Pairwise (fun w w' => w.1 + w.2.length ≤ w'.1 ∨ w'.1 + w'.2.length ≤ w.1) →
            ∀ w ∈ (drainWrites j u).1, ∀ i, i < w.2.length → slGet (t.cl (clOf n)) (w.1 + i) = w.2.getD i 0) ∧
          (o = true → ∀ g, a.toNat ≤ g → g < a.toNat + 2 ^ (opts.toNat / 8) → g < 8 →
            vget (t.ctx n).a g (Acc.clear false) = Acc.clear (vget u.a g (Acc.clear false)).imode) ∧
          (o = false → (t.ctx n).a = u.a) ∧ (t.ctx n).mq = u.mq.tail ∧ t.dram = s1.dram)) ∧
    (∀ d j, dueMcfg s core = some (d, j) → ∃ t, exec (.mcfgApplied core) s = .next t ∧
      (t.core core).cfg = j.s1.setWidth 3 ∧ (t.ctx d).mq = (s.ctx d).mq.tail ∧ SameMem s t)

/-- R108 to R113, R117, R205, R207, R209, R215, R216, R218, R224, R225: what passes add and drains give. A pass takes element and
scale (i, k) of A and B from the tile, the Slate rows, the images and the buffer as its instruction says (R215, R216, R218). In integer mode a pass adds to each element of a visited
row, in two steps of 128 products, and saturates to 36 bits. Otherwise an update step adds 64 values to a row at the smallest exponent
that holds all of them, each rounded once to the nearest even, and saturates at E = 255; infinities and NaN combine by their table; no
other row changes. FP8, BF16 and Haar passes make such steps of their chunks, row by row: of FP8, the exact sum of products rounded,
times the rounded product of the scales, rounded; of BF16, the sum of products each truncated to 2^(emax - 40), weighted in the Haar
domain, rounded; an operand that is not finite makes the chunk's value. A drain rounds each element once, and MDRN and MDRNS
transform, threshold, convert and store as their options ask. The flags of overflowing scale products and of elements that are not
finite are logs 70 and 72; an MMAH without a surviving row is log 75. -/
def Obligations.IntegerPassAddsDotProducts : Prop :=
  (∀ (acc : Acc) (a : AOp) (b : BOp) (i j : Nat), i < 16 → j < 64 → a.rows.Nodup →
    let dot := fun (c : Nat) => ((List.range 128).map fun k =>
      toSigned 8 (a.el i (128 * c + k)) * toSigned 8 (b.el (128 * c + k) j)).sum
    let sat := fun (x : Int) => max (-2 ^ 35) (min x (2 ^ 35 - 1))
    let old := (vget acc.elem (64 * i + j) 0).toInt
    let new := (vget (passInt acc a b).1.elem (64 * i + j) 0).toInt
    new = if i ∈ a.rows then sat (sat (old + dot 0) + dot 1) else old) ∧
  (∀ (acc : Acc) (i : Nat) (ts : List Val), i < 16 → ts.length = 64 →
    let el := fun (a : Acc) (j : Nat) => vget a.elem (64 * i + j) 0
    let r := rowUpdate acc i ts
    let t := fun (j : Nat) => ts.getD j .nan
    let live := fun (j : Nat) => j < 64 ∧ elClass (el acc j) = 0 ∧ (t j).finite = true
    let ex := (vget acc.exp i 0).toNat
    let ex' := (vget r.1.exp i 0).toNat
    let grid := fun (e : Nat) => (2 : Rat) ^ ((e : Int) - 160)
    let v := fun (j : Nat) => (elSig (el acc j) : Rat) * grid ex + (t j).rat
    let inside := fun (e j : Nat) => -(2 ^ 33 + 1 / 2) * grid e ≤ v j ∧ v j < (2 ^ 33 - 1 / 2) * grid e
    let fits := fun (e : Nat) => ∀ j, live j → inside e j
    ex ≤ ex' ∧ (∀ e, ex ≤ e → e < ex' → ¬ fits e) ∧ (¬ fits ex' → ex' = 255) ∧
    (∀ j, live j → elClass (el r.1 j) = 0 ∧
      let m := elSig (el r.1 j)
      (inside ex' j → |v j - m * grid ex'| ≤ grid ex' / 2 ∧ (|v j - m * grid ex'| = grid ex' / 2 → m % 2 = 0)) ∧
      ((2 ^ 33 - 1 / 2) * grid ex' ≤ v j → m = 2 ^ 33 - 1) ∧ (v j < -(2 ^ 33 + 1 / 2) * grid ex' → m = -2 ^ 33)) ∧
    (∀ j, j < 64 → ¬ live j →
      (elClass (el acc j) = 3 ∨ t j = .nan → el r.1 j = elOf 3) ∧
      (∀ neg, t j = .inf neg → elClass (el acc j) = 0 ∨ elClass (el acc j) = (if neg then 2 else 1) →
        el r.1 j = elOf (if neg then 2 else 1)) ∧
      (∀ neg, t j = .inf neg → elClass (el acc j) = (if neg then 1 else 2) → el r.1 j = elOf 3 ∧ r.2 &&& fNV = fNV) ∧
      ((t j).finite = true → el r.1 j = elOf (elClass (el acc j)))) ∧
    (∀ n, n < 1024 → n / 64 ≠ i → vget r.1.elem n 0 = vget acc.elem n 0) ∧
    (∀ k, k < 16 → k ≠ i → vget r.1.exp k 0 = vget acc.exp k 0) ∧
    r.1.written = acc.written ||| BitVec.ofNat 16 (2 ^ i) ∧ r.1.tag = acc.tag ∧ r.1.imode = acc.imode ∧
    (fits ex' → r.1.overflow = acc.overflow ∧ r.2 &&& fAOV = 0) ∧
    (¬ fits ex' → r.1.overflow = acc.overflow ||| BitVec.ofNat 16 (2 ^ i) ∧ r.2 &&& fAOV = fAOV)) ∧
  (∀ (acc : Acc) (a : AOp) (b : BOp) (levels i : Nat), i < 16 → a.rows.Nodup →
    let sameRow := fun (x y : Acc) => (∀ j, j < 64 → vget x.elem (64 * i + j) 0 = vget y.elem (64 * i + j) 0) ∧
      vget x.exp i 0 = vget y.exp i 0 ∧ (x.written.getLsbD i = y.written.getLsbD i)
    let row := fun (f : Nat → Val × Flags) => (List.range 64).map fun j => (f j).1
    let e8 := fun (c : Nat) => row fun j => chunk8 ((List.range 128).map fun k =>
      (unpack8 (a.el i (128 * c + k)), unpack8 (b.el (128 * c + k) j))) (a.scale i c) (b.scale c j)
    let e16 := row fun j => chunk16 ((List.range 128).map fun k => ((unpack bf16 (a.el i k), unpack bf16 (b.el k j)), 0))
    let eh := row fun j => chunk16 (a.rows.map fun k => ((unpack bf16 (a.el k i), unpack bf16 (b.el k j)), rowWeight levels k))
    (i ∈ a.rows → sameRow (pass8 acc a b).1 (rowUpdate (rowUpdate acc i (e8 0)).1 i (e8 1)).1 ∧
      sameRow (pass16 acc a b).1 (rowUpdate acc i e16).1) ∧
    (i ∉ a.rows → sameRow (pass8 acc a b).1 acc ∧ sameRow (pass16 acc a b).1 acc) ∧
    sameRow (passHaar acc levels a b).1 (rowUpdate acc i eh).1) ∧
  (∀ (job : MJob) (acc : Acc) (t : Tile) (bbuf : Option BBuf) (cl : Cluster),
    let base : Int := ((job.s1.toNat % 2 ^ 23 : Nat) : Int) + (job.next : Int) * (job.s2.setWidth 32).toInt
    let pitch := 16 * (job.s1.toNat / 2 ^ 32 % 2 ^ 16)
    let scb := 8 * (job.s2.toNat / 2 ^ 35 % 2 ^ 20)
    let slate := fun (row at' width : Nat) => slNum cl ((base + (pitch * row : Nat)).toNat + at') width
    let scale := fun (at' : Nat) => if scb = 0 then 0x3F800000 else BitVec.ofNat 32 (slNum cl (scb + at') 4)
    let run := fun (o : Bool) (a : AOp) (b : BOp) => if o then pass16 acc a b else if acc.imode then passInt acc a b else pass8 acc a b
    let fp8 := fun (o : Bool) => o = false ∧ acc.imode = false
    let ks := fun (o : Bool) => if o then 128 else 256
    let tileRows := (List.range 16).filter fun i => !(isHaar t.tag && !(t.mask.getLsbD i))
    let slateB := fun (o : Bool) (b : BOp) => ∀ k c, k < ks o → c < 64 → b.el k c = if o then slate k (2 * c) 2 else slate k c 1
    (∀ p n v s1 s2 o, job.i = .mma p n v s1 s2 o → ∃ a b, passResult job acc t bbuf cl = run o a b ∧
      a.rows = tileRows ∧ (∀ i k, i < 16 → k < ks o → a.el i k = t.elem (if o then 1 else 3) i k) ∧ slateB o b ∧
      (fp8 o → ∀ c, c < 2 → (∀ i, i < 16 → a.scale i c = vget t.side (2 * i + c) 0) ∧
        ∀ k, k < 64 → b.scale c k = scale (520 * job.next + 8 + 256 * c + 4 * k))) ∧
    (∀ p n v s1 s2 o, job.i = .mmat p n v s1 s2 o → ∃ a b, passResult job acc t bbuf cl = run o a b ∧
      a.rows = List.range 16 ∧ (∀ i k, i < 16 → k < ks o →
        a.el i k = if o then t.elem 1 (k / 8) (16 * (k % 8) + i) else t.elem 3 (k / 16) (16 * (k % 16) + i)) ∧ slateB o b ∧
      (fp8 o → ∀ c, c < 2 → (∀ i, i < 16 → a.scale i c = scale (656 * job.next + 520 + 8 + 8 * i + 4 * c)) ∧
        ∀ k, k < 64 → b.scale c k = scale (656 * job.next + 8 + 256 * c + 4 * k))) ∧
    (∀ p n s1 s2 o, job.i = .mmas p n s1 s2 o → (bbuf = none → passResult job acc t bbuf cl = (acc, 0)) ∧
      ∀ buf, bbuf = some buf → ∃ a b, passResult job acc t bbuf cl = run o a b ∧
        a.rows = List.range 16 ∧ (∀ i k, i < 16 → k < ks o → a.el i k = if o then slate i (2 * k) 2 else slate i k 1) ∧
        (∀ k c, k < ks o → c < 64 → b.el k c = if o then numAt (128 * k + 2 * c) 2 buf.rows else numAt (64 * k + c) 1 buf.rows) ∧
        (fp8 o → ∀ c, c < 2 → (∀ i, i < 16 → a.scale i c = scale (136 * job.next + 8 + 8 * i + 4 * c)) ∧
          ∀ k, k < 64 → b.scale c k = buf.scales.getD (64 * c + k) 0x3F800000)) ∧
    (∀ p n v s1 s2 o, job.i = .mmah p n v s1 s2 o → ∃ a b,
      passResult job acc t bbuf cl = passHaar acc (if isHaar t.tag then tagLevels t.tag else 0) a b ∧ a.rows = tileRows ∧
      (∀ k i, k < 16 → i < 16 → a.el k i = t.elem 1 k (16 * (job.s2.toNat / 2 ^ 55 % 8 + job.next) + i)) ∧
      (o = true → ∀ k c, k < 16 → c < 64 → b.el k c = slate k (2 * c) 2))) ∧
  (∀ levels k, k < 16 → rowWeight levels k = if levels = 0 then 0 else if k < 16 / 2 ^ levels then levels
    else if k < 2 then 4 else if k < 4 then 3 else if k < 8 then 2 else 1) ∧
  (∀ (ps : List (Val × Val)) (ws : List ((Val × Val) × Nat)) (sa sb : BitVec 32),
    let finite := fun (l : List (Val × Val)) => ∀ p ∈ l, p.1.finite = true ∧ p.2.finite = true
    let nan := fun (l : List (Val × Val)) => ∃ p ∈ l, p.1 = .nan ∨ p.2 = .nan
    let none := fun (l : List (Val × Val)) => ∃ p ∈ l, (mulVal p.1 p.2).2 = fNV
    let inf := fun (l : List (Val × Val)) (neg : Bool) => ∃ p ∈ l, (mulVal p.1 p.2).1 = .inf neg
    let special := fun (l : List (Val × Val)) (r : Val × Flags) =>
      (nan l → r = (.nan, fNFC)) ∧ (¬ nan l → none l ∨ (inf l true ∧ inf l false) → r = (.nan, fNFC ||| fNV)) ∧
      ∀ neg, ¬ nan l → ¬ none l → inf l neg → ¬ inf l (!neg) → r = (.inf neg, fNFC)
    let round := fun (q : Rat) => (roundQuot fp32 0 (decide (q < 0)) q.num.natAbs q.den 0).1
    let small := fun (v : Val) => ∃ n m e, v = .fin n m e ∧ -9 ≤ e
    special ps (chunk8 ps sa sb) ∧ special (ws.map Prod.fst) (chunk16 ws) ∧
    (finite ps → (∀ p ∈ ps, small p.1 ∧ small p.2) →
      (chunk8 ps sa sb).1 = unpack fp32 (fMul fp32 0 (round (ps.map fun p => p.1.rat * p.2.rat).sum)
        (fMul fp32 0 sa.toNat sb.toNat).1).1) ∧
    (finite (ws.map Prod.fst) →
      let term := fun (x : (Val × Val) × Nat) => x.1.1.rat * x.1.2.rat * 2 ^ x.2
      ((∀ x ∈ ws, term x = 0) → (chunk16 ws).1.isZero = true) ∧
      ∀ top : Int, (∃ x ∈ ws, (2 : Rat) ^ top ≤ |term x|) → (∀ x ∈ ws, |term x| < (2 : Rat) ^ (top + 1)) →
        let g : Rat := 2 ^ (top - 40)
        let cut := fun (q : Rat) => if 0 ≤ q then (⌊q / g⌋ : Rat) * g else (⌈q / g⌉ : Rat) * g
        (chunk16 ws).1.rat = (unpack fp32 (round (ws.map fun x => cut (term x)).sum)).rat)) ∧
  (∀ (acc : Acc) (toInt : Bool) (i j : Nat), i < 16 → j < 64 →
    let x := vget acc.elem (64 * i + j) 0
    let r := drainEl acc toInt i j
    let q := (elSig x : Rat) * 2 ^ (((vget acc.exp i 0).toNat : Int) - 160)
    (acc.written.getLsbD i = false → r = (0, 0)) ∧
    (acc.written.getLsbD i = true → acc.imode = true →
      (toInt = true → let n := max (-2 ^ 31) (min x.toInt (2 ^ 31 - 1))
        r = ((n % 2 ^ 32).toNat, if n = x.toInt then 0 else fSAT)) ∧
      (toInt = false → r = intToFmt fp32 0 x.toInt)) ∧
    (acc.written.getLsbD i = true → acc.imode = false →
      (elClass x = 0 → r = roundQuot fp32 0 (decide (q < 0)) q.num.natAbs q.den 0) ∧
      (elClass x = 1 → r.1 = fp32.inf false) ∧ (elClass x = 2 → r.1 = fp32.inf true) ∧ (elClass x = 3 → r.1 = fp32.nan))) ∧
  (∀ (acc : Acc) (toInt thr : Bool) (h : BitVec 128),
    let z := (drainTile acc toInt thr h).1
    let col := fun (j : Nat) => (List.range 16).map fun i => (drainEl acc toInt i j).1
    (∀ i j, i < 16 → j < 64 → (vget z.lanes (64 * i + j) 0).toNat =
      (if isHaar acc.tag = true ∧ thr = true then thresholdCol h (tagLevels acc.tag) (col j) else col j).getD i 0 % 2 ^ 32) ∧
    z.tag = (if isHaar acc.tag then (if thr then acc.tag ||| 0x20 else acc.tag) else 0) ∧ z.side = sideOnes ∧
    (isHaar acc.tag = false → z.mask = 0xFFFF) ∧
    (isHaar acc.tag = true → ∀ i, i < 16 → (z.mask.getLsbD i = true ↔ i < 16 / 2 ^ tagLevels acc.tag ∨
      ∃ j, j < 64 ∧ (vget z.lanes (64 * i + j) 0).toNat % 2 ^ 31 ≠ 0))) ∧
  ∀ (job : MJob) (u : Task) (p a : BitVec 3) (opts : BitVec 5) (s1 s2 : BitVec 6) (o : Bool),
    job.i = .mdrns p a opts s1 s2 o → opts.toNat / 8 < 3 →
    let ef := opts.toNat / 8
    let w := 2 ^ ef
    let acc := fun (g : Nat) => vget u.a (a.toNat + g) (Acc.clear false)
    let hf := opts.getLsbD 1
    let levels := if hf then job.s2.toNat / 256 % 8 else tagLevels (acc 0).tag
    let tag0 : BitVec 8 := if hf then BitVec.ofNat 8 (1 + 4 * levels)
      else (List.range w).tail.foldl (fun t g => joinTag t (acc g).tag) (acc 0).tag
    let tag := if opts.getLsbD 0 = true ∧ isHaar tag0 = true then tag0 ||| 0x20 else tag0
    let col := fun (c : Nat) =>
      let x := (List.range 16).map fun i => (drainEl (acc (c / 64)) false i (c % 64)).1
      let y := if hf then (haarFwd levels x).1 else x
      if opts.getLsbD 0 then thresholdCol job.thr (tagLevels tag) y else y
    let live := fun (i : Nat) => isHaar tag = false ∨ i < 16 / 2 ^ tagLevels tag ∨ ∃ c, c < 64 * w ∧ (col c).getD i 0 % 2 ^ 31 ≠ 0
    let row := fun (i : Nat) => (List.range (64 * w)).map fun c => (col c).getD i 0
    let block := fun (i k : Nat) => quantiseBlock 0 (((row i).drop (128 * k)).take 128)
    let byte := fun (i n : Nat) =>
      if ef = 0 then (col (n / 4)).getD i 0 / 256 ^ (n % 4) % 256
      else if ef = 1 then (cvtFmt fp32 bf16 0 ((col (n / 2)).getD i 0)).1 / 256 ^ (n % 2) % 256
      else ((block i (n / 128)).1.getD (n % 128) (0, 0)).1 % 256
    let writes := (drainWrites job u).1
    let base := job.s1.toNat % 2 ^ 23
    let image := 8 * (job.s2.toNat / 2 ^ 35 % 2 ^ 20)
    (opts.getLsbD 2 = false →
      writes.length = (if ef = 2 ∧ image ≠ 0 then 17 else 16) ∧
      (∀ i, i < 16 → ∃ bs, writes[i]? = some (base + 16 * (job.s1.toNat / 2 ^ 32 % 2 ^ 16) * i, bs) ∧ bs.length = 256 ∧
        ∀ n, n < 256 → (live i → (bs.getD n 0).toNat = byte i n) ∧ (¬ live i → bs.getD n 0 = 0)) ∧
      (ef = 2 → image ≠ 0 → ∃ bs, writes[16]? = some (image, bs) ∧ bs.length = 136 ∧ numAt 0 8 bs = 1 ∧
        ∀ i k, i < 16 → k < 2 → numAt (8 + 8 * i + 4 * k) 4 bs = (block i k).2.toNat)) ∧
    (opts.getLsbD 2 = true → ∃ bs, writes = [(base, bs)] ∧
      (let rows := popcount 16 (recSurv bs).toNat
       recTag bs = tag ∧ numAt 1 1 bs = tagLevels tag ∧ recEfmt bs = (if ef = 2 then 3 else ef) ∧
       (∀ i, i < 16 → ((recSurv bs).getLsbD i = true ↔ live i)) ∧ numAt 6 2 bs = rows ∧ recLen bs = bs.length ∧
       bs.length = 32 * ((32 + 264 * rows + 31) / 32) ∧ numAt 12 4 bs = 0 ∧
       (∀ n, 32 + 264 * rows ≤ n → n < bs.length → bs.getD n 0 = 0) ∧
       (opts.getLsbD 0 = true → numAt 5 1 bs = job.s2.toNat % 8 ∧ numAt 16 16 bs = job.thr.toNat) ∧
       (opts.getLsbD 0 = false → numAt 5 1 bs = 128 ∧ numAt 16 16 bs = 0) ∧
       ∀ i, i < 16 → live i →
         let e := 32 + 264 * popcount i (recSurv bs).toNat
         (∀ k, k < 2 → numAt (e + 4 * k) 4 bs = if ef = 2 then (block i k).2.toNat else 0x3F800000) ∧
         ∀ n, n < 256 → (bs.getD (e + 8 + n) 0).toNat = byte i n))


-- The C unit.

/-- R230, R231: a copy command (CPY, CPYS, TBIND, TCPY, GATH, SCAT, RAMO, PFCH, MIGR, CHSND, CHRCV, COLL, RSHD, CKCUT, QPUSH,
SETE, BMODE) enters the queue of its slot's engine with the staging words of its group; TBIND binds its
slot, CHRCV empties the lines of its destination, BMODE closes its bank, and RSHD sets BUSY, from acceptance on (R245, R254,
R271, R314). R251, R252: FENCE and REL, which take no place in a queue (log 64, DESIGN CHOICE), keep the later commands of the classes in their mask from beginning until the earlier
ones have ended; TLBI puts a marker into both engines of its core, which a halted engine passes at once. -/
def Obligations.CommandsEnterTheirEngine : Prop :=
  (∀ (i : Instr) (s : State), i.isCommand = true → Acting i s → ∃ (t : State) (c : Cmd),
    exec i s = .next t ∧ c.i = i ∧ c.id = s.nextId ∧ c.tid = s.src.tid ∧ c.begun = false ∧
    (∀ g n, cmdGroup i = some g → n < 4 → vget c.w n 0 = vget s.src.e (4 * g + n) 0) ∧
    t.eng (slotEngine s) = s.eng (slotEngine s) ++ [c] ∧ (∀ e, e ≠ slotEngine s → t.eng e = s.eng e) ∧
    s.nextId < t.nextId ∧ ((∀ p g cls m, i ≠ .rshd p g cls m) → t.nextId = s.nextId + 1) ∧ t.me.SameRegs s.me ∧ t.me.SameLoops s.me ∧ t.me.SameTraps s.me ∧
    (∀ k a, slGet (t.cl k) a = slGet (s.cl k) a) ∧
    ((∀ p g cls, i ≠ .chrcv p g cls) → (∀ p g cls m, i ≠ .rshd p g cls m) → SameMem s t ∧ OthersSame s t) ∧
    (∀ p g cls slot, i = .tbind p g cls slot →
      vget t.me.tbind slot.toNat none = some (⟨c.va, none, false⟩ : TSlot)) ∧
    (∀ p g cls, i = .chrcv p g cls → t.dram = s.dram ∧ OthersSame s t ∧ ∀ l,
      lineFull (t.cl (clOf s.cur)) l =
        (lineFull (s.cl (clOf s.cur)) l && !((linesOf c.saddr (16 + fldN 0 17 (c.word 2))).contains l))) ∧
    (∀ p g cls m, i = .bmode p g cls m →
      tabFind (t.cl (clOf s.cur)).closing (fldN 0 6 (c.word 1)) = some s.src.tid) ∧
    (∀ p g cls m, i = .rshd p g cls m → ∀ (k n : Nat) (y : TSlot), (s.ctx k).job = s.src.job →
      vget (s.ctx k).tbind n none = some y → y.va = c.va →
      vget (t.ctx k).tbind n none = some ({ y with busy := true } : TSlot))) ∧
  (∀ (s : State) (p : BitVec 3) (mask : BitVec 16) (scope : BitVec 2),
    let waits := (cmdsOf s s.src.tid).any fun c => decide (c.2.id < s.nextId) && mask.getLsbD (cmdCls c.2.i)
    let ordered := fun (i : Instr) (rel : Bool) => Acting i s → mask ≠ 0 → s.fences = [] → s.arrivals = [] →
      (waits = false → scope = 0 → exec i s = .next { s with nextId := s.nextId + 1 }) ∧
      (waits = true → ∃ f : Fence, exec i s = .next { s with fences := [f], nextId := s.nextId + 1 } ∧
        f.id = s.nextId ∧ f.tid = s.src.tid ∧ f.mask = mask ∧ f.scope = scope ∧ f.rel = rel)
    ordered (.fence p scope mask) false ∧ ordered (.rel p scope mask) true ∧
    Does (.fence p scope 0) s s ∧ Does (.rel p 0 0) s s) ∧
  (∀ (s : State) (e : Nat) (c : Cmd) (f : Fence), f ∈ s.fences → f.tid = c.tid → f.id < c.id →
    f.mask.getLsbD (cmdCls c.i) = true → c.marker = false → beginnable s e ≠ some c) ∧
  ∀ (s : State) (p : BitVec 3), Acting (.tlbi p) s → ∃ t, exec (.tlbi p) s = .next t ∧
    (∀ j, j < 2 → let e := engOf (coreOf s.cur) j
      (engineHalted s e = false → ∃ m, t.eng e = s.eng e ++ [m] ∧ m.marker = true ∧ m.job = s.src.job) ∧
      (engineHalted s e = true → t.eng e = s.eng e ∧ ∀ x ∈ (t.cl (clOf s.cur)).tlb, x.job ≠ s.src.job)) ∧
    (∀ x ∈ (s.cl (clOf s.cur)).tlb, x.job ≠ s.src.job → x ∈ (t.cl (clOf s.cur)).tlb) ∧
    t.me.SameRegs s.me ∧ t.me.SameLoops s.me ∧ t.me.SameTraps s.me ∧ SameMem s t ∧ OthersSame s t

/-- R231, R235, R241, R247, R263, R264, R265, R266, R269, R271, R275, R280, R282, R295, R298: what the copy engines and the translation
units do: the head of an engine begins; a sector is read and is written, into Slate and at the home; SETE empties its
lines; a line of Slate is set full when the last of its bytes lands, and the command's writes to it are performed then; an
aligned word that a command writes in full is written as one, and the parts of a word are read as it was once; a
translation that faults, of the source or of the destination, halts the engine at that sector with its restart state; a command that has done its work ends, and its arrival is posted; BMODE sets the mode of a quiescent bank; a
line leaves the cluster cache, its dirty bytes written at their home; a walk ends in a translation or in a fault. The order of a command's sectors and its
corners are the model's (log 26, 27, 32). -/
def Obligations.CopyEnginesRunTheirCommands : Prop :=
  ∀ (s : State) (e : Nat),
    (∀ c, beginnable s e = some c →
      (c.marker = true → ∃ t, exec (.copyCommandBegins e) s = .next t ∧ t.eng e = (s.eng e).filter (fun x => x.id != c.id) ∧
        (∀ x ∈ (t.cl (e / 16)).tlb, x.job ≠ c.job) ∧ SameMem s t) ∧
      (movesSectors c.i = true → c.marker = false → (∀ p g cls xf md, c.i ≠ .cpys p g cls xf md) →
        (∀ p g cls xf n d, c.i ≠ .tcpy p g cls xf n d) → (∀ p g cls xf, c.i ≠ .gath p g cls xf) →
        (∀ p g cls xf, c.i ≠ .scat p g cls xf) → ∃ t, exec (.copyCommandBegins e) s = .next t ∧
          engineHead t e = some ({ c with begun := true } : Cmd) ∧ t.ctxs = s.ctxs ∧ SameMem s t) ∧
      ((∃ p g cls xf, c.i = .gath p g cls xf ∨ c.i = .scat p g cls xf) → c.marker = false →
        let n := 4 * fldN 24 16 (c.word 3)
        allFull (s.cl c.cluster) c.listAddr n = true → anyPoison (s.cl c.cluster) c.listAddr n = false →
        ∃ t, exec (.copyCommandBegins e) s = .next t ∧ SameMem s t ∧ engineHead t e =
          some ({ c with begun := true, idx := words32 (n / 4) (slRead (s.cl c.cluster) c.listAddr n) } : Cmd)) ∧
      (∀ p g cls xf n d, c.i = .tcpy p g cls xf n d → c.marker = false →
        descValid c.descr (descMap c.descr) s.meshpos = true → ∃ t, exec (.copyCommandBegins e) s = .next t ∧
          engineHead t e = some ({ c with begun := true } : Cmd) ∧ SameMem s t) ∧
      (∀ p g cls xf md, c.i = .cpys p g cls xf md → c.marker = false → (remoteGroup s c).isNone = true →
        ∃ t, exec (.copyCommandBegins e) s = .next t ∧ ∀ x ∈ t.eng e, x.id ≠ c.id)) ∧
    (∀ c, movable s e = some c → remoteState s c = .there →
      (∀ p g cls, c.i = .sete p g cls → let n := min 128 (fldN 0 24 (c.word 2) / 128 - c.put)
        ∃ t, exec (.copySectorTransfer e) s = .next t ∧ engineHead t e = some ({ c with put := c.put + n } : Cmd) ∧
          (∀ l, c.saddr / 128 + c.put ≤ l → l < c.saddr / 128 + c.put + n → lineFull (t.cl c.cluster) l = false) ∧
          ∀ k a, slGet (t.cl k) a = slGet (s.cl k) a) ∧
      (∀ x o out, c.unit < c.units →
        (c.out = some out ∨ c.out = none ∧ streamReady s c c.streamed = true ∧ out = c.streamed ∧
          (extAt c.got.length (c.unitSrc s.meshpos (cmdRemote s c) c.unit c.got)).isSome = true) →
        let dst := c.unitDst s.meshpos (cmdRemote s c) c.unit (c.out.map List.length)
        extAt c.put dst = some (x, o) →
        let a := x.addr + o
        let n := pieceLen a (x.len - o)
        let bs := bytesAt c.put n out
        let fmts := dstFmts c (extIndex c.put dst)
        let r := wordRun s c a bs
        let tail := c.put = 0 → fmts.contains 5 = true → ∃ p, xlate s c (x.addr + 4351) false false fmts = .page p
        (∀ k, x.slate = some k → slateHeld s c k a n = false → ∃ t c', exec (.copySectorTransfer e) s = .next t ∧
          engineHead t e = some c' ∧ c'.dstpos = c.dstpos + n ∧
          let left := lineLeft s { c with
            landed := tabPut c.landed (a / 128) (tabGet [] c.landed (a / 128) ++ [(a, bs)]), put := c.put + n, dstpos := c.dstpos + n }
            (a / 128)
          let all := (a, bs) :: if left = true then [] else tabGet [] c.landed (a / 128) ++ [(a, bs)]
          (left = false → lineFull (t.cl k) (a / 128) = true) ∧
          (∀ b, slGet (t.cl k) b = slGet (all.foldl (fun cl y => slWrite cl y.1 y.2) (s.cl k)) b) ∧
          (∀ i, i < bs.length → slGet (t.cl k) (a + i) = bs.getD i 0) ∧
          ∀ j b, j ≠ k → slGet (t.cl j) b = slGet (s.cl j) b) ∧
        (∀ page, x.slate = none → tail → r.2.2 ≠ [] → xlate s c r.2.1 false true fmts = .page page →
          c.shadow = false → c.bv = false → servedBy s c = false → groupCache s c.cluster c.group = [] →
          let h := forwarded s (leafPkg page.leaf) (leafAddr page.level page.leaf r.2.1)
          backHeld s c h.1 h.2 = false →
          h.1 = s.pkg → writeHeld s h.2 r.2.2.length = false → ∃ t c', exec (.copySectorTransfer e) s = .next t ∧
            t.dram = (homeWrite s (some c.job) h.2 r.2.2).dram ∧ engineHead t e = some c' ∧
            c'.dstpos = c.dstpos + r.2.2.length ∧ c'.parts = r.1.parts) ∧
        (x.slate = none → tail → r.2.2 = [] → ∃ t c', exec (.copySectorTransfer e) s = .next t ∧ SameMem s t ∧
          engineHead t e = some c' ∧ c'.dstpos = c.dstpos ∧ c'.parts = r.1.parts) ∧
        ((∀ w ∈ partWords a bs.length, writesWord s c w = false) → r = (c, a, bs)) ∧
        ∀ kind, x.slate = none → tail → r.2.2 ≠ [] → xlate s c r.2.1 false true fmts = .fault kind →
          ∃ t c', exec (.copySectorTransfer e) s = .next t ∧ engineHead t e = some c' ∧
            c'.halt = some (freeToken s, r.2.1, kind) ∧ c'.srcpos = c.srcpos ∧ c'.dstpos = c.dstpos ∧ movable t e = none) ∧
      (∀ x o bs (c1 : Cmd), c.unit < c.units → c.out = none → streamReady s c c.streamed = false →
        headerBad c = false → extAt c.got.length (c.unitSrc s.meshpos (cmdRemote s c) c.unit c.got) = some (x, o) →
        let a := x.addr + o
        let n := pieceLen a (x.len - o)
        let lo := a / 8 * 8
        let c' : Cmd := { c1 with
          got := c.got ++ bs, srcpos := if c.srcSec = some (a / 128) then c.srcpos else c.srcpos + 1, srcSec := some (a / 128) }
        (extAt c'.got.length (c'.unitSrc s.meshpos (cmdRemote s c') c'.unit c'.got)).isSome = true →
        ((∃ k, x.slate = some k ∧ anyPoison (s.cl k) a n = false ∧ bs = slRead (s.cl k) a n ∧ c1 = c) ∨
          ∃ page, x.slate = none ∧ xlate s c lo true false (srcFmts c) = .page page ∧ servedBy s c = false ∧
            (c.got = [] → (srcFmts c).contains 5 = true → ∃ p, xlate s c (x.addr + 4351) false false (srcFmts c) = .page p) ∧
            groupCache s c.cluster c.group = [] ∧
            let h := forwarded s (leafPkg page.leaf) (leafAddr page.level page.leaf lo)
            let words := (a + n + 7) / 8 * 8 - lo
            backHeld s c h.1 h.2 = false ∧ h.1 = s.pkg ∧ dramPoisoned s h.2 words = false ∧
              (c1, bs) = gotWords a n c (memRead s.dram h.2 words)) →
        ∃ t, exec (.copySectorTransfer e) s = .next t ∧ engineHead t e = some c' ∧ SameMem s t) ∧
      (∀ x o kind, c.unit < c.units → c.out = none → streamReady s c c.streamed = false → headerBad c = false →
        extAt c.got.length (c.unitSrc s.meshpos (cmdRemote s c) c.unit c.got) = some (x, o) → x.slate = none →
        (c.got = [] → (srcFmts c).contains 5 = true → ∃ p, xlate s c (x.addr + 4351) false false (srcFmts c) = .page p) →
        xlate s c ((x.addr + o) / 8 * 8) true false (srcFmts c) = .fault kind →
        ∃ t c', exec (.copySectorTransfer e) s = .next t ∧ engineHead t e = some c' ∧
          c'.halt = some (freeToken s, (x.addr + o) / 8 * 8, kind) ∧ c'.srcpos = c.srcpos ∧ c'.dstpos = c.dstpos ∧
          c'.unit = c.unit ∧ c'.got = c.got ∧ c'.words = c.words ∧ movable t e = none)) ∧
    (∀ c, completable s e = some c → endedReshard s e = none → ∃ t, exec (.copyCommandCompletes e) s = .next t ∧
      (∀ j, t.eng j = (s.eng j).filter fun x => x.id != c.id) ∧
      (cutOf s c = none → c.ca = true → c.cscope = 0 → s.fences = [] → s.arrivals = [] → s.wbs = [] →
        let l := bellLoc c.cluster c.bell
        (∀ i, l ≠ .mesh i) → (getBell s l).holder.isSome = true →
          let x := arriveBell (getBell s l)
          getBell t l = if bellDone x.1 = true then stepPhase x.1 else x.1)) ∧
    (∀ c b m, quiescent s e = some (c, b, m) → ∃ t, exec (.bmodeBegins e) s = .next t ∧
      bankMode (t.cl c.cluster) b = m ∧ engineHead t e =
        some ({ c with begun := true, unit := 1, put := bankMode (s.cl c.cluster) b } : Cmd) ∧
      (m = 0 → bankMode (s.cl c.cluster) b ≠ 0 → ∃ stamp, ∀ a, 0x20000 * b ≤ a → a < 0x20000 * b + 0x20000 →
        slGet (t.cl c.cluster) a = Config.freeByte stamp a)) ∧
    (∀ k g n l, (groupCache s k g)[n]? = some l → ∃ t, exec (.clusterCacheEviction k g n) s = .next t ∧
      groupCache t k g = (groupCache s k g).filter (fun x => !(x.is l.pkg l.pa)) ∧
      ((∀ x ∈ groupCache s k g, x.is l.pkg l.pa = true → x.dirty = 0) → SameMem s t) ∧
      let h := forwarded s l.pkg l.pa
      ((groupCache s k g).filter (fun x => x.is l.pkg l.pa) = [l] → l.dirty ≠ 0 → l.bytes.length = 128 → s.wbs = [] →
        (∀ x ∈ s.engs, ∀ c ∈ x.2, c.sent = none) → h.1 = s.pkg → writeHeld s h.2 128 = false →
        t.wbs = [] ∧ (∀ i, i < 128 →
          memGet t.dram (h.2 + i) = if l.dirty.getLsbD i then l.bytes.getD i 0 else memGet s.dram (h.2 + i)) ∧
        ∀ a, a < h.2 ∨ h.2 + 128 ≤ a → memGet t.dram a = memGet s.dram a)) ∧
    ∀ k n w, (s.cl k).walks[n]? = some w → w.fault = none → walkInFlight s w = true →
      ∃ t, exec (.translationWalk k n) s = .next t ∧ SameMem s t ∧
        (∀ l, walkPage s w.job w.va = .ok l → ∃ x ∈ (t.cl k).tlb,
          x.covers w.job w.va = true ∧ x.level = l.level ∧ x.leaf = l.e) ∧
        ∀ f, walkPage s w.job w.va = .error f → ∃ x ∈ (t.cl k).walks, x.job = w.job ∧ x.va = w.va ∧ x.fault = some f


-- Translation.

/-- R299 to R302: a translation request that is malformed changes no page and ends with status 2; one of a single page
maps, unmaps or protects it, unless it is pinned; INVAL changes no page, UNFWD drops the forwarding entries of its
range; every request that is not malformed leaves no translation, and no walk fault, of its range in any unit, and its completion record
is posted when what it waits for is done. R353, R355, R266: fault replies, and records that enter a fault ring.
Corners of the requests follow log 46, and the port of a completion record is that of the request's window (log 34, DEDUCED). FQTAIL
moves when the record has been written (R462, log 12). -/
def Obligations.TranslationRequests : Prop :=
  (∀ (s : State) (r : XReq) (i : Instr), i = .map r ∨ i = .unmap r ∨ i = .protect r ∨ i = .inval r ∨ i = .unfwd r →
    let size := pageBytes (reqLevel r)
    let va := r.va.toNat
    let range := r.count.toNat * size
    let at' := entryAt s r.job (reqPage r 0) (reqLevel r)
    let pinned := fun (e : Word) => pagePinned s r.job (reqPage r 0) size e = true
    let answers := fun (t : State) (status : Word) => ∃ d : Done, t.waitDone = s.waitDone ++ [d] ∧ d.caddr = r.caddr ∧
      d.cval = r.cval ∧ d.port = r.win ∧ d.status = status
    let writes := fun (t : State) (a : Nat) (e : Word) => t.dram = memWrite s.dram a (bytesOf 8 e.toNat) ∧ answers t 0
    let stays := fun (t : State) (status : Word) => t.dram = s.dram ∧ answers t status
    let fits := r.size.toNat ≤ 2 ∧ r.rsvd = 0 ∧ r.count ≠ 0 ∧ r.count.toNat ≤ 2 ^ 20 ∧ va % size = 0
    (¬fits → ∃ d : Done, exec i s = .next { s with waitDone := s.waitDone ++ [d] } ∧ d.caddr = r.caddr ∧
      d.cval = r.cval ∧ d.status = 2) ∧
    (fits → ∃ t, exec i s = .next t ∧ (∃ d : Done, t.waitDone = s.waitDone ++ [d] ∧ d.caddr = r.caddr ∧ d.cval = r.cval) ∧
      (∀ k, ∀ x ∈ (t.cl k).tlb, x.job = r.job → x.va + pageBytes x.level ≤ va ∨ va + range ≤ x.va) ∧
      (∀ k, ∀ w ∈ (t.cl k).walks, w.fault.isSome = true → w.job = r.job →
        alignDown 65536 w.va + 65536 ≤ va ∨ va + range ≤ alignDown 65536 w.va) ∧
      (∀ k a, slGet (t.cl k) a = slGet (s.cl k) a) ∧
      (i = .inval r → stays t 0) ∧
      (i = .unfwd r → stays t 0 ∧ ∀ f, f ∈ t.fwd ↔ f ∈ s.fwd ∧ ¬(f.job = r.job ∧ f.va < va + range ∧ va < f.va + f.size)) ∧
      (r.count = 1 → i = .map r →
        (at' = none → stays t 3) ∧
        ∀ a old, at' = some (a, old) →
          let e := reqLeaf r 0
          let valid := old.getLsbD 0 && old.getLsbD 4
          let same := leafPkg old = leafPkg e ∧ leafPa old = leafPa e
          (valid = true → same → writes t a (putFld 46 1 (fldN 46 1 old) e)) ∧
          (valid = false → writes t a e) ∧ (valid = true → ¬same → ¬pinned old → writes t a e) ∧
          (valid = true → ¬same → pinned old → stays t 1)) ∧
      (r.count = 1 → i = .unmap r → (∀ g ∈ s.groups, groupCache s g.2.cluster g.1 = []) →
        (leafAt s r.job (reqPage r 0) (reqLevel r) = none → stays t 0) ∧
        ∀ a e, leafAt s r.job (reqPage r 0) (reqLevel r) = some (a, e) →
          (pinned e → stays t 1) ∧ (¬pinned e → writes t a (putFld 0 1 0 e))) ∧
      (r.count = 1 → i = .protect r →
        (leafAt s r.job (reqPage r 0) (reqLevel r) = none → stays t 0) ∧
        ∀ a e, leafAt s r.job (reqPage r 0) (reqLevel r) = some (a, e) →
          launchPinned s r.job (reqPage r 0) size = false → writes t a (putFld 1 3 (fldN 1 3 r.entry) e)))) ∧
  (∀ (s : State) (n : Nat) (d : Done), s.waitDone.findIdx? (doneReady s) = some n → s.waitDone[n]? = some d →
    exec .translationRequestCompletes s = .next { s with
      waitDone := s.waitDone.eraseIdx n,
      hostOut := s.hostOut ++ [.write d.port d.caddr (bytesOf 8 d.cval.toNat ++ bytesOf 8 d.status.toNat)] }) ∧
  (∀ (s : State) (r : FReply),
    (r.rsvd ≠ 0 → exec (.faultReplyRestart r) s = .next { s with badReplies := s.badReplies + 1 } ∧
      exec (.faultReplyCancel r) s = .next { s with badReplies := s.badReplies + 1 }) ∧
    ∀ e c h, r.rsvd = 0 → tokenCmd s r.job r.token.toNat = some (e, c) → c.halt = some h →
      (∃ t, exec (.faultReplyRestart r) s = .next t ∧ SameMem s t ∧
        (∀ j, t.eng j = (s.eng j).map fun x => if x.id = c.id then { c with halt := none } else x) ∧
        ∀ x ∈ (t.cl c.cluster).tlb, x.covers c.job h.2.1 = false) ∧
      (isRshd c.i = true → ∃ t, exec (.faultReplyCancel r) s = .next t ∧
        ((∀ j, ∀ x ∈ t.eng j, x.id ≠ c.id) ∨ ∃ j, ∃ x ∈ t.eng j, x.id = c.id ∧ x.fail.isSome = true)) ∧
      (isRshd c.i = false → ∃ t, exec (.faultReplyCancel r) s = .next t ∧ (∀ j, t.eng j = (s.eng j).filter fun x => x.id != c.id) ∧
        ∀ k, ctxOfTid s c.tid = some k → (s.ctx k).exited = false → ∃ p : PendEvent,
          (t.ctx k).pend = (s.ctx k).pend ++ [p] ∧ p.cause = 17 ∧ p.info.toNat / 2 ^ 32 = 5 ∧ p.region = c.region)) ∧
  ∀ (s : State) (job : BitVec 32) (i : Nat) (r : FRec) (rest : List FRec), jobIdx s job = some i →
    let j := jobAt s i
    let w := vget j.w 4 0
    let depth := 2 ^ fldN 48 4 (vget j.w 2 0)
    let ring := fldN 6 40 (vget j.w 2 0) * 64
    j.waiting = r :: rest → ringFull j = false → ∃ t, exec (.faultRingRecordEnters job) s = .next t ∧
      (let a := ring + 64 * ((fldN 32 32 w + j.posting.length) % 2 ^ 32 % depth)
       (s.wbs = [] → writeHeld s a 64 = false →
          t.dram = (homeWrite s (some (fld 0 32 (vget j.w 0 0))) a (r.bytes j.seq)).dram ∧
          (jobAt t i).posting = [] ∧ fldN 32 32 (vget (jobAt t i).w 4 0) = (fldN 32 32 w + j.posting.length + 1) % 2 ^ 32)) ∧
      (jobAt t i).waiting = rest ∧ (jobAt t i).lost = j.lost ∧ (jobAt t i).seq = (j.seq + 1) % 2 ^ 32 ∧
      ringTail (jobAt t i) = (fldN 32 32 w + j.posting.length + 1) % 2 ^ 32

/-- R250, R303 to R305: MIGR asks the home of its next page to give it away, and goes on with its answer; the home
refuses a pinned page, marks a page that it gives away and asks the target for a frame, copies 64 KiB at a time, and,
when everything has been acknowledged, rewrites its entry and keeps a forwarding entry. The form of the messages is
the model's (log 35). -/
def Obligations.MigrationMovesPages : Prop :=
  (∀ (s : State) (e : Nat) (c : Cmd), migrating s e = some c →
    (c.reply = none → c.sent = none → ∀ x, xlate s c (c.va + c.put) true true [] = .page x →
      leafPkg x.leaf = s.pkg → ∃ t m c', exec (.migrationPage e) s = .next t ∧ t.migr = s.migr ++ [m] ∧
        m.va = alignDown (pageBytes x.level) (c.va + c.put) ∧ m.job = c.job ∧ m.cmd = c.id ∧
        m.target = fldN 0 11 (c.word 1) ∧ m.stage = 0 ∧ engineHead t e = some c' ∧ c'.sent = some (s.pkg, m.va) ∧ SameMem s t) ∧
    (∀ bs r, c.reply = some (bs, r) → r ≠ 255 → ∃ t c', exec (.migrationPage e) s = .next t ∧
      engineHead t e = some c' ∧ c'.unit = c.unit + 1 ∧ c'.put = c.put + c.idx.headD 65536 ∧ c'.sent = none ∧
      c'.reply = none)) ∧
  ∀ (s : State) (n : Nat) (m : Migr), s.migr[n]? = some m → migrReady s m = true →
    (m.stage = 0 → ∀ a e, leafAt s m.job m.va m.level = some (a, e) → leafPkg e = s.pkg → m.target ≠ s.pkg →
      (pagePinned s m.job m.va m.size e = true → ∃ t, exec (.migrationPageLands n) s = .next t ∧
        t.migr = s.migr.eraseIdx n ∧ t.fwd = s.fwd ∧ SameMem s t) ∧
      (pagePinned s m.job m.va m.size e = false → s.fwd.length + (s.migr.filter fun x => x.stage != 0).length < 16384 → routable s m.target = true →
        (∀ g ∈ s.groups, groupCache s g.2.cluster g.1 = []) → ∃ t, exec (.migrationPageLands n) s = .next t ∧
          t.migr[n]? = some ({ m with stage := 1, leafAt := a, old := leafPa e } : Migr) ∧
          t.dram = memWrite s.dram a (bytesOf 8 (putFld 48 1 1 e).toNat))) ∧
    (m.stage = 2 → m.copied < m.size → ∃ t m', exec (.migrationPageLands n) s = .next t ∧ t.migr[n]? = some m' ∧
      m'.copied = m.copied + 65536 ∧ m'.stage = 2 ∧ SameMem s t) ∧
    (m.stage = 2 → m.size ≤ m.copied → (∀ g ∈ s.groups, groupCache s g.2.cluster g.1 = []) → ∃ t f, exec (.migrationPageLands n) s = .next t ∧
      t.migr = s.migr.eraseIdx n ∧ t.fwd = s.fwd ++ [f] ∧ f.old = m.old ∧ f.size = m.size ∧ f.pkg = m.target ∧
      f.frame = m.frame ∧ f.va = m.va ∧ f.job = m.job ∧ t.dram = memWrite s.dram m.leafAt (bytesOf 8
        (putFld 53 11 m.target (putFld 16 30 (m.frame / 65536)
          (putFld 48 1 0 (BitVec.ofNat 64 (memNum s.dram m.leafAt 8))))).toNat))


-- Tasks.

/-- R72, R73, R351, R359, R360, R10, R161: a bounded result may raise its flags before its bound; a scoreboarded one
completes; a pending copy error traps, or unwinds to the region of its command, whose other commands end (R360; an RSHD once BUSY is clear,
R260); a task that has issued EXIT and has
nothing outstanding leaves its context, and its group retires with its last task. A copy error waits as log 28 says. That every line of
the window is full at retirement is log 68 (DEDUCED), and that the context keeps the registers of the task that has left is log 8
(DESIGN CHOICE). -/
def Obligations.ResultsAndTasksEnd : Prop :=
  ∀ (s : State) (n idx : Nat),
    let u := s.ctx n
    (∀ p, u.inflight[idx]? = some p → p.sb = false → p.isRead = false → p.lands s.cycle = false → ∃ t,
      exec (.boundedResultLands n idx) s = .next t ∧ (t.ctx n).flags = u.flags ||| p.flags ∧
      (t.ctx n).inflight = u.inflight.set idx ({ p with flags := 0 } : Pending) ∧ (t.ctx n).s = u.s ∧ (t.ctx n).v = u.v ∧
      SameMem s t) ∧
    (∀ p r w, u.inflight[idx]? = some p → p.sb = true → p.dest = some (.s r) → p.val = .word w → r < 64 →
      p.due ≤ s.cycle ∨ p.early = 1 ∨ (p.early = 2 ∧ ∀ q ∈ u.inflight.take idx, q.early ≠ 2) → ∃ t,
      exec (.scoreboardedResultCompletes n idx) s = .next t ∧ vget (t.ctx n).s r 0 = w ∧
      (∀ k, k ≠ r → vget (t.ctx n).s k 0 = vget u.s k 0) ∧ (t.ctx n).inflight = u.inflight.eraseIdx idx ∧
      (t.ctx n).v = u.v ∧ SameMem s t) ∧
    (∀ p rest, u.active = true → u.exited = false → u.handler = false → u.stub = none → u.pend = p :: rest → p.cause = 17 →
      (∀ v, p.region = none → u.code.trap = some v → ∃ t, exec (.pendingTrapTaken n) s = .next t ∧
        (t.ctx n).pend = rest ∧ (t.ctx n).trapcause = 17 ∧ (t.ctx n).trapinfo = p.info ∧ (t.ctx n).trappc = u.pcWord ∧
        (t.ctx n).handler = true ∧ (t.ctx n).pc = (BitVec.ofNat 64 v &&& 0x000FFFFFFFFFFFF0) ∧ (t.ctx n).SameRegs u ∧
        SameMem s t) ∧
      (∀ d, p.region = some d → d < u.crdepth.toNat → ∃ t, exec (.pendingTrapTaken n) s = .next t ∧
        (t.ctx n).pend = rest ∧ (t.ctx n).trapcause = 17 ∧ (t.ctx n).trapinfo = p.info ∧ (t.ctx n).trappc = u.pcWord ∧
        (t.ctx n).handler = false ∧ (t.ctx n).pc = (vget u.crlevel d 0 &&& 0x000FFFFFFFFFFFF0) ∧
        (t.ctx n).crdepth.toNat = d ∧ (t.ctx n).ldepth = 0 ∧ (t.ctx n).first = 0 ∧ (t.ctx n).segcount = 0 ∧
        (t.ctx n).segid = 0xFFFFFFFF ∧ (t.ctx n).s = u.s ∧
        ∀ e c r, (e, c) ∈ cmdsOf s u.tid → c.region = some r → d ≤ r → ∀ c', (e, c') ∈ cmdsOf t u.tid → c'.id = c.id →
          isRshd c.i = true ∧ c'.fail.isSome = true)) ∧
    (let s1 := landCtx n s
     hasExited s1 n = true → ∃ t, exec (.taskExited n) s = .next t ∧ t.ctx n = (s1.ctx n).left ∧ (t.ctx n).SameRegs (s1.ctx n) ∧
       (t.ctx n).active = false ∧ ∀ x, tabFind s.groups (s1.ctx n).group = some x →
         (1 < x.left → tabFind t.groups (s1.ctx n).group = some ({ x with left := x.left - 1 } : Group)) ∧
         (x.left ≤ 1 → tabFind t.groups (s1.ctx n).group = none ∧
           (x.away = none → ∀ l ∈ linesOf x.slbase x.slsize, lineFull (t.cl x.cluster) l = true) ∧
           ∀ l, tabFind s.launches x.launch = some l →
             tabFind t.launches x.launch = some ({ l with retired := l.retired + 1 } : Launch)))

/-- R50, R52, R53, R55, R337 to R341, R343: the Timetable asks for a context; at its boundary the task is saved by the
hardware, its image in its save area, or is diverted to its drain stub, at whose end it is out; a stub that overruns
aborts the launch; a task that is out comes back from its save area, or through its restore stub; a group that is to
be displaced is asked to leave, and takes its window, bank modes, full/empty bits and cluster bells with it into an image in the
displacement pool. Placement and restore follow log 14, 56. That a context holds Task.empty afterwards is log 8 (DESIGN CHOICE), that
matrix work stays in the task that is out log 59, the image and its place, the first free one, log 45 (DESIGN CHOICE). -/
def Obligations.TasksLeaveAndReturn : Prop :=
  ∀ (s : State) (n : Nat),
    let s1 := landCtx n s
    let u := s1.ctx n
    let leaves := fun (t : State) (x : Task) => t.ctx n = Task.empty ∧
      (∃ o : OutTask, t.outs = s.outs ++ [o] ∧ o.cluster = clOf n ∧ o.stubbed = false ∧ o.task.tid = u.tid ∧ o.task.mq = [] ∧
        o.task.held = u.mq) ∧
      (hasArea u = true → let img := saveImage x s.cycle s.ticks
        ∀ i, i < img.length → slGet (t.cl (clOf n)) (areaOf u + i) = img.getD i 0) ∧
      (hasArea u = false → SameMem s t)
    let diverts := fun (t : State) (a : Nat) => (t.ctx n).stub = some ⟨true, none, false⟩ ∧
      (t.ctx n).pc = (BitVec.ofNat 64 a &&& 0x000FFFFFFFFFFFF0) ∧ (t.ctx n).keptPc = u.pcWord ∧
      (t.ctx n).trappc = u.pcWord ∧ (t.ctx n).trapcause = 19 ∧ (t.ctx n).s = u.s ∧ SameMem s t
    (mayPreempt s n = true → exec (.preemptionRequest n) s = .next (s.setCtx n { s.ctx n with preempt := true })) ∧
    (mayPreempt s n = true → (s.ctx n).active = true ∧ (s.ctx n).exited = false ∧ (s.ctx n).stub = none ∧
      preemptible s (s.ctx n).launch = true ∧
      (sliceWants s (coreOf n) = false → ∀ l, tabFind s.launches (s.ctx n).launch = some l →
        ((∃ q id l', wantsPlace s q = some (id, l') ∧ l'.prio < l.prio) ∨
          ∃ x ∈ s.groups, ∃ p, awayLevel s x.2 = some p ∧ p < l.prio) ∧
        ((s.ctx n).wait = none → ∀ k, (k, s.ctx k) ∈ s.ctxs → contextWanted s k = true → (s.ctx k).wait = none))) ∧
    (mayPreempt s n = false → exec (.preemptionRequest n) s = .next s) ∧
    (u.preempt = true → mayLeave s1 u = true → ∃ t, exec (.preemptionTaken n) s = .next t ∧
      (drainStub u = none → leaves t { stopMatrix u with preempt := false }) ∧
      ∀ a, drainStub u = some a → diverts t a) ∧
    (u.active = true → u.exited = false → ∃ t, exec (.debugHalt n) s = .next t ∧
      (mayLeave s1 u = false → t.ctx n = { u with debug := true }) ∧
      (mayLeave s1 u = true → drainStub u = none → leaves t { stopMatrix { u with debug := true } with preempt := false }) ∧
      ∀ a, mayLeave s1 u = true → drainStub u = some a → diverts t a) ∧
    (stubEnded u = true → ∃ t, exec (.taskOut n) s = .next t ∧ t.ctx n = Task.empty ∧
      t.outs = s.outs ++ [⟨{ u with stub := none, bbuf := none }, clOf n, true⟩] ∧ SameMem s t) ∧
    (stubLate (s.ctx n) s.cycle = true → ∃ t, exec (.stubOverrun n) s = .next t ∧
      (∀ l, tabFind s.launches (s.ctx n).launch = some l →
        ∃ l', tabFind t.launches (s.ctx n).launch = some l' ∧ l'.aborted = true) ∧
      ∀ g x, tabFind s.groups g = some x → x.launch = (s.ctx n).launch → tabFind t.groups g = none) ∧
    (∀ i o, s.outs[i]? = some o → mayReturn s o n = true →
      (o.stubbed = true → ∀ x, stubAt o.task (addrOf o.task.keptPc) = some x → ∃ t, exec (.contextRestore i n) s = .next t ∧
        t.outs = s.outs.eraseIdx i ∧ (t.ctx n).tid = o.task.tid ∧ (t.ctx n).stub = some ⟨false, none, false⟩ ∧
        (t.ctx n).pc = (BitVec.ofNat 64 x.2 &&& 0x000FFFFFFFFFFFF0) ∧ (t.ctx n).trappc = o.task.keptPc ∧
        (t.ctx n).clusterid = clusterIdOf n ∧ SameMem s t) ∧
      (o.stubbed = false → hasArea o.task = true →
        let w := fun (k : Nat) => BitVec.ofNat 64 (slNum (s.cl (clOf n)) (areaOf o.task + k) 8)
        (w 0x18).getLsbD 0 = false → (∀ k, k < 9 → w (0x700 + 8 * (0x35 + k)) = 0) → ∃ t,
          exec (.contextRestore i n) s = .next t ∧ t.outs = s.outs.eraseIdx i ∧ (t.ctx n).tid = o.task.tid ∧
          (t.ctx n).wait = none ∧ (t.ctx n).pc = (w 8 &&& 0x000FFFFFFFFFFFF0) ∧
          (t.ctx n).first = (w 8).extractLsb' 58 6 ∧ (t.ctx n).clusterid = clusterIdOf n ∧ SameMem s t ∧
          (o.task.pendCnf = false → (t.ctx n).flags = (w 0x780).setWidth 10) ∧
          (∀ r, 0 < r → r < 64 → vget (t.ctx n).s r 0 = w (0x100 + 8 * r)) ∧
          ∀ r, r < 16 → vget (t.ctx n).e r 0 = w (0x700 + 8 * (0x70 + r)))) ∧
    ∀ g x, tabFind s.groups g = some x →
      (x.displacing = none → x.away = none → preemptible s x.launch = true →
        (∀ l, tabFind s.launches x.launch = some l → roomWanted s l.prio x.cluster = true) → ∃ t,
          exec (.groupDisplacement g) s = .next t ∧ tabFind t.groups g = some ({ x with displacing := some s.ticks } : Group) ∧
          (∀ c ∈ ctxsOfGroup s g, (s.ctx c).exited = false → (t.ctx c).preempt = true) ∧
          (∀ c, (s.ctx c).exited = true → t.ctx c = s.ctx c) ∧ SameMem s t) ∧
      (∀ since, x.displacing = some since → groupAtRest s g = true → x.slbase % 128 = 0 → x.slsize % 128 = 0 →
        ∃ t y a, exec (.groupDisplacement g) s = .next t ∧ tabFind t.groups g = some y ∧ y.away = some a ∧
          y.displacing = none ∧ poolSpot s x = some a.spot ∧
          (∀ o ∈ t.outs, o.task.group = g → ∀ k, k < 8 → vget o.task.tbind k none = none) ∧
          (s.wbs = [] → groupCache s x.cluster g = [] → writeHeld s a.spot a.len = false → ∃ (s' : State) (image : List Byte),
            s'.jobs = s.jobs ∧ s'.launches = s.launches ∧ s'.queues = s.queues ∧ s'.ticks = s.ticks ∧ s'.wbs = [] ∧
            s'.ckpts = s.ckpts ∧ s'.migr = s.migr ∧
            s'.dram = (homeWrite s (some x.job) a.spot image).dram ∧
            t.dram = (groupRecord s' x 8 [BitVec.ofNat 64 a.len, BitVec.ofNat 64 (s.ticks - since)]).dram ∧
            a.len = alignUp 128 image.length ∧
            (fifoBanks (s.cl x.cluster) x = [] → ∀ i, i < x.slsize →
              image.getD i 0 = slGet (s.cl x.cluster) (x.slbase + i)) ∧
            (∀ b, b ∈ x.banks → (image.getD (x.slsize + b) 0).toNat = bankMode (s.cl x.cluster) b % 256) ∧
            (∀ i, i < 8 * (x.slsize / 1024) → ((image.getD (x.slsize + 64 + i / 8) 0).getLsbD (i % 8) = true ↔
              lineFull (s.cl x.cluster) (x.slbase / 128 + i) = true)) ∧
            ∀ i, i < x.ncb → numAt (x.slsize + 64 + x.slsize / 1024 + 16 * i) 16 image =
              bellBits (tabGet Bell.empty (s.cl x.cluster).bells (x.cbell + i))))


-- The Timetable.

/-- R317 to R320, R325, R330, R331, R333, R343, R344, R346: a record that is submitted enters its queue, is discarded,
or overflows it; a head record is read piece by piece, and checked, and becomes a launch, stops its queue, or waits for a reply; a record
reserves; a tile record starts its tiles, each with its copy of the launch record, whose ROW0, NROWS and ROWMASK are the tile's; a launch that is done leaves, and the completion value rises; the runs of a
replicated launch vote; DISPLACE, RESUME and ABORT. Corners follow log 45. -/
def Obligations.TimetableHandlesRecords : Prop :=
  (∀ (s : State) (port k : Nat) (data : List Byte), k < portCount s port → data.length = 64 →
    let q := portFirst s port + k
    let x := s.queue q
    ∃ t, exec (.launchRecordSubmit port (64 * k) data) s = .next t ∧ memRead t.slots (64 * q) 64 = data ∧
      (x.en = false ∨ x.dev = true → (t.queue q).discards = min (x.discards + 1) 0xFFFFFFFF ∧ (t.queue q).recs = x.recs) ∧
      (x.en = true → x.dev = false → (x.recs.filter fun y => !y.done).length < x.depth → ∃ r, (t.queue q).recs = x.recs ++ [r] ∧ r.bytes = data ∧
        r.num = x.nextNum ∧ r.done = false ∧ r.launch = none) ∧
      (x.en = true → x.dev = false → x.depth ≤ (x.recs.filter fun y => !y.done).length → (t.queue q).recs = x.recs ∧ (t.queue q).qctl.getLsbD 3 = true)) ∧
  (∀ (s : State) (q : Nat) (r : QRec), uncheckedHead s q = some r →
    let becomes := fun (t : State) (r' : QRec) =>
      (t.queue q).recs = (s.queue q).recs.map fun y => if y.num = r.num then r' else y
    (∀ l, checkHead s q r = .ok l → ∃ t, exec (.headRecordCheck q) s = .next t ∧
      tabFind t.launches s.nextId = some l ∧ becomes t { r with launch := some s.nextId, kept := [] } ∧ SameMem s t) ∧
    (∀ n, checkHead s q r = .reject n → ∃ t, exec (.headRecordCheck q) s = .next t ∧ (t.queue q).en = false ∧
      (t.queue q).qctl.getLsbD 4 = true ∧ becomes t { r with fault := none, launch := some 0, kept := [] } ∧ t.launches = s.launches) ∧
    (∀ va bs, checkHead s q r = .got va bs → ∃ t, exec (.headRecordCheck q) s = .next t ∧
      becomes t { r with kept := r.kept ++ [(va, bs)] } ∧ t.launches = s.launches ∧ SameMem s t) ∧
    ∀ n va k, checkHead s q r = .fault n va k → ∃ t tok, exec (.headRecordCheck q) s = .next t ∧
      becomes t { r with fault := some (tok, n) } ∧ t.launches = s.launches) ∧
  (∀ (s : State) (q id : Nat) (l : Launch), wantsPlace s q = some (id, l) → mayReserve s q = true →
    exec (.recordReserving q) s = .next { s with reserving := vput s.reserving l.prio (some id) }) ∧
  (∀ (s : State) (q id tq : Nat) (l : Launch) (r : QRec), consumable s q = some (id, l, tq, r) →
    numAt 0x0E 2 r.bytes = 0 → numAt 0x30 16 r.bytes = 0 → ∃ t, exec (.tileRecordConsumed q) s = .next t ∧
      tabFind t.launches id =
        some ({ l with consumed := l.consumed + 1, tiles := l.tiles ++ tileCopies l.bytes r.bytes } : Launch)) ∧
  (∀ record tile : List Byte, record.length = 64 → tile.length = 64 →
    let rows := numAt 8 4 tile
    let n := (rows + 15) / 16
    let mask := fun (u : Nat) => if u + 1 < n then 0xFFFF else numAt 0x0C 2 tile % 2 ^ (rows - 16 * u)
    let started := (List.range n).filter fun u => mask u != 0
    (tileCopies record tile).length = started.length ∧
    ∀ (k u : Nat), started[k]? = some u → ∃ copy, (tileCopies record tile)[k]? = some copy ∧ copy.length = 64 ∧
      numAt 0x14 4 copy = (numAt 4 4 tile + 16 * u) % 2 ^ 32 ∧ numAt 0x18 4 copy = min 16 (rows - 16 * u) ∧
      numAt 0x1C 2 copy = mask u ∧
      ∀ i, i < 64 → (i < 16 → copy.getD i 0 = record.getD i 0) ∧
        (16 ≤ i → i < 20 ∨ 30 ≤ i → copy.getD i 0 = tile.getD (i - 16) 0)) ∧
  (∀ (s : State) (n : Nat) (x : Launch), tabFind s.launches n = some x → launchDone s n x = true →
    ∃ t, exec (.launchCompletes n) s = .next t ∧ tabFind t.launches n = none ∧
      (∀ m, m ≠ n → tabFind t.launches m = tabFind s.launches m) ∧
      ∀ r rest, (s.queue x.queue).recs = r :: rest → r.num = x.num →
        (∀ y ∈ rest, y.done = false ∧ y.num ≠ x.num) →
        (t.queue x.queue).recs = rest ∧ (t.queue x.queue).qcv = BitVec.ofNat 64 x.num) ∧
  (∀ (s : State) (n : Nat) (x : Launch), tabFind s.launches n = some x → voteDue x = true → launchWritten s n = true →
    let sig := fun k => vget x.sigs k 0
    (x.runs = 2 → sig 0 = sig 1 →
      exec (.replicationVote n) s = .next { s with launches := tabPut s.launches n { x with voted := true } }) ∧
    (x.runs = 2 → sig 0 ≠ sig 1 →
      exec (.replicationVote n) s = .next { s with launches := tabPut s.launches n { x with runs := 3 } }) ∧
    (x.runs = 3 → (sig 2 = sig 0 ∨ sig 2 = sig 1) → ∃ t, exec (.replicationVote n) s = .next t ∧
      tabFind t.launches n = some { x with voted := true } ∧
      ∀ c ∈ x.cores, c.1 = (if sig 2 = sig 0 then 1 else 0) → (t.core c.2).retired = true) ∧
    (x.runs = 3 → sig 2 ≠ sig 0 → sig 2 ≠ sig 1 → ∃ t, exec (.replicationVote n) s = .next t ∧
      tabFind t.launches n = none ∧ (t.queue x.queue).en = false)) ∧
  ∀ (s : State) (r : LReq),
    let answers := fun (t : State) (status : Word) => ∃ d : Done, t.waitDone = s.waitDone ++ [d] ∧ d.caddr = r.caddr ∧
      d.cval = r.cval ∧ d.status = status
    (r.rsvd ≠ 0 → ∀ i, i = .displace r ∨ i = .resume r ∨ i = .abort r → ∃ t, exec i s = .next t ∧ answers t 2 ∧
      t.launches = s.launches) ∧
    (r.rsvd = 0 → reqLaunch s r = none → ∀ i, i = .displace r ∨ i = .resume r ∨ i = .abort r → ∃ t, exec i s = .next t ∧
      answers t 3 ∧ t.launches = s.launches) ∧
    ∀ n l, r.rsvd = 0 → reqLaunch s r = some (n, l) →
      (∃ t, exec (.resume r) s = .next t ∧ answers t 0 ∧ tabFind t.launches n = some { l with held := false }) ∧
      (∃ t, exec (.abort r) s = .next t ∧ answers t 0 ∧
        (∃ l', tabFind t.launches n = some l' ∧ l'.aborted = true) ∧
        ∀ g x, tabFind s.groups g = some x → x.launch = n → tabFind t.groups g = none) ∧
      (preemptible s n = false → ∃ t, exec (.displace r) s = .next t ∧ answers t 1 ∧ t.launches = s.launches) ∧
      (preemptible s n = true → ∃ t, exec (.displace r) s = .next t ∧ answers t 0 ∧
        tabFind t.launches n = some { l with held := true } ∧
        ∀ g x, tabFind s.groups g = some x → x.launch = n → x.away = none → x.displacing = none →
          ∃ y, tabFind t.groups g = some y ∧ y.displacing = some s.ticks)

/-- R30, R40, R47, R329, R55: a group that is placed has its window, zeros with the launch record at its base, and its
tasks, each at the entry point with the registers of task start; a displaced group comes back with the window and the full/empty bits
of its image, and its tasks take their contexts. Where a group is placed and what its idle registers hold are the model's (log 8, 14),
and so is the form of the image (log 45). -/
def Obligations.PlacementStartsTasks : Prop :=
  ∀ (s : State) (q : Nat), s.ttNext ≤ s.cycle →
    (∀ pl' id l pl'' run gid p, decision s = some (.fresh q pl') → backlog s q = some (id, l, pl'') → l.cosched = false →
      tabFind s.launches id = some l → l.next = some (run, gid) → placeOk s l run gid p = true → l.tile = false →
      l.slsize % 4096 = 0 → ∃ t, exec (.groupPlacement q [p]) s = .next t ∧ t.ttNext = s.cycle + 8 ∧
        (∃ g, tabFind t.groups s.nextId = some g ∧ g.launch = id ∧ g.gid = gid ∧ g.run = run ∧ g.cluster = p.cluster ∧
          g.slbase = p.slbase ∧ g.slsize = l.slsize ∧ g.left = l.tasks ∧ g.away = none) ∧
        (∃ l', tabFind t.launches id = some l' ∧ l'.started = true ∧ (run < 3 → vget l'.placed run 0 = gid + 1)) ∧
        (let cl := t.cl p.cluster
         (∀ i, i < l.bytes.length → slGet cl (p.slbase + i) = l.bytes.getD i 0) ∧
         (∀ a, p.slbase + l.bytes.length ≤ a → a < p.slbase + l.slsize → slGet cl a = 0) ∧
         ∀ n, p.slbase ≤ 128 * n → 128 * n < p.slbase + l.slsize → lineFull cl n = true) ∧
        ∀ k c, p.ctxs[k]? = some c →
          let u := t.ctx (16 * p.cluster + c)
          u.active = true ∧ u.pc = BitVec.ofNat 64 l.entry ∧ u.job = l.job ∧ u.group = s.nextId ∧
          u.taskid = BitVec.ofNat 64 (k + l.tasks * 2 ^ 16) ∧ u.groupid = BitVec.ofNat 64 gid ∧
          u.slbase = BitVec.ofNat 64 p.slbase ∧ u.slsize = BitVec.ofNat 64 l.slsize ∧ u.prio = BitVec.ofNat 64 l.prio ∧
          vget u.s 1 0 = BitVec.ofNat 64 p.slbase ∧ (∀ r, r ≠ 1 → vget u.s r 0 = 0) ∧ (∀ r, vget u.c r false = false) ∧
          (∀ r, vget u.k r 0 = 0) ∧ (∀ r, vget u.h r 0 = 0) ∧ (∀ r, vget u.m r 0 = 0) ∧ (∀ r, vget u.e r 0 = 0) ∧
          (∀ r, r < 32 → vget u.v r Tile.zero = Tile.zero) ∧ (∀ r, vget u.a r (Acc.clear false) = Acc.clear false) ∧
          u.flags = 0 ∧ u.rmode = 0 ∧ u.ldepth = 0 ∧ u.handler = false ∧ u.crdepth = 0 ∧
          u.mrepleft = 0 ∧ (∀ r, vget u.lcount r 0 = 0) ∧ (∀ r, vget u.lstride r 0 = 0) ∧ (∀ r, vget u.lbody r 0 = 0)) ∧
    (∀ pl' id l pl'' pl, decision s = some (.fresh q pl') → backlog s q = some (id, l, pl'') → l.cosched = true →
      pl.length ≠ l.runs * l.total - l.placedAll → exec (.groupPlacement q pl) s = .next s) ∧
    ∀ (g : Nat) (p' p : Place) (x : Group) (a : Away), decision s = some (.back q g p') → tabFind s.groups g = some x → x.away = some a →
      returnOk s x p.cluster = true → p.ctxs.length = (backTasks s g).length → p.ctxs.Nodup →
      (∀ c ∈ p.ctxs, c ∈ returnCtxs s x p.cluster) → x.slbase % 128 = 0 → x.slsize % 128 = 0 → ∃ t y,
        exec (.groupPlacement q [p]) s = .next t ∧ tabFind t.groups g = some y ∧ y.away = none ∧ y.cluster = p.cluster ∧
        (∀ b, b < x.slsize → slGet (t.cl p.cluster) (x.slbase + b) = memGet s.dram (a.spot + b)) ∧
        (∀ i, i < x.slsize / 128 → (lineFull (t.cl p.cluster) (x.slbase / 128 + i) = true ↔
          (memGet s.dram (a.spot + x.slsize + 64 + i / 8)).getLsbD (i % 8) = true)) ∧
        ∀ (k c : Nat), p.ctxs[k]? = some c → ∃ tid, (backTasks s g)[k]? = some tid ∧ (t.ctx (16 * p.cluster + c)).tid = tid


-- The Ridge and the collective engines.

/-- R279, R289, R304, R376, R377, R380: a sector read, a byte-masked write and an atomic are performed at their home
and answered; a request towards a frame that has migrated goes on to its new home; a reply reaches the command that
waits for it; a purlin reply becomes a message of its channel or a block's result; a checkpoint transfer lands; a message for another package passes
on, on the odd channel once its hop crosses a dateline (R378), or, with no way known, is discarded, and its sender is told (R380); what
is not a known message is discarded and counted. The note of a message and the phases of a drain are the model's (log
37, 39). -/
def Obligations.RidgeServesRequests : Prop :=
  ∀ (s : State) (i : Nat) (m : Msg),
    let a := msgPa m / 128 * 128
    let plain := s.ckpts = [] ∧ fldN 16 30 (jobWord s m.job 1) = 0
    let asked := fun (x : Instr) (k : BitVec 4) =>
      (x = .sectorReadRequest ∧ k = 0) ∨ (x = .sectorWrite ∧ k = 2) ∨ (x = .atomicRequest ∧ k = 4)
    let reply := fun (t : State) (r : Msg) => t.rx = s.rx.eraseIdx i ∧ t.outbox = s.outbox ++ [r] ∧ r.dst = m.src ∧
      r.job = m.job ∧ r.tag = m.tag ∧ (bitAt 127 m.note = false → r.offset = m.offset)
    let here := fwdOf s (msgPa m) = none ∧ s.Leaves m.src
    (∀ x k w, asked x k → firstMsg s (fun y => y.kind == k) (requestWaits s) = some (i, m) → fwdOf s (msgPa m) = some w →
      s.Leaves w.pkg → ∃ t r, exec x s = .next t ∧ t.rx = s.rx.eraseIdx i ∧
        t.outbox = s.outbox ++ [r] ∧ r.dst = w.pkg ∧ r.src = m.src ∧ r.kind = m.kind ∧ r.payload = m.payload ∧
        r.offset = BitVec.ofNat 64 (w.pkg * 2 ^ 46 + w.frame + (msgPa m - w.old)) ∧ t.dram = s.dram) ∧
    (here → firstMsg s (fun y => y.kind == 0) (requestWaits s) = some (i, m) →
      ∃ t r, exec .sectorReadRequest s = .next t ∧ reply t r ∧ r.kind = 1 ∧ r.payload.length = 128 ∧
        (∀ k, k < 128 → r.payload.getD k 0 = memGet s.dram (a + k)) ∧
        (r.poison = true ↔ msgPa m / 128 ∈ s.dramPoison) ∧ t.dram = s.dram) ∧
    (here → plain → firstMsg s (fun y => y.kind == 2) (requestWaits s) = some (i, m) → migrHeld s a 128 = false →
      m.payload.length = 128 → ∃ t r, exec .sectorWrite s = .next t ∧ reply t r ∧ r.kind = 3 ∧
        ∀ b, memGet t.dram b = if a ≤ b ∧ b < a + 128 ∧ bitAt (b - a) m.mask = true then
            (if bitAt 119 m.note = true then (memGet s.dram b &&& 0xFE) ||| (m.payload.getD (b - a) 0 &&& 1) else m.payload.getD (b - a) 0)
          else memGet s.dram b) ∧
    (here → plain → firstMsg s (fun y => y.kind == 4) (requestWaits s) = some (i, m) → migrHeld s (msgPa m) 8 = false →
      dramPoisoned s (msgPa m) 8 = false → ∃ t r, exec .atomicRequest s = .next t ∧ reply t r ∧ r.kind = 5 ∧
        let old : Word := BitVec.ofNat 64 (memNum s.dram (msgPa m) 8)
        r.aux = old ∧ r.poison = false ∧
        memNum t.dram (msgPa m) 8 = (atomicNew (fldN 0 3 m.aux) old (BitVec.ofNat 64 (numAt 0 8 m.payload))
          (BitVec.ofNat 64 (numAt 8 8 m.payload))).toNat ∧
        ∀ b, b < msgPa m ∨ msgPa m + 8 ≤ b → memGet t.dram b = memGet s.dram b) ∧
    (∀ x k c bs, bitAt 127 m.note = false → firstMsg s (fun y => y.kind == k) (fun _ => false) = some (i, m) →
      awaiting s m = some c →
      ((x = .readReply ∧ k = 1 ∧ bs = m.payload) ∨
        (x = .writeAcknowledge ∧ k = 3 ∧ bs = [] ∧ bitAt 123 m.note = false ∧ bitAt 122 m.note = false) ∨
        (x = .atomicReply ∧ k = 5 ∧ bs = bytesOf 8 m.aux.toNat)) →
      ∃ t, exec x s = .next t ∧ t.rx = s.rx.eraseIdx i ∧ ∀ e, t.eng e = (s.eng e).map fun y => if y.id = c.id then
        ({ c with reply := some (bs, if m.err then 4 else if m.poison then 2 else 0) } : Cmd) else y) ∧
    (firstReply s = some (i, m) → bitAt 124 m.note = false → ∃ t r, exec .purlinReply s = .next t ∧
      t.rx = s.rx.eraseIdx i ∧ let c := fldN 0 12 m.flow
        (t.chan c).msgs = (s.chan c).msgs ++ [⟨m.src, fldN 0 32 m.aux, 0, [], some [r]⟩] ∧ r.bytes = m.payload ∧
          r.src = m.src) ∧
    (∀ k b, firstReply s = some (i, m) → bitAt 124 m.note = true → collAt s m = .now k →
      k.blocks.find? (fun y => y.off == m.offset.toNat) = some b → b.asked = true → b.result = none →
      m.payload.length = b.len → ∃ t, exec .purlinReply s = .next t ∧ t.rx = s.rx.eraseIdx i ∧
        t.colls = s.colls.map fun y => if y.cmd = k.cmd then ({ k with blocks := k.blocks.map fun z =>
          if z.off = m.offset.toNat then { z with result := some m.payload } else z } : Coll) else y) ∧
    (plain → firstTransfer s = some (i, m) → ∃ t, exec .checkpointTransfer s = .next t ∧
      let p := msgPa m
      ∀ b, memGet t.dram b = if p ≤ b ∧ b < p + m.payload.length then
        (if bitAt 120 m.note then memGet s.dram b ^^^ m.payload.getD (b - p) 0 else m.payload.getD (b - p) 0)
        else memGet s.dram b) ∧
    (firstControl s = some (i, m) → (discarded m = true → m.port < 18 → ∃ t, exec .controlAndRouting s = .next t ∧
        t.rx = s.rx.eraseIdx i ∧ (t.port m.port).discards = min ((s.port m.port).discards + 1) 0xFFFFFFFF) ∧
      (discarded m = false → transit s m = true → s.Leaves m.dst → ∃ t x, exec .controlAndRouting s = .next t ∧
        t.rx = s.rx.eraseIdx i ∧ t.outbox = s.outbox ++ [x] ∧ x.dst = m.dst ∧ x.src = m.src ∧ x.kind = m.kind ∧
        x.payload = m.payload ∧ x.offset = m.offset ∧ x.aux = m.aux ∧ x.came = some (m.port, m.vc) ∧
        (bitAt 63 s.ridgecfg = false → x.vc = if bitAt 62 (tabGet 0 s.routes m.dst) then m.vc ||| 1 else m.vc)) ∧
      (discarded m = false → transit s m = true → routable s m.dst = false → s.Leaves m.src →
        (m.kind = 0 ∨ m.kind = 2 ∨ m.kind = 4 → ∃ t r, exec .controlAndRouting s = .next t ∧ t.rx = s.rx.eraseIdx i ∧
          t.outbox = s.outbox ++ [r] ∧ r.dst = m.src ∧ r.kind.toNat = m.kind.toNat + 1 ∧ r.err = true ∧ r.tag = m.tag) ∧
        (m.kind = 7 → ∃ t r, exec .controlAndRouting s = .next t ∧ t.outbox = s.outbox ++ [r] ∧ r.dst = m.src ∧ r.kind = 3 ∧
          r.err = true ∧ r.flow = m.flow ∧ bitAt 123 r.note = true) ∧
        (m.kind = 8 → unreached m = false → ∃ t r, exec .controlAndRouting s = .next t ∧ t.outbox = s.outbox ++ [r] ∧
          r.dst = m.src ∧ r.kind = 8 ∧ r.flow = m.flow ∧ msgFinish r = true ∧ unreached r = true ∧ msgReason r = 4)) ∧
      (discarded m = false → transit s m = false → fldN 32 32 m.aux ≠ 0x4D494752 → isCkptNote m = false →
        ∃ t, exec .controlAndRouting s = .next t ∧ t.rx = s.rx.eraseIdx i ∧ t.hostOut = s.hostOut ++ [.mgmt m]))

/-- R289, R290, R366, R375, R379, R384, R385, R387, R388, R468: bell events act on the replica of their job and
communicator, an arrival that the phase does not expect sets OVERRUN, and at the root the last READY sends complete to the others; the segments of a channel message are gathered, and the message is appended to its FIFO bank; credits
come back; a regulator is charged, and refills; a CRC error and a retired lane lose no message, and a down link's
messages take another way. The form of messages, credits and link errors is the model's (log 37, 38, 41). -/
def Obligations.RidgeCarriesMessages : Prop :=
  (∀ (s : State) (i : Nat) (m : Msg),
    let k := msgBell m
    let b := getBell s (.mesh k)
    let event := fun (x : Instr) (ev : Nat) => (x = .bellEventArrive ∧ ev = 1) ∨ (x = .bellEventReady ∧ ev = 2) ∨
      (x = .bellEventComplete ∧ ev = 3)
    (∀ x ev, event x ev → firstBell s ev = some (i, m) → bellHeld s m = false → ∃ t, exec x s = .next t ∧
      t.rx = s.rx.eraseIdx i ∧ t.bells = s.bells ∧
      (m.port < 18 → (t.port m.port).discards = min ((s.port m.port).discards + 1) 0xFFFFFFFF)) ∧
    (bellHeld s m = true →
      (firstBell s 1 = some (i, m) → b.ready = false → msgTag m = b.phase → b.target ≠ 0 → b.count ≠ b.target →
        bellDone { b with count := b.count + 1 } = false → ∃ t, exec .bellEventArrive s = .next t ∧
          t.rx = s.rx.eraseIdx i ∧ getBell t (.mesh k) = { b with count := b.count + 1 }) ∧
      (firstBell s 1 = some (i, m) → msgTag m = b.phase + 1 → (b.ready = true ∨ bellDone b = false) →
        ∃ t, exec .bellEventArrive s = .next t ∧ t.rx = s.rx.eraseIdx i ∧
          getBell t (.mesh k) = { b with early := b.early + 1 }) ∧
      (firstBell s 2 = some (i, m) →
        let from' := setAdd b.readyFrom (rankOfPkg s (fldN 0 8 m.flow) m.src)
        from'.length ≠ commN (commWord s (bellComm b)) → ∃ t, exec .bellEventReady s = .next t ∧
          t.rx = s.rx.eraseIdx i ∧ getBell t (.mesh k) = { b with readyFrom := from' }) ∧
      (firstBell s 1 = some (i, m) → b.ready = true ∨ bellDone b = false →
        (b.ready = true ∨ msgTag m ≠ b.phase) ∧ msgTag m ≠ b.phase + 1 ∨
          b.ready = false ∧ msgTag m = b.phase ∧ (b.target = 0 ∨ b.count = b.target) →
        ∃ t, exec .bellEventArrive s = .next t ∧ t.rx = s.rx.eraseIdx i ∧ getBell t (.mesh k) = { b with overrun := true } ∧
          t.hostOut = (overrunRecord s (.mesh k) { b with overrun := true }).hostOut) ∧
      (firstBell s 2 = some (i, m) → msgTag m = b.phase → s.cutWait = [] → b.held = [] →
        let w := commWord s (bellComm b)
        let b' := { b with phase := b.phase + 1, count := BitVec.ofNat 16 b.early, early := 0, ready := false, readyFrom := [] }
        (setAdd b.readyFrom (rankOfPkg s (fldN 0 8 m.flow) m.src)).length = commN w → bellDone b' = false →
        (∀ p ∈ commMembers s w, p ≠ s.pkg → s.Leaves p) → ∃ t, exec .bellEventReady s = .next t ∧
          t.rx = s.rx.eraseIdx i ∧ getBell t (.mesh k) = b' ∧
          ∀ p ∈ commMembers s w, p ≠ s.pkg → ∃ x ∈ t.outbox, x.dst = p ∧ x.kind = 6 ∧ msgEvent x = 3 ∧ msgBell x = k ∧
            msgTag x = b.phase ∧ x.job = bellJob b ∧ (x.vc = 4 ∨ x.vc = 5)) ∧
      (firstBell s 3 = some (i, m) → s.cutWait = [] → b.held = [] →
        let b' := { b with phase := b.phase + 1, count := BitVec.ofNat 16 b.early, early := 0, ready := false }
        bellDone b' = false → ∃ t, exec .bellEventComplete s = .next t ∧ t.rx = s.rx.eraseIdx i ∧
          getBell t (.mesh k) = b' ∧
          ∀ c w, (s.ctx c).active = true → (s.ctx c).wait = some w → bellLoc (clOf c) w.bell = .mesh k →
            phasePassed b'.phase w.phase = true → (t.ctx c).wait = none))) ∧
  (∀ (s : State) (c : Nat) (x : SegMsg) (y : ChMsg) (ys : List ChMsg) (rest : List SegMsg) (k b : Nat),
    appendChan s = some c → (s.chan c).msgs = x :: rest → x.out = some (y :: ys) →
    receiverOf s c (chanJob (s.chan c).w) = .at k b → ∃ t, exec .channelMessageSegment s = .next t ∧
      (tabGet ⟨[], []⟩ (t.cl k).fifo b).msgs = (tabGet ⟨[], []⟩ (s.cl k).fifo b).msgs ++ [y] ∧
      (t.chan c).msgs = { x with out := some ys } :: rest) ∧
  (∀ (s : State) (i : Nat) (m : Msg) (k b : Nat), appendChan s = none → firstSegment s = some (i, m) →
    atSource m = false → receiverOf s (fldN 0 12 m.flow) m.job = .at k b → msgBinding s m false = none →
    let c := fldN 0 12 m.flow
    let num := fldN 0 32 m.aux
    let len := fldN 32 17 m.aux
    let g : Seg := { offset := m.offset.toNat, bytes := m.payload, dropped := false, status := fld 0 32 m.note,
                     replies := [], poison := m.poison }
    let x0 := ((s.chan c).msgs.find? fun y => y.src == m.src && y.num == num && y.out.isNone).getD ⟨m.src, num, len, [], none⟩
    let x := { x0 with segs := x0.segs ++ [g] }
    ∃ t, exec .channelMessageSegment s = .next t ∧ t.rx = s.rx.eraseIdx i ∧
      (x.segs.length < segCount len → (t.chan c).msgs = putSegMsg (s.chan c).msgs x) ∧
      (segCount len ≤ x.segs.length → (∀ z ∈ x.segs, z.dropped = false) → ∃ y ∈ (t.chan c).msgs, ∃ f l,
        y.out = some (f :: l) ∧ f.src = x.src ∧ f.chan = c ∧ f.cred = segCount len ∧ f.bytes = segPayload x ∧
        f.status = segStatus x)) ∧
  (∀ (s : State) (num peer n : Nat),
    (chanEn (s.chan num).w = true → chanRole (s.chan num).w = 1 → chanRpkg (s.chan num).w = peer →
      ∃ t, exec (.endToEndCreditReturn true num peer n) s = .next t ∧
        (t.chan num).credits = min 32 ((s.chan num).credits + n)) ∧
    (∀ r, let w := commWord s num
      (List.range (commN w)).find? (fun r => commPkg s w r == peer) = some r → commEn w = true → r ≠ commRank w →
      ∃ t, exec (.endToEndCreditReturn false num peer n) s = .next t ∧
        commHeld t num r = min (commScr w) (commHeld s num r + n))) ∧
  (∀ (s : State) (j k n x : Nat), let job := fld 0 32 (vget (jobAt s j).w 0 0)
    jobIdx s job = some x → k < 3 → bitAt 63 (regReg (jobAt s x) k) = true → 0 ≤ vget (jobAt s x).tokens k 0 → n ≤ 65536 →
    ∃ t, exec (.regulatedRequestBegins j k n) s = .next t ∧
      vget (jobAt t x).tokens k 0 = vget (jobAt s x).tokens k 0 - (n : Int)) ∧
  (∀ s : State, ∃ t, exec .regulatorRefill s = .next t ∧ ∀ j k, k < 3 →
    let r := regReg (jobAt s j) k
    vget (jobAt t j).tokens k 0 = if bitAt 63 r then
      min (vget (jobAt s j).tokens k 0 + 64 * (fldN 0 20 r : Int)) (256 * (fldN 20 24 r : Int))
      else vget (jobAt s j).tokens k 0) ∧
  ∀ (s : State) (port vc : Nat), port < 18 →
    let kept := fun (t : State) => t.rx = s.rx ∧
      (t.outbox.map fun m => (m.dst, m.src, m.kind, m.flow, m.offset, m.aux, m.payload)) =
        s.outbox.map fun m => (m.dst, m.src, m.kind, m.flow, m.offset, m.aux, m.payload)
    let down := fun (t : State) => (t.port port).up = false ∧
      ∀ m ∈ t.outbox, routable t m.dst = true → m.port < 18 → (t.port m.port).up = true
    let n := errCount s (4, 8 * port) + 1
    (∀ m ∈ s.outbox, s.NotLocal m.dst) →
    (vc < 16 → ∃ t, exec (.flitCrcError port vc) s = .next t ∧ kept t ∧
      ((∀ lim, tabFind s.limits 4 = some lim → n ≤ lim) → t.outbox = s.outbox ∧ errCount t (4, 8 * port) = n ∧
        (t.port port).lanes = (s.port port).lanes) ∧
      ∀ lim, tabFind s.limits 4 = some lim → lim < n → errCount t (4, 8 * port) = 0 ∧
        ((s.port port).lanes = 8 → (t.port port).lanes = 6) ∧ (6 ≤ (s.port port).lanes → (s.port port).lanes ≠ 8 → down t)) ∧
    (∃ t, exec (.linkDown port) s = .next t ∧ kept t ∧ down t) ∧
    ((s.port port).lanes = 8 → ∃ t, exec (.laneRetire port) s = .next t ∧ kept t ∧ (t.port port).lanes = 6 ∧
      (t.port port).up = (s.port port).up) ∧
    (6 ≤ (s.port port).lanes → (s.port port).lanes ≠ 8 → ∃ t, exec (.laneRetire port) s = .next t ∧ kept t ∧
      (t.port port).lanes = (s.port port).lanes - 1 ∧ down t) ∧
    ((s.port port).lanes < 6 → exec (.laneRetire port) s = .next s)

/-- R256, R258, R260, R280, R316, R390 to R394, R416, R433, R444: a collective message lands in the receive scratch, or enters its
flow's kernel; a chunk starts: it sends its bytes for a credit, or writes its destination; a chunk ends, and its
pieces are consumed, once it has had its time; the owner of a block combines the members' elements in FP32 or as integers and converts
the result once (R256, R393; the f8nan of FP8 is log 69); an aligned word that is written in full is written as one (R280); a contribution is counted as it enters the kernel; a member sends DONE, rank 0 counts them and sends FINISH, and a member that has FINISH sets CNF if it says so (R394), and ends its
command, a reshard's once its descriptor has been written, when the slots take the new pair (R260, R433); a reshard goes from step to step. The order of chunks, the notes of messages and the errors are the model's
(log 37, 38, 48). -/
def Obligations.CollectivesMoveByChunks : Prop :=
  (∀ (s : State) (i : Nat) (m : Msg) (k : Coll) (c : Chunk), firstPiece s = some (i, m) → atSource m = false →
    collAt s m = .now k → piecesAgree s k m = true → 0 < sentLen m →
    chunkFor s k { m with payload := bytesAt 0 (sentLen m) m.payload } = some c →
    let w := commWord s k.comm
    (kernFor k c = none → msgCollect m = false → s.wbs = [] → (∀ a n, writeHeld s a n = false) → (∀ x ∈ s.jobs, fldN 16 30 (vget x.2.w 1 0) = 0) →
      (findPiece s k (msgRank m) c.off).isSome = true ∨ msgRank m ≠ commRank w →
      let old := match findPiece s k (msgRank m) c.off with | some p => p.msgs | none => []
      ∃ t, exec .collectivePiece s = .next t ∧ t.rx = s.rx.eraseIdx i ∧ ∃ p ∈ t.pieces,
        Piece.of k (msgRank m) c.off p = true ∧ p.msgs = old ++ [(m.offset.toNat, sentLen m, m.payload.length)] ∧
        ∀ j, j < m.payload.length →
          memGet t.dram (commScratch w + 65536 * p.slot + (m.offset.toNat - p.off) + j) = m.payload.getD j 0) ∧
    (∀ b x, kernFor k c = some b → tabFind s.bindings b = some x → ∃ t y, exec .collectivePiece s = .next t ∧
      tabFind t.bindings b = some y ∧ y.queue = x.queue ++ [⟨s.nextId, m, false, none⟩] ∧
      (k.reduces = true → msgCollect m = false →
        let n := (match k.blocks.find? fun z => z.off == m.offset.toNat with | some z => z.count | none => 0) + 1
        ∃ z ∈ t.colls, z.cmd = k.cmd ∧ ∃ bl ∈ z.blocks, bl.off = m.offset.toNat ∧ bl.count = n ∧
          (bl.asked = true ↔ commN w ≤ n)))) ∧
  (∀ (s : State) (i : Nat) (m : Msg) (k : Coll), firstDone s = some (i, m) → collAt s m = .now k → doneAgrees k m = true →
    let w := commWord s k.comm
    let k' := { k with dones := setAdd k.dones (msgRank m), nf := k.nf || bitAt 27 m.aux }
    ∃ t, exec .collectiveDone s = .next t ∧ t.colls = s.colls.map (fun x => if x.cmd = k.cmd then k' else x) ∧
      (k'.dones.length < commN w → t.outbox = s.outbox ∧ t.rx = s.rx.eraseIdx i) ∧
      (commN w ≤ k'.dones.length → (∀ r, r < commN w → routable s (commPkg s w r) = true) → k.kind < 8 → k.op < 4 → k.ty < 8 → ∀ r, r < commN w →
        (s.Leaves (commPkg s w r) →
          ∃ x ∈ t.outbox, x.dst = commPkg s w r ∧ x.kind = 8 ∧ msgFinish x = true ∧ msgDone x = false) ∧
        (commPkg s w r = s.pkg → ∃ x ∈ t.rx, x.kind = 8 ∧ msgFinish x = true ∧ msgDone x = false))) ∧
  (∀ (s : State) (i : Nat) (m : Msg) (k : Coll) (e : Nat) (c : Cmd), firstFinish s = some (i, m) → collAt s m = .now k →
    unreached m = false → msgReason m = 0 → findCmd s k.cmd = some (e, c) → ∃ t, exec .collectiveFinish s = .next t ∧
      (bitAt 27 m.aux = true → (∀ n, ctxOfTid s c.tid = some n → (t.ctx n).flags &&& fCNF = fCNF) ∧
        (ctxOfTid s c.tid = none → ∀ o ∈ t.outs, o.task.tid = c.tid → o.task.pendCnf = true)) ∧
      (k.reshard = false → (∀ x ∈ t.colls, x.cmd ≠ k.cmd) ∧ ∀ j, ∀ x ∈ t.eng j, x.id ≠ k.cmd) ∧
      (k.reshard = true → ∃ x ∈ t.colls, x.cmd = k.cmd ∧ x.ended = true)) ∧
  (∀ (s : State) (e : Nat) (c : Cmd), endedReshard s e = some c → c.fail.isSome = true ∨ c.cscope = 0 →
    ∃ t, exec (.copyCommandCompletes e) s = .next t ∧ (∀ j, t.eng j = (s.eng j).filter fun x => x.id != c.id) ∧
      (c.fail = none → (∀ x ∈ t.colls, x.cmd ≠ c.id) ∧ ∀ n k y, (s.ctx n).job = c.job → vget (s.ctx n).tbind k none = some y →
        y.va = c.va → vget (t.ctx n).tbind k none = some { y with
          desc := some (newDesc (c.desc.getD []) (fldN 0 52 (c.word 1)) c.map), busy := (reshardOf s c.job c.va c.id).isSome })) ∧
  (∀ (s : State) (comm : Nat) (k : Coll), currentColl s comm = some k → doneDue s k = true →
    let w := commWord s k.comm
    (routable s (commPkg s w 0) = true → k.parts ≠ [] → ∃ t, exec (.collectiveDoneSend comm) s = .next t ∧
      ∃ x ∈ t.colls, x.cmd = k.cmd ∧ x.parts = [] ∧ x.doneSent = false) ∧
    (routable s (commPkg s w 0) = true → k.parts = [] → ∃ t, exec (.collectiveDoneSend comm) s = .next t ∧
      t.colls = s.colls.map (fun x => if x.cmd = k.cmd then ({ k with doneSent := true } : Coll) else x) ∧
      (k.kind < 8 → k.op < 4 → k.ty < 8 →
        (s.Leaves (commPkg s w 0) → ∃ x, t.outbox = s.outbox ++ [x] ∧
          x.dst = commPkg s w 0 ∧ x.kind = 8 ∧ msgDone x = true ∧ msgRank x = commRank w) ∧
        (commPkg s w 0 = s.pkg → ∃ x, t.rx = s.rx ++ [x] ∧ x.kind = 8 ∧ msgDone x = true ∧ msgRank x = commRank w)))) ∧
  (∀ (s : State) (eng : Nat) (k : Coll) (c : Chunk), engineBusy s eng = none → engineChoice s eng = some (k, c) →
    badRoot s k = false → chunkPoison s k c = false →
    let g := chunkSource s k c
    let w := commWord s k.comm
    let clean := ∀ cm, k.issuer s = some cm → ∀ l ∈ groupCache s cm.cluster cm.group, k.covers s l.pkg l.pa = false
    clean → collRoutes s k = true → (∀ r ∈ c.dests, routable s (commPkg s w r) = true) →
    g.err = 0 → g.missing = [] → ∃ t, exec (.collectiveChunkStart eng) s = .next t ∧
      (∃ x ∈ t.colls, x.cmd = k.cmd ∧ x.running = true ∧ x.next = k.next ∧ x.due = s.cycle + ceilDiv c.len 512 ∧
        x.nf = (k.nf || (k.reduces && (anyBad k.ty g.bytes || (c.write && (chunkOut s k c g.bytes).any fun y => anyBad k.ty y.2))))) ∧
      (∀ r, k.reshard = false → c.take = [] → c.comb = false → c.write = false → c.feed = false → c.dests = [r] →
        k.skern = none → 0 < g.bytes.length → g.bytes.length ≤ 4096 →
        s.Leaves (commPkg s w r) → commHeld t k.comm r = commHeld s k.comm r - 1 ∧
          ∃ x, t.outbox = s.outbox ++ [x] ∧ x.dst = commPkg s w r ∧ x.kind = 8 ∧ x.payload = g.bytes ∧
            x.offset = BitVec.ofNat 64 c.off) ∧
      (∀ e cmd bs pa, c.dests = [] → c.feed = false → c.write = true → k.reshard = false →
        (∀ x ∈ s.jobs, fldN 16 30 (vget x.2.w 1 0) = 0) → findCmd s k.cmd = some (e, cmd) → cmd.bv = false →
        chunkOut s k c g.bytes = [(c.off, bs)] → (k.dst + c.off) % 8 = 0 → bs.length % 8 = 0 →
        collRuns s k true (bs.length + 1) (k.dst + c.off) bs.length = [(s.pkg, pa, bs.length)] →
        (∀ j, j < bs.length → memGet t.dram (pa + j) = bs.getD j 0) ∧
        ∀ b, b < pa ∨ pa + bs.length ≤ b → memGet t.dram b = memGet s.dram b) ∧
      (∀ bs, c.dests = [] → c.feed = false → c.write = true → k.reshard = false → k.parts = [] →
        chunkOut s k c g.bytes = [(c.off, bs)] → bs ≠ [] → (k.dst + c.off) % 8 + bs.length < 8 →
        k.writesWord s ((k.dst + c.off) / 8) = true → t.dram = s.dram ∧ ∃ x ∈ t.colls, x.cmd = k.cmd ∧
          tabFind x.parts ((k.dst + c.off) / 8) = some (bs.zipIdx.map fun y => ((k.dst + c.off) % 8 + y.2, y.1)))) ∧
  (∀ (s : State) (k : Coll) (c : Chunk) (own : List Byte) (pa : Nat),
    let es := elemBits k.ty / 8
    let ps := s.pieces.filter fun p =>
      p.comm == k.comm && p.seq == k.seq && p.step == k.rstep && p.off == c.off && c.take.contains p.src
    (c.src = none → chunkSource s k c = ⟨[], [], 0⟩) ∧
    (∀ o, c.src = some o → k.reshard = false → k.words = [] →
      collRuns s k false (c.len + 1) (k.src + o) c.len = [(s.pkg, pa, c.len)] →
      chunkSource s k c = ⟨memRead s.dram pa c.len, [], if dramPoisoned s pa c.len then 2 else 0⟩) ∧
    (c.comb = false → c.take = [] → chunkOut s k c own = [(c.off, own)]) ∧
    (∀ r p, c.comb = false → c.take = [r] → findPiece s k r c.off = some p → chunkOut s k c own =
      p.msgs.map fun m => (m.1, memRead s.dram (commScratch (commWord s k.comm) + 65536 * p.slot + (m.1 - p.off)) m.2.2)) ∧
    (c.comb = true → k.kern = none → k.ty < 6 → k.op < 3 → (∀ p ∈ ps, p.len = own.length) → ∃ bs, chunkOut s k c own = [(c.off, bs)] ∧
      bs.length = own.length / es * es ∧ ∀ i, i < own.length / es →
        let xs := (own :: ps.map fun p => memRead s.dram (commScratch (commWord s k.comm) + 65536 * p.slot) p.len).map
          fun l => numAt (es * i) es l
        let z := numAt (es * i) es bs
        let up := fun (x : Nat) => if k.ty = 0 then x else if k.ty = 1 then (cvtFmt bf16 fp32 0 x).1
          else if k.ty = 2 then (cvtFmt fp16 fp32 0 x).1 else (cvtFrom8 fp32 x).1
        let down := fun (x : Nat) => if k.ty = 0 then x else if k.ty = 1 then (cvtFmt fp32 bf16 0 x).1
          else if k.ty = 2 then (cvtFmt fp32 fp16 0 x).1 else (satFp8 0 true (unpack fp32 x)).1
        let comb := fun (x y : Nat) => if k.op = 0 then (fAdd fp32 0 x y).1 else if k.op = 1 then (fMax fp32 x y).1 else (fMin fp32 x y).1
        (k.ty < 4 → z = down (xs.tail.foldl (fun a y => comb a (up y)) (up (xs.headD 0))) % 2 ^ (8 * es)) ∧
        (k.ty = 5 → k.op = 0 → z = ((xs.map (toSigned 32)).sum % 2 ^ 32).toNat) ∧
        (k.ty = 4 → k.op = 0 → z = (max (-128) (min 127 (xs.map (toSigned 8)).sum) % 256).toNat) ∧
        (4 ≤ k.ty → 1 ≤ k.op → z ∈ xs ∧ ∀ x ∈ xs, if k.op = 1 then toSigned (8 * es) x ≤ toSigned (8 * es) z
          else toSigned (8 * es) z ≤ toSigned (8 * es) x))) ∧
  (∀ (s : State) (eng : Nat) (k : Coll), engineBusy s eng = some k → chunkOver s eng = true →
    ∃ t, exec (.collectiveChunkEnd eng) s = .next t ∧
    (∃ x ∈ t.colls, x.cmd = k.cmd ∧ x.running = false ∧ x.next = k.next + 1) ∧
    ∀ c, nextChunk s k = some c → ∀ r ∈ c.take, findPiece t k r c.off = none) ∧
  ∀ (s : State) (comm : Nat) (k : Coll), currentColl s comm = some k → stepDue s k = true →
    (k.rstep = 0 → reshardBad s k = 0) → collRoutes s k = true →
    let clean := ∀ cm, k.issuer s = some cm → ∀ l ∈ groupCache s cm.cluster cm.group, k.covers s l.pkg l.pa = false
    (k.paid < stepBytes s k → ∃ t, exec (.reshardStepBegins comm) s = .next t ∧ ∃ x ∈ t.colls, x.cmd = k.cmd ∧
      x.rstep = k.rstep ∧ x.paid = k.paid + min 65536 (stepBytes s k - k.paid)) ∧
    (stepBytes s k ≤ k.paid → clean → (stepReads s k).err = 0 → (stepReads s k).missing = [] →
    ∃ t, exec (.reshardStepBegins comm) s = .next t ∧ ∃ x ∈ t.colls, x.cmd = k.cmd ∧ x.rstep = k.rstep + 1 ∧ x.next = 0 ∧
      (k.rstep = 0 → x.staged = firstStaged s k (stepReads s k).bytes) ∧
      (k.rstep ≠ 0 → k.step.kind ≤ 3 ∨ k.step.kind = 7 → x.staged = nextStaged s k))


-- The purlin processors.

/-- R400 to R408, R417: what each purlin instruction does to its run: its register, its vector, its message buffer or
its flow region; the next instruction, with the loops that end there; its cycles. A terminal ends the run with its
fate, which waits for the fates of the messages before it (R409); an access that breaks a rule traps. A sum rounds to nearest
even, a maximum or minimum is R178's (a NaN gives the canonical NaN, -0 is below +0), and BF16 and FP16 convert through
FP32. Corners of runs follow log 49. -/
def Obligations.PurlinInstructions : Prop :=
  (∀ t, seqNext [] t = (t, [])) ∧
  (∀ f l n rest t, (t ≠ l + 1 → seqNext ((f, l, n) :: rest) t = (t, (f, l, n) :: rest)) ∧
    (1 < n → seqNext ((f, l, n) :: rest) (l + 1) = (f, (f, l, n - 1) :: rest)) ∧
    (n ≤ 1 → seqNext ((f, l, n) :: rest) (l + 1) = seqNext rest (l + 1))) ∧
  ∀ (s : State) (p : Nat) (r : Run), runNow s = some (p, r) →
    let W := fun (n : BitVec 4) => vget r.w n.toNat 0
    let Z := fun (n : BitVec 3) => vget r.z n.toNat 0
    let gives := fun (i : Instr) (P : Run → Mem → Prop) => ∃ (r' : Run) (fl : Mem),
      exec i s = .next { s with runs := tabPut s.runs p r', flow := fl } ∧ r'.bind = r.bind ∧ r'.id = r.id ∧ r'.msg = r.msg ∧
        r'.flits = r.flits ∧ P r' fl
    let jumps := fun (r' : Run) (target cost : Nat) =>
      (r'.pc, r'.loops) = seqNext r.loops target ∧ r'.cycles = r.cycles + cost
    let steps := fun (r' : Run) => jumps r' (r.pc + 1) 1
    let still := fun (r' : Run) (fl : Mem) => r'.buf = r.buf ∧ r'.replies = r.replies ∧ fl = s.flow
    let scalar := fun (i : Instr) (d : BitVec 4) (v : BitVec 32) => gives i fun r' fl =>
      steps r' ∧ still r' fl ∧ r'.z = r.z ∧ ∀ n, vget r'.w n 0 = if n = d.toNat then v else vget r.w n 0
    let ended := fun (i : Instr) (e : PEnd) => ∀ (b : Binding) (y : PMsg) (rest : List PMsg),
      tabFind s.bindings r.bind = some b → b.queue = y :: rest → y.fin = none → y.id ≠ r.id → ∃ t, exec i s = .next t ∧
        tabFind t.runs p = none ∧ t.flow = s.flow ∧ tabFind t.bindings r.bind = some ({ b with
          queue := y :: (rest.map fun x => if x.id = r.id then { x with fin := some e } else x) } : Binding)
    let kern := bindKernel s r.bind
    let traps := fun (i : Instr) (cause : Nat) => ended i
      ⟨match kern with | some k => bitAt 2 k.flags | none => false, true, r.msg.payload,
       BitVec.ofNat 32 (0x80000000 + cause), []⟩
    let size := fun (k : Bool) => if k then 4 else 64
    let fits := fun (n a len : Nat) => a % len = 0 ∧ a + len ≤ n
    let g := runRegion s r
    let best := fun (up : Bool) (t : BitVec 3) (x y : Nat) =>
      let f := viewFmt t.toNat
      let u := unpack f x
      let w := unpack f y
      let below := fun (u w : Val) => valLt u w || (u.isZero && w.isZero && u.neg? && !w.neg?)
      if t = 5 then (if (if up then toSigned 32 x < toSigned 32 y else toSigned 32 y < toSigned 32 x) then y else x)
      else if u.isNan || w.isNan then f.nan
      else if (if up then below u w else below w u) then y else x
    let loaded := fun (i : Instr) (k : Bool) (reg a : BitVec 4) (inc : Bool) (m : Mem) (base : Nat) (off : BitVec 16) =>
      let ad := (W a).toNat + off.toNat
      (k = false → reg.toNat < 8) → gives i fun r' fl => steps r' ∧ still r' fl ∧
        (∀ n, vget r'.z n 0 = if k = false ∧ n = reg.toNat then BitVec.ofNat 512 (memNum m (base + ad) 64) else vget r.z n 0) ∧
        ∀ n, vget r'.w n 0 = if k = true ∧ n = reg.toNat then BitVec.ofNat 32 (memNum m (base + ad) 4)
          else if inc = true ∧ n = a.toNat then W a + BitVec.ofNat 32 (size k) else vget r.w n 0
    let stored := fun (i : Instr) (k : Bool) (reg a : BitVec 4) (inc : Bool) (P : Run → Mem → (Nat → Byte) → Prop) =>
      let x := if k then (W reg).toNat else (vget r.z reg.toNat 0).toNat
      (k = false → reg.toNat < 8) → gives i fun r' fl => steps r' ∧ r'.z = r.z ∧ r'.replies = r.replies ∧
        P r' fl (fun j => BitVec.ofNat 8 (x / 256 ^ j)) ∧
        ∀ n, vget r'.w n 0 = if inc = true ∧ n = a.toNat then W a + BitVec.ofNat 32 (size k) else vget r.w n 0
    (∀ d a b, let x := W a; let y := W b
      scalar (.padd d a b) d (BitVec.ofNat 32 (x.toNat + y.toNat)) ∧
      scalar (.psub d a b) d (BitVec.ofInt 32 (x.toInt - y.toInt)) ∧
      scalar (.pand d a b) d (x &&& y) ∧ scalar (.por d a b) d (x ||| y) ∧ scalar (.pxor d a b) d (x ^^^ y) ∧
      scalar (.pshl d a b) d (BitVec.ofNat 32 (x.toNat * 2 ^ (y.toNat % 32))) ∧
      scalar (.pshr d a b false) d (BitVec.ofNat 32 (x.toNat / 2 ^ (y.toNat % 32))) ∧
      scalar (.pshr d a b true) d (BitVec.ofInt 32 (x.toInt / 2 ^ (y.toNat % 32))) ∧
      (∀ c, scalar (.psel d a b c) d (if W c ≠ 0 then x else y)) ∧
      scalar (.pmov d a) d x ∧ (∀ imm, scalar (.pmovi d imm) d (BitVec.ofInt 32 imm.toInt)) ∧
      ∀ cond : BitVec 3, scalar (.pcmp d a b cond) d (if (if cond = 0 then x = y else if cond = 1 then x ≠ y
        else if cond = 2 then x.toInt < y.toInt else if cond = 3 then x.toInt ≤ y.toInt
        else if cond = 4 then x.toNat < y.toNat else x.toNat ≤ y.toNat) then 1 else 0)) ∧
    (∀ (c : BitVec 4) (mode : BitVec 2) (off : BitVec 10), gives (.pbr c mode off) fun r' fl => still r' fl ∧ r'.w = r.w ∧
      r'.z = r.z ∧ if (if mode = 0 then W c ≠ 0 else if mode = 1 then W c = 0 else True) then jumps r' (r.pc + off.toNat) 2
        else steps r') ∧
    (∀ (src : BitVec 2) (len : BitVec 10) (count : BitVec 14), gives (.ploop src len count) fun r' fl => still r' fl ∧
      r'.w = r.w ∧ r'.z = r.z ∧ let n := if src = 0 then count.toNat else r.flits
        (n = 0 → jumps r' (r.pc + len.toNat + 2) 1) ∧
        (n ≠ 0 → r'.pc = r.pc + 1 ∧ r'.loops = (r.pc + 1, r.pc + 1 + len.toNat, n) :: r.loops ∧ r'.cycles = r.cycles + 1)) ∧
    (∀ (k : Bool) (reg a : BitVec 4) (inc : Bool) (off : BitVec 16), let ad := (W a).toNat + off.toNat
      (fits 4096 ad (size k) → loaded (.pmld k reg a inc off) k reg a inc r.buf 0 off ∧
        stored (.pmst k reg a inc off) k reg a inc fun r' fl by' => fl = s.flow ∧
          ∀ b, memGet r'.buf b = if ad ≤ b ∧ b < ad + size k then by' (b - ad) else memGet r.buf b) ∧
      (fits g.2 ad (size k) → loaded (.pfld k reg a inc off) k reg a inc s.flow g.1 off ∧
        stored (.pfst k reg a inc off) k reg a inc fun r' fl by' => r'.buf = r.buf ∧
          ∀ b, memGet fl b = if g.1 + ad ≤ b ∧ b < g.1 + ad + size k then by' (b - (g.1 + ad)) else memGet s.flow b) ∧
      (¬ fits 4096 ad (size k) → traps (.pmld k reg a inc off) 2 ∧ traps (.pmst k reg a inc off) 2) ∧
      (¬ fits g.2 ad (size k) → traps (.pfld k reg a inc off) 3 ∧ traps (.pfst k reg a inc off) 3)) ∧
    (∀ (t u : BitVec 3) (x y : Nat),
      let f := viewFmt t.toNat
      let f' := viewFmt u.toNat
      (accOp 0 t x y = if t = 5 then (x + y) % 2 ^ 32 else (fAdd f 0 x y).1) ∧
      accOp 1 t x y = best true t x y ∧ accOp 2 t x y = best false t x y ∧
      pConvert t u x = if t = 5 then (intToFmt f' 0 (toSigned 32 x)).1
        else if u = 5 then (valToInt 0 true 32 (unpack f x)).1
        else if t = 0 ∨ u = 0 then (cvtFmt f f' 0 x).1 else (cvtFmt fp32 f' 0 (cvtFmt f fp32 0 x).1).1) ∧
    (∀ (d a b t : BitVec 3),
      let bits := pBits t
      let fmt := viewFmt t.toNat
      let vector := fun (i : Instr) (f : Nat → Nat → Nat) => gives i fun r' fl => steps r' ∧ still r' fl ∧ r'.w = r.w ∧
        (∀ n, n ≠ d.toNat → vget r'.z n 0 = vget r.z n 0) ∧
        ∀ k, k < 512 / bits → fldN (bits * k) bits (vget r'.z d.toNat 0) =
          f (fldN (bits * k) bits (Z a)) (fldN (bits * k) bits (Z b)) % 2 ^ bits
      vector (.pvadd d a b t) (fun x y => if t = 5 then x + y else (fAdd fmt 0 x y).1) ∧
      vector (.pvmul d a b t) (fun x y => if t = 5 then x * y else (fMul fmt 0 x y).1) ∧
      vector (.pvmax d a b t) (best true t) ∧
      gives (.pvnf a t) fun r' fl => steps r' ∧ still r' fl ∧ r'.z = r.z ∧
        (∀ n, n ≠ 15 → vget r'.w n 0 = vget r.w n 0) ∧
        vget r'.w 15 0 = if t ≠ 5 ∧ ∃ k, k < 512 / bits ∧ (unpack fmt (fldN (bits * k) bits (Z a))).finite = false
          then vget r.w 15 0 ||| 1 else vget r.w 15 0) ∧
    (∀ (d a t u : BitVec 3) (h : Bool), gives (.pvcvt d a t u h) fun r' fl => steps r' ∧ still r' fl ∧ r'.w = r.w ∧
      (∀ n, n ≠ d.toNat → vget r'.z n 0 = vget r.z n 0) ∧
      let el := fun (bits k : Nat) (x : BitVec 512) => fldN (bits * k) bits x
      let o := if h then 16 else 0
      let out := vget r'.z d.toNat 0
      (pBits t = pBits u → ∀ k, k < 512 / pBits t → el (pBits t) k out = pConvert t u (el (pBits t) k (Z a)) % 2 ^ pBits t) ∧
      (pBits t = 32 → pBits u = 16 → ∀ k, k < 32 → el 16 k out =
        if o ≤ k ∧ k < o + 16 then pConvert t u (el 32 (k - o) (Z a)) % 2 ^ 16 else el 16 k (Z d)) ∧
      (pBits t = 16 → pBits u = 32 → ∀ k, k < 16 → el 32 k out = pConvert t u (el 16 (o + k) (Z a)) % 2 ^ 32)) ∧
    (∀ (a b : BitVec 4) (t : BitVec 3) (op : BitVec 2) (inc : Bool), let fa := (W a).toNat; let ma := (W b).toNat
      (fits 4096 ma 64 → fits g.2 fa 64 → gives (.pvacc a b t op inc) fun r' fl => steps r' ∧ r'.buf = r.buf ∧ r'.z = r.z ∧
        r'.replies = r.replies ∧
        (∀ n, vget r'.w n 0 = vget r.w n 0 + if inc = true ∧ (n = a.toNat ∨ n = b.toNat) then 64 else 0) ∧
        (∀ x, x < g.1 + fa ∨ g.1 + fa + 64 ≤ x → memGet fl x = memGet s.flow x) ∧
        let nb := pBits t / 8
        ∀ k, k < 64 / nb → memNum fl (g.1 + fa + nb * k) nb =
          accOp op t (memNum s.flow (g.1 + fa + nb * k) nb) (memNum r.buf (ma + nb * k) nb) % 2 ^ pBits t) ∧
      (¬ fits 4096 ma 64 → traps (.pvacc a b t op inc) 2) ∧
      (fits 4096 ma 64 → ¬ fits g.2 fa 64 → traps (.pvacc a b t op inc) 3)) ∧
    (∀ a : BitVec 4, let n := (W a).toNat
      (n ≤ 4096 → ended (.pfwd a) ⟨false, false, (List.range n).map (memGet r.buf), vget r.w 15 0, r.replies⟩) ∧
      (4096 < n → traps (.pfwd a) 6)) ∧
    ended .pdrop ⟨true, false, [], vget r.w 15 0, r.replies⟩ ∧
    (let drop := match kern with | some k => bitAt 1 k.flags | none => false
     ended .pdone ⟨drop, false, if drop then [] else r.msg.payload, vget r.w 15 0, r.replies⟩) ∧
    (∀ code, traps (.ptrap code) 1) ∧
    ∀ a b c : BitVec 4, let x := (W a).toNat; let n := (W b).toNat
      (x % 64 = 0 → x + n ≤ g.2 → n ≤ 4096 → gives (.preply a b c) fun r' fl => steps r' ∧ r'.buf = r.buf ∧ r'.z = r.z ∧
        r'.w = r.w ∧ fl = s.flow ∧
        r'.replies = r.replies ++ [((W c).toNat, (List.range n).map fun k => memGet s.flow (g.1 + x + k))]) ∧
      (x % 64 ≠ 0 ∨ g.2 < x + n → traps (.preply a b c) 3) ∧
      (x % 64 = 0 → x + n ≤ g.2 → 4096 < n → traps (.preply a b c) 6)

/-- R396, R408, R409, R411 to R413, R415, R419: a message of a channel starts a run with the registers of entry; the
fate of a single segment lands in its channel; a run that has reached the kernel's worst case traps; and the five
requests: LOAD gives a handle, UNLOAD frees it, BIND clears its part of the flow region, UNBIND answers when the
binding is idle: its queue empty, no message that had come for it waiting, no run, no collective of its flow. A completion record
goes to the port of the request's window by log 34; corners of runs follow log 48 and 49. -/
def Obligations.PurlinKernels : Prop :=
  (∀ (s : State) (bind proc : Nat) (b : Binding) (x : PMsg), startableMsg s bind proc = some (b, x) →
    ∃ t r, exec (.purlinKernelRun bind proc) s = .next t ∧ t.runs = tabPut s.runs proc r ∧ r.bind = bind ∧ r.id = x.id ∧
      r.msg = x.msg ∧ r.pc = 0 ∧ r.loops = [] ∧ r.cycles = 8 ∧ r.replies = [] ∧ r.flits = (x.msg.payload.length + 63) / 64 ∧
      (∀ k, k < x.msg.payload.length → memGet r.buf k = x.msg.payload.getD k 0) ∧
      (∀ k, x.msg.payload.length ≤ k → memGet r.buf k = 0) ∧ (∀ n, vget r.z n 0 = 0) ∧
      vget r.w 0 0 = BitVec.ofNat 32 x.msg.payload.length ∧ vget r.w 1 0 = BitVec.ofNat 32 x.msg.offset.toNat ∧
      (∀ n, n = 7 ∨ 8 < n → vget r.w n 0 = 0) ∧
      (isCollFlow b.flow = false → vget r.w 2 0 = BitVec.ofNat 32 x.msg.src ∧ vget r.w 3 0 = 1 ∧ vget r.w 4 0 = 7 ∧
        vget r.w 5 0 = BitVec.ofNat 32 (fldN 0 24 x.msg.aux) ∧ vget r.w 6 0 = 0 ∧ vget r.w 8 0 = 0) ∧
      (isCollFlow b.flow = true → vget r.w 2 0 = BitVec.ofNat 32 (msgRank x.msg) ∧
        vget r.w 3 0 = BitVec.ofNat 32 (commN (commWord s (msgComm x.msg))) ∧
        vget r.w 4 0 = BitVec.ofNat 32 (msgKind x.msg + 8 * fldN 19 2 x.msg.aux + 32 * fldN 21 3 x.msg.aux +
          if bitAt 28 x.msg.aux then 256 else 0) ∧
        (b.fsize ≠ 0 → vget r.w 6 0 = BitVec.ofNat 32 (x.msg.offset.toNat % 2 ^ 32 % b.fsize / 64 * 64)) ∧
        vget r.w 5 0 = BitVec.ofNat 32 (msgSeq x.msg) ∧ vget r.w 8 0 = if msgCollect x.msg then 1 else 0) ∧
      tabFind t.bindings bind = some ({ b with queue := b.queue.map fun y =>
          if y.id = x.id then { y with started := true } else y } : Binding)) ∧
  (∀ (s : State) (p : Nat) (r : Run) (b : Binding) (x : PMsg) (a : BitVec 4), runNow s = some (p, r) →
    tabFind s.bindings r.bind = some b → b.queue = [x] → x.id = r.id → isCollFlow b.flow = false → b.source = false →
    r.replies = [] → x.msg.offset = 0 → segCount (fldN 32 17 x.msg.aux) = 1 → (vget r.w a.toNat 0).toNat ≤ 4096 →
    let c := fldN 0 12 b.flow
    (s.chan c).msgs = [] → ∃ t g, exec (.pfwd a) s = .next t ∧ tabFind t.runs p = none ∧
      (t.chan c).msgs = [⟨x.msg.src, fldN 0 32 x.msg.aux, fldN 32 17 x.msg.aux, [g],
        some [⟨c, x.msg.src, g.bytes, vget r.w 15 0 ||| fld 0 32 x.msg.note, 1, g.poison⟩]⟩] ∧
      g.bytes = (List.range (vget r.w a.toNat 0).toNat).map (memGet r.buf)) ∧
  (∀ (s : State) (p : Nat) (r : Run) (b : Binding) (y : PMsg) (rest : List PMsg), tabFind s.runs p = some r →
    runLate s r = true → tabFind s.bindings r.bind = some b → b.queue = y :: rest → y.fin = none → y.id ≠ r.id →
    ∃ t e, exec (.purlinWatchdog p) s = .next t ∧ tabFind t.runs p = none ∧ e.trapped = true ∧ e.status = 0x80000005 ∧
      e.replies = [] ∧ tabFind t.bindings r.bind = some ({ b with
        queue := y :: (rest.map fun x => if x.id = r.id then { x with fin := some e } else x) } : Binding)) ∧
  ∀ (s : State) (r : PReq),
    let answers := fun (t : State) (status handle detail : Nat) => ∃ d : Done, t.waitDone = s.waitDone ++ [d] ∧
      d.caddr = r.caddr ∧ d.cval = r.cval ∧ d.port = r.win ∧
      d.status = BitVec.ofNat 64 (status + handle * 65536 + detail * 2 ^ 32)
    let same := fun (t : State) => t.kernels = s.kernels ∧ t.bindings = s.bindings ∧ t.flow = s.flow
    let a := fldN 0 46 r.arg
    let img := memRead s.dram a 32
    let ws := (List.range (numAt 4 2 img)).map fun i => BitVec.ofNat 32 (memNum s.dram (a + 32 + 4 * i) 4)
    let handle := fldN 0 16 r.arg
    let good := fld 46 18 r.arg = 0 ∧ r.rsvd = 0
    (¬ good → ∃ t, exec (.load r) s = .next t ∧ answers t 6 0 0 ∧ same t) ∧
    (good → imageHeadOk img = false → ∃ t, exec (.load r) s = .next t ∧ answers t 2 0 0xFFFFFFFF ∧ same t) ∧
    (good → imageHeadOk img = true →
      (∀ i, failingIndex (kernelCode ws) = some i → ∃ t, exec (.load r) s = .next t ∧ answers t 2 0 i ∧ same t) ∧
      (failingIndex (kernelCode ws) = none →
        (∀ f, overBudget (jobWord s r.job 10) (kernelCode ws) = some f →
          ∃ t, exec (.load r) s = .next t ∧ answers t 1 0 f ∧ same t) ∧
        (overBudget (jobWord s r.job 10) (kernelCode ws) = none →
          (192 ≤ s.kernels.length → ∃ t, exec (.load r) s = .next t ∧ answers t 3 0 0 ∧ same t) ∧
          (s.kernels.length < 192 → ∃ t h k, exec (.load r) s = .next t ∧ answers t 0 h 0 ∧ 1 ≤ h ∧
            tabFind s.kernels h = none ∧ t.kernels = tabPut s.kernels h k ∧ k.job = r.job ∧ k.words = ws ∧
            t.bindings = s.bindings ∧ t.flow = s.flow)))) ∧
    (∀ k, tabFind s.kernels handle = some k → k.job = r.job → fld 16 48 r.arg = 0 → r.rsvd = 0 →
      ((∀ b ∈ s.bindings, b.2.kernel ≠ handle) → ∃ t, exec (.unload r) s = .next t ∧ answers t 0 0 0 ∧
        tabFind t.kernels handle = none ∧ ∀ n, n ≠ handle → tabFind t.kernels n = tabFind s.kernels n) ∧
      ((∃ b ∈ s.bindings, b.2.kernel = handle) → ∃ t, exec (.unload r) s = .next t ∧ answers t 5 0 0 ∧ same t)) ∧
    (reqKernel s r = none → ∀ i, i = .unload r ∨ i = .bind r → ∃ t, exec i s = .next t ∧ answers t 6 0 0 ∧ same t) ∧
    (∀ k, reqKernel s r = some k → fld 16 48 r.arg = 0 → r.rsvd = 0 → fld 0 2 r.setw ≠ 3 → fld 4 28 r.setw = 0 →
      flowOk r.flow = true →
      let off := r.region.toNat
      let size := r.fsize.toNat
      let jf := jobWord s r.job 9
      let base := fldN 0 8 jf * 65536 + off
      let source := bitAt 3 r.setw
      let n := 2 ^ fldN 0 2 r.setw
      let taken := (∃ b ∈ s.bindings, b.2.flow = r.flow ∧ b.2.source = source) ∨
        ∃ b ∈ s.bindings, ∃ x, base ≤ x ∧ x < base + size ∧ b.2.base ≤ x ∧ x < b.2.base + b.2.fsize
      let procs := pickProcs s n (bitAt 2 r.setw)
      (source = false ∨ reduceFlow r.flow = false) → off % 64 = 0 → size % 64 = 0 → k.fsmin ≤ size →
      (taken → ∃ t, exec (.bind r) s = .next t ∧ answers t 4 0 0 ∧ same t) ∧
      (¬ taken → procs.length < n ∨ fldN 16 9 jf * 65536 < off + size → ∃ t, exec (.bind r) s = .next t ∧
        answers t 3 0 0 ∧ same t) ∧
      (¬ taken → n ≤ procs.length → off + size ≤ fldN 16 9 jf * 65536 → ∃ t i b, exec (.bind r) s = .next t ∧
        answers t 0 0 0 ∧ tabFind s.bindings i = none ∧ t.bindings = tabPut s.bindings i b ∧ b.kernel = handle ∧
        b.job = r.job ∧ b.flow = r.flow ∧ b.base = base ∧ b.fsize = size ∧ b.procs = procs ∧ b.source = source ∧
        b.queue = [] ∧ ∀ x, memGet t.flow x = if base ≤ x ∧ x < base + size then 0 else memGet s.flow x)) ∧
    (∀ i b, s.bindings.find? (fun b => b.2.flow == r.flow && b.2.kernel == handle && b.2.unbinding.isNone) = some (i, b) →
      fld 16 48 r.arg = 0 → r.rsvd = 0 → flowOk r.flow = true → (reqKernel s r).isSome = true →
      let idle := b.queue = [] ∧ (∀ m ∈ s.rx, b.owns s.pkg m = false) ∧ (∀ x ∈ s.runs, x.2.bind ≠ i) ∧
        (isCollFlow b.flow = true → ∀ k ∈ s.colls, k.reshard = false → k.comm = fldN 0 8 b.flow → k.kind ≠ fldN 8 3 b.flow)
      (idle → ∃ t, exec (.unbind r) s = .next t ∧ answers t 0 0 0 ∧ tabFind t.bindings i = none) ∧
      (¬ idle → ∃ t, exec (.unbind r) s = .next t ∧ t.waitDone = s.waitDone ∧
        tabFind t.bindings i = some ({ b with unbinding := some (r.caddr, r.cval, r.win) } : Binding) ∧
        t.rx = s.rx.map fun m => if b.owns s.pkg m then { m with note := m.note ||| BitVec.ofNat 128 (2 ^ 118) } else m)) ∧
    ∀ i b u, tabFind s.bindings i = some b → b.unbinding = some u → bindingIdle s i b = true →
      ∃ t, exec (.unbindCompletes i) s = .next t ∧ tabFind t.bindings i = none ∧ ∃ d : Done,
        t.waitDone = s.waitDone ++ [d] ∧ d.caddr = u.1 ∧ d.cval = u.2.1 ∧ d.port = u.2.2 ∧ d.status = 0


-- The host's tables, checkpoints, sparing, resets; memory.

/-- R318, R380, R383, R386, R389, R456, R460, R461, R465: what a host's or the management core's writes do: the fields
that a table takes, those that it keeps while an entry is enabled, the writes that are ignored, and those that
ERRCNT counts, one for each; and an access through the aperture within a sector, which waits for those of its port before it (R280).
Writes of part of a word, and ERRCNT, follow log 52. -/
def Obligations.HostWritesItsTables : Prop :=
  (∀ s : State, countIgnored s = { s with errcnt := min (s.errcnt + 1) 0xFFFFFFFF }) ∧
  (∀ (s : State) (offset : Nat) (data : Word),
    let i := offset / 256
    let k := offset % 256 / 8
    let j := jobAt s i
    let en := bitAt 63 (vget j.w 0 0)
    let put := fun (x : Word) => ∃ t, exec (.jobTableWrite offset data) s = .next t ∧ vget (jobAt t i).w k 0 = x ∧
      ∀ n, n ≠ k → vget (jobAt t i).w n 0 = vget j.w n 0
    let ignored := exec (.jobTableWrite offset data) s = .next (countIgnored s)
    i < 256 →
    (k = 0 → (bitAt 63 data = true ∧ ∃ y ∈ s.jobs, y.1 ≠ i ∧ bitAt 63 (vget y.2.w 0 0) = true ∧
      fld 0 32 (vget y.2.w 0 0) = fld 0 32 data) → ignored) ∧
    (k = 0 → (bitAt 63 data = false ∨ ∀ y ∈ s.jobs, y.1 ≠ i → bitAt 63 (vget y.2.w 0 0) = true → fld 0 32 (vget y.2.w 0 0) ≠ fld 0 32 data) →
      put (data &&& 0x80000000FFFFFFFF)) ∧
    (en = true → (1 ≤ k ∧ k ≤ 3) ∨ k = 5 ∨ (11 ≤ k ∧ k ≤ 15) → ignored) ∧
    (en = false → (k = 1 → put (data &&& 0x00003FFFFFFF0000)) ∧ (k = 2 → put (data &&& 0x000F3FFFFFFFFFC0)) ∧
      (k = 5 → put (data &&& 0x0000000007FF07FF)) ∧ (k = 11 → put (data &&& 0x0000000000FF8FFF)) ∧
      (k = 12 ∨ k = 14 → put (data &&& 0x00003FFFFFFFFFFF)) ∧ (k = 13 ∨ k = 15 → put data) ∧
      (k = 3 → (∃ n, n < 32 ∧ fldN (2 * n) 2 data = 3) → ignored) ∧
      (k = 3 → (∀ n, n < 32 → fldN (2 * n) 2 data ≠ 3) → put data)) ∧
    (k = 4 → ∃ x, put x ∧ fldN 0 32 x = fldN 0 32 data ∧ fldN 32 32 x = fldN 32 32 (vget j.w 4 0)) ∧
    (6 ≤ k → k ≤ 8 → put (data &&& 0x80000FFFFFFFFFFF) ∧ ∃ t, exec (.jobTableWrite offset data) s = .next t ∧
      vget (jobAt t i).tokens (k - 6) 0 = 256 * (fldN 20 24 data : Int)) ∧
    (k = 9 → (∃ b ∈ s.bindings, b.2.job = fld 0 32 (vget j.w 0 0)) → ignored) ∧
    (k = 9 → (∀ b ∈ s.bindings, b.2.job ≠ fld 0 32 (vget j.w 0 0)) → flowOverlap s i (data &&& 0x0000000001FF00FF) = false →
      put (data &&& 0x0000000001FF00FF)) ∧
    (k = 10 → put (data &&& 0x0000FFFFFFFF0000)) ∧ (16 ≤ k → ignored)) ∧
  (∀ (s : State) (port offset : Nat) (data : Word), offset / 32 < portCount s port →
    let q := portFirst s port + offset / 32
    let k := offset % 32 / 8
    let x := s.queue q
    let i : Instr := .queueTableWrite port offset data
    (k = 0 → bitAt 2 data = true → bitAt 1 data = false → exec i s = .next (countIgnored s)) ∧
    (k = 0 → (bitAt 2 data = false ∨ bitAt 1 data = true) → ∃ t, exec i s = .next t ∧
      (t.queue q).qring = x.qring ∧ (t.queue q).qcaddr = x.qcaddr ∧ (t.queue q).qcv = x.qcv ∧
      (t.queue q).qctl.getLsbD 3 = (x.qctl.getLsbD 3 && !(data.getLsbD 3)) ∧
      (t.queue q).qctl.getLsbD 4 = x.qctl.getLsbD 4 ∧ (t.queue q).qctl.getLsbD 0 = data.getLsbD 0 ∧
      ∀ n, n ≠ 0 → n ≠ 3 → n ≠ 4 → (t.queue q).qctl.getLsbD n =
        if x.en then x.qctl.getLsbD n else (data &&& 0xFFFFFFFF0FFF0F07).getLsbD n) ∧
    (k ≠ 0 → x.en = true → exec i s = .next (countIgnored s)) ∧
    (x.en = false → (k = 1 → ∃ t, exec i s = .next t ∧ (t.queue q).qring = data &&& 0x00003FFFFFFFFFFF) ∧
      (k = 2 → ∃ t, exec i s = .next t ∧ (t.queue q).qcaddr = data) ∧
      (k = 3 → ∃ t, exec i s = .next t ∧ (t.queue q).qcv = data))) ∧
  (∀ (s : State),
    (∀ (chan : Nat) (data : BitVec 256), chan < 4096 →
      (chanEn (s.chan chan).w = true → chanEn data = true → exec (.channelTableWrite chan data) s = .next (countIgnored s)) ∧
      (chanEn (s.chan chan).w = false ∨ chanEn data = false → ∃ t, exec (.channelTableWrite chan data) s = .next t ∧
        (t.chan chan).w = data &&& 0x0000000000000000FFFFFFFFFFFFFFFF0001FFFF000007FF0FFF3F07FFFFFFFF ∧
        ∀ n, n ≠ chan → t.chan n = s.chan n)) ∧
    (∀ (comm : Nat) (data : BitVec 512), comm < 256 →
      (commEn (commWord s comm) = true → commEn data = true → exec (.communicatorTableWrite comm data) s = .next (countIgnored s)) ∧
      (commEn (commWord s comm) = false ∨ commEn data = false → ∃ t, exec (.communicatorTableWrite comm data) s = .next t ∧
        commWord t comm = data &&& commMask ∧ ∀ n, n ≠ comm → commWord t n = commWord s n)) ∧
    (∀ data : Word, let n := fldN 0 18 data
      (n % 1024 = 0 → n ≤ 131072 → (∀ q ∈ s.queues, q.2.en = false) →
        exec (.qsplitWrite data) s = .next { s with qsplit := BitVec.ofNat 64 n }) ∧
      (n % 1024 ≠ 0 ∨ 131072 < n ∨ (∃ q ∈ s.queues, q.2.en = true) → exec (.qsplitWrite data) s = .next (countIgnored s))) ∧
    (∀ (dst : Nat) (data : Word), dst < 2048 → ∃ t, exec (.routeTableWrite dst data) s = .next t ∧
      tabGet 0 t.routes dst = data &&& 0xF0000000000FFFFF ∧ ∀ n, n ≠ dst → tabGet 0 t.routes n = tabGet 0 s.routes n) ∧
    (∀ data : Word, ∃ t, exec (.ridgecfgWrite data) s = .next t ∧ t.ridgecfg = data &&& 0x8000000FFFFFFFFF ∧
      t.routes = s.routes) ∧
    (∀ (port : Nat) (data : List Byte), data.length = 8 → let x : Word := BitVec.ofNat 64 (ofBytes data)
      (∀ j, 8 * j < 0x10000 → exec (.registerWrite port (0x100000 + 8 * j) data) s = exec (.jobTableWrite (8 * j) x) s) ∧
      (∀ j, 8 * j < 0x400000 → exec (.registerWrite port (0x400000 + 8 * j) data) s =
        exec (.queueTableWrite port (8 * j) x) s) ∧
      (port < 2 → ∃ t, exec (.registerWrite port 0x20 data) s = .next t ∧
        vget t.apbase port 0 = x &&& 0xFFE03FF000000000 ∧ vget t.apbase (1 - port) 0 = vget s.apbase (1 - port) 0) ∧
      (port ≠ 2 → ∀ o, o = 0x10 ∨ o = 0x48 →
        exec (.registerWrite port o data) s = .next (countIgnored s)) ∧
      (∀ o ∈ [0x00, 0x08, 0x28, 0x30, 0x38, 0x40, 0x50, 0x6000, 0x110000], exec (.registerWrite port o data) s = .next (countIgnored s)) ∧
      (port = 2 → exec (.registerWrite port 0x10 data) s = .next { s with pkgnum := x &&& 0x7FF }))) ∧
  ∀ (s : State) (port offset : Nat),
    let p := apPlace s port offset
    let inSector := fun (n : Nat) => 0 < n ∧ p.2 / 128 = (p.2 + n - 1) / 128
    (∀ len, 0 < len → apOk s p len = false →
      exec (.apertureRead port offset len) s = .next { s with hostOut := s.hostOut ++ [.abort port] }) ∧
    (∀ len, inSector len → apOk s p len = true → p.1 = s.pkg → s.fwd = [] → s.hostAcc = [] →
      ∃ b, exec (.apertureRead port offset len) s = .next { s with nextId := s.nextId + 1, hostOut := s.hostOut ++
        [.read port ((List.range len).map fun k => memGet s.dram (p.2 + k)) b] } ∧ (b = true ↔ p.2 / 128 ∈ s.dramPoison)) ∧
    (∀ len, inSector len → apOk s p len = true → (∃ a ∈ s.hostAcc, a.port = port) → (∀ a ∈ s.hostAcc, a.tag ≠ s.nextId) →
      ∃ a : HostAcc, exec (.apertureRead port offset len) s = .next { s with nextId := s.nextId + 1, hostAcc := s.hostAcc ++ [a] } ∧
        a.port = port ∧ (a.pkg, a.pa, a.len) = (p.1, p.2, len) ∧ a.data = none ∧ a.sent = false) ∧
    (∀ data, data ≠ [] → apOk s p data.length = false →
      exec (.apertureWrite port offset data) s = .next (countIgnored s)) ∧
    ∀ data, inSector data.length → apOk s p data.length = true → p.1 = s.pkg → s.fwd = [] → s.hostAcc = [] →
      writeHeld s p.2 data.length = false → (∀ x ∈ s.jobs, fldN 16 30 (vget x.2.w 1 0) = 0) →
      ∃ t, exec (.apertureWrite port offset data) s = .next t ∧
        ∀ b, memGet t.dram b = if p.2 ≤ b ∧ b < p.2 + data.length then data.getD (b - p.2) 0 else memGet s.dram b

/-- R261, R365, R367, R370 to R374, R463, R464, R466: a cut page is copied and its mark cleared, one for which
a write waits first, until when no write of any part of the page performs, and then the local-done bell has its arrival; a drain goes
from phase to phase: its header, its data units at the members that hold them, its parity, its header again; a restore rebuilds the
units of a LOST member by XOR, writes image and shadow, and ends with its status; a test slice passes
or retires its core; spares take the place of what is retired; throttling and shutdown; a function-level reset of a
port, and a package reset. Drains, link errors and resets follow log 39, 41, 53; the fault of a part that has shut down is the
model's (log 73), and so is the floor of 13 clock steps (log 83). -/
def Obligations.CheckpointsSparesAndResets : Prop :=
  (∀ (s : State) (i : Nat) (k : Ckpt), tabFind s.ckpts i = some k →
    let job : BitVec 32 := BitVec.ofNat 32 (numAt 0 4 k.ctl)
    (cutNext s k = none ↔ k.pages = []) ∧
    (∀ u, cutNext s k = some u → u ∈ k.pages ∧ ((∃ v ∈ k.pages, cutWanted s v = true) → cutWanted s u = true)) ∧
    (∀ u d, cutNext s k = some u → mayCopyCut s k = true →
      localOf s job (ctlShadow k.ctl + k.rank * ctlW k.ctl + (u.va - ctlLo k.ctl)) = some d →
      (∀ x ∈ homeLeaves (copyFrame (chargeJob s job 2 65536) u.pa d 65536) job, x.2.addr + 8 ≤ d ∨ d + 65536 ≤ x.2.addr) →
      ∃ t, exec (.cutPageCopy i) s = .next t ∧
        tabFind t.ckpts i = some ({ k with pages := k.pages.filter (· != u) } : Ckpt) ∧
        ∀ j, j < 65536 → memGet t.dram (d + j) = memGet s.dram (u.pa + j)) ∧
    (∀ u ∈ k.pages, ∀ a n, u.base < a + n → a < u.base + u.size → writeHeld s a n = true) ∧
    (∀ b, k.pages = [] → k.bell = some b → groupAway s k.group = false → (getBell s (bellLoc k.cluster b)).holder.isSome = true →
      (∀ n, bellLoc k.cluster b ≠ .mesh n) → ∃ t, exec (.cutPageCopy i) s = .next t ∧
        tabFind t.ckpts i = some ({ k with bell := none } : Ckpt) ∧
        let x := arriveBell (getBell s (bellLoc k.cluster b))
        getBell t (bellLoc k.cluster b) = if bellDone x.1 = true then stepPhase x.1 else x.1) ∧
    (k.draining = true → k.pages = [] → exec (.checkpointDrain i) s = .next { s with
      ckpts := tabPut s.ckpts i { k with draining := false, drains := k.drains ++ [newDrain k] } }) ∧
    (∀ d ds, (k.draining = false ∨ k.pages ≠ []) → k.drains = d :: ds → drainMoves s d = true →
      (∃ t k', exec (.checkpointDrain i) s = .next t ∧ tabFind t.ckpts i = some k' ∧
        (4 ≤ d.phase → ∀ x ∈ k'.drains, x.cut ≠ d.cut) ∧
        (d.phase < 4 → ∃ x ∈ k'.drains, x.cut = d.cut ∧
          (d.phase = 0 → d.rank ∉ d.told → x.phase = 0 ∧ x.told = setAdd d.told d.rank ∧
            x.whole = (d.whole || !(slotComplete s d))) ∧
          (d.phase = 0 → d.rank ∈ d.told → x.phase = 1 ∧ x.todo = drainUnits d) ∧
          (∀ u rest, 1 ≤ d.phase → d.phase ≤ 3 → d.todo = u :: rest → x.phase = d.phase ∧ x.todo = rest) ∧
          (d.phase = 1 → d.todo = [] → x.phase = 2 ∧ x.todo = parityStripes d ∧ x.heard = setAdd d.heard d.rank) ∧
          (d.phase = 2 → d.todo = [] → x.phase = 3 ∧ x.todo = dataStripes d) ∧
          (d.phase = 3 → d.todo = [] → x.phase = 4 ∧ x.heard2 = setAdd d.heard2 d.rank))) ∧
      let job := ctlJob d.ctl
      let base := d.rank / ctlG d.ctl * ctlG d.ctl
      let g := min (ctlG d.ctl) (d.n - base)
      let slotOf := fun (rank : Nat) => ctlStore d.ctl + (2 * rank + d.cut % 2) * (65536 * ctlGb d.ctl)
      let unitOf := fun (rank stripe : Nat) => slotOf rank + 65536 * (stripe + 1)
      let writes := fun (c : State) (va : Nat) (bs : List Byte) (P : State → Prop) => ∀ pa, localOf c job va = some pa →
        c.Undisturbed job pa bs → ∃ t, P t ∧ ∀ j, j < bs.length → memGet t.dram (pa + j) = bs.getD j 0
      let runs := fun (t : State) => exec (.checkpointDrain i) s = .next t
      let big := chargeJob s job 2 65536
      let small := chargeJob s job 2 64
      (d.phase = 0 → d.rank ∈ d.told → writes small (slotOf d.rank) (genHeader d.ctl 1 d.cut d.rank d.n) runs) ∧
      (∀ u rest sp, d.phase = 1 → d.todo = u :: rest →
        localOf s job (ctlShadow d.ctl + d.rank * ctlW d.ctl + 65536 * u) = some sp →
        let n := (d.rank - base) * imageUnits d.ctl + u
        let stripe := n / (g - 1)
        let holder := base + (stripe % g + 1 + n % (g - 1)) % g
        writes big (unitOf holder stripe) (memRead s.dram sp 65536) runs ∧
        ∀ l, walkPage big job (unitOf holder stripe) = .ok l → big.Leaves (leafPkg l.e) →
          ∃ t ms, runs t ∧ t.dram = s.dram ∧ t.outbox = s.outbox ++ ms ∧ ms.length = 16 ∧ ∀ (j : Nat) (m : Msg), ms[j]? = some m →
            m.dst = leafPkg l.e ∧ m.kind = 11 ∧ m.job = job ∧ m.payload = memRead s.dram (sp + 4096 * j) 4096 ∧
            m.offset = BitVec.ofNat 64 (leafPkg l.e * 2 ^ 46 + leafAddr l.level l.e (unitOf holder stripe) + 4096 * j)) ∧
      (∀ st rest, d.phase = 2 → d.todo = st :: rest →
        writes big (unitOf d.rank st) (List.replicate 65536 0) runs) ∧
      (∀ st rest own, d.phase = 3 → d.todo = st :: rest → localOf s job (unitOf d.rank st) = some own →
        ∀ pa, localOf big job (unitOf (base + st % g) st) = some pa →
          let bs := xorBytes (memRead s.dram pa 65536) (memRead s.dram own 65536)
          writes big (unitOf (base + st % g) st) bs runs) ∧
      (4 ≤ d.phase → writes small (slotOf d.rank) (genHeader d.ctl 2 d.cut d.rank d.n)
        fun u => runs (ckptRecord u job 2 d.cut (numAt 8 8 d.ctl))))) ∧
  (∀ (c : List Byte) (state cut rank n : Nat), let h := genHeader c state cut rank n
    h.length = 64 ∧ numAt 0 4 h = numAt 0 4 c ∧ numAt 4 4 h = state % 2 ^ 32 ∧ numAt 8 8 h = numAt 8 8 c ∧
    numAt 0x10 8 h = cut % 2 ^ 64 ∧ numAt 0x18 4 h = rank % 2 ^ 32 ∧ numAt 0x1C 4 h = n % 2 ^ 32 ∧ numAt 0x20 1 h = ctlG c ∧
    numAt 0x21 23 h = 0 ∧ numAt 0x38 8 h = (crc64 (h.take 56)).toNat) ∧
  (∀ (r : Restore) (slot stripe m : Nat),
    let base := r.rank / ctlG r.ctl * ctlG r.ctl
    let g := min (ctlG r.ctl) (r.n - base)
    let stored := fun (k j : Nat) => (r.regions.getD (base + k) []).getD (slot * (65536 * ctlGb r.ctl) + 65536 * (stripe + 1) + j) 0
    let holds := fun (k : Nat) => decide (stripe % g = k ∨ ∃ q, q < g - 1 ∧ (stripe % g + 1 + q) % g = k ∧
      stripe * (g - 1) + q < g * imageUnits r.ctl)
    (r.lost slot (base + m) = true ↔ r.key slot (base + m) ≠ r.slotKey slot ∨ r.key slot (base + m) = none) ∧
    (∀ k, r.holds stripe k = holds k) ∧ (r.member slot stripe m).length = 65536 ∧
    (∀ j, j < 65536 → (r.member slot stripe m).getD j 0 = if r.lost slot (base + m) = false then stored m j
      else ((List.range g).filter fun k => k ≠ m ∧ holds k).foldl (fun x k => x ^^^ stored k j) 0) ∧
    ∀ u, let n := (r.rank - base) * imageUnits r.ctl + u
      r.unit slot u = r.member slot (n / (g - 1)) ((n / (g - 1) % g + 1 + n % (g - 1)) % g)) ∧
  (∀ (s : State) (i : Nat) (peers : List (List Byte)), bitAt 63 (vget (jobAt s i).w 0 0) = true →
    let job := fld 0 32 (vget (jobAt s i).w 0 0)
    let ends := fun (t : State) (status : Nat) => exec (.checkpointRestore i peers) s = .next t ∧
      t.hostOut = s.hostOut ++ [.restored job status]
    let place := localOf s job (ofBytes ((peers.headD []).take 8))
    (place = none → ∃ t, ends t 2 ∧ t.dram = s.dram ∧ t.ckpts = s.ckpts) ∧
    ∀ pa, place = some pa →
      let ctl := memRead s.dram pa 64
      let r := restoreOf s job ctl peers
      let missing := ∃ u, u < imageUnits ctl ∧ localOf s job (ctlLo ctl + 65536 * u) = none
      (missing → ∃ t, ends t 2 ∧ t.dram = s.dram ∧ t.ckpts = s.ckpts) ∧
      (¬ missing → r.slot = none → ∃ t, ends t 1 ∧ t.dram = s.dram ∧ t.ckpts = s.ckpts) ∧
      ∀ slot key, ¬ missing → r.slot = some slot → r.slotKey slot = some key → ∃ t, ends t 0 ∧ ∃ k, tabFind t.ckpts i = some k ∧
        k.pages = [] ∧ k.cut = key.2 ∧ k.drains = [] ∧
        let shadow := ctlShadow ctl + r.rank * ctlW ctl
        let clean := fun (s : State) => (homeLeaves s job).foldl (fun s x =>
          if ctlLo ctl ≤ x.1 ∧ x.1 < ctlLo ctl + ctlW ctl then putEntry s x.2.addr (x.2.e &&& ~~~(2 ^ 46 : Word)) else s) s
        let base := r.rank / ctlG ctl * ctlG ctl
        let g := min (ctlG ctl) (r.n - base)
        ∃ (b : State) (marks : Nat → List Nat), b.dram = s.dram ∧
          let own := if r.lost slot r.rank then ((List.range (stripes ctl g)).filter fun st => r.holds st (r.rank - base)).foldl
              (fun s st => writeVa s job (ctlStore ctl + (2 * r.rank + slot) * (65536 * ctlGb ctl) + 65536 * (st + 1))
                (r.member slot st (r.rank - base))) b
            else b
          let image := clean ((List.range (imageUnits ctl)).foldl (fun s u =>
            writeVaMarked (writeVaMarked s job (ctlLo ctl + 65536 * u) (r.unit slot u) (marks u)) job (shadow + 65536 * u)
              (r.unit slot u) (marks u)) own)
          t.dram = (writeVa (partWrite image job (pa + 0x10) (bytesOf 8 key.2)) job
            (ctlStore ctl + (2 * r.rank + (1 - slot)) * (65536 * ctlGb ctl) + 4) (bytesOf 4 0)).dram) ∧
  (∀ (s : State) (core : Nat), mayTest s core = true →
    let on := fun (t : State) => t.ctxs = s.ctxs ∧
      (t.cl (sliceCluster core)).pattern = (s.cl (sliceCluster core)).pattern + 1 ∧
      (t.cl (sliceCluster core)).sliceAt = sliceSlot core + 1 ∧ ∀ n, n ≠ core → t.core n = s.core n
    ((∀ c ∈ s.cores, c.2.queued = false) → (s.core core).queued = false → ∃ k, nextSlice s (sliceCluster core) = some (k, core)) ∧
    (core < 640 → (s.ctx (2 * core)).active = false ∧ (s.ctx (2 * core + 1)).active = false) ∧
    (640 ≤ core → core < 720 ∧ spareLeft s (core - 640) = true) ∧
    (∃ t, exec (.testSlice core true) s = .next t ∧ on t ∧
      t.core core = ({ s.core core with queued := false, lastPass := s.ticks } : Core)) ∧
    ∃ t, exec (.testSlice core false) s = .next t ∧ on t ∧ (t.core core).retired = true ∧ (t.core core).queued = false ∧
      t.spares = s.spares ++ if core < 640 then [] else [(1, sliceCluster core)]) ∧
  (∀ (s : State) (core : Nat), core < 640 → (s.core core).retired = true → coreFree s core = true → (1, core / 8) ∉ s.spares →
    let spare := s.core (640 + core / 8)
    let c := { s.core core with
      retired := false, queued := true, lastPass := spare.lastPass, residue := spare.residue, stopAt := spare.stopAt }
    exec (.coreRemap core) s = .next (if Config.spareCore (core / 8) then
      { s with
        spares := s.spares ++ [(1, core / 8)], cores := tabPut s.cores core c
        errs := (s.errs.filter fun e => e.1 ≠ (1, core)).map fun e => if e.1 = (1, 640 + core / 8) then ((1, core), e.2) else e }
      else s)) ∧
  (∀ (s : State) (cls idx : Nat), (mayRetire s cls idx = false → exec (.spareRemap cls idx) s = .next s) ∧
    (mayRetire s cls idx = true → ∃ t, exec (.spareRemap cls idx) s = .next t ∧
      t.spares = (if wayLeft s cls idx then s.spares ++ [(cls, idx)] else s.spares) ∧
      t.worn = (if wayLeft s cls idx then s.worn else s.worn ++ [(cls, idx)]) ∧ t.ctxs = s.ctxs ∧ t.clusters = s.clusters ∧ t.cores = s.cores) ∧
    (mayRetire s 2 idx = true ↔ (2, idx) ∉ s.spares ∧ (2, idx) ∉ s.worn) ∧
    (wayLeft s 2 idx = true ↔ ∀ x ∈ s.spares, x.1 = 2 → x.2 / 16 ≠ idx / 16)) ∧
  (∀ s : State, let hot := fun (n : Nat) => { s with
      temp := BitVec.ofNat 64 n, throttle := min (s.throttle + 1) 13, status := s.status ||| 0x10000 }
    exec .thermalThrottle s = .next (hot (max 95 (min 104 (fldN 0 8 s.temp)))) ∧
    exec .thermalShutdown s = .next { hot (max 105 (fldN 0 8 s.temp)) with shut := true } ∧
    (s.inbox = [] → step { s with shut := true } = .fault .partShutDown)) ∧
  (∀ (s : State) (port : Nat), port < 2 → ∃ t, exec (.functionLevelReset port) s = .next t ∧
    (∀ q, queuePort s q = port → (t.queue q).en = false) ∧
    (∀ q, queuePort s q ≠ port → (t.queue q).qctl = (s.queue q).qctl) ∧
    (∀ n l, tabFind s.launches n = some l → queuePort s l.queue = port →
      ∃ l', tabFind t.launches n = some l' ∧ l'.aborted = true) ∧
    vget t.apbase port 0 = 0 ∧ vget t.apbase (1 - port) 0 = vget s.apbase (1 - port) 0 ∧
    vget t.msix port [] = [] ∧ (∀ w ∈ t.windows, w.1 / 8 ≠ port)) ∧
  ∀ s : State, ∃ t, exec .packageReset s = .next t ∧ (∀ c, (t.ctx c).active = false) ∧ (∀ q, (t.queue q).en = false) ∧
    (∀ i, bitAt 63 (vget (jobAt t i).w 0 0) = false) ∧ (∀ c, chanEn (t.chan c).w = false) ∧
    (∀ c, commEn (commWord t c) = false) ∧ t.cycle = 0 ∧ t.ticks = 0 ∧ t.qsplit = 65536 ∧ t.pkgnum = 0 ∧ t.ridgecfg = 0 ∧
    t.spares = s.spares ∧ t.worn = s.worn ∧ t.errs = s.errs ∧ t.limits = s.limits ∧ t.throttle = 0 ∧ t.hostAcc = [] ∧ t.status = 0 ∧ configRetry t = true ∧ t.wire = s.wire ∧ t.hostOut = s.hostOut ∧
    (∀ p, ((s.port p).lanes < 8 → (t.port p).lanes = (s.port p).lanes ∧ (t.port p).up = decide (6 ≤ (s.port p).lanes)) ∧
      ((∀ x ∈ s.ports, x.1 = p → 8 ≤ x.2.lanes) → (t.port p).lanes = 8 ∧ (t.port p).up = true)) ∧ ∀ c, (s.core c).retired = true → (t.core c).retired = true

/-- R463, R465: the machine right after reset: CYCLE and TIME are 0, no context holds a task, every job, queue,
channel and communicator entry is clear, no route is valid, the management registers have their values, READY is
clear, and the ports answer with retry status; bring-up then goes to READY, or halts with BOOTERR, and what a host asks before READY is
turned away; and the memories are in canonical form. The values of registers that the spec leaves open at reset are the model's
(log 6, 7, 8, 9). -/
def Obligations.ResetState : Prop :=
  State.reset.memOk = true ∧ State.reset.cycle = 0 ∧ State.reset.ticks = 0 ∧ State.reset.status = 0 ∧ configRetry State.reset = true ∧
  State.reset.pkgnum = 0 ∧ State.reset.qsplit = 65536 ∧ vget State.reset.apbase 0 1 = 0 ∧ vget State.reset.apbase 1 1 = 0 ∧
  State.reset.errcnt = 0 ∧ State.reset.ridgecfg = 0 ∧ State.reset.shut = false ∧
  (∀ c, (State.reset.ctx c).active = false) ∧ (∀ q, (State.reset.queue q).en = false) ∧
  (∀ i n, vget (jobAt State.reset i).w n 0 = 0) ∧ (∀ c, (State.reset.chan c).w = 0) ∧
  (∀ c, commWord State.reset c = 0) ∧ (∀ d, bitAt 63 (tabGet 0 State.reset.routes d) = false) ∧
  (Config.firmwareSigned = true → ∃ a b c d e, step State.reset = .next a ∧ step a = .next b ∧ step b = .next c ∧
    step c = .next d ∧ step d = .next e ∧ configRetry d = true ∧ configRetry e = false ∧ e.status = 1 ∧ e.cycle = 0 ∧
    e.ticks = 0 ∧ e.jobs = [] ∧ e.queues = [] ∧ e.chans = [] ∧ e.comms = []) ∧
  (Config.firmwareSigned = false → ∃ a, step State.reset = .next a ∧ a.status = 2 ∧ step a = .next a) ∧
  ∀ (s : State) (i : Instr) (rest : List Instr), s.shut = false → s.incidents = [] → s.inbox = i :: rest →
    configRetry s = true → beforeReady i = false → step s = .next (match i with
      | .apertureRead port _ _ => { s with inbox := rest, hostOut := s.hostOut ++ [.abort port] }
      | _ => { s with inbox := rest })

/-- Every step keeps every memory of the package in canonical form: DRAM, the record slots, the flow-state store, the Slate of
every cluster (log 6, 7); the images of displaced groups lie in DRAM (log 45). -/
def Obligations.MemoryStaysCanonical : Prop :=
  ∀ s t : State, s.memOk = true → step s = .next t → t.memOk = true
end

