-- ==== Sys2Proof/Laws/Bytes.lean ====
section
/-!
SUPPORT. Bit fields of concatenations, and numbers as bytes (R3): what a field of an encoding reads, and what the byte
helpers give byte by byte.
-/
namespace Sys2Proof

-- Fields.

theorem fld_app_hi {w v : Nat} (x : BitVec w) (y : BitVec v) (lo len : Nat) (h : v ≤ lo) :
    fld lo len (x ++ y) = fld (lo - v) len x := by
  ext j hj
  simp only [fld, BitVec.getElem_extractLsb', BitVec.getLsbD_append]
  rw [if_neg (by omega)]; congr 1; omega

theorem fld_app_lo {w v : Nat} (x : BitVec w) (y : BitVec v) (lo len : Nat) (h : lo + len ≤ v) :
    fld lo len (x ++ y) = fld lo len y := by
  ext j hj
  simp [fld, BitVec.getLsbD_append]
  omega

theorem fld_all {w : Nat} (x : BitVec w) : fld 0 w x = x := by
  ext j hj
  simp [fld]

theorem fld_join {n : Nat} (lo a b : Nat) (x : BitVec n) : fld (lo + b) a x ++ fld lo b x = fld lo (a + b) x := by
  ext j hj
  simp only [fld, BitVec.getElem_append, BitVec.getElem_extractLsb']
  split
  · rfl
  · congr 1; omega

theorem fld_fld {n : Nat} (lo len lo' len' : Nat) (x : BitVec n) (h : lo' + len' ≤ len) :
    fld lo' len' (fld lo len x) = fld (lo + lo') len' x := by
  ext j hj
  simp only [fld, BitVec.getElem_extractLsb', BitVec.getLsbD_extractLsb']
  rw [decide_eq_true (by omega)]; simp; congr 1; omega

theorem bitAt_app_hi {w v : Nat} (x : BitVec w) (y : BitVec v) (i : Nat) (h : v ≤ i) : bitAt i (x ++ y) = bitAt (i - v) x := by
  simp only [bitAt, BitVec.getLsbD_append]
  rw [if_neg (by omega)]

theorem bitAt_app_lo {w v : Nat} (x : BitVec w) (y : BitVec v) (i : Nat) (h : i < v) : bitAt i (x ++ y) = bitAt i y := by
  simp only [bitAt, BitVec.getLsbD_append]
  rw [if_pos h]

/-- A register number of six bits from its header bit and its word field (R61). -/
theorem join_reg (x : BitVec 6) : (fld 5 1 x ++ fld 0 5 x : BitVec 6) = x := (fld_join 0 1 5 x).trans (fld_all x)

-- Bytes.

@[simp] theorem bytesOf_length (n x : Nat) : (bytesOf n x).length = n := by
  induction n generalizing x with
  | zero => rfl
  | succ n ih => simp [bytesOf, ih]

theorem bytesOf_getD (n x i : Nat) (h : i < n) : (bytesOf n x).getD i 0 = BitVec.ofNat 8 (x / 256 ^ i) := by
  induction n generalizing x i with
  | zero => omega
  | succ n ih =>
    cases i with
    | zero => simp [bytesOf]
    | succ i =>
      simp only [bytesOf, List.getD_cons_succ]
      rw [ih _ _ (by omega), Nat.div_div_eq_div_mul, pow_succ, mul_comm]

theorem ofBytes_lt (l : List Byte) : ofBytes l < 256 ^ l.length := by
  induction l with
  | nil => simp [ofBytes]
  | cons b r ih =>
    have := b.isLt
    simp only [ofBytes, List.length_cons, pow_succ]
    omega

/-- Byte i of the number that bytes hold. -/
theorem ofBytes_div (l : List Byte) (i : Nat) (h : i < l.length) : ofBytes l / 256 ^ i % 256 = (l.getD i 0).toNat := by
  induction l generalizing i with
  | nil => simp at h
  | cons b r ih =>
    have hb := b.isLt
    cases i with
    | zero => simp [ofBytes]; omega
    | succ i =>
      simp only [ofBytes, List.getD_cons_succ]
      rw [pow_succ, mul_comm (256 ^ i), ← Nat.div_div_eq_div_mul, show (b.toNat + 256 * ofBytes r) / 256 = ofBytes r by omega]
      exact ih i (by simpa using h)

theorem ofBytes_bytesOf (n x : Nat) : ofBytes (bytesOf n x) = x % 256 ^ n := by
  induction n generalizing x with
  | zero => simp [bytesOf, ofBytes, Nat.mod_one]
  | succ n ih =>
    simp only [bytesOf, ofBytes, ih, BitVec.toNat_ofNat]
    rw [show (256 : Nat) ^ (n + 1) = 256 * 256 ^ n from pow_succ' 256 n, Nat.mod_mul]

end Sys2Proof
end

