-- ==== Sys2Proof/Laws/PerInstr.lean ====
section
/-!
SUPPORT. What holds of every instruction as syntax: the encoder leaves the loop-edge flags of a slot's header group clear
(F = L = 0), since they belong to the place of a slot in its loop and not to the instruction (R61).
-/
namespace Sys2Proof.Laws.EncoderFlags

/-- The loop-edge flags of an encoding are clear. -/
def flagsClear : Enc → Bool
  | .slot _ g => fld 7 2 g == 0
  | .purlin _ => true

def Statement (i : Instr) : Prop := ∀ e, encode i = some e → flagsClear e = true

theorem encG_flags (x1 x2 : BitVec 1) (imx : BitVec 5) : (fld 7 2 (encG x1 x2 imx) == 0) = true := by
  simp only [fld, encG, beq_iff_eq]
  revert x1 x2 imx
  decide

theorem flags_of_encG (w : BitVec 32) (x1 x2 : BitVec 1) (imx : BitVec 5) (e : Enc) (h : e = .slot w (encG x1 x2 imx)) :
    flagsClear e = true := by subst h; exact encG_flags x1 x2 imx

theorem flags_of_zero (w : BitVec 32) (e : Enc) (h : e = .slot w 0) : flagsClear e = true := by subst h; rfl
theorem flags_of_purlin (w : BitVec 32) (e : Enc) (h : e = .purlin w) : flagsClear e = true := by subst h; rfl
theorem of_some {i : Instr} (e : Enc) (h : encode i = some e) (hf : flagsClear e = true) : Statement i := by
  intro e' h'; rw [h] at h'; cases h'; exact hf
theorem of_none {i : Instr} (h : encode i = none) : Statement i := by intro e h'; rw [h] at h'; cases h'

theorem add x0 x1 x2 x3 : Statement (.add x0 x1 x2 x3) := of_some _ rfl (flags_of_encG _ _ _ _ _ rfl)
theorem addi x0 x1 x2 x3 : Statement (.addi x0 x1 x2 x3) := of_some _ rfl (flags_of_encG _ _ _ _ _ rfl)
theorem sub x0 x1 x2 x3 : Statement (.sub x0 x1 x2 x3) := of_some _ rfl (flags_of_encG _ _ _ _ _ rfl)
theorem mul x0 x1 x2 x3 : Statement (.mul x0 x1 x2 x3) := of_some _ rfl (flags_of_encG _ _ _ _ _ rfl)
theorem mulhs x0 x1 x2 x3 : Statement (.mulhs x0 x1 x2 x3) := of_some _ rfl (flags_of_encG _ _ _ _ _ rfl)
theorem mulhz x0 x1 x2 x3 : Statement (.mulhz x0 x1 x2 x3) := of_some _ rfl (flags_of_encG _ _ _ _ _ rfl)
theorem divs x0 x1 x2 x3 : Statement (.divs x0 x1 x2 x3) := of_some _ rfl (flags_of_encG _ _ _ _ _ rfl)
theorem divz x0 x1 x2 x3 : Statement (.divz x0 x1 x2 x3) := of_some _ rfl (flags_of_encG _ _ _ _ _ rfl)
theorem rems x0 x1 x2 x3 : Statement (.rems x0 x1 x2 x3) := of_some _ rfl (flags_of_encG _ _ _ _ _ rfl)
theorem remz x0 x1 x2 x3 : Statement (.remz x0 x1 x2 x3) := of_some _ rfl (flags_of_encG _ _ _ _ _ rfl)
theorem and x0 x1 x2 x3 : Statement (.and x0 x1 x2 x3) := of_some _ rfl (flags_of_encG _ _ _ _ _ rfl)
theorem or x0 x1 x2 x3 : Statement (.or x0 x1 x2 x3) := of_some _ rfl (flags_of_encG _ _ _ _ _ rfl)
theorem xor x0 x1 x2 x3 : Statement (.xor x0 x1 x2 x3) := of_some _ rfl (flags_of_encG _ _ _ _ _ rfl)
theorem andn x0 x1 x2 x3 : Statement (.andn x0 x1 x2 x3) := of_some _ rfl (flags_of_encG _ _ _ _ _ rfl)
theorem shl x0 x1 x2 x3 : Statement (.shl x0 x1 x2 x3) := of_some _ rfl (flags_of_encG _ _ _ _ _ rfl)
theorem shrs x0 x1 x2 x3 : Statement (.shrs x0 x1 x2 x3) := of_some _ rfl (flags_of_encG _ _ _ _ _ rfl)
theorem shrz x0 x1 x2 x3 : Statement (.shrz x0 x1 x2 x3) := of_some _ rfl (flags_of_encG _ _ _ _ _ rfl)
theorem rotl x0 x1 x2 x3 : Statement (.rotl x0 x1 x2 x3) := of_some _ rfl (flags_of_encG _ _ _ _ _ rfl)
theorem mins x0 x1 x2 x3 : Statement (.mins x0 x1 x2 x3) := of_some _ rfl (flags_of_encG _ _ _ _ _ rfl)
theorem minz x0 x1 x2 x3 : Statement (.minz x0 x1 x2 x3) := of_some _ rfl (flags_of_encG _ _ _ _ _ rfl)
theorem maxs x0 x1 x2 x3 : Statement (.maxs x0 x1 x2 x3) := of_some _ rfl (flags_of_encG _ _ _ _ _ rfl)
theorem maxz x0 x1 x2 x3 : Statement (.maxz x0 x1 x2 x3) := of_some _ rfl (flags_of_encG _ _ _ _ _ rfl)
theorem clz x0 x1 x2 : Statement (.clz x0 x1 x2) := of_some _ rfl (flags_of_encG _ _ _ _ _ rfl)
theorem ctz x0 x1 x2 : Statement (.ctz x0 x1 x2) := of_some _ rfl (flags_of_encG _ _ _ _ _ rfl)
theorem popc x0 x1 x2 : Statement (.popc x0 x1 x2) := of_some _ rfl (flags_of_encG _ _ _ _ _ rfl)
theorem bfx x0 x1 x2 x3 x4 : Statement (.bfx x0 x1 x2 x3 x4) := of_some _ rfl (flags_of_encG _ _ _ _ _ rfl)
theorem bfi x0 x1 x2 x3 : Statement (.bfi x0 x1 x2 x3) := of_some _ rfl (flags_of_encG _ _ _ _ _ rfl)
theorem mov x0 x1 x2 : Statement (.mov x0 x1 x2) := of_some _ rfl (flags_of_encG _ _ _ _ _ rfl)
theorem movi x0 x1 x2 : Statement (.movi x0 x1 x2) := of_some _ rfl (flags_of_encG _ _ _ _ _ rfl)
theorem movhi x0 x1 x2 x3 : Statement (.movhi x0 x1 x2 x3) := of_some _ rfl (flags_of_encG _ _ _ _ _ rfl)
theorem sel x0 x1 x2 x3 x4 : Statement (.sel x0 x1 x2 x3 x4) := of_some _ rfl (flags_of_encG _ _ _ _ _ rfl)
theorem cmp x0 x1 x2 x3 x4 : Statement (.cmp x0 x1 x2 x3 x4) := of_some _ rfl (flags_of_encG _ _ _ _ _ rfl)
theorem cand x0 x1 x2 x3 : Statement (.cand x0 x1 x2 x3) := of_some _ rfl (flags_of_zero _ _ rfl)
theorem cor x0 x1 x2 x3 : Statement (.cor x0 x1 x2 x3) := of_some _ rfl (flags_of_zero _ _ rfl)
theorem cxor x0 x1 x2 x3 : Statement (.cxor x0 x1 x2 x3) := of_some _ rfl (flags_of_zero _ _ rfl)
theorem lea x0 x1 x2 x3 x4 : Statement (.lea x0 x1 x2 x3 x4) := of_some _ rfl (flags_of_encG _ _ _ _ _ rfl)
theorem tidx x0 x1 x2 x3 x4 : Statement (.tidx x0 x1 x2 x3 x4) := of_some _ rfl (flags_of_encG _ _ _ _ _ rfl)
theorem lds x0 x1 x2 x3 x4 x5 x6 : Statement (.lds x0 x1 x2 x3 x4 x5 x6) := of_some _ rfl (flags_of_encG _ _ _ _ _ rfl)
theorem sts x0 x1 x2 x3 x4 : Statement (.sts x0 x1 x2 x3 x4) := of_some _ rfl (flags_of_encG _ _ _ _ _ rfl)
theorem amos x0 x1 x2 x3 x4 : Statement (.amos x0 x1 x2 x3 x4) := of_some _ rfl (flags_of_encG _ _ _ _ _ rfl)
theorem stg x0 x1 x2 : Statement (.stg x0 x1 x2) := of_some _ rfl (flags_of_encG _ _ _ _ _ rfl)
theorem crd x0 x1 x2 : Statement (.crd x0 x1 x2) := of_some _ rfl (flags_of_encG _ _ _ _ _ rfl)
theorem cwr x0 x1 x2 : Statement (.cwr x0 x1 x2) := of_some _ rfl (flags_of_encG _ _ _ _ _ rfl)
theorem fadd x0 x1 x2 x3 x4 : Statement (.fadd x0 x1 x2 x3 x4) := of_some _ rfl (flags_of_encG _ _ _ _ _ rfl)
theorem fmul x0 x1 x2 x3 : Statement (.fmul x0 x1 x2 x3) := of_some _ rfl (flags_of_encG _ _ _ _ _ rfl)
theorem ffma x0 x1 x2 x3 x4 : Statement (.ffma x0 x1 x2 x3 x4) := of_some _ rfl (flags_of_encG _ _ _ _ _ rfl)
theorem fcmp x0 x1 x2 x3 x4 : Statement (.fcmp x0 x1 x2 x3 x4) := of_some _ rfl (flags_of_encG _ _ _ _ _ rfl)
theorem fcvt x0 x1 x2 x3 : Statement (.fcvt x0 x1 x2 x3) := of_some _ rfl (flags_of_encG _ _ _ _ _ rfl)
theorem br x0 x1 x2 : Statement (.br x0 x1 x2) := of_some _ rfl (flags_of_encG _ _ _ _ _ rfl)
theorem jmp x0 : Statement (.jmp x0) := of_some _ rfl (flags_of_encG _ _ _ _ _ rfl)
theorem jmpr x0 x1 x2 : Statement (.jmpr x0 x1 x2) := of_some _ rfl (flags_of_encG _ _ _ _ _ rfl)
theorem call x0 : Statement (.call x0) := of_some _ rfl (flags_of_encG _ _ _ _ _ rfl)
theorem ret x0 x1 : Statement (.ret x0 x1) := of_some _ rfl (flags_of_encG _ _ _ _ _ rfl)
theorem loop x0 x1 : Statement (.loop x0 x1) := of_some _ rfl (flags_of_encG _ _ _ _ _ rfl)
theorem arm x0 x1 x2 x3 : Statement (.arm x0 x1 x2 x3) := of_some _ rfl (flags_of_encG _ _ _ _ _ rfl)
theorem arrive x0 x1 x2 : Statement (.arrive x0 x1 x2) := of_some _ rfl (flags_of_encG _ _ _ _ _ rfl)
theorem wait x0 x1 x2 : Statement (.wait x0 x1 x2) := of_some _ rfl (flags_of_encG _ _ _ _ _ rfl)
theorem trap x0 : Statement (.trap x0) := of_some _ rfl (flags_of_encG _ _ _ _ _ rfl)
theorem seg x0 : Statement (.seg x0) := of_some _ rfl (flags_of_encG _ _ _ _ _ rfl)
theorem cropen x0 : Statement (.cropen x0) := of_some _ rfl (flags_of_encG _ _ _ _ _ rfl)
theorem boundedResultLands x0 x1 : Statement (.boundedResultLands x0 x1) := of_none rfl
theorem scoreboardedResultCompletes x0 x1 : Statement (.scoreboardedResultCompletes x0 x1) := of_none rfl
theorem pendingTrapTaken x0 : Statement (.pendingTrapTaken x0) := of_none rfl
theorem taskExited x0 : Statement (.taskExited x0) := of_none rfl
theorem debugHalt x0 : Statement (.debugHalt x0) := of_none rfl
theorem vadd x0 x1 x2 x3 x4 x5 : Statement (.vadd x0 x1 x2 x3 x4 x5) := of_some _ rfl (flags_of_zero _ _ rfl)
theorem vsub x0 x1 x2 x3 x4 x5 : Statement (.vsub x0 x1 x2 x3 x4 x5) := of_some _ rfl (flags_of_zero _ _ rfl)
theorem vmul x0 x1 x2 x3 x4 x5 : Statement (.vmul x0 x1 x2 x3 x4 x5) := of_some _ rfl (flags_of_zero _ _ rfl)
theorem vfma x0 x1 x2 x3 x4 x5 : Statement (.vfma x0 x1 x2 x3 x4 x5) := of_some _ rfl (flags_of_zero _ _ rfl)
theorem vfms x0 x1 x2 x3 x4 x5 : Statement (.vfms x0 x1 x2 x3 x4 x5) := of_some _ rfl (flags_of_zero _ _ rfl)
theorem vmin x0 x1 x2 x3 x4 x5 : Statement (.vmin x0 x1 x2 x3 x4 x5) := of_some _ rfl (flags_of_zero _ _ rfl)
theorem vmax x0 x1 x2 x3 x4 x5 : Statement (.vmax x0 x1 x2 x3 x4 x5) := of_some _ rfl (flags_of_zero _ _ rfl)
theorem vabs x0 x1 x2 x3 x4 : Statement (.vabs x0 x1 x2 x3 x4) := of_some _ rfl (flags_of_zero _ _ rfl)
theorem vneg x0 x1 x2 x3 x4 : Statement (.vneg x0 x1 x2 x3 x4) := of_some _ rfl (flags_of_zero _ _ rfl)
theorem vclamp x0 x1 x2 x3 x4 x5 : Statement (.vclamp x0 x1 x2 x3 x4 x5) := of_some _ rfl (flags_of_zero _ _ rfl)
theorem vfn x0 x1 x2 x3 x4 x5 : Statement (.vfn x0 x1 x2 x3 x4 x5) := of_some _ rfl (flags_of_zero _ _ rfl)
theorem vcmp x0 x1 x2 x3 x4 : Statement (.vcmp x0 x1 x2 x3 x4) := of_some _ rfl (flags_of_zero _ _ rfl)
theorem vsel x0 x1 x2 x3 : Statement (.vsel x0 x1 x2 x3) := of_some _ rfl (flags_of_zero _ _ rfl)
theorem kand x0 x1 x2 : Statement (.kand x0 x1 x2) := of_some _ rfl (flags_of_zero _ _ rfl)
theorem kor x0 x1 x2 : Statement (.kor x0 x1 x2) := of_some _ rfl (flags_of_zero _ _ rfl)
theorem knot x0 x1 : Statement (.knot x0 x1) := of_some _ rfl (flags_of_zero _ _ rfl)
theorem vand x0 x1 x2 x3 x4 x5 : Statement (.vand x0 x1 x2 x3 x4 x5) := of_some _ rfl (flags_of_zero _ _ rfl)
theorem vor x0 x1 x2 x3 x4 x5 : Statement (.vor x0 x1 x2 x3 x4 x5) := of_some _ rfl (flags_of_zero _ _ rfl)
theorem vxor x0 x1 x2 x3 x4 x5 : Statement (.vxor x0 x1 x2 x3 x4 x5) := of_some _ rfl (flags_of_zero _ _ rfl)
theorem vshl x0 x1 x2 x3 x4 x5 : Statement (.vshl x0 x1 x2 x3 x4 x5) := of_some _ rfl (flags_of_zero _ _ rfl)
theorem vshr x0 x1 x2 x3 x4 x5 : Statement (.vshr x0 x1 x2 x3 x4 x5) := of_some _ rfl (flags_of_zero _ _ rfl)
theorem viadd x0 x1 x2 x3 x4 x5 : Statement (.viadd x0 x1 x2 x3 x4 x5) := of_some _ rfl (flags_of_zero _ _ rfl)
theorem vimul x0 x1 x2 x3 x4 x5 : Statement (.vimul x0 x1 x2 x3 x4 x5) := of_some _ rfl (flags_of_zero _ _ rfl)
theorem vcvt x0 x1 x2 x3 x4 x5 x6 : Statement (.vcvt x0 x1 x2 x3 x4 x5 x6) := of_some _ rfl (flags_of_zero _ _ rfl)
theorem vqnt x0 x1 x2 x3 : Statement (.vqnt x0 x1 x2 x3) := of_some _ rfl (flags_of_zero _ _ rfl)
theorem vdq x0 x1 x2 x3 x4 : Statement (.vdq x0 x1 x2 x3 x4) := of_some _ rfl (flags_of_zero _ _ rfl)
theorem vscr x0 x1 x2 x3 x4 x5 : Statement (.vscr x0 x1 x2 x3 x4 x5) := of_some _ rfl (flags_of_zero _ _ rfl)
theorem vscc x0 x1 x2 x3 x4 x5 : Statement (.vscc x0 x1 x2 x3 x4 x5) := of_some _ rfl (flags_of_zero _ _ rfl)
theorem vbias x0 x1 x2 x3 x4 x5 : Statement (.vbias x0 x1 x2 x3 x4 x5) := of_some _ rfl (flags_of_zero _ _ rfl)
theorem vbcr x0 x1 x2 x3 : Statement (.vbcr x0 x1 x2 x3) := of_some _ rfl (flags_of_zero _ _ rfl)
theorem vbcc x0 x1 x2 x3 : Statement (.vbcc x0 x1 x2 x3) := of_some _ rfl (flags_of_zero _ _ rfl)
theorem vrotr x0 x1 x2 x3 : Statement (.vrotr x0 x1 x2 x3) := of_some _ rfl (flags_of_zero _ _ rfl)
theorem vrotc x0 x1 x2 x3 : Statement (.vrotc x0 x1 x2 x3) := of_some _ rfl (flags_of_zero _ _ rfl)
theorem vredr x0 x1 x2 x3 : Statement (.vredr x0 x1 x2 x3) := of_some _ rfl (flags_of_zero _ _ rfl)
theorem vredc x0 x1 x2 x3 : Statement (.vredc x0 x1 x2 x3) := of_some _ rfl (flags_of_zero _ _ rfl)
theorem vshuf x0 x1 x2 x3 x4 x5 : Statement (.vshuf x0 x1 x2 x3 x4 x5) := of_some _ rfl (flags_of_zero _ _ rfl)
theorem vshfr x0 x1 x2 x3 x4 x5 : Statement (.vshfr x0 x1 x2 x3 x4 x5) := of_some _ rfl (flags_of_zero _ _ rfl)
theorem vhaar x0 x1 x2 x3 x4 : Statement (.vhaar x0 x1 x2 x3 x4) := of_some _ rfl (flags_of_zero _ _ rfl)
theorem vihaar x0 x1 : Statement (.vihaar x0 x1) := of_some _ rfl (flags_of_zero _ _ rfl)
theorem vthr x0 x1 x2 : Statement (.vthr x0 x1 x2) := of_some _ rfl (flags_of_zero _ _ rfl)
theorem vtag x0 x1 x2 : Statement (.vtag x0 x1 x2) := of_some _ rfl (flags_of_zero _ _ rfl)
theorem vmov x0 x1 x2 x3 : Statement (.vmov x0 x1 x2 x3) := of_some _ rfl (flags_of_zero _ _ rfl)
theorem vsplat x0 x1 x2 x3 x4 : Statement (.vsplat x0 x1 x2 x3 x4) := of_some _ rfl (flags_of_encG _ _ _ _ _ rfl)
theorem viota x0 x1 x2 : Statement (.viota x0 x1 x2) := of_some _ rfl (flags_of_zero _ _ rfl)
theorem vins x0 x1 x2 x3 : Statement (.vins x0 x1 x2 x3) := of_some _ rfl (flags_of_encG _ _ _ _ _ rfl)
theorem vext x0 x1 x2 x3 : Statement (.vext x0 x1 x2 x3) := of_some _ rfl (flags_of_encG _ _ _ _ _ rfl)
theorem vld x0 x1 x2 x3 x4 x5 : Statement (.vld x0 x1 x2 x3 x4 x5) := of_some _ rfl (flags_of_encG _ _ _ _ _ rfl)
theorem vst x0 x1 x2 x3 x4 : Statement (.vst x0 x1 x2 x3 x4) := of_some _ rfl (flags_of_encG _ _ _ _ _ rfl)
theorem vldt x0 x1 x2 : Statement (.vldt x0 x1 x2) := of_some _ rfl (flags_of_encG _ _ _ _ _ rfl)
theorem vstt x0 x1 x2 x3 : Statement (.vstt x0 x1 x2 x3) := of_some _ rfl (flags_of_encG _ _ _ _ _ rfl)
theorem vpush x0 x1 x2 x3 : Statement (.vpush x0 x1 x2 x3) := of_some _ rfl (flags_of_encG _ _ _ _ _ rfl)
theorem vpop x0 x1 x2 x3 : Statement (.vpop x0 x1 x2 x3) := of_some _ rfl (flags_of_encG _ _ _ _ _ rfl)
theorem vflags x0 x1 : Statement (.vflags x0 x1) := of_some _ rfl (flags_of_encG _ _ _ _ _ rfl)
theorem mma x0 x1 x2 x3 x4 x5 : Statement (.mma x0 x1 x2 x3 x4 x5) := of_some _ rfl (flags_of_encG _ _ _ _ _ rfl)
theorem mmas x0 x1 x2 x3 x4 : Statement (.mmas x0 x1 x2 x3 x4) := of_some _ rfl (flags_of_encG _ _ _ _ _ rfl)
theorem mmat x0 x1 x2 x3 x4 x5 : Statement (.mmat x0 x1 x2 x3 x4 x5) := of_some _ rfl (flags_of_encG _ _ _ _ _ rfl)
theorem mmah x0 x1 x2 x3 x4 x5 : Statement (.mmah x0 x1 x2 x3 x4 x5) := of_some _ rfl (flags_of_encG _ _ _ _ _ rfl)
theorem mldb x0 x1 x2 x3 : Statement (.mldb x0 x1 x2 x3) := of_some _ rfl (flags_of_encG _ _ _ _ _ rfl)
theorem mclr x0 x1 x2 : Statement (.mclr x0 x1 x2) := of_some _ rfl (flags_of_encG _ _ _ _ _ rfl)
theorem macc x0 x1 x2 : Statement (.macc x0 x1 x2) := of_some _ rfl (flags_of_encG _ _ _ _ _ rfl)
theorem mcfg x0 x1 : Statement (.mcfg x0 x1) := of_some _ rfl (flags_of_encG _ _ _ _ _ rfl)
theorem mdrn x0 x1 x2 x3 x4 : Statement (.mdrn x0 x1 x2 x3 x4) := of_some _ rfl (flags_of_encG _ _ _ _ _ rfl)
theorem mdrns x0 x1 x2 x3 x4 x5 : Statement (.mdrns x0 x1 x2 x3 x4 x5) := of_some _ rfl (flags_of_encG _ _ _ _ _ rfl)
theorem mrep x0 x1 : Statement (.mrep x0 x1) := of_some _ rfl (flags_of_zero _ _ rfl)
theorem matrixInstructionBegins x0 x1 : Statement (.matrixInstructionBegins x0 x1) := of_none rfl
theorem matrixPass x0 x1 x2 : Statement (.matrixPass x0 x1 x2) := of_none rfl
theorem matrixOperationCompletes x0 x1 : Statement (.matrixOperationCompletes x0 x1) := of_none rfl
theorem mcfgApplied x0 : Statement (.mcfgApplied x0) := of_none rfl
theorem cpy x0 x1 x2 x3 x4 : Statement (.cpy x0 x1 x2 x3 x4) := of_some _ rfl (flags_of_zero _ _ rfl)
theorem cpys x0 x1 x2 x3 x4 : Statement (.cpys x0 x1 x2 x3 x4) := of_some _ rfl (flags_of_zero _ _ rfl)
theorem tbind x0 x1 x2 x3 : Statement (.tbind x0 x1 x2 x3) := of_some _ rfl (flags_of_zero _ _ rfl)
theorem tcpy x0 x1 x2 x3 x4 x5 : Statement (.tcpy x0 x1 x2 x3 x4 x5) := of_some _ rfl (flags_of_zero _ _ rfl)
theorem gath x0 x1 x2 x3 : Statement (.gath x0 x1 x2 x3) := of_some _ rfl (flags_of_zero _ _ rfl)
theorem scat x0 x1 x2 x3 : Statement (.scat x0 x1 x2 x3) := of_some _ rfl (flags_of_zero _ _ rfl)
theorem ramo x0 x1 x2 x3 x4 : Statement (.ramo x0 x1 x2 x3 x4) := of_some _ rfl (flags_of_zero _ _ rfl)
theorem pfch x0 x1 x2 x3 : Statement (.pfch x0 x1 x2 x3) := of_some _ rfl (flags_of_zero _ _ rfl)
theorem migr x0 x1 x2 : Statement (.migr x0 x1 x2) := of_some _ rfl (flags_of_zero _ _ rfl)
theorem fence x0 x1 x2 : Statement (.fence x0 x1 x2) := of_some _ rfl (flags_of_zero _ _ rfl)
theorem rel x0 x1 x2 : Statement (.rel x0 x1 x2) := of_some _ rfl (flags_of_zero _ _ rfl)
theorem tlbi x0 : Statement (.tlbi x0) := of_some _ rfl (flags_of_zero _ _ rfl)
theorem chsnd x0 x1 x2 : Statement (.chsnd x0 x1 x2) := of_some _ rfl (flags_of_zero _ _ rfl)
theorem chrcv x0 x1 x2 : Statement (.chrcv x0 x1 x2) := of_some _ rfl (flags_of_zero _ _ rfl)
theorem coll x0 x1 x2 x3 x4 x5 : Statement (.coll x0 x1 x2 x3 x4 x5) := of_some _ rfl (flags_of_zero _ _ rfl)
theorem rshd x0 x1 x2 x3 : Statement (.rshd x0 x1 x2 x3) := of_some _ rfl (flags_of_zero _ _ rfl)
theorem ckcut x0 x1 x2 : Statement (.ckcut x0 x1 x2) := of_some _ rfl (flags_of_zero _ _ rfl)
theorem qpush x0 x1 x2 x3 : Statement (.qpush x0 x1 x2 x3) := of_some _ rfl (flags_of_zero _ _ rfl)
theorem sete x0 x1 x2 : Statement (.sete x0 x1 x2) := of_some _ rfl (flags_of_zero _ _ rfl)
theorem bmode x0 x1 x2 x3 : Statement (.bmode x0 x1 x2 x3) := of_some _ rfl (flags_of_zero _ _ rfl)
theorem copyCommandBegins x0 : Statement (.copyCommandBegins x0) := of_none rfl
theorem copySectorTransfer x0 : Statement (.copySectorTransfer x0) := of_none rfl
theorem copyCommandCompletes x0 : Statement (.copyCommandCompletes x0) := of_none rfl
theorem bmodeBegins x0 : Statement (.bmodeBegins x0) := of_none rfl
theorem clusterCacheEviction x0 x1 x2 : Statement (.clusterCacheEviction x0 x1 x2) := of_none rfl
theorem translationWalk x0 x1 : Statement (.translationWalk x0 x1) := of_none rfl
theorem launchRecordSubmit x0 x1 x2 : Statement (.launchRecordSubmit x0 x1 x2) := of_none rfl
theorem headRecordCheck x0 : Statement (.headRecordCheck x0) := of_none rfl
theorem groupPlacement x0 x1 : Statement (.groupPlacement x0 x1) := of_none rfl
theorem recordReserving x0 : Statement (.recordReserving x0) := of_none rfl
theorem tileRecordConsumed x0 : Statement (.tileRecordConsumed x0) := of_none rfl
theorem launchCompletes x0 : Statement (.launchCompletes x0) := of_none rfl
theorem preemptionRequest x0 : Statement (.preemptionRequest x0) := of_none rfl
theorem preemptionTaken x0 : Statement (.preemptionTaken x0) := of_none rfl
theorem taskOut x0 : Statement (.taskOut x0) := of_none rfl
theorem stubOverrun x0 : Statement (.stubOverrun x0) := of_none rfl
theorem contextRestore x0 x1 : Statement (.contextRestore x0 x1) := of_none rfl
theorem groupDisplacement x0 : Statement (.groupDisplacement x0) := of_none rfl
theorem replicationVote x0 : Statement (.replicationVote x0) := of_none rfl
theorem displace x0 : Statement (.displace x0) := of_none rfl
theorem resume x0 : Statement (.resume x0) := of_none rfl
theorem abort x0 : Statement (.abort x0) := of_none rfl
theorem map x0 : Statement (.map x0) := of_none rfl
theorem unmap x0 : Statement (.unmap x0) := of_none rfl
theorem protect x0 : Statement (.protect x0) := of_none rfl
theorem inval x0 : Statement (.inval x0) := of_none rfl
theorem unfwd x0 : Statement (.unfwd x0) := of_none rfl
theorem migrationPage x0 : Statement (.migrationPage x0) := of_none rfl
theorem migrationPageLands x0 : Statement (.migrationPageLands x0) := of_none rfl
theorem faultReplyRestart x0 : Statement (.faultReplyRestart x0) := of_none rfl
theorem faultReplyCancel x0 : Statement (.faultReplyCancel x0) := of_none rfl
theorem faultRingRecordEnters x0 : Statement (.faultRingRecordEnters x0) := of_none rfl
theorem collectiveDoneSend x0 : Statement (.collectiveDoneSend x0) := of_none rfl
theorem flitCrcError x0 x1 : Statement (.flitCrcError x0 x1) := of_none rfl
theorem linkDown x0 : Statement (.linkDown x0) := of_none rfl
theorem laneRetire x0 : Statement (.laneRetire x0) := of_none rfl
theorem collectiveChunkStart x0 : Statement (.collectiveChunkStart x0) := of_none rfl
theorem collectiveChunkEnd x0 : Statement (.collectiveChunkEnd x0) := of_none rfl
theorem reshardStepBegins x0 : Statement (.reshardStepBegins x0) := of_none rfl
theorem regulatedRequestBegins x0 x1 x2 : Statement (.regulatedRequestBegins x0 x1 x2) := of_none rfl
theorem purlinKernelRun x0 x1 : Statement (.purlinKernelRun x0 x1) := of_none rfl
theorem purlinWatchdog x0 : Statement (.purlinWatchdog x0) := of_none rfl
theorem load x0 : Statement (.load x0) := of_none rfl
theorem unload x0 : Statement (.unload x0) := of_none rfl
theorem bind x0 : Statement (.bind x0) := of_none rfl
theorem unbind x0 : Statement (.unbind x0) := of_none rfl
theorem unbindCompletes x0 : Statement (.unbindCompletes x0) := of_none rfl
theorem padd x0 x1 x2 : Statement (.padd x0 x1 x2) := of_some _ rfl (flags_of_purlin _ _ rfl)
theorem psub x0 x1 x2 : Statement (.psub x0 x1 x2) := of_some _ rfl (flags_of_purlin _ _ rfl)
theorem pand x0 x1 x2 : Statement (.pand x0 x1 x2) := of_some _ rfl (flags_of_purlin _ _ rfl)
theorem por x0 x1 x2 : Statement (.por x0 x1 x2) := of_some _ rfl (flags_of_purlin _ _ rfl)
theorem pxor x0 x1 x2 : Statement (.pxor x0 x1 x2) := of_some _ rfl (flags_of_purlin _ _ rfl)
theorem pshl x0 x1 x2 : Statement (.pshl x0 x1 x2) := of_some _ rfl (flags_of_purlin _ _ rfl)
theorem pshr x0 x1 x2 x3 : Statement (.pshr x0 x1 x2 x3) := of_some _ rfl (flags_of_purlin _ _ rfl)
theorem pcmp x0 x1 x2 x3 : Statement (.pcmp x0 x1 x2 x3) := of_some _ rfl (flags_of_purlin _ _ rfl)
theorem psel x0 x1 x2 x3 : Statement (.psel x0 x1 x2 x3) := of_some _ rfl (flags_of_purlin _ _ rfl)
theorem pmov x0 x1 : Statement (.pmov x0 x1) := of_some _ rfl (flags_of_purlin _ _ rfl)
theorem pmovi x0 x1 : Statement (.pmovi x0 x1) := of_some _ rfl (flags_of_purlin _ _ rfl)
theorem pbr x0 x1 x2 : Statement (.pbr x0 x1 x2) := of_some _ rfl (flags_of_purlin _ _ rfl)
theorem ploop x0 x1 x2 : Statement (.ploop x0 x1 x2) := of_some _ rfl (flags_of_purlin _ _ rfl)
theorem pmld x0 x1 x2 x3 x4 : Statement (.pmld x0 x1 x2 x3 x4) := of_some _ rfl (flags_of_purlin _ _ rfl)
theorem pmst x0 x1 x2 x3 x4 : Statement (.pmst x0 x1 x2 x3 x4) := of_some _ rfl (flags_of_purlin _ _ rfl)
theorem pfld x0 x1 x2 x3 x4 : Statement (.pfld x0 x1 x2 x3 x4) := of_some _ rfl (flags_of_purlin _ _ rfl)
theorem pfst x0 x1 x2 x3 x4 : Statement (.pfst x0 x1 x2 x3 x4) := of_some _ rfl (flags_of_purlin _ _ rfl)
theorem pvadd x0 x1 x2 x3 : Statement (.pvadd x0 x1 x2 x3) := of_some _ rfl (flags_of_purlin _ _ rfl)
theorem pvmax x0 x1 x2 x3 : Statement (.pvmax x0 x1 x2 x3) := of_some _ rfl (flags_of_purlin _ _ rfl)
theorem pvmul x0 x1 x2 x3 : Statement (.pvmul x0 x1 x2 x3) := of_some _ rfl (flags_of_purlin _ _ rfl)
theorem pvacc x0 x1 x2 x3 x4 : Statement (.pvacc x0 x1 x2 x3 x4) := of_some _ rfl (flags_of_purlin _ _ rfl)
theorem pvnf x0 x1 : Statement (.pvnf x0 x1) := of_some _ rfl (flags_of_purlin _ _ rfl)
theorem pvcvt x0 x1 x2 x3 x4 : Statement (.pvcvt x0 x1 x2 x3 x4) := of_some _ rfl (flags_of_purlin _ _ rfl)
theorem pfwd x0 : Statement (.pfwd x0) := of_some _ rfl (flags_of_purlin _ _ rfl)
theorem preply x0 x1 x2 : Statement (.preply x0 x1 x2) := of_some _ rfl (flags_of_purlin _ _ rfl)
theorem ptrap x0 : Statement (.ptrap x0) := of_some _ rfl (flags_of_purlin _ _ rfl)
theorem cutPageCopy x0 : Statement (.cutPageCopy x0) := of_none rfl
theorem checkpointDrain x0 : Statement (.checkpointDrain x0) := of_none rfl
theorem checkpointRestore x0 x1 : Statement (.checkpointRestore x0 x1) := of_none rfl
theorem testSlice x0 x1 : Statement (.testSlice x0 x1) := of_none rfl
theorem coreRemap x0 : Statement (.coreRemap x0) := of_none rfl
theorem functionLevelReset x0 : Statement (.functionLevelReset x0) := of_none rfl
theorem apertureRead x0 x1 x2 : Statement (.apertureRead x0 x1 x2) := of_none rfl
theorem apertureWrite x0 x1 x2 : Statement (.apertureWrite x0 x1 x2) := of_none rfl
theorem jobTableWrite x0 x1 : Statement (.jobTableWrite x0 x1) := of_none rfl
theorem queueTableWrite x0 x1 x2 : Statement (.queueTableWrite x0 x1 x2) := of_none rfl
theorem channelTableWrite x0 x1 : Statement (.channelTableWrite x0 x1) := of_none rfl
theorem communicatorTableWrite x0 x1 : Statement (.communicatorTableWrite x0 x1) := of_none rfl
theorem qsplitWrite x0 : Statement (.qsplitWrite x0) := of_none rfl
theorem routeTableWrite x0 x1 : Statement (.routeTableWrite x0 x1) := of_none rfl
theorem ridgecfgWrite x0 : Statement (.ridgecfgWrite x0) := of_none rfl
theorem registerWrite x0 x1 x2 : Statement (.registerWrite x0 x1 x2) := of_none rfl
theorem illegalEncoding x0 : Statement (.illegalEncoding x0) := of_none rfl
theorem endToEndCreditReturn x0 x1 x2 x3 : Statement (.endToEndCreditReturn x0 x1 x2 x3) := of_none rfl
theorem spareRemap x0 x1 : Statement (.spareRemap x0 x1) := of_none rfl
theorem yield : Statement .yield := of_some _ rfl (flags_of_encG _ _ _ _ _ rfl)
theorem exit : Statement .exit := of_some _ rfl (flags_of_encG _ _ _ _ _ rfl)
theorem tret : Statement .tret := of_some _ rfl (flags_of_encG _ _ _ _ _ rfl)
theorem crclose : Statement .crclose := of_some _ rfl (flags_of_encG _ _ _ _ _ rfl)
theorem nop : Statement .nop := of_some _ rfl (flags_of_encG _ _ _ _ _ rfl)
theorem translationRequestCompletes : Statement .translationRequestCompletes := of_none rfl
theorem sectorReadRequest : Statement .sectorReadRequest := of_none rfl
theorem readReply : Statement .readReply := of_none rfl
theorem sectorWrite : Statement .sectorWrite := of_none rfl
theorem writeAcknowledge : Statement .writeAcknowledge := of_none rfl
theorem atomicRequest : Statement .atomicRequest := of_none rfl
theorem atomicReply : Statement .atomicReply := of_none rfl
theorem bellEventArrive : Statement .bellEventArrive := of_none rfl
theorem bellEventReady : Statement .bellEventReady := of_none rfl
theorem bellEventComplete : Statement .bellEventComplete := of_none rfl
theorem channelMessageSegment : Statement .channelMessageSegment := of_none rfl
theorem collectivePiece : Statement .collectivePiece := of_none rfl
theorem collectiveDone : Statement .collectiveDone := of_none rfl
theorem collectiveFinish : Statement .collectiveFinish := of_none rfl
theorem purlinReply : Statement .purlinReply := of_none rfl
theorem controlAndRouting : Statement .controlAndRouting := of_none rfl
theorem checkpointTransfer : Statement .checkpointTransfer := of_none rfl
theorem regulatorRefill : Statement .regulatorRefill := of_none rfl
theorem pdrop : Statement .pdrop := of_some _ rfl (flags_of_purlin _ _ rfl)
theorem pdone : Statement .pdone := of_some _ rfl (flags_of_purlin _ _ rfl)
theorem thermalThrottle : Statement .thermalThrottle := of_none rfl
theorem thermalShutdown : Statement .thermalShutdown := of_none rfl
theorem packageReset : Statement .packageReset := of_none rfl
theorem fillerBundle : Statement .fillerBundle := of_none rfl

end Sys2Proof.Laws.EncoderFlags
end

