-- ==== Sys2Proof/Laws/Sparse.lean ====
section
/-!
SUPPORT. Laws of tables, vectors and memories: a read after a write gives the value written, a write leaves every other
place alone, and every memory operation keeps the canonical form.
-/
namespace Sys2Proof.Machine

-- Tables.

theorem tabGet_put_self {α : Type} (d : α) (t : Tab α) (k : Nat) (v : α) : tabGet d (tabPut t k v) k = v := by
  induction t with
  | nil => simp [tabPut, tabGet]
  | cons x r ih =>
    simp only [tabPut]
    split
    · simp [tabGet]
    · split
      · simp [tabGet]
      · simp [tabGet, *]

theorem tabGet_put_other {α : Type} (d : α) (t : Tab α) (k j : Nat) (v : α) (h : j ≠ k) :
    tabGet d (tabPut t k v) j = tabGet d t j := by
  have h' : k ≠ j := Ne.symm h
  induction t with
  | nil => simp [tabPut, tabGet, h']
  | cons x r ih =>
    simp only [tabPut]
    split
    · simp [tabGet, h']
    · split
      · rename_i hx; simp [tabGet, h', hx]
      · simp only [tabGet, ih]

theorem tabFind_put_self {α : Type} (t : Tab α) (k : Nat) (v : α) : tabFind (tabPut t k v) k = some v := by
  induction t with
  | nil => simp [tabPut, tabFind]
  | cons x r ih =>
    simp only [tabPut]
    split
    · simp [tabFind]
    · split
      · simp [tabFind]
      · simp [tabFind, *]

theorem tabFind_put_other {α : Type} (t : Tab α) (k j : Nat) (v : α) (h : j ≠ k) :
    tabFind (tabPut t k v) j = tabFind t j := by
  have h' : k ≠ j := Ne.symm h
  induction t with
  | nil => simp [tabPut, tabFind, h']
  | cons x r ih =>
    simp only [tabPut]
    split
    · simp [tabFind, h']
    · split
      · rename_i hx; simp [tabFind, h', hx]
      · simp only [tabFind, ih]

theorem tabGet_map {α β : Type} (d : α) (f : α → β) (t : Tab α) (k : Nat) :
    tabGet (f d) (t.map fun x => (x.1, f x.2)) k = f (tabGet d t k) := by
  induction t with
  | nil => rfl
  | cons x r ih => simp only [List.map, tabGet]; split <;> simp_all

-- Vectors.

theorem vget_put_self {α : Type} {n : Nat} (v : Vector α n) (i : Nat) (x d : α) (h : i < n) :
    vget (vput v i x) i d = x := by
  simp [vget, vput, h]

theorem vget_put_other {α : Type} {n : Nat} (v : Vector α n) (i j : Nat) (x d : α) (h : j ≠ i) :
    vget (vput v i x) j d = vget v j d := by
  simp only [vget, vput]
  split
  · rw [Vector.getElem_setIfInBounds]; simp [Ne.symm h]
  · rfl

theorem vget_gen {α : Type} (n : Nat) (f : Nat → α) (i : Nat) (d : α) (h : i < n) : vget (vgen n f) i d = f i := by
  simp [vget, vgen, h]

-- Memories: reads of one byte.

theorem memGet_append (l r : Mem) (a : Nat) :
    memGet (l ++ r) a = if l.any (fun c => c.1 == a) then memGet l a else memGet r a := by
  induction l with
  | nil => simp
  | cons x t ih =>
    simp only [List.cons_append, memGet, List.any_cons]
    by_cases h : x.1 = a
    · simp [h]
    · simp [h, ih]

theorem memGet_filter (m : Mem) (p : Nat → Bool) (a : Nat) :
    memGet (m.filter fun c => p c.1) a = if p a then memGet m a else 0 := by
  induction m with
  | nil => simp [memGet]
  | cons x t ih =>
    rw [List.filter_cons]
    by_cases hx : x.1 = a
    · subst hx
      by_cases hp : p x.1 = true
      · simp [hp, memGet]
      · simp only [hp]; simpa [hp] using ih
    · by_cases hp : p x.1 = true
      · simp only [hp, if_true, memGet, hx, if_false]; exact ih
      · simp only [hp, memGet, hx, if_false]; simpa using ih

theorem any_filter_key (m : Mem) (p : Nat → Bool) (a : Nat) (h : p a = false) :
    ((m.filter fun c => p c.1).any fun c => c.1 == a) = false := by
  simp only [List.any_eq_false, List.mem_filter, beq_iff_eq, and_imp]
  intro x _ hp hx
  rw [hx] at hp
  simp [h] at hp

theorem memGet_of_not_any (m : Mem) (a : Nat) (h : (m.any fun c => c.1 == a) = false) : memGet m a = 0 := by
  induction m with
  | nil => rfl
  | cons x t ih =>
    simp only [List.any_cons, Bool.or_eq_false_iff, beq_eq_false_iff_ne] at h
    simp [memGet, h.1, ih h.2]

theorem memCells_any (a : Nat) (bs : List Byte) (k : Nat) (h : k < a ∨ a + bs.length ≤ k) :
    ((memCells a bs).any fun c => c.1 == k) = false := by
  induction bs generalizing a with
  | nil => rfl
  | cons b r ih =>
    simp only [List.length_cons] at h
    simp only [memCells]
    split
    · exact ih (a + 1) (by omega)
    · simp only [List.any_cons, Bool.or_eq_false_iff, beq_eq_false_iff_ne]
      exact ⟨by simp; omega, ih (a + 1) (by omega)⟩

theorem memGet_cells (a : Nat) (bs : List Byte) (i : Nat) : memGet (memCells a bs) (a + i) = bs.getD i 0 := by
  induction bs generalizing a i with
  | nil => simp [memCells, memGet]
  | cons b r ih =>
    cases i with
    | zero =>
      simp only [memCells]
      split
      · rename_i hb
        have : ((memCells (a + 1) r).any fun c => c.1 == a) = false := memCells_any _ _ _ (by omega)
        simp [memGet_of_not_any _ _ this, hb]
      · simp [memGet]
    | succ j =>
      have e : a + (j + 1) = a + 1 + j := by omega
      simp only [memCells]
      split
      · rw [e, ih]; simp
      · simp only [memGet]
        rw [if_neg (by simp), e, ih]; simp

/-- A byte outside a write reads as before. -/
theorem memGet_write_out (m : Mem) (a : Nat) (bs : List Byte) (k : Nat) (h : k < a ∨ a + bs.length ≤ k) :
    memGet (memWrite m a bs) k = memGet m k := by
  simp only [memWrite]
  rw [memGet_append, memGet_append, memCells_any a bs k h]
  have h1 := memGet_filter m (fun c => decide (c < a)) k
  have h2 := memGet_filter m (fun c => decide (a + bs.length ≤ c)) k
  rw [h1, h2]
  by_cases hk : k < a
  · have h3 : ¬ a + bs.length ≤ k := by omega
    simp only [hk, h3, decide_true, decide_false, if_true]
    split
    · rfl
    · rename_i hn
      have hn' : (m.any fun c => c.1 == k) = false := by
        simp only [List.any_eq_true, List.mem_filter, not_exists, not_and, beq_iff_eq, decide_eq_true_eq] at hn
        simp only [List.any_eq_false, beq_iff_eq]
        intro x hx hxk
        exact hn x ⟨hx, by omega⟩ hxk
      simp [memGet_of_not_any m k hn']
  · have h3 : a + bs.length ≤ k := by omega
    have h4 := any_filter_key m (fun c => decide (c < a)) k (by simp; omega)
    rw [h4]
    simp [h3]

/-- A byte within a write reads as written. -/
theorem memGet_write_in (m : Mem) (a : Nat) (bs : List Byte) (i : Nat) (h : i < bs.length) :
    memGet (memWrite m a bs) (a + i) = bs.getD i 0 := by
  simp only [memWrite]
  rw [memGet_append, any_filter_key m (fun c => decide (c < a)) (a + i) (by simp)]
  rw [if_neg (by simp), memGet_append]
  split
  · exact memGet_cells a bs i
  · rename_i hn
    have h1 := memGet_of_not_any (memCells a bs) (a + i) (Bool.eq_false_of_not_eq_true hn)
    rw [memGet_cells] at h1
    rw [h1]
    have h2 := memGet_filter m (fun c => decide (a + bs.length ≤ c)) (a + i)
    rw [h2]
    simp; omega

-- Memories: the canonical form.

theorem memSorted_mono {lo hi : Nat} {m : Mem} (h : memSorted hi m = true) (hl : lo ≤ hi) : memSorted lo m = true := by
  cases m with
  | nil => rfl
  | cons x r =>
    simp only [memSorted, Bool.and_eq_true, decide_eq_true_eq] at h ⊢
    exact ⟨⟨by omega, h.1.2⟩, h.2⟩

theorem memSorted_filter (p : Host.Cell → Bool) {lo : Nat} {m : Mem} (h : memSorted lo m = true) :
    memSorted lo (m.filter p) = true := by
  induction m generalizing lo with
  | nil => rfl
  | cons x r ih =>
    simp only [memSorted, Bool.and_eq_true, decide_eq_true_eq] at h
    rw [List.filter_cons]
    split
    · simp only [memSorted, Bool.and_eq_true, decide_eq_true_eq]
      exact ⟨h.1, ih h.2⟩
    · exact memSorted_mono (ih h.2) (by omega)

theorem memSorted_above {lo k : Nat} {m : Mem} (h : memSorted lo m = true) (hm : ∀ c ∈ m, k ≤ c.1) :
    memSorted k m = true := by
  cases m with
  | nil => rfl
  | cons x r =>
    simp only [memSorted, Bool.and_eq_true, decide_eq_true_eq] at h ⊢
    exact ⟨⟨hm x (by simp), h.1.2⟩, h.2⟩

theorem memSorted_append {lo k : Nat} {l r : Mem} (hl : memSorted lo l = true) (hk : ∀ c ∈ l, c.1 < k)
    (hr : memSorted k r = true) (hlo : lo ≤ k) : memSorted lo (l ++ r) = true := by
  induction l generalizing lo with
  | nil => exact memSorted_mono hr hlo
  | cons x t ih =>
    simp only [memSorted, Bool.and_eq_true, decide_eq_true_eq, List.cons_append] at hl ⊢
    have := hk x (by simp)
    exact ⟨hl.1, ih hl.2 (fun c hc => hk c (by simp [hc])) (by omega)⟩

theorem memSorted_cells (a : Nat) (bs : List Byte) : memSorted a (memCells a bs) = true := by
  induction bs generalizing a with
  | nil => rfl
  | cons b r ih =>
    simp only [memCells]
    split
    · exact memSorted_mono (ih (a + 1)) (by omega)
    · rename_i hb
      simp only [memSorted, Bool.and_eq_true, decide_eq_true_eq, bne_iff_ne]
      exact ⟨⟨by omega, hb⟩, ih (a + 1)⟩

theorem memCells_below (a : Nat) (bs : List Byte) : ∀ c ∈ memCells a bs, c.1 < a + bs.length := by
  induction bs generalizing a with
  | nil => simp [memCells]
  | cons b r ih =>
    intro c hc
    simp only [memCells] at hc
    simp only [List.length_cons]
    split at hc
    · have := ih (a + 1) c hc; omega
    · simp only [List.mem_cons] at hc
      rcases hc with rfl | hc
      · simp
      · have := ih (a + 1) c hc; omega

/-- A write keeps the canonical form. -/
theorem memWf_write (m : Mem) (a : Nat) (bs : List Byte) (h : memWf m = true) : memWf (memWrite m a bs) = true := by
  have h1 : memSorted 0 (m.filter fun c => decide (c.1 < a)) = true := memSorted_filter _ h
  have h2 : memSorted 0 (m.filter fun c => decide (a + bs.length ≤ c.1)) = true := memSorted_filter _ h
  have h3 : memSorted (a + bs.length) (m.filter fun c => decide (a + bs.length ≤ c.1)) = true :=
    memSorted_above h2 (by simp)
  exact memSorted_append h1 (by simp)
    (memSorted_append (memSorted_cells a bs) (memCells_below a bs) h3 (by omega)) (by omega)

/-- Cells taken out leave the canonical form. -/
theorem memWf_filter (m : Mem) (p : Host.Cell → Bool) (h : memWf m = true) : memWf (m.filter p) = true :=
  memSorted_filter p h

theorem memWf_cells (a : Nat) (bs : List Byte) : memWf (memCells a bs) = true := memSorted_mono (memSorted_cells a bs) (by omega)

theorem memSorted_shift {lo : Nat} {m : Mem} (src dst : Nat) (h : memSorted lo m = true) (hs : ∀ c ∈ m, src ≤ c.1)
    (hlo : src ≤ lo) : memSorted (lo - src + dst) (m.map fun c => (c.1 - src + dst, c.2)) = true := by
  induction m generalizing lo with
  | nil => rfl
  | cons x r ih =>
    simp only [memSorted, Bool.and_eq_true, decide_eq_true_eq, List.map_cons] at h ⊢
    have hx := hs x (by simp)
    refine ⟨⟨by omega, h.1.2⟩, ?_⟩
    have := ih h.2 (fun c hc => hs c (by simp [hc])) (by omega)
    have e : x.1 - src + dst + 1 = x.1 + 1 - src + dst := by omega
    rw [e]; exact this

/-- A copy within a memory keeps the canonical form. -/
theorem memWf_copy (m : Mem) (src dst n : Nat) (h : memWf m = true) : memWf (memCopy m src dst n) = true := by
  simp only [memCopy]
  have h1 : memSorted 0 (m.filter fun c => decide (c.1 < dst)) = true := memSorted_filter _ h
  have h2 : memSorted (dst + n) (m.filter fun c => decide (dst + n ≤ c.1)) = true :=
    memSorted_above (memSorted_filter _ h) (by simp)
  have hp : memSorted src (m.filter fun c => decide (src ≤ c.1) && decide (c.1 < src + n)) = true :=
    memSorted_above (memSorted_filter _ h) (by simp; omega)
  have h3 := memSorted_shift src dst hp (by simp; omega) (le_refl src)
  rw [Nat.sub_self, Nat.zero_add] at h3
  refine memSorted_append h1 (by simp) (memSorted_append h3 ?_ h2 (by omega)) (by omega)
  intro c hc
  simp only [List.mem_map, List.mem_filter, Bool.and_eq_true, decide_eq_true_eq] at hc
  obtain ⟨x, ⟨-, hx1, hx2⟩, rfl⟩ := hc
  simp only
  omega

end Sys2Proof.Machine
end

