-- ==== Sys2Proof/Laws/Slate.lean ====
section
/-!
SUPPORT. Reads of several bytes, and Slate bytes after a write (R36, R140): what the statements about loads, stores and
copies rest on.
-/
namespace Sys2Proof.Machine

-- Reads of several bytes.

theorem memGet_part (m : Mem) (a n x : Nat) (h : a ≤ x) (h' : x < a + n) : memGet (memPart m a n) x = memGet m x := by
  simp only [memPart]
  rw [memGet_filter m (fun c => decide (a ≤ c) && decide (c < a + n)) x]
  simp [h, h']

theorem memBlocks_eq (m : Mem) : ∀ (n a len : Nat), len ≤ 128 * n →
    memBlocks m a len n = (List.range len).map fun i => memGet m (a + i)
  | 0, a, len, h => by simp [memBlocks, show len = 0 by omega]
  | n + 1, a, len, h => by
    rw [memBlocks, memBlocks_eq m n (a + 128) (len - 128) (by omega)]
    apply List.ext_getElem
    · simp; omega
    · intro i h1 h2
      simp only [List.length_append, List.length_map, List.length_range] at h1
      simp only [List.getElem_append, List.length_map, List.length_range, List.getElem_map, List.getElem_range]
      split
      · exact memGet_part m a 128 (a + i) (by omega) (by omega)
      · congr 1; omega

theorem memRead_eq (m : Mem) (a n : Nat) : memRead m a n = (List.range n).map fun i => memGet m (a + i) := by
  rw [memRead, memBlocks_eq _ _ _ _ (by omega)]
  apply List.map_congr_left
  intro i hi
  exact memGet_part m a n (a + i) (by omega) (by simp at hi; omega)

theorem slGet_plain (cl : Cluster) (a : Nat) (h : cl.undef = []) : slGet cl a = memGet cl.slate a := by simp [slGet, h, tabFind]

theorem slRead_eq (cl : Cluster) (a n : Nat) : slRead cl a n = (List.range n).map fun i => slGet cl (a + i) := by
  rw [slRead]
  split
  · rename_i h
    rw [memRead_eq]
    exact List.map_congr_left fun i _ => (slGet_plain cl (a + i) (List.isEmpty_iff.mp h)).symm
  · rfl

@[simp] theorem slRead_length (cl : Cluster) (a n : Nat) : (slRead cl a n).length = n := by simp [slRead_eq]

-- Undefined lines that a write settles.

theorem tabFind_del_self {α : Type} (t : Tab α) (k : Nat) : tabFind (tabDel t k) k = none := by
  induction t with
  | nil => rfl
  | cons x r ih =>
    simp only [tabDel, List.filter_cons] at *
    split
    · rename_i h
      simp only [tabFind, show x.1 ≠ k by simpa using h, if_false]; exact ih
    · exact ih

theorem tabFind_del_other {α : Type} (t : Tab α) (k j : Nat) (h : j ≠ k) : tabFind (tabDel t k) j = tabFind t j := by
  induction t with
  | nil => rfl
  | cons x r ih =>
    simp only [tabDel, List.filter_cons, tabFind] at *
    by_cases hx : x.1 = k
    · simp only [hx, bne_self_eq_false, Bool.false_eq_true, if_false, show k ≠ j from fun e => h e.symm]; exact ih
    · simp only [bne_iff_ne, ne_eq, hx, not_false_iff, if_true, tabFind]; rw [ih]

/-- Giving an undefined line the bytes that it reads as changes no byte. -/
theorem slGet_settle (cl : Cluster) (l x : Nat) : slGet (slSettle cl l) x = slGet cl x := by
  unfold slSettle
  split
  · rfl
  · rename_i stamp h
    by_cases hx : lineOf x = l
    · have h1 : x = 128 * l + x % 128 := by unfold lineOf at hx; omega
      simp only [slGet, hx, tabFind_del_self, h]
      rw [h1, memGet_write_in _ _ _ _ (by simp; omega)]
      simp [show x % 128 < 128 by omega]
    · simp only [slGet, tabFind_del_other _ _ _ hx]
      cases tabFind cl.undef (lineOf x) with
      | some _ => rfl
      | none =>
        simp only
        exact memGet_write_out _ _ _ _ (by simp; unfold lineOf at hx; omega)

theorem slSettle_undef_self (cl : Cluster) (l : Nat) : tabFind (slSettle cl l).undef l = none := by
  unfold slSettle
  split
  · assumption
  · exact tabFind_del_self _ _

theorem slSettle_undef_mono (cl : Cluster) (l j : Nat) (h : tabFind cl.undef j = none) :
    tabFind (slSettle cl l).undef j = none := by
  unfold slSettle
  split
  · exact h
  · by_cases hj : j = l
    · subst hj; exact tabFind_del_self _ _
    · rw [tabFind_del_other _ _ _ hj]; exact h

theorem slGet_settles (ls : List Nat) (cl : Cluster) (x : Nat) : slGet (ls.foldl slSettle cl) x = slGet cl x := by
  induction ls generalizing cl with
  | nil => rfl
  | cons l r ih => rw [List.foldl_cons, ih, slGet_settle]

theorem slSettles_undef_mono (ls : List Nat) (cl : Cluster) (j : Nat) (h : tabFind cl.undef j = none) :
    tabFind (ls.foldl slSettle cl).undef j = none := by
  induction ls generalizing cl with
  | nil => exact h
  | cons l r ih => exact ih _ (slSettle_undef_mono _ _ _ h)

theorem slSettles_undef (ls : List Nat) (cl : Cluster) (j : Nat) (h : j ∈ ls) :
    tabFind (ls.foldl slSettle cl).undef j = none := by
  induction ls generalizing cl with
  | nil => cases h
  | cons l r ih =>
    rcases List.mem_cons.mp h with rfl | h'
    · exact slSettles_undef_mono r _ _ (slSettle_undef_self _ _)
    · exact ih _ h'

theorem mem_linesOf (a n x : Nat) (h : a ≤ x) (h' : x < a + n) : lineOf x ∈ linesOf a n := by
  simp only [linesOf, show n ≠ 0 by omega, if_false, span, List.mem_map, List.mem_range]
  exact ⟨lineOf x - a / 128, by unfold lineOf; omega, by unfold lineOf; omega⟩

-- Slate bytes after a write.

/-- A byte that a write covers reads as written. -/
theorem slGet_write_in (cl : Cluster) (a : Nat) (bs : List Byte) (i : Nat) (h : i < bs.length) :
    slGet (slWrite cl a bs) (a + i) = bs.getD i 0 := by
  have hu : tabFind (if cl.undef.isEmpty then cl else (linesOf a bs.length).foldl slSettle cl).undef (lineOf (a + i)) = none := by
    split
    · rename_i he; rw [List.isEmpty_iff.mp he]; rfl
    · exact slSettles_undef _ _ _ (mem_linesOf a bs.length (a + i) (by omega) (by omega))
  simp only [slWrite, slGet, hu]
  exact memGet_write_in _ _ _ _ h

/-- A byte that a write does not cover reads as before. -/
theorem slGet_write_out (cl : Cluster) (a : Nat) (bs : List Byte) (x : Nat) (h : x < a ∨ a + bs.length ≤ x) :
    slGet (slWrite cl a bs) x = slGet cl x := by
  have hs : slGet (if cl.undef.isEmpty then cl else (linesOf a bs.length).foldl slSettle cl) x = slGet cl x := by
    split
    · rfl
    · exact slGet_settles _ _ _
  rw [← hs]
  simp only [slWrite, slGet]
  cases tabFind _ (lineOf x) with
  | some _ => rfl
  | none => exact memGet_write_out _ _ _ _ h

-- What a write to Slate leaves alone.

@[simp] theorem slSettle_lineEmpty (cl : Cluster) (l : Nat) : (slSettle cl l).lineEmpty = cl.lineEmpty := by
  unfold slSettle; split <;> rfl
@[simp] theorem slSettles_lineEmpty (ls : List Nat) (cl : Cluster) : (ls.foldl slSettle cl).lineEmpty = cl.lineEmpty := by
  induction ls generalizing cl with
  | nil => rfl
  | cons l r ih => rw [List.foldl_cons, ih, slSettle_lineEmpty]
@[simp] theorem slWrite_lineEmpty (cl : Cluster) (a : Nat) (bs : List Byte) : (slWrite cl a bs).lineEmpty = cl.lineEmpty := by
  simp only [slWrite]; split <;> simp
theorem slSettle_rest (cl : Cluster) (l : Nat) :
    ∃ m u, slSettle cl l = { cl with slate := m, undef := u } := by
  unfold slSettle; split
  · exact ⟨_, _, rfl⟩
  · exact ⟨_, _, rfl⟩
theorem slSettles_rest (ls : List Nat) (cl : Cluster) : ∃ m u, ls.foldl slSettle cl = { cl with slate := m, undef := u } := by
  induction ls generalizing cl with
  | nil => exact ⟨_, _, rfl⟩
  | cons l r ih =>
    obtain ⟨m, u, h⟩ := slSettle_rest cl l
    obtain ⟨m', u', h'⟩ := ih (slSettle cl l)
    exact ⟨m', u', by rw [List.foldl_cons, h', h]⟩
/-- A write to Slate changes bytes, undefined lines and poison marks of lines, and nothing else of the cluster. -/
theorem slWrite_rest (cl : Cluster) (a : Nat) (bs : List Byte) :
    ∃ m u p, slWrite cl a bs = { cl with slate := m, undef := u, poison := p } := by
  simp only [slWrite]
  split
  · exact ⟨_, _, _, rfl⟩
  · obtain ⟨m, u, h⟩ := slSettles_rest (linesOf a bs.length) cl
    exact ⟨_, _, _, by rw [h]⟩

theorem slWrite_memWf (cl : Cluster) (a : Nat) (bs : List Byte) (h : memWf cl.slate = true) :
    memWf (slWrite cl a bs).slate = true := by
  have hs : ∀ (ls : List Nat) (cl : Cluster), memWf cl.slate = true → memWf (ls.foldl slSettle cl).slate = true := by
    intro ls
    induction ls with
    | nil => exact fun _ h => h
    | cons l r ih =>
      intro cl h
      refine ih _ ?_
      unfold slSettle; split
      · exact h
      · exact memWf_write _ _ _ h
  simp only [slWrite]
  split
  · exact memWf_write _ _ _ h
  · exact memWf_write _ _ _ (hs _ _ h)

end Sys2Proof.Machine
end

