-- ==== Sys2Proof/Laws/State.lean ====
section
/-!
SUPPORT. Record updates: one lemma for each field of the state under each named update, and what the accessors read
after it.
-/
namespace Sys2Proof.Machine

-- setCtx.

@[simp] theorem State.setCtx_cycle (s : State) (c : Nat) (x : Task) : (s.setCtx c x).cycle = s.cycle := rfl
@[simp] theorem State.setCtx_ticks (s : State) (c : Nat) (x : Task) : (s.setCtx c x).ticks = s.ticks := rfl
@[simp] theorem State.setCtx_phase (s : State) (c : Nat) (x : Task) : (s.setCtx c x).phase = s.phase := rfl
@[simp] theorem State.setCtx_throttle (s : State) (c : Nat) (x : Task) : (s.setCtx c x).throttle = s.throttle := rfl
@[simp] theorem State.setCtx_shut (s : State) (c : Nat) (x : Task) : (s.setCtx c x).shut = s.shut := rfl
@[simp] theorem State.setCtx_dram (s : State) (c : Nat) (x : Task) : (s.setCtx c x).dram = s.dram := rfl
@[simp] theorem State.setCtx_dramPoison (s : State) (c : Nat) (x : Task) : (s.setCtx c x).dramPoison = s.dramPoison := rfl
@[simp] theorem State.setCtx_ctxs (s : State) (c : Nat) (x : Task) : (s.setCtx c x).ctxs = tabPut s.ctxs c x := rfl
@[simp] theorem State.setCtx_cores (s : State) (c : Nat) (x : Task) : (s.setCtx c x).cores = s.cores := rfl
@[simp] theorem State.setCtx_clusters (s : State) (c : Nat) (x : Task) : (s.setCtx c x).clusters = s.clusters := rfl
@[simp] theorem State.setCtx_engs (s : State) (c : Nat) (x : Task) : (s.setCtx c x).engs = s.engs := rfl
@[simp] theorem State.setCtx_ifetch (s : State) (c : Nat) (x : Task) : (s.setCtx c x).ifetch = s.ifetch := rfl
@[simp] theorem State.setCtx_fences (s : State) (c : Nat) (x : Task) : (s.setCtx c x).fences = s.fences := rfl
@[simp] theorem State.setCtx_arrivals (s : State) (c : Nat) (x : Task) : (s.setCtx c x).arrivals = s.arrivals := rfl
@[simp] theorem State.setCtx_wbs (s : State) (c : Nat) (x : Task) : (s.setCtx c x).wbs = s.wbs := rfl
@[simp] theorem State.setCtx_bells (s : State) (c : Nat) (x : Task) : (s.setCtx c x).bells = s.bells := rfl
@[simp] theorem State.setCtx_queues (s : State) (c : Nat) (x : Task) : (s.setCtx c x).queues = s.queues := rfl
@[simp] theorem State.setCtx_slots (s : State) (c : Nat) (x : Task) : (s.setCtx c x).slots = s.slots := rfl
@[simp] theorem State.setCtx_launches (s : State) (c : Nat) (x : Task) : (s.setCtx c x).launches = s.launches := rfl
@[simp] theorem State.setCtx_groups (s : State) (c : Nat) (x : Task) : (s.setCtx c x).groups = s.groups := rfl
@[simp] theorem State.setCtx_outs (s : State) (c : Nat) (x : Task) : (s.setCtx c x).outs = s.outs := rfl
@[simp] theorem State.setCtx_cursor (s : State) (c : Nat) (x : Task) : (s.setCtx c x).cursor = s.cursor := rfl
@[simp] theorem State.setCtx_ttTurn (s : State) (c : Nat) (x : Task) : (s.setCtx c x).ttTurn = s.ttTurn := rfl
@[simp] theorem State.setCtx_ttNext (s : State) (c : Nat) (x : Task) : (s.setCtx c x).ttNext = s.ttNext := rfl
@[simp] theorem State.setCtx_reserving (s : State) (c : Nat) (x : Task) : (s.setCtx c x).reserving = s.reserving := rfl
@[simp] theorem State.setCtx_did (s : State) (c : Nat) (x : Task) : (s.setCtx c x).did = s.did := rfl
@[simp] theorem State.setCtx_jobs (s : State) (c : Nat) (x : Task) : (s.setCtx c x).jobs = s.jobs := rfl
@[simp] theorem State.setCtx_fwd (s : State) (c : Nat) (x : Task) : (s.setCtx c x).fwd = s.fwd := rfl
@[simp] theorem State.setCtx_poolUsed (s : State) (c : Nat) (x : Task) : (s.setCtx c x).poolUsed = s.poolUsed := rfl
@[simp] theorem State.setCtx_poolBack (s : State) (c : Nat) (x : Task) : (s.setCtx c x).poolBack = s.poolBack := rfl
@[simp] theorem State.setCtx_migr (s : State) (c : Nat) (x : Task) : (s.setCtx c x).migr = s.migr := rfl
@[simp] theorem State.setCtx_waitDone (s : State) (c : Nat) (x : Task) : (s.setCtx c x).waitDone = s.waitDone := rfl
@[simp] theorem State.setCtx_routes (s : State) (c : Nat) (x : Task) : (s.setCtx c x).routes = s.routes := rfl
@[simp] theorem State.setCtx_ridgecfg (s : State) (c : Nat) (x : Task) : (s.setCtx c x).ridgecfg = s.ridgecfg := rfl
@[simp] theorem State.setCtx_ports (s : State) (c : Nat) (x : Task) : (s.setCtx c x).ports = s.ports := rfl
@[simp] theorem State.setCtx_chans (s : State) (c : Nat) (x : Task) : (s.setCtx c x).chans = s.chans := rfl
@[simp] theorem State.setCtx_comms (s : State) (c : Nat) (x : Task) : (s.setCtx c x).comms = s.comms := rfl
@[simp] theorem State.setCtx_commSeq (s : State) (c : Nat) (x : Task) : (s.setCtx c x).commSeq = s.commSeq := rfl
@[simp] theorem State.setCtx_colls (s : State) (c : Nat) (x : Task) : (s.setCtx c x).colls = s.colls := rfl
@[simp] theorem State.setCtx_served (s : State) (c : Nat) (x : Task) : (s.setCtx c x).served = s.served := rfl
@[simp] theorem State.setCtx_pieces (s : State) (c : Nat) (x : Task) : (s.setCtx c x).pieces = s.pieces := rfl
@[simp] theorem State.setCtx_commCred (s : State) (c : Nat) (x : Task) : (s.setCtx c x).commCred = s.commCred := rfl
@[simp] theorem State.setCtx_creditOut (s : State) (c : Nat) (x : Task) : (s.setCtx c x).creditOut = s.creditOut := rfl
@[simp] theorem State.setCtx_creditHeld (s : State) (c : Nat) (x : Task) : (s.setCtx c x).creditHeld = s.creditHeld := rfl
@[simp] theorem State.setCtx_kernels (s : State) (c : Nat) (x : Task) : (s.setCtx c x).kernels = s.kernels := rfl
@[simp] theorem State.setCtx_bindings (s : State) (c : Nat) (x : Task) : (s.setCtx c x).bindings = s.bindings := rfl
@[simp] theorem State.setCtx_runs (s : State) (c : Nat) (x : Task) : (s.setCtx c x).runs = s.runs := rfl
@[simp] theorem State.setCtx_flow (s : State) (c : Nat) (x : Task) : (s.setCtx c x).flow = s.flow := rfl
@[simp] theorem State.setCtx_ckpts (s : State) (c : Nat) (x : Task) : (s.setCtx c x).ckpts = s.ckpts := rfl
@[simp] theorem State.setCtx_cutWait (s : State) (c : Nat) (x : Task) : (s.setCtx c x).cutWait = s.cutWait := rfl
@[simp] theorem State.setCtx_errs (s : State) (c : Nat) (x : Task) : (s.setCtx c x).errs = s.errs := rfl
@[simp] theorem State.setCtx_spares (s : State) (c : Nat) (x : Task) : (s.setCtx c x).spares = s.spares := rfl
@[simp] theorem State.setCtx_worn (s : State) (c : Nat) (x : Task) : (s.setCtx c x).worn = s.worn := rfl
@[simp] theorem State.setCtx_limits (s : State) (c : Nat) (x : Task) : (s.setCtx c x).limits = s.limits := rfl
@[simp] theorem State.setCtx_boot (s : State) (c : Nat) (x : Task) : (s.setCtx c x).boot = s.boot := rfl
@[simp] theorem State.setCtx_status (s : State) (c : Nat) (x : Task) : (s.setCtx c x).status = s.status := rfl
@[simp] theorem State.setCtx_pkgnum (s : State) (c : Nat) (x : Task) : (s.setCtx c x).pkgnum = s.pkgnum := rfl
@[simp] theorem State.setCtx_meshpos (s : State) (c : Nat) (x : Task) : (s.setCtx c x).meshpos = s.meshpos := rfl
@[simp] theorem State.setCtx_qsplit (s : State) (c : Nat) (x : Task) : (s.setCtx c x).qsplit = s.qsplit := rfl
@[simp] theorem State.setCtx_apbase (s : State) (c : Nat) (x : Task) : (s.setCtx c x).apbase = s.apbase := rfl
@[simp] theorem State.setCtx_temp (s : State) (c : Nat) (x : Task) : (s.setCtx c x).temp = s.temp := rfl
@[simp] theorem State.setCtx_power (s : State) (c : Nat) (x : Task) : (s.setCtx c x).power = s.power := rfl
@[simp] theorem State.setCtx_errcnt (s : State) (c : Nat) (x : Task) : (s.setCtx c x).errcnt = s.errcnt := rfl
@[simp] theorem State.setCtx_windows (s : State) (c : Nat) (x : Task) : (s.setCtx c x).windows = s.windows := rfl
@[simp] theorem State.setCtx_msix (s : State) (c : Nat) (x : Task) : (s.setCtx c x).msix = s.msix := rfl
@[simp] theorem State.setCtx_msixPend (s : State) (c : Nat) (x : Task) : (s.setCtx c x).msixPend = s.msixPend := rfl
@[simp] theorem State.setCtx_badReplies (s : State) (c : Nat) (x : Task) : (s.setCtx c x).badReplies = s.badReplies := rfl
@[simp] theorem State.setCtx_hostAcc (s : State) (c : Nat) (x : Task) : (s.setCtx c x).hostAcc = s.hostAcc := rfl
@[simp] theorem State.setCtx_hostOut (s : State) (c : Nat) (x : Task) : (s.setCtx c x).hostOut = s.hostOut := rfl
@[simp] theorem State.setCtx_outbox (s : State) (c : Nat) (x : Task) : (s.setCtx c x).outbox = s.outbox := rfl
@[simp] theorem State.setCtx_wire (s : State) (c : Nat) (x : Task) : (s.setCtx c x).wire = s.wire := rfl
@[simp] theorem State.setCtx_linkBack (s : State) (c : Nat) (x : Task) : (s.setCtx c x).linkBack = s.linkBack := rfl
@[simp] theorem State.setCtx_rx (s : State) (c : Nat) (x : Task) : (s.setCtx c x).rx = s.rx := rfl
@[simp] theorem State.setCtx_inbox (s : State) (c : Nat) (x : Task) : (s.setCtx c x).inbox = s.inbox := rfl
@[simp] theorem State.setCtx_incidents (s : State) (c : Nat) (x : Task) : (s.setCtx c x).incidents = s.incidents := rfl
@[simp] theorem State.setCtx_turn (s : State) (c : Nat) (x : Task) : (s.setCtx c x).turn = s.turn := rfl
@[simp] theorem State.setCtx_coreIdx (s : State) (c : Nat) (x : Task) : (s.setCtx c x).coreIdx = s.coreIdx := rfl
@[simp] theorem State.setCtx_engIdx (s : State) (c : Nat) (x : Task) : (s.setCtx c x).engIdx = s.engIdx := rfl
@[simp] theorem State.setCtx_cur (s : State) (c : Nat) (x : Task) : (s.setCtx c x).cur = s.cur := rfl
@[simp] theorem State.setCtx_before (s : State) (c : Nat) (x : Task) : (s.setCtx c x).before = s.before := rfl
@[simp] theorem State.setCtx_slotNo (s : State) (c : Nat) (x : Task) : (s.setCtx c x).slotNo = s.slotNo := rfl
@[simp] theorem State.setCtx_bits (s : State) (c : Nat) (x : Task) : (s.setCtx c x).bits = s.bits := rfl
@[simp] theorem State.setCtx_fresh (s : State) (c : Nat) (x : Task) : (s.setCtx c x).fresh = s.fresh := rfl
@[simp] theorem State.setCtx_stamp (s : State) (c : Nat) (x : Task) : (s.setCtx c x).stamp = s.stamp := rfl
@[simp] theorem State.setCtx_nextId (s : State) (c : Nat) (x : Task) : (s.setCtx c x).nextId = s.nextId := rfl

-- setMe.

@[simp] theorem State.setMe_cycle (s : State) (x : Task) : (s.setMe x).cycle = s.cycle := rfl
@[simp] theorem State.setMe_ticks (s : State) (x : Task) : (s.setMe x).ticks = s.ticks := rfl
@[simp] theorem State.setMe_phase (s : State) (x : Task) : (s.setMe x).phase = s.phase := rfl
@[simp] theorem State.setMe_throttle (s : State) (x : Task) : (s.setMe x).throttle = s.throttle := rfl
@[simp] theorem State.setMe_shut (s : State) (x : Task) : (s.setMe x).shut = s.shut := rfl
@[simp] theorem State.setMe_dram (s : State) (x : Task) : (s.setMe x).dram = s.dram := rfl
@[simp] theorem State.setMe_dramPoison (s : State) (x : Task) : (s.setMe x).dramPoison = s.dramPoison := rfl
@[simp] theorem State.setMe_ctxs (s : State) (x : Task) : (s.setMe x).ctxs = tabPut s.ctxs s.cur x := rfl
@[simp] theorem State.setMe_cores (s : State) (x : Task) : (s.setMe x).cores = s.cores := rfl
@[simp] theorem State.setMe_clusters (s : State) (x : Task) : (s.setMe x).clusters = s.clusters := rfl
@[simp] theorem State.setMe_engs (s : State) (x : Task) : (s.setMe x).engs = s.engs := rfl
@[simp] theorem State.setMe_ifetch (s : State) (x : Task) : (s.setMe x).ifetch = s.ifetch := rfl
@[simp] theorem State.setMe_fences (s : State) (x : Task) : (s.setMe x).fences = s.fences := rfl
@[simp] theorem State.setMe_arrivals (s : State) (x : Task) : (s.setMe x).arrivals = s.arrivals := rfl
@[simp] theorem State.setMe_wbs (s : State) (x : Task) : (s.setMe x).wbs = s.wbs := rfl
@[simp] theorem State.setMe_bells (s : State) (x : Task) : (s.setMe x).bells = s.bells := rfl
@[simp] theorem State.setMe_queues (s : State) (x : Task) : (s.setMe x).queues = s.queues := rfl
@[simp] theorem State.setMe_slots (s : State) (x : Task) : (s.setMe x).slots = s.slots := rfl
@[simp] theorem State.setMe_launches (s : State) (x : Task) : (s.setMe x).launches = s.launches := rfl
@[simp] theorem State.setMe_groups (s : State) (x : Task) : (s.setMe x).groups = s.groups := rfl
@[simp] theorem State.setMe_outs (s : State) (x : Task) : (s.setMe x).outs = s.outs := rfl
@[simp] theorem State.setMe_cursor (s : State) (x : Task) : (s.setMe x).cursor = s.cursor := rfl
@[simp] theorem State.setMe_ttTurn (s : State) (x : Task) : (s.setMe x).ttTurn = s.ttTurn := rfl
@[simp] theorem State.setMe_ttNext (s : State) (x : Task) : (s.setMe x).ttNext = s.ttNext := rfl
@[simp] theorem State.setMe_reserving (s : State) (x : Task) : (s.setMe x).reserving = s.reserving := rfl
@[simp] theorem State.setMe_did (s : State) (x : Task) : (s.setMe x).did = s.did := rfl
@[simp] theorem State.setMe_jobs (s : State) (x : Task) : (s.setMe x).jobs = s.jobs := rfl
@[simp] theorem State.setMe_fwd (s : State) (x : Task) : (s.setMe x).fwd = s.fwd := rfl
@[simp] theorem State.setMe_poolUsed (s : State) (x : Task) : (s.setMe x).poolUsed = s.poolUsed := rfl
@[simp] theorem State.setMe_poolBack (s : State) (x : Task) : (s.setMe x).poolBack = s.poolBack := rfl
@[simp] theorem State.setMe_migr (s : State) (x : Task) : (s.setMe x).migr = s.migr := rfl
@[simp] theorem State.setMe_waitDone (s : State) (x : Task) : (s.setMe x).waitDone = s.waitDone := rfl
@[simp] theorem State.setMe_routes (s : State) (x : Task) : (s.setMe x).routes = s.routes := rfl
@[simp] theorem State.setMe_ridgecfg (s : State) (x : Task) : (s.setMe x).ridgecfg = s.ridgecfg := rfl
@[simp] theorem State.setMe_ports (s : State) (x : Task) : (s.setMe x).ports = s.ports := rfl
@[simp] theorem State.setMe_chans (s : State) (x : Task) : (s.setMe x).chans = s.chans := rfl
@[simp] theorem State.setMe_comms (s : State) (x : Task) : (s.setMe x).comms = s.comms := rfl
@[simp] theorem State.setMe_commSeq (s : State) (x : Task) : (s.setMe x).commSeq = s.commSeq := rfl
@[simp] theorem State.setMe_colls (s : State) (x : Task) : (s.setMe x).colls = s.colls := rfl
@[simp] theorem State.setMe_served (s : State) (x : Task) : (s.setMe x).served = s.served := rfl
@[simp] theorem State.setMe_pieces (s : State) (x : Task) : (s.setMe x).pieces = s.pieces := rfl
@[simp] theorem State.setMe_commCred (s : State) (x : Task) : (s.setMe x).commCred = s.commCred := rfl
@[simp] theorem State.setMe_creditOut (s : State) (x : Task) : (s.setMe x).creditOut = s.creditOut := rfl
@[simp] theorem State.setMe_creditHeld (s : State) (x : Task) : (s.setMe x).creditHeld = s.creditHeld := rfl
@[simp] theorem State.setMe_kernels (s : State) (x : Task) : (s.setMe x).kernels = s.kernels := rfl
@[simp] theorem State.setMe_bindings (s : State) (x : Task) : (s.setMe x).bindings = s.bindings := rfl
@[simp] theorem State.setMe_runs (s : State) (x : Task) : (s.setMe x).runs = s.runs := rfl
@[simp] theorem State.setMe_flow (s : State) (x : Task) : (s.setMe x).flow = s.flow := rfl
@[simp] theorem State.setMe_ckpts (s : State) (x : Task) : (s.setMe x).ckpts = s.ckpts := rfl
@[simp] theorem State.setMe_cutWait (s : State) (x : Task) : (s.setMe x).cutWait = s.cutWait := rfl
@[simp] theorem State.setMe_errs (s : State) (x : Task) : (s.setMe x).errs = s.errs := rfl
@[simp] theorem State.setMe_spares (s : State) (x : Task) : (s.setMe x).spares = s.spares := rfl
@[simp] theorem State.setMe_worn (s : State) (x : Task) : (s.setMe x).worn = s.worn := rfl
@[simp] theorem State.setMe_limits (s : State) (x : Task) : (s.setMe x).limits = s.limits := rfl
@[simp] theorem State.setMe_boot (s : State) (x : Task) : (s.setMe x).boot = s.boot := rfl
@[simp] theorem State.setMe_status (s : State) (x : Task) : (s.setMe x).status = s.status := rfl
@[simp] theorem State.setMe_pkgnum (s : State) (x : Task) : (s.setMe x).pkgnum = s.pkgnum := rfl
@[simp] theorem State.setMe_meshpos (s : State) (x : Task) : (s.setMe x).meshpos = s.meshpos := rfl
@[simp] theorem State.setMe_qsplit (s : State) (x : Task) : (s.setMe x).qsplit = s.qsplit := rfl
@[simp] theorem State.setMe_apbase (s : State) (x : Task) : (s.setMe x).apbase = s.apbase := rfl
@[simp] theorem State.setMe_temp (s : State) (x : Task) : (s.setMe x).temp = s.temp := rfl
@[simp] theorem State.setMe_power (s : State) (x : Task) : (s.setMe x).power = s.power := rfl
@[simp] theorem State.setMe_errcnt (s : State) (x : Task) : (s.setMe x).errcnt = s.errcnt := rfl
@[simp] theorem State.setMe_windows (s : State) (x : Task) : (s.setMe x).windows = s.windows := rfl
@[simp] theorem State.setMe_msix (s : State) (x : Task) : (s.setMe x).msix = s.msix := rfl
@[simp] theorem State.setMe_msixPend (s : State) (x : Task) : (s.setMe x).msixPend = s.msixPend := rfl
@[simp] theorem State.setMe_badReplies (s : State) (x : Task) : (s.setMe x).badReplies = s.badReplies := rfl
@[simp] theorem State.setMe_hostAcc (s : State) (x : Task) : (s.setMe x).hostAcc = s.hostAcc := rfl
@[simp] theorem State.setMe_hostOut (s : State) (x : Task) : (s.setMe x).hostOut = s.hostOut := rfl
@[simp] theorem State.setMe_outbox (s : State) (x : Task) : (s.setMe x).outbox = s.outbox := rfl
@[simp] theorem State.setMe_wire (s : State) (x : Task) : (s.setMe x).wire = s.wire := rfl
@[simp] theorem State.setMe_linkBack (s : State) (x : Task) : (s.setMe x).linkBack = s.linkBack := rfl
@[simp] theorem State.setMe_rx (s : State) (x : Task) : (s.setMe x).rx = s.rx := rfl
@[simp] theorem State.setMe_inbox (s : State) (x : Task) : (s.setMe x).inbox = s.inbox := rfl
@[simp] theorem State.setMe_incidents (s : State) (x : Task) : (s.setMe x).incidents = s.incidents := rfl
@[simp] theorem State.setMe_turn (s : State) (x : Task) : (s.setMe x).turn = s.turn := rfl
@[simp] theorem State.setMe_coreIdx (s : State) (x : Task) : (s.setMe x).coreIdx = s.coreIdx := rfl
@[simp] theorem State.setMe_engIdx (s : State) (x : Task) : (s.setMe x).engIdx = s.engIdx := rfl
@[simp] theorem State.setMe_cur (s : State) (x : Task) : (s.setMe x).cur = s.cur := rfl
@[simp] theorem State.setMe_before (s : State) (x : Task) : (s.setMe x).before = s.before := rfl
@[simp] theorem State.setMe_slotNo (s : State) (x : Task) : (s.setMe x).slotNo = s.slotNo := rfl
@[simp] theorem State.setMe_bits (s : State) (x : Task) : (s.setMe x).bits = s.bits := rfl
@[simp] theorem State.setMe_fresh (s : State) (x : Task) : (s.setMe x).fresh = s.fresh := rfl
@[simp] theorem State.setMe_stamp (s : State) (x : Task) : (s.setMe x).stamp = s.stamp := rfl
@[simp] theorem State.setMe_nextId (s : State) (x : Task) : (s.setMe x).nextId = s.nextId := rfl

-- setCl.

@[simp] theorem State.setCl_cycle (s : State) (k : Nat) (x : Cluster) : (s.setCl k x).cycle = s.cycle := rfl
@[simp] theorem State.setCl_ticks (s : State) (k : Nat) (x : Cluster) : (s.setCl k x).ticks = s.ticks := rfl
@[simp] theorem State.setCl_phase (s : State) (k : Nat) (x : Cluster) : (s.setCl k x).phase = s.phase := rfl
@[simp] theorem State.setCl_throttle (s : State) (k : Nat) (x : Cluster) : (s.setCl k x).throttle = s.throttle := rfl
@[simp] theorem State.setCl_shut (s : State) (k : Nat) (x : Cluster) : (s.setCl k x).shut = s.shut := rfl
@[simp] theorem State.setCl_dram (s : State) (k : Nat) (x : Cluster) : (s.setCl k x).dram = s.dram := rfl
@[simp] theorem State.setCl_dramPoison (s : State) (k : Nat) (x : Cluster) : (s.setCl k x).dramPoison = s.dramPoison := rfl
@[simp] theorem State.setCl_ctxs (s : State) (k : Nat) (x : Cluster) : (s.setCl k x).ctxs = s.ctxs := rfl
@[simp] theorem State.setCl_cores (s : State) (k : Nat) (x : Cluster) : (s.setCl k x).cores = s.cores := rfl
@[simp] theorem State.setCl_clusters (s : State) (k : Nat) (x : Cluster) : (s.setCl k x).clusters = tabPut s.clusters k x := rfl
@[simp] theorem State.setCl_engs (s : State) (k : Nat) (x : Cluster) : (s.setCl k x).engs = s.engs := rfl
@[simp] theorem State.setCl_ifetch (s : State) (k : Nat) (x : Cluster) : (s.setCl k x).ifetch = s.ifetch := rfl
@[simp] theorem State.setCl_fences (s : State) (k : Nat) (x : Cluster) : (s.setCl k x).fences = s.fences := rfl
@[simp] theorem State.setCl_arrivals (s : State) (k : Nat) (x : Cluster) : (s.setCl k x).arrivals = s.arrivals := rfl
@[simp] theorem State.setCl_wbs (s : State) (k : Nat) (x : Cluster) : (s.setCl k x).wbs = s.wbs := rfl
@[simp] theorem State.setCl_bells (s : State) (k : Nat) (x : Cluster) : (s.setCl k x).bells = s.bells := rfl
@[simp] theorem State.setCl_queues (s : State) (k : Nat) (x : Cluster) : (s.setCl k x).queues = s.queues := rfl
@[simp] theorem State.setCl_slots (s : State) (k : Nat) (x : Cluster) : (s.setCl k x).slots = s.slots := rfl
@[simp] theorem State.setCl_launches (s : State) (k : Nat) (x : Cluster) : (s.setCl k x).launches = s.launches := rfl
@[simp] theorem State.setCl_groups (s : State) (k : Nat) (x : Cluster) : (s.setCl k x).groups = s.groups := rfl
@[simp] theorem State.setCl_outs (s : State) (k : Nat) (x : Cluster) : (s.setCl k x).outs = s.outs := rfl
@[simp] theorem State.setCl_cursor (s : State) (k : Nat) (x : Cluster) : (s.setCl k x).cursor = s.cursor := rfl
@[simp] theorem State.setCl_ttTurn (s : State) (k : Nat) (x : Cluster) : (s.setCl k x).ttTurn = s.ttTurn := rfl
@[simp] theorem State.setCl_ttNext (s : State) (k : Nat) (x : Cluster) : (s.setCl k x).ttNext = s.ttNext := rfl
@[simp] theorem State.setCl_reserving (s : State) (k : Nat) (x : Cluster) : (s.setCl k x).reserving = s.reserving := rfl
@[simp] theorem State.setCl_did (s : State) (k : Nat) (x : Cluster) : (s.setCl k x).did = s.did := rfl
@[simp] theorem State.setCl_jobs (s : State) (k : Nat) (x : Cluster) : (s.setCl k x).jobs = s.jobs := rfl
@[simp] theorem State.setCl_fwd (s : State) (k : Nat) (x : Cluster) : (s.setCl k x).fwd = s.fwd := rfl
@[simp] theorem State.setCl_poolUsed (s : State) (k : Nat) (x : Cluster) : (s.setCl k x).poolUsed = s.poolUsed := rfl
@[simp] theorem State.setCl_poolBack (s : State) (k : Nat) (x : Cluster) : (s.setCl k x).poolBack = s.poolBack := rfl
@[simp] theorem State.setCl_migr (s : State) (k : Nat) (x : Cluster) : (s.setCl k x).migr = s.migr := rfl
@[simp] theorem State.setCl_waitDone (s : State) (k : Nat) (x : Cluster) : (s.setCl k x).waitDone = s.waitDone := rfl
@[simp] theorem State.setCl_routes (s : State) (k : Nat) (x : Cluster) : (s.setCl k x).routes = s.routes := rfl
@[simp] theorem State.setCl_ridgecfg (s : State) (k : Nat) (x : Cluster) : (s.setCl k x).ridgecfg = s.ridgecfg := rfl
@[simp] theorem State.setCl_ports (s : State) (k : Nat) (x : Cluster) : (s.setCl k x).ports = s.ports := rfl
@[simp] theorem State.setCl_chans (s : State) (k : Nat) (x : Cluster) : (s.setCl k x).chans = s.chans := rfl
@[simp] theorem State.setCl_comms (s : State) (k : Nat) (x : Cluster) : (s.setCl k x).comms = s.comms := rfl
@[simp] theorem State.setCl_commSeq (s : State) (k : Nat) (x : Cluster) : (s.setCl k x).commSeq = s.commSeq := rfl
@[simp] theorem State.setCl_colls (s : State) (k : Nat) (x : Cluster) : (s.setCl k x).colls = s.colls := rfl
@[simp] theorem State.setCl_served (s : State) (k : Nat) (x : Cluster) : (s.setCl k x).served = s.served := rfl
@[simp] theorem State.setCl_pieces (s : State) (k : Nat) (x : Cluster) : (s.setCl k x).pieces = s.pieces := rfl
@[simp] theorem State.setCl_commCred (s : State) (k : Nat) (x : Cluster) : (s.setCl k x).commCred = s.commCred := rfl
@[simp] theorem State.setCl_creditOut (s : State) (k : Nat) (x : Cluster) : (s.setCl k x).creditOut = s.creditOut := rfl
@[simp] theorem State.setCl_creditHeld (s : State) (k : Nat) (x : Cluster) : (s.setCl k x).creditHeld = s.creditHeld := rfl
@[simp] theorem State.setCl_kernels (s : State) (k : Nat) (x : Cluster) : (s.setCl k x).kernels = s.kernels := rfl
@[simp] theorem State.setCl_bindings (s : State) (k : Nat) (x : Cluster) : (s.setCl k x).bindings = s.bindings := rfl
@[simp] theorem State.setCl_runs (s : State) (k : Nat) (x : Cluster) : (s.setCl k x).runs = s.runs := rfl
@[simp] theorem State.setCl_flow (s : State) (k : Nat) (x : Cluster) : (s.setCl k x).flow = s.flow := rfl
@[simp] theorem State.setCl_ckpts (s : State) (k : Nat) (x : Cluster) : (s.setCl k x).ckpts = s.ckpts := rfl
@[simp] theorem State.setCl_cutWait (s : State) (k : Nat) (x : Cluster) : (s.setCl k x).cutWait = s.cutWait := rfl
@[simp] theorem State.setCl_errs (s : State) (k : Nat) (x : Cluster) : (s.setCl k x).errs = s.errs := rfl
@[simp] theorem State.setCl_spares (s : State) (k : Nat) (x : Cluster) : (s.setCl k x).spares = s.spares := rfl
@[simp] theorem State.setCl_worn (s : State) (k : Nat) (x : Cluster) : (s.setCl k x).worn = s.worn := rfl
@[simp] theorem State.setCl_limits (s : State) (k : Nat) (x : Cluster) : (s.setCl k x).limits = s.limits := rfl
@[simp] theorem State.setCl_boot (s : State) (k : Nat) (x : Cluster) : (s.setCl k x).boot = s.boot := rfl
@[simp] theorem State.setCl_status (s : State) (k : Nat) (x : Cluster) : (s.setCl k x).status = s.status := rfl
@[simp] theorem State.setCl_pkgnum (s : State) (k : Nat) (x : Cluster) : (s.setCl k x).pkgnum = s.pkgnum := rfl
@[simp] theorem State.setCl_meshpos (s : State) (k : Nat) (x : Cluster) : (s.setCl k x).meshpos = s.meshpos := rfl
@[simp] theorem State.setCl_qsplit (s : State) (k : Nat) (x : Cluster) : (s.setCl k x).qsplit = s.qsplit := rfl
@[simp] theorem State.setCl_apbase (s : State) (k : Nat) (x : Cluster) : (s.setCl k x).apbase = s.apbase := rfl
@[simp] theorem State.setCl_temp (s : State) (k : Nat) (x : Cluster) : (s.setCl k x).temp = s.temp := rfl
@[simp] theorem State.setCl_power (s : State) (k : Nat) (x : Cluster) : (s.setCl k x).power = s.power := rfl
@[simp] theorem State.setCl_errcnt (s : State) (k : Nat) (x : Cluster) : (s.setCl k x).errcnt = s.errcnt := rfl
@[simp] theorem State.setCl_windows (s : State) (k : Nat) (x : Cluster) : (s.setCl k x).windows = s.windows := rfl
@[simp] theorem State.setCl_msix (s : State) (k : Nat) (x : Cluster) : (s.setCl k x).msix = s.msix := rfl
@[simp] theorem State.setCl_msixPend (s : State) (k : Nat) (x : Cluster) : (s.setCl k x).msixPend = s.msixPend := rfl
@[simp] theorem State.setCl_badReplies (s : State) (k : Nat) (x : Cluster) : (s.setCl k x).badReplies = s.badReplies := rfl
@[simp] theorem State.setCl_hostAcc (s : State) (k : Nat) (x : Cluster) : (s.setCl k x).hostAcc = s.hostAcc := rfl
@[simp] theorem State.setCl_hostOut (s : State) (k : Nat) (x : Cluster) : (s.setCl k x).hostOut = s.hostOut := rfl
@[simp] theorem State.setCl_outbox (s : State) (k : Nat) (x : Cluster) : (s.setCl k x).outbox = s.outbox := rfl
@[simp] theorem State.setCl_wire (s : State) (k : Nat) (x : Cluster) : (s.setCl k x).wire = s.wire := rfl
@[simp] theorem State.setCl_linkBack (s : State) (k : Nat) (x : Cluster) : (s.setCl k x).linkBack = s.linkBack := rfl
@[simp] theorem State.setCl_rx (s : State) (k : Nat) (x : Cluster) : (s.setCl k x).rx = s.rx := rfl
@[simp] theorem State.setCl_inbox (s : State) (k : Nat) (x : Cluster) : (s.setCl k x).inbox = s.inbox := rfl
@[simp] theorem State.setCl_incidents (s : State) (k : Nat) (x : Cluster) : (s.setCl k x).incidents = s.incidents := rfl
@[simp] theorem State.setCl_turn (s : State) (k : Nat) (x : Cluster) : (s.setCl k x).turn = s.turn := rfl
@[simp] theorem State.setCl_coreIdx (s : State) (k : Nat) (x : Cluster) : (s.setCl k x).coreIdx = s.coreIdx := rfl
@[simp] theorem State.setCl_engIdx (s : State) (k : Nat) (x : Cluster) : (s.setCl k x).engIdx = s.engIdx := rfl
@[simp] theorem State.setCl_cur (s : State) (k : Nat) (x : Cluster) : (s.setCl k x).cur = s.cur := rfl
@[simp] theorem State.setCl_before (s : State) (k : Nat) (x : Cluster) : (s.setCl k x).before = s.before := rfl
@[simp] theorem State.setCl_slotNo (s : State) (k : Nat) (x : Cluster) : (s.setCl k x).slotNo = s.slotNo := rfl
@[simp] theorem State.setCl_bits (s : State) (k : Nat) (x : Cluster) : (s.setCl k x).bits = s.bits := rfl
@[simp] theorem State.setCl_fresh (s : State) (k : Nat) (x : Cluster) : (s.setCl k x).fresh = s.fresh := rfl
@[simp] theorem State.setCl_stamp (s : State) (k : Nat) (x : Cluster) : (s.setCl k x).stamp = s.stamp := rfl
@[simp] theorem State.setCl_nextId (s : State) (k : Nat) (x : Cluster) : (s.setCl k x).nextId = s.nextId := rfl

-- setMyCl.

@[simp] theorem State.setMyCl_cycle (s : State) (x : Cluster) : (s.setMyCl x).cycle = s.cycle := rfl
@[simp] theorem State.setMyCl_ticks (s : State) (x : Cluster) : (s.setMyCl x).ticks = s.ticks := rfl
@[simp] theorem State.setMyCl_phase (s : State) (x : Cluster) : (s.setMyCl x).phase = s.phase := rfl
@[simp] theorem State.setMyCl_throttle (s : State) (x : Cluster) : (s.setMyCl x).throttle = s.throttle := rfl
@[simp] theorem State.setMyCl_shut (s : State) (x : Cluster) : (s.setMyCl x).shut = s.shut := rfl
@[simp] theorem State.setMyCl_dram (s : State) (x : Cluster) : (s.setMyCl x).dram = s.dram := rfl
@[simp] theorem State.setMyCl_dramPoison (s : State) (x : Cluster) : (s.setMyCl x).dramPoison = s.dramPoison := rfl
@[simp] theorem State.setMyCl_ctxs (s : State) (x : Cluster) : (s.setMyCl x).ctxs = s.ctxs := rfl
@[simp] theorem State.setMyCl_cores (s : State) (x : Cluster) : (s.setMyCl x).cores = s.cores := rfl
@[simp] theorem State.setMyCl_clusters (s : State) (x : Cluster) : (s.setMyCl x).clusters = tabPut s.clusters (clOf s.cur) x := rfl
@[simp] theorem State.setMyCl_engs (s : State) (x : Cluster) : (s.setMyCl x).engs = s.engs := rfl
@[simp] theorem State.setMyCl_ifetch (s : State) (x : Cluster) : (s.setMyCl x).ifetch = s.ifetch := rfl
@[simp] theorem State.setMyCl_fences (s : State) (x : Cluster) : (s.setMyCl x).fences = s.fences := rfl
@[simp] theorem State.setMyCl_arrivals (s : State) (x : Cluster) : (s.setMyCl x).arrivals = s.arrivals := rfl
@[simp] theorem State.setMyCl_wbs (s : State) (x : Cluster) : (s.setMyCl x).wbs = s.wbs := rfl
@[simp] theorem State.setMyCl_bells (s : State) (x : Cluster) : (s.setMyCl x).bells = s.bells := rfl
@[simp] theorem State.setMyCl_queues (s : State) (x : Cluster) : (s.setMyCl x).queues = s.queues := rfl
@[simp] theorem State.setMyCl_slots (s : State) (x : Cluster) : (s.setMyCl x).slots = s.slots := rfl
@[simp] theorem State.setMyCl_launches (s : State) (x : Cluster) : (s.setMyCl x).launches = s.launches := rfl
@[simp] theorem State.setMyCl_groups (s : State) (x : Cluster) : (s.setMyCl x).groups = s.groups := rfl
@[simp] theorem State.setMyCl_outs (s : State) (x : Cluster) : (s.setMyCl x).outs = s.outs := rfl
@[simp] theorem State.setMyCl_cursor (s : State) (x : Cluster) : (s.setMyCl x).cursor = s.cursor := rfl
@[simp] theorem State.setMyCl_ttTurn (s : State) (x : Cluster) : (s.setMyCl x).ttTurn = s.ttTurn := rfl
@[simp] theorem State.setMyCl_ttNext (s : State) (x : Cluster) : (s.setMyCl x).ttNext = s.ttNext := rfl
@[simp] theorem State.setMyCl_reserving (s : State) (x : Cluster) : (s.setMyCl x).reserving = s.reserving := rfl
@[simp] theorem State.setMyCl_did (s : State) (x : Cluster) : (s.setMyCl x).did = s.did := rfl
@[simp] theorem State.setMyCl_jobs (s : State) (x : Cluster) : (s.setMyCl x).jobs = s.jobs := rfl
@[simp] theorem State.setMyCl_fwd (s : State) (x : Cluster) : (s.setMyCl x).fwd = s.fwd := rfl
@[simp] theorem State.setMyCl_poolUsed (s : State) (x : Cluster) : (s.setMyCl x).poolUsed = s.poolUsed := rfl
@[simp] theorem State.setMyCl_poolBack (s : State) (x : Cluster) : (s.setMyCl x).poolBack = s.poolBack := rfl
@[simp] theorem State.setMyCl_migr (s : State) (x : Cluster) : (s.setMyCl x).migr = s.migr := rfl
@[simp] theorem State.setMyCl_waitDone (s : State) (x : Cluster) : (s.setMyCl x).waitDone = s.waitDone := rfl
@[simp] theorem State.setMyCl_routes (s : State) (x : Cluster) : (s.setMyCl x).routes = s.routes := rfl
@[simp] theorem State.setMyCl_ridgecfg (s : State) (x : Cluster) : (s.setMyCl x).ridgecfg = s.ridgecfg := rfl
@[simp] theorem State.setMyCl_ports (s : State) (x : Cluster) : (s.setMyCl x).ports = s.ports := rfl
@[simp] theorem State.setMyCl_chans (s : State) (x : Cluster) : (s.setMyCl x).chans = s.chans := rfl
@[simp] theorem State.setMyCl_comms (s : State) (x : Cluster) : (s.setMyCl x).comms = s.comms := rfl
@[simp] theorem State.setMyCl_commSeq (s : State) (x : Cluster) : (s.setMyCl x).commSeq = s.commSeq := rfl
@[simp] theorem State.setMyCl_colls (s : State) (x : Cluster) : (s.setMyCl x).colls = s.colls := rfl
@[simp] theorem State.setMyCl_served (s : State) (x : Cluster) : (s.setMyCl x).served = s.served := rfl
@[simp] theorem State.setMyCl_pieces (s : State) (x : Cluster) : (s.setMyCl x).pieces = s.pieces := rfl
@[simp] theorem State.setMyCl_commCred (s : State) (x : Cluster) : (s.setMyCl x).commCred = s.commCred := rfl
@[simp] theorem State.setMyCl_creditOut (s : State) (x : Cluster) : (s.setMyCl x).creditOut = s.creditOut := rfl
@[simp] theorem State.setMyCl_creditHeld (s : State) (x : Cluster) : (s.setMyCl x).creditHeld = s.creditHeld := rfl
@[simp] theorem State.setMyCl_kernels (s : State) (x : Cluster) : (s.setMyCl x).kernels = s.kernels := rfl
@[simp] theorem State.setMyCl_bindings (s : State) (x : Cluster) : (s.setMyCl x).bindings = s.bindings := rfl
@[simp] theorem State.setMyCl_runs (s : State) (x : Cluster) : (s.setMyCl x).runs = s.runs := rfl
@[simp] theorem State.setMyCl_flow (s : State) (x : Cluster) : (s.setMyCl x).flow = s.flow := rfl
@[simp] theorem State.setMyCl_ckpts (s : State) (x : Cluster) : (s.setMyCl x).ckpts = s.ckpts := rfl
@[simp] theorem State.setMyCl_cutWait (s : State) (x : Cluster) : (s.setMyCl x).cutWait = s.cutWait := rfl
@[simp] theorem State.setMyCl_errs (s : State) (x : Cluster) : (s.setMyCl x).errs = s.errs := rfl
@[simp] theorem State.setMyCl_spares (s : State) (x : Cluster) : (s.setMyCl x).spares = s.spares := rfl
@[simp] theorem State.setMyCl_worn (s : State) (x : Cluster) : (s.setMyCl x).worn = s.worn := rfl
@[simp] theorem State.setMyCl_limits (s : State) (x : Cluster) : (s.setMyCl x).limits = s.limits := rfl
@[simp] theorem State.setMyCl_boot (s : State) (x : Cluster) : (s.setMyCl x).boot = s.boot := rfl
@[simp] theorem State.setMyCl_status (s : State) (x : Cluster) : (s.setMyCl x).status = s.status := rfl
@[simp] theorem State.setMyCl_pkgnum (s : State) (x : Cluster) : (s.setMyCl x).pkgnum = s.pkgnum := rfl
@[simp] theorem State.setMyCl_meshpos (s : State) (x : Cluster) : (s.setMyCl x).meshpos = s.meshpos := rfl
@[simp] theorem State.setMyCl_qsplit (s : State) (x : Cluster) : (s.setMyCl x).qsplit = s.qsplit := rfl
@[simp] theorem State.setMyCl_apbase (s : State) (x : Cluster) : (s.setMyCl x).apbase = s.apbase := rfl
@[simp] theorem State.setMyCl_temp (s : State) (x : Cluster) : (s.setMyCl x).temp = s.temp := rfl
@[simp] theorem State.setMyCl_power (s : State) (x : Cluster) : (s.setMyCl x).power = s.power := rfl
@[simp] theorem State.setMyCl_errcnt (s : State) (x : Cluster) : (s.setMyCl x).errcnt = s.errcnt := rfl
@[simp] theorem State.setMyCl_windows (s : State) (x : Cluster) : (s.setMyCl x).windows = s.windows := rfl
@[simp] theorem State.setMyCl_msix (s : State) (x : Cluster) : (s.setMyCl x).msix = s.msix := rfl
@[simp] theorem State.setMyCl_msixPend (s : State) (x : Cluster) : (s.setMyCl x).msixPend = s.msixPend := rfl
@[simp] theorem State.setMyCl_badReplies (s : State) (x : Cluster) : (s.setMyCl x).badReplies = s.badReplies := rfl
@[simp] theorem State.setMyCl_hostAcc (s : State) (x : Cluster) : (s.setMyCl x).hostAcc = s.hostAcc := rfl
@[simp] theorem State.setMyCl_hostOut (s : State) (x : Cluster) : (s.setMyCl x).hostOut = s.hostOut := rfl
@[simp] theorem State.setMyCl_outbox (s : State) (x : Cluster) : (s.setMyCl x).outbox = s.outbox := rfl
@[simp] theorem State.setMyCl_wire (s : State) (x : Cluster) : (s.setMyCl x).wire = s.wire := rfl
@[simp] theorem State.setMyCl_linkBack (s : State) (x : Cluster) : (s.setMyCl x).linkBack = s.linkBack := rfl
@[simp] theorem State.setMyCl_rx (s : State) (x : Cluster) : (s.setMyCl x).rx = s.rx := rfl
@[simp] theorem State.setMyCl_inbox (s : State) (x : Cluster) : (s.setMyCl x).inbox = s.inbox := rfl
@[simp] theorem State.setMyCl_incidents (s : State) (x : Cluster) : (s.setMyCl x).incidents = s.incidents := rfl
@[simp] theorem State.setMyCl_turn (s : State) (x : Cluster) : (s.setMyCl x).turn = s.turn := rfl
@[simp] theorem State.setMyCl_coreIdx (s : State) (x : Cluster) : (s.setMyCl x).coreIdx = s.coreIdx := rfl
@[simp] theorem State.setMyCl_engIdx (s : State) (x : Cluster) : (s.setMyCl x).engIdx = s.engIdx := rfl
@[simp] theorem State.setMyCl_cur (s : State) (x : Cluster) : (s.setMyCl x).cur = s.cur := rfl
@[simp] theorem State.setMyCl_before (s : State) (x : Cluster) : (s.setMyCl x).before = s.before := rfl
@[simp] theorem State.setMyCl_slotNo (s : State) (x : Cluster) : (s.setMyCl x).slotNo = s.slotNo := rfl
@[simp] theorem State.setMyCl_bits (s : State) (x : Cluster) : (s.setMyCl x).bits = s.bits := rfl
@[simp] theorem State.setMyCl_fresh (s : State) (x : Cluster) : (s.setMyCl x).fresh = s.fresh := rfl
@[simp] theorem State.setMyCl_stamp (s : State) (x : Cluster) : (s.setMyCl x).stamp = s.stamp := rfl
@[simp] theorem State.setMyCl_nextId (s : State) (x : Cluster) : (s.setMyCl x).nextId = s.nextId := rfl

-- setCore.

@[simp] theorem State.setCore_cycle (s : State) (k : Nat) (x : Core) : (s.setCore k x).cycle = s.cycle := rfl
@[simp] theorem State.setCore_ticks (s : State) (k : Nat) (x : Core) : (s.setCore k x).ticks = s.ticks := rfl
@[simp] theorem State.setCore_phase (s : State) (k : Nat) (x : Core) : (s.setCore k x).phase = s.phase := rfl
@[simp] theorem State.setCore_throttle (s : State) (k : Nat) (x : Core) : (s.setCore k x).throttle = s.throttle := rfl
@[simp] theorem State.setCore_shut (s : State) (k : Nat) (x : Core) : (s.setCore k x).shut = s.shut := rfl
@[simp] theorem State.setCore_dram (s : State) (k : Nat) (x : Core) : (s.setCore k x).dram = s.dram := rfl
@[simp] theorem State.setCore_dramPoison (s : State) (k : Nat) (x : Core) : (s.setCore k x).dramPoison = s.dramPoison := rfl
@[simp] theorem State.setCore_ctxs (s : State) (k : Nat) (x : Core) : (s.setCore k x).ctxs = s.ctxs := rfl
@[simp] theorem State.setCore_cores (s : State) (k : Nat) (x : Core) : (s.setCore k x).cores = tabPut s.cores k x := rfl
@[simp] theorem State.setCore_clusters (s : State) (k : Nat) (x : Core) : (s.setCore k x).clusters = s.clusters := rfl
@[simp] theorem State.setCore_engs (s : State) (k : Nat) (x : Core) : (s.setCore k x).engs = s.engs := rfl
@[simp] theorem State.setCore_ifetch (s : State) (k : Nat) (x : Core) : (s.setCore k x).ifetch = s.ifetch := rfl
@[simp] theorem State.setCore_fences (s : State) (k : Nat) (x : Core) : (s.setCore k x).fences = s.fences := rfl
@[simp] theorem State.setCore_arrivals (s : State) (k : Nat) (x : Core) : (s.setCore k x).arrivals = s.arrivals := rfl
@[simp] theorem State.setCore_wbs (s : State) (k : Nat) (x : Core) : (s.setCore k x).wbs = s.wbs := rfl
@[simp] theorem State.setCore_bells (s : State) (k : Nat) (x : Core) : (s.setCore k x).bells = s.bells := rfl
@[simp] theorem State.setCore_queues (s : State) (k : Nat) (x : Core) : (s.setCore k x).queues = s.queues := rfl
@[simp] theorem State.setCore_slots (s : State) (k : Nat) (x : Core) : (s.setCore k x).slots = s.slots := rfl
@[simp] theorem State.setCore_launches (s : State) (k : Nat) (x : Core) : (s.setCore k x).launches = s.launches := rfl
@[simp] theorem State.setCore_groups (s : State) (k : Nat) (x : Core) : (s.setCore k x).groups = s.groups := rfl
@[simp] theorem State.setCore_outs (s : State) (k : Nat) (x : Core) : (s.setCore k x).outs = s.outs := rfl
@[simp] theorem State.setCore_cursor (s : State) (k : Nat) (x : Core) : (s.setCore k x).cursor = s.cursor := rfl
@[simp] theorem State.setCore_ttTurn (s : State) (k : Nat) (x : Core) : (s.setCore k x).ttTurn = s.ttTurn := rfl
@[simp] theorem State.setCore_ttNext (s : State) (k : Nat) (x : Core) : (s.setCore k x).ttNext = s.ttNext := rfl
@[simp] theorem State.setCore_reserving (s : State) (k : Nat) (x : Core) : (s.setCore k x).reserving = s.reserving := rfl
@[simp] theorem State.setCore_did (s : State) (k : Nat) (x : Core) : (s.setCore k x).did = s.did := rfl
@[simp] theorem State.setCore_jobs (s : State) (k : Nat) (x : Core) : (s.setCore k x).jobs = s.jobs := rfl
@[simp] theorem State.setCore_fwd (s : State) (k : Nat) (x : Core) : (s.setCore k x).fwd = s.fwd := rfl
@[simp] theorem State.setCore_poolUsed (s : State) (k : Nat) (x : Core) : (s.setCore k x).poolUsed = s.poolUsed := rfl
@[simp] theorem State.setCore_poolBack (s : State) (k : Nat) (x : Core) : (s.setCore k x).poolBack = s.poolBack := rfl
@[simp] theorem State.setCore_migr (s : State) (k : Nat) (x : Core) : (s.setCore k x).migr = s.migr := rfl
@[simp] theorem State.setCore_waitDone (s : State) (k : Nat) (x : Core) : (s.setCore k x).waitDone = s.waitDone := rfl
@[simp] theorem State.setCore_routes (s : State) (k : Nat) (x : Core) : (s.setCore k x).routes = s.routes := rfl
@[simp] theorem State.setCore_ridgecfg (s : State) (k : Nat) (x : Core) : (s.setCore k x).ridgecfg = s.ridgecfg := rfl
@[simp] theorem State.setCore_ports (s : State) (k : Nat) (x : Core) : (s.setCore k x).ports = s.ports := rfl
@[simp] theorem State.setCore_chans (s : State) (k : Nat) (x : Core) : (s.setCore k x).chans = s.chans := rfl
@[simp] theorem State.setCore_comms (s : State) (k : Nat) (x : Core) : (s.setCore k x).comms = s.comms := rfl
@[simp] theorem State.setCore_commSeq (s : State) (k : Nat) (x : Core) : (s.setCore k x).commSeq = s.commSeq := rfl
@[simp] theorem State.setCore_colls (s : State) (k : Nat) (x : Core) : (s.setCore k x).colls = s.colls := rfl
@[simp] theorem State.setCore_served (s : State) (k : Nat) (x : Core) : (s.setCore k x).served = s.served := rfl
@[simp] theorem State.setCore_pieces (s : State) (k : Nat) (x : Core) : (s.setCore k x).pieces = s.pieces := rfl
@[simp] theorem State.setCore_commCred (s : State) (k : Nat) (x : Core) : (s.setCore k x).commCred = s.commCred := rfl
@[simp] theorem State.setCore_creditOut (s : State) (k : Nat) (x : Core) : (s.setCore k x).creditOut = s.creditOut := rfl
@[simp] theorem State.setCore_creditHeld (s : State) (k : Nat) (x : Core) : (s.setCore k x).creditHeld = s.creditHeld := rfl
@[simp] theorem State.setCore_kernels (s : State) (k : Nat) (x : Core) : (s.setCore k x).kernels = s.kernels := rfl
@[simp] theorem State.setCore_bindings (s : State) (k : Nat) (x : Core) : (s.setCore k x).bindings = s.bindings := rfl
@[simp] theorem State.setCore_runs (s : State) (k : Nat) (x : Core) : (s.setCore k x).runs = s.runs := rfl
@[simp] theorem State.setCore_flow (s : State) (k : Nat) (x : Core) : (s.setCore k x).flow = s.flow := rfl
@[simp] theorem State.setCore_ckpts (s : State) (k : Nat) (x : Core) : (s.setCore k x).ckpts = s.ckpts := rfl
@[simp] theorem State.setCore_cutWait (s : State) (k : Nat) (x : Core) : (s.setCore k x).cutWait = s.cutWait := rfl
@[simp] theorem State.setCore_errs (s : State) (k : Nat) (x : Core) : (s.setCore k x).errs = s.errs := rfl
@[simp] theorem State.setCore_spares (s : State) (k : Nat) (x : Core) : (s.setCore k x).spares = s.spares := rfl
@[simp] theorem State.setCore_worn (s : State) (k : Nat) (x : Core) : (s.setCore k x).worn = s.worn := rfl
@[simp] theorem State.setCore_limits (s : State) (k : Nat) (x : Core) : (s.setCore k x).limits = s.limits := rfl
@[simp] theorem State.setCore_boot (s : State) (k : Nat) (x : Core) : (s.setCore k x).boot = s.boot := rfl
@[simp] theorem State.setCore_status (s : State) (k : Nat) (x : Core) : (s.setCore k x).status = s.status := rfl
@[simp] theorem State.setCore_pkgnum (s : State) (k : Nat) (x : Core) : (s.setCore k x).pkgnum = s.pkgnum := rfl
@[simp] theorem State.setCore_meshpos (s : State) (k : Nat) (x : Core) : (s.setCore k x).meshpos = s.meshpos := rfl
@[simp] theorem State.setCore_qsplit (s : State) (k : Nat) (x : Core) : (s.setCore k x).qsplit = s.qsplit := rfl
@[simp] theorem State.setCore_apbase (s : State) (k : Nat) (x : Core) : (s.setCore k x).apbase = s.apbase := rfl
@[simp] theorem State.setCore_temp (s : State) (k : Nat) (x : Core) : (s.setCore k x).temp = s.temp := rfl
@[simp] theorem State.setCore_power (s : State) (k : Nat) (x : Core) : (s.setCore k x).power = s.power := rfl
@[simp] theorem State.setCore_errcnt (s : State) (k : Nat) (x : Core) : (s.setCore k x).errcnt = s.errcnt := rfl
@[simp] theorem State.setCore_windows (s : State) (k : Nat) (x : Core) : (s.setCore k x).windows = s.windows := rfl
@[simp] theorem State.setCore_msix (s : State) (k : Nat) (x : Core) : (s.setCore k x).msix = s.msix := rfl
@[simp] theorem State.setCore_msixPend (s : State) (k : Nat) (x : Core) : (s.setCore k x).msixPend = s.msixPend := rfl
@[simp] theorem State.setCore_badReplies (s : State) (k : Nat) (x : Core) : (s.setCore k x).badReplies = s.badReplies := rfl
@[simp] theorem State.setCore_hostAcc (s : State) (k : Nat) (x : Core) : (s.setCore k x).hostAcc = s.hostAcc := rfl
@[simp] theorem State.setCore_hostOut (s : State) (k : Nat) (x : Core) : (s.setCore k x).hostOut = s.hostOut := rfl
@[simp] theorem State.setCore_outbox (s : State) (k : Nat) (x : Core) : (s.setCore k x).outbox = s.outbox := rfl
@[simp] theorem State.setCore_wire (s : State) (k : Nat) (x : Core) : (s.setCore k x).wire = s.wire := rfl
@[simp] theorem State.setCore_linkBack (s : State) (k : Nat) (x : Core) : (s.setCore k x).linkBack = s.linkBack := rfl
@[simp] theorem State.setCore_rx (s : State) (k : Nat) (x : Core) : (s.setCore k x).rx = s.rx := rfl
@[simp] theorem State.setCore_inbox (s : State) (k : Nat) (x : Core) : (s.setCore k x).inbox = s.inbox := rfl
@[simp] theorem State.setCore_incidents (s : State) (k : Nat) (x : Core) : (s.setCore k x).incidents = s.incidents := rfl
@[simp] theorem State.setCore_turn (s : State) (k : Nat) (x : Core) : (s.setCore k x).turn = s.turn := rfl
@[simp] theorem State.setCore_coreIdx (s : State) (k : Nat) (x : Core) : (s.setCore k x).coreIdx = s.coreIdx := rfl
@[simp] theorem State.setCore_engIdx (s : State) (k : Nat) (x : Core) : (s.setCore k x).engIdx = s.engIdx := rfl
@[simp] theorem State.setCore_cur (s : State) (k : Nat) (x : Core) : (s.setCore k x).cur = s.cur := rfl
@[simp] theorem State.setCore_before (s : State) (k : Nat) (x : Core) : (s.setCore k x).before = s.before := rfl
@[simp] theorem State.setCore_slotNo (s : State) (k : Nat) (x : Core) : (s.setCore k x).slotNo = s.slotNo := rfl
@[simp] theorem State.setCore_bits (s : State) (k : Nat) (x : Core) : (s.setCore k x).bits = s.bits := rfl
@[simp] theorem State.setCore_fresh (s : State) (k : Nat) (x : Core) : (s.setCore k x).fresh = s.fresh := rfl
@[simp] theorem State.setCore_stamp (s : State) (k : Nat) (x : Core) : (s.setCore k x).stamp = s.stamp := rfl
@[simp] theorem State.setCore_nextId (s : State) (k : Nat) (x : Core) : (s.setCore k x).nextId = s.nextId := rfl

-- setEng.

@[simp] theorem State.setEng_cycle (s : State) (e : Nat) (q : List Cmd) : (s.setEng e q).cycle = s.cycle := rfl
@[simp] theorem State.setEng_ticks (s : State) (e : Nat) (q : List Cmd) : (s.setEng e q).ticks = s.ticks := rfl
@[simp] theorem State.setEng_phase (s : State) (e : Nat) (q : List Cmd) : (s.setEng e q).phase = s.phase := rfl
@[simp] theorem State.setEng_throttle (s : State) (e : Nat) (q : List Cmd) : (s.setEng e q).throttle = s.throttle := rfl
@[simp] theorem State.setEng_shut (s : State) (e : Nat) (q : List Cmd) : (s.setEng e q).shut = s.shut := rfl
@[simp] theorem State.setEng_dram (s : State) (e : Nat) (q : List Cmd) : (s.setEng e q).dram = s.dram := rfl
@[simp] theorem State.setEng_dramPoison (s : State) (e : Nat) (q : List Cmd) : (s.setEng e q).dramPoison = s.dramPoison := rfl
@[simp] theorem State.setEng_ctxs (s : State) (e : Nat) (q : List Cmd) : (s.setEng e q).ctxs = s.ctxs := rfl
@[simp] theorem State.setEng_cores (s : State) (e : Nat) (q : List Cmd) : (s.setEng e q).cores = s.cores := rfl
@[simp] theorem State.setEng_clusters (s : State) (e : Nat) (q : List Cmd) : (s.setEng e q).clusters = s.clusters := rfl
@[simp] theorem State.setEng_engs (s : State) (e : Nat) (q : List Cmd) : (s.setEng e q).engs = tabPut s.engs e q := rfl
@[simp] theorem State.setEng_ifetch (s : State) (e : Nat) (q : List Cmd) : (s.setEng e q).ifetch = s.ifetch := rfl
@[simp] theorem State.setEng_fences (s : State) (e : Nat) (q : List Cmd) : (s.setEng e q).fences = s.fences := rfl
@[simp] theorem State.setEng_arrivals (s : State) (e : Nat) (q : List Cmd) : (s.setEng e q).arrivals = s.arrivals := rfl
@[simp] theorem State.setEng_wbs (s : State) (e : Nat) (q : List Cmd) : (s.setEng e q).wbs = s.wbs := rfl
@[simp] theorem State.setEng_bells (s : State) (e : Nat) (q : List Cmd) : (s.setEng e q).bells = s.bells := rfl
@[simp] theorem State.setEng_queues (s : State) (e : Nat) (q : List Cmd) : (s.setEng e q).queues = s.queues := rfl
@[simp] theorem State.setEng_slots (s : State) (e : Nat) (q : List Cmd) : (s.setEng e q).slots = s.slots := rfl
@[simp] theorem State.setEng_launches (s : State) (e : Nat) (q : List Cmd) : (s.setEng e q).launches = s.launches := rfl
@[simp] theorem State.setEng_groups (s : State) (e : Nat) (q : List Cmd) : (s.setEng e q).groups = s.groups := rfl
@[simp] theorem State.setEng_outs (s : State) (e : Nat) (q : List Cmd) : (s.setEng e q).outs = s.outs := rfl
@[simp] theorem State.setEng_cursor (s : State) (e : Nat) (q : List Cmd) : (s.setEng e q).cursor = s.cursor := rfl
@[simp] theorem State.setEng_ttTurn (s : State) (e : Nat) (q : List Cmd) : (s.setEng e q).ttTurn = s.ttTurn := rfl
@[simp] theorem State.setEng_ttNext (s : State) (e : Nat) (q : List Cmd) : (s.setEng e q).ttNext = s.ttNext := rfl
@[simp] theorem State.setEng_reserving (s : State) (e : Nat) (q : List Cmd) : (s.setEng e q).reserving = s.reserving := rfl
@[simp] theorem State.setEng_did (s : State) (e : Nat) (q : List Cmd) : (s.setEng e q).did = s.did := rfl
@[simp] theorem State.setEng_jobs (s : State) (e : Nat) (q : List Cmd) : (s.setEng e q).jobs = s.jobs := rfl
@[simp] theorem State.setEng_fwd (s : State) (e : Nat) (q : List Cmd) : (s.setEng e q).fwd = s.fwd := rfl
@[simp] theorem State.setEng_poolUsed (s : State) (e : Nat) (q : List Cmd) : (s.setEng e q).poolUsed = s.poolUsed := rfl
@[simp] theorem State.setEng_poolBack (s : State) (e : Nat) (q : List Cmd) : (s.setEng e q).poolBack = s.poolBack := rfl
@[simp] theorem State.setEng_migr (s : State) (e : Nat) (q : List Cmd) : (s.setEng e q).migr = s.migr := rfl
@[simp] theorem State.setEng_waitDone (s : State) (e : Nat) (q : List Cmd) : (s.setEng e q).waitDone = s.waitDone := rfl
@[simp] theorem State.setEng_routes (s : State) (e : Nat) (q : List Cmd) : (s.setEng e q).routes = s.routes := rfl
@[simp] theorem State.setEng_ridgecfg (s : State) (e : Nat) (q : List Cmd) : (s.setEng e q).ridgecfg = s.ridgecfg := rfl
@[simp] theorem State.setEng_ports (s : State) (e : Nat) (q : List Cmd) : (s.setEng e q).ports = s.ports := rfl
@[simp] theorem State.setEng_chans (s : State) (e : Nat) (q : List Cmd) : (s.setEng e q).chans = s.chans := rfl
@[simp] theorem State.setEng_comms (s : State) (e : Nat) (q : List Cmd) : (s.setEng e q).comms = s.comms := rfl
@[simp] theorem State.setEng_commSeq (s : State) (e : Nat) (q : List Cmd) : (s.setEng e q).commSeq = s.commSeq := rfl
@[simp] theorem State.setEng_colls (s : State) (e : Nat) (q : List Cmd) : (s.setEng e q).colls = s.colls := rfl
@[simp] theorem State.setEng_served (s : State) (e : Nat) (q : List Cmd) : (s.setEng e q).served = s.served := rfl
@[simp] theorem State.setEng_pieces (s : State) (e : Nat) (q : List Cmd) : (s.setEng e q).pieces = s.pieces := rfl
@[simp] theorem State.setEng_commCred (s : State) (e : Nat) (q : List Cmd) : (s.setEng e q).commCred = s.commCred := rfl
@[simp] theorem State.setEng_creditOut (s : State) (e : Nat) (q : List Cmd) : (s.setEng e q).creditOut = s.creditOut := rfl
@[simp] theorem State.setEng_creditHeld (s : State) (e : Nat) (q : List Cmd) : (s.setEng e q).creditHeld = s.creditHeld := rfl
@[simp] theorem State.setEng_kernels (s : State) (e : Nat) (q : List Cmd) : (s.setEng e q).kernels = s.kernels := rfl
@[simp] theorem State.setEng_bindings (s : State) (e : Nat) (q : List Cmd) : (s.setEng e q).bindings = s.bindings := rfl
@[simp] theorem State.setEng_runs (s : State) (e : Nat) (q : List Cmd) : (s.setEng e q).runs = s.runs := rfl
@[simp] theorem State.setEng_flow (s : State) (e : Nat) (q : List Cmd) : (s.setEng e q).flow = s.flow := rfl
@[simp] theorem State.setEng_ckpts (s : State) (e : Nat) (q : List Cmd) : (s.setEng e q).ckpts = s.ckpts := rfl
@[simp] theorem State.setEng_cutWait (s : State) (e : Nat) (q : List Cmd) : (s.setEng e q).cutWait = s.cutWait := rfl
@[simp] theorem State.setEng_errs (s : State) (e : Nat) (q : List Cmd) : (s.setEng e q).errs = s.errs := rfl
@[simp] theorem State.setEng_spares (s : State) (e : Nat) (q : List Cmd) : (s.setEng e q).spares = s.spares := rfl
@[simp] theorem State.setEng_worn (s : State) (e : Nat) (q : List Cmd) : (s.setEng e q).worn = s.worn := rfl
@[simp] theorem State.setEng_limits (s : State) (e : Nat) (q : List Cmd) : (s.setEng e q).limits = s.limits := rfl
@[simp] theorem State.setEng_boot (s : State) (e : Nat) (q : List Cmd) : (s.setEng e q).boot = s.boot := rfl
@[simp] theorem State.setEng_status (s : State) (e : Nat) (q : List Cmd) : (s.setEng e q).status = s.status := rfl
@[simp] theorem State.setEng_pkgnum (s : State) (e : Nat) (q : List Cmd) : (s.setEng e q).pkgnum = s.pkgnum := rfl
@[simp] theorem State.setEng_meshpos (s : State) (e : Nat) (q : List Cmd) : (s.setEng e q).meshpos = s.meshpos := rfl
@[simp] theorem State.setEng_qsplit (s : State) (e : Nat) (q : List Cmd) : (s.setEng e q).qsplit = s.qsplit := rfl
@[simp] theorem State.setEng_apbase (s : State) (e : Nat) (q : List Cmd) : (s.setEng e q).apbase = s.apbase := rfl
@[simp] theorem State.setEng_temp (s : State) (e : Nat) (q : List Cmd) : (s.setEng e q).temp = s.temp := rfl
@[simp] theorem State.setEng_power (s : State) (e : Nat) (q : List Cmd) : (s.setEng e q).power = s.power := rfl
@[simp] theorem State.setEng_errcnt (s : State) (e : Nat) (q : List Cmd) : (s.setEng e q).errcnt = s.errcnt := rfl
@[simp] theorem State.setEng_windows (s : State) (e : Nat) (q : List Cmd) : (s.setEng e q).windows = s.windows := rfl
@[simp] theorem State.setEng_msix (s : State) (e : Nat) (q : List Cmd) : (s.setEng e q).msix = s.msix := rfl
@[simp] theorem State.setEng_msixPend (s : State) (e : Nat) (q : List Cmd) : (s.setEng e q).msixPend = s.msixPend := rfl
@[simp] theorem State.setEng_badReplies (s : State) (e : Nat) (q : List Cmd) : (s.setEng e q).badReplies = s.badReplies := rfl
@[simp] theorem State.setEng_hostAcc (s : State) (e : Nat) (q : List Cmd) : (s.setEng e q).hostAcc = s.hostAcc := rfl
@[simp] theorem State.setEng_hostOut (s : State) (e : Nat) (q : List Cmd) : (s.setEng e q).hostOut = s.hostOut := rfl
@[simp] theorem State.setEng_outbox (s : State) (e : Nat) (q : List Cmd) : (s.setEng e q).outbox = s.outbox := rfl
@[simp] theorem State.setEng_wire (s : State) (e : Nat) (q : List Cmd) : (s.setEng e q).wire = s.wire := rfl
@[simp] theorem State.setEng_linkBack (s : State) (e : Nat) (q : List Cmd) : (s.setEng e q).linkBack = s.linkBack := rfl
@[simp] theorem State.setEng_rx (s : State) (e : Nat) (q : List Cmd) : (s.setEng e q).rx = s.rx := rfl
@[simp] theorem State.setEng_inbox (s : State) (e : Nat) (q : List Cmd) : (s.setEng e q).inbox = s.inbox := rfl
@[simp] theorem State.setEng_incidents (s : State) (e : Nat) (q : List Cmd) : (s.setEng e q).incidents = s.incidents := rfl
@[simp] theorem State.setEng_turn (s : State) (e : Nat) (q : List Cmd) : (s.setEng e q).turn = s.turn := rfl
@[simp] theorem State.setEng_coreIdx (s : State) (e : Nat) (q : List Cmd) : (s.setEng e q).coreIdx = s.coreIdx := rfl
@[simp] theorem State.setEng_engIdx (s : State) (e : Nat) (q : List Cmd) : (s.setEng e q).engIdx = s.engIdx := rfl
@[simp] theorem State.setEng_cur (s : State) (e : Nat) (q : List Cmd) : (s.setEng e q).cur = s.cur := rfl
@[simp] theorem State.setEng_before (s : State) (e : Nat) (q : List Cmd) : (s.setEng e q).before = s.before := rfl
@[simp] theorem State.setEng_slotNo (s : State) (e : Nat) (q : List Cmd) : (s.setEng e q).slotNo = s.slotNo := rfl
@[simp] theorem State.setEng_bits (s : State) (e : Nat) (q : List Cmd) : (s.setEng e q).bits = s.bits := rfl
@[simp] theorem State.setEng_fresh (s : State) (e : Nat) (q : List Cmd) : (s.setEng e q).fresh = s.fresh := rfl
@[simp] theorem State.setEng_stamp (s : State) (e : Nat) (q : List Cmd) : (s.setEng e q).stamp = s.stamp := rfl
@[simp] theorem State.setEng_nextId (s : State) (e : Nat) (q : List Cmd) : (s.setEng e q).nextId = s.nextId := rfl

-- bump.

@[simp] theorem State.bump_cycle (s : State) : (s.bump).cycle = s.cycle := rfl
@[simp] theorem State.bump_ticks (s : State) : (s.bump).ticks = s.ticks := rfl
@[simp] theorem State.bump_phase (s : State) : (s.bump).phase = s.phase := rfl
@[simp] theorem State.bump_throttle (s : State) : (s.bump).throttle = s.throttle := rfl
@[simp] theorem State.bump_shut (s : State) : (s.bump).shut = s.shut := rfl
@[simp] theorem State.bump_dram (s : State) : (s.bump).dram = s.dram := rfl
@[simp] theorem State.bump_dramPoison (s : State) : (s.bump).dramPoison = s.dramPoison := rfl
@[simp] theorem State.bump_ctxs (s : State) : (s.bump).ctxs = s.ctxs := rfl
@[simp] theorem State.bump_cores (s : State) : (s.bump).cores = s.cores := rfl
@[simp] theorem State.bump_clusters (s : State) : (s.bump).clusters = s.clusters := rfl
@[simp] theorem State.bump_engs (s : State) : (s.bump).engs = s.engs := rfl
@[simp] theorem State.bump_ifetch (s : State) : (s.bump).ifetch = s.ifetch := rfl
@[simp] theorem State.bump_fences (s : State) : (s.bump).fences = s.fences := rfl
@[simp] theorem State.bump_arrivals (s : State) : (s.bump).arrivals = s.arrivals := rfl
@[simp] theorem State.bump_wbs (s : State) : (s.bump).wbs = s.wbs := rfl
@[simp] theorem State.bump_bells (s : State) : (s.bump).bells = s.bells := rfl
@[simp] theorem State.bump_queues (s : State) : (s.bump).queues = s.queues := rfl
@[simp] theorem State.bump_slots (s : State) : (s.bump).slots = s.slots := rfl
@[simp] theorem State.bump_launches (s : State) : (s.bump).launches = s.launches := rfl
@[simp] theorem State.bump_groups (s : State) : (s.bump).groups = s.groups := rfl
@[simp] theorem State.bump_outs (s : State) : (s.bump).outs = s.outs := rfl
@[simp] theorem State.bump_cursor (s : State) : (s.bump).cursor = s.cursor := rfl
@[simp] theorem State.bump_ttTurn (s : State) : (s.bump).ttTurn = s.ttTurn := rfl
@[simp] theorem State.bump_ttNext (s : State) : (s.bump).ttNext = s.ttNext := rfl
@[simp] theorem State.bump_reserving (s : State) : (s.bump).reserving = s.reserving := rfl
@[simp] theorem State.bump_did (s : State) : (s.bump).did = s.did := rfl
@[simp] theorem State.bump_jobs (s : State) : (s.bump).jobs = s.jobs := rfl
@[simp] theorem State.bump_fwd (s : State) : (s.bump).fwd = s.fwd := rfl
@[simp] theorem State.bump_poolUsed (s : State) : (s.bump).poolUsed = s.poolUsed := rfl
@[simp] theorem State.bump_poolBack (s : State) : (s.bump).poolBack = s.poolBack := rfl
@[simp] theorem State.bump_migr (s : State) : (s.bump).migr = s.migr := rfl
@[simp] theorem State.bump_waitDone (s : State) : (s.bump).waitDone = s.waitDone := rfl
@[simp] theorem State.bump_routes (s : State) : (s.bump).routes = s.routes := rfl
@[simp] theorem State.bump_ridgecfg (s : State) : (s.bump).ridgecfg = s.ridgecfg := rfl
@[simp] theorem State.bump_ports (s : State) : (s.bump).ports = s.ports := rfl
@[simp] theorem State.bump_chans (s : State) : (s.bump).chans = s.chans := rfl
@[simp] theorem State.bump_comms (s : State) : (s.bump).comms = s.comms := rfl
@[simp] theorem State.bump_commSeq (s : State) : (s.bump).commSeq = s.commSeq := rfl
@[simp] theorem State.bump_colls (s : State) : (s.bump).colls = s.colls := rfl
@[simp] theorem State.bump_served (s : State) : (s.bump).served = s.served := rfl
@[simp] theorem State.bump_pieces (s : State) : (s.bump).pieces = s.pieces := rfl
@[simp] theorem State.bump_commCred (s : State) : (s.bump).commCred = s.commCred := rfl
@[simp] theorem State.bump_creditOut (s : State) : (s.bump).creditOut = s.creditOut := rfl
@[simp] theorem State.bump_creditHeld (s : State) : (s.bump).creditHeld = s.creditHeld := rfl
@[simp] theorem State.bump_kernels (s : State) : (s.bump).kernels = s.kernels := rfl
@[simp] theorem State.bump_bindings (s : State) : (s.bump).bindings = s.bindings := rfl
@[simp] theorem State.bump_runs (s : State) : (s.bump).runs = s.runs := rfl
@[simp] theorem State.bump_flow (s : State) : (s.bump).flow = s.flow := rfl
@[simp] theorem State.bump_ckpts (s : State) : (s.bump).ckpts = s.ckpts := rfl
@[simp] theorem State.bump_cutWait (s : State) : (s.bump).cutWait = s.cutWait := rfl
@[simp] theorem State.bump_errs (s : State) : (s.bump).errs = s.errs := rfl
@[simp] theorem State.bump_spares (s : State) : (s.bump).spares = s.spares := rfl
@[simp] theorem State.bump_worn (s : State) : (s.bump).worn = s.worn := rfl
@[simp] theorem State.bump_limits (s : State) : (s.bump).limits = s.limits := rfl
@[simp] theorem State.bump_boot (s : State) : (s.bump).boot = s.boot := rfl
@[simp] theorem State.bump_status (s : State) : (s.bump).status = s.status := rfl
@[simp] theorem State.bump_pkgnum (s : State) : (s.bump).pkgnum = s.pkgnum := rfl
@[simp] theorem State.bump_meshpos (s : State) : (s.bump).meshpos = s.meshpos := rfl
@[simp] theorem State.bump_qsplit (s : State) : (s.bump).qsplit = s.qsplit := rfl
@[simp] theorem State.bump_apbase (s : State) : (s.bump).apbase = s.apbase := rfl
@[simp] theorem State.bump_temp (s : State) : (s.bump).temp = s.temp := rfl
@[simp] theorem State.bump_power (s : State) : (s.bump).power = s.power := rfl
@[simp] theorem State.bump_errcnt (s : State) : (s.bump).errcnt = s.errcnt := rfl
@[simp] theorem State.bump_windows (s : State) : (s.bump).windows = s.windows := rfl
@[simp] theorem State.bump_msix (s : State) : (s.bump).msix = s.msix := rfl
@[simp] theorem State.bump_msixPend (s : State) : (s.bump).msixPend = s.msixPend := rfl
@[simp] theorem State.bump_badReplies (s : State) : (s.bump).badReplies = s.badReplies := rfl
@[simp] theorem State.bump_hostAcc (s : State) : (s.bump).hostAcc = s.hostAcc := rfl
@[simp] theorem State.bump_hostOut (s : State) : (s.bump).hostOut = s.hostOut := rfl
@[simp] theorem State.bump_outbox (s : State) : (s.bump).outbox = s.outbox := rfl
@[simp] theorem State.bump_wire (s : State) : (s.bump).wire = s.wire := rfl
@[simp] theorem State.bump_linkBack (s : State) : (s.bump).linkBack = s.linkBack := rfl
@[simp] theorem State.bump_rx (s : State) : (s.bump).rx = s.rx := rfl
@[simp] theorem State.bump_inbox (s : State) : (s.bump).inbox = s.inbox := rfl
@[simp] theorem State.bump_incidents (s : State) : (s.bump).incidents = s.incidents := rfl
@[simp] theorem State.bump_turn (s : State) : (s.bump).turn = s.turn := rfl
@[simp] theorem State.bump_coreIdx (s : State) : (s.bump).coreIdx = s.coreIdx := rfl
@[simp] theorem State.bump_engIdx (s : State) : (s.bump).engIdx = s.engIdx := rfl
@[simp] theorem State.bump_cur (s : State) : (s.bump).cur = s.cur := rfl
@[simp] theorem State.bump_before (s : State) : (s.bump).before = s.before := rfl
@[simp] theorem State.bump_slotNo (s : State) : (s.bump).slotNo = s.slotNo := rfl
@[simp] theorem State.bump_bits (s : State) : (s.bump).bits = s.bits := rfl
@[simp] theorem State.bump_fresh (s : State) : (s.bump).fresh = s.fresh + 1 := rfl
@[simp] theorem State.bump_stamp (s : State) : (s.bump).stamp = s.stamp := rfl
@[simp] theorem State.bump_nextId (s : State) : (s.bump).nextId = s.nextId := rfl

-- A result issued changes a task's results in flight alone.

@[simp] theorem Task.write_active (p : Pending) (t : Task) : (t.write p).active = t.active := rfl
@[simp] theorem Task.write_tid (p : Pending) (t : Task) : (t.write p).tid = t.tid := rfl
@[simp] theorem Task.write_launch (p : Pending) (t : Task) : (t.write p).launch = t.launch := rfl
@[simp] theorem Task.write_group (p : Pending) (t : Task) : (t.write p).group = t.group := rfl
@[simp] theorem Task.write_job (p : Pending) (t : Task) : (t.write p).job = t.job := rfl
@[simp] theorem Task.write_taskid (p : Pending) (t : Task) : (t.write p).taskid = t.taskid := rfl
@[simp] theorem Task.write_groupid (p : Pending) (t : Task) : (t.write p).groupid = t.groupid := rfl
@[simp] theorem Task.write_clusterid (p : Pending) (t : Task) : (t.write p).clusterid = t.clusterid := rfl
@[simp] theorem Task.write_pkgid (p : Pending) (t : Task) : (t.write p).pkgid = t.pkgid := rfl
@[simp] theorem Task.write_meshpos (p : Pending) (t : Task) : (t.write p).meshpos = t.meshpos := rfl
@[simp] theorem Task.write_prio (p : Pending) (t : Task) : (t.write p).prio = t.prio := rfl
@[simp] theorem Task.write_slbase (p : Pending) (t : Task) : (t.write p).slbase = t.slbase := rfl
@[simp] theorem Task.write_slsize (p : Pending) (t : Task) : (t.write p).slsize = t.slsize := rfl
@[simp] theorem Task.write_domain (p : Pending) (t : Task) : (t.write p).domain = t.domain := rfl
@[simp] theorem Task.write_cbells (p : Pending) (t : Task) : (t.write p).cbells = t.cbells := rfl
@[simp] theorem Task.write_pbells (p : Pending) (t : Task) : (t.write p).pbells = t.pbells := rfl
@[simp] theorem Task.write_mbells (p : Pending) (t : Task) : (t.write p).mbells = t.mbells := rfl
@[simp] theorem Task.write_savebase (p : Pending) (t : Task) : (t.write p).savebase = t.savebase := rfl
@[simp] theorem Task.write_s (p : Pending) (t : Task) : (t.write p).s = t.s := rfl
@[simp] theorem Task.write_c (p : Pending) (t : Task) : (t.write p).c = t.c := rfl
@[simp] theorem Task.write_k (p : Pending) (t : Task) : (t.write p).k = t.k := rfl
@[simp] theorem Task.write_v (p : Pending) (t : Task) : (t.write p).v = t.v := rfl
@[simp] theorem Task.write_a (p : Pending) (t : Task) : (t.write p).a = t.a := rfl
@[simp] theorem Task.write_h (p : Pending) (t : Task) : (t.write p).h = t.h := rfl
@[simp] theorem Task.write_m (p : Pending) (t : Task) : (t.write p).m = t.m := rfl
@[simp] theorem Task.write_e (p : Pending) (t : Task) : (t.write p).e = t.e := rfl
@[simp] theorem Task.write_flags (p : Pending) (t : Task) : (t.write p).flags = t.flags := rfl
@[simp] theorem Task.write_rmode (p : Pending) (t : Task) : (t.write p).rmode = t.rmode := rfl
@[simp] theorem Task.write_mrepleft (p : Pending) (t : Task) : (t.write p).mrepleft = t.mrepleft := rfl
@[simp] theorem Task.write_mrepArmed (p : Pending) (t : Task) : (t.write p).mrepArmed = t.mrepArmed := rfl
@[simp] theorem Task.write_ldepth (p : Pending) (t : Task) : (t.write p).ldepth = t.ldepth := rfl
@[simp] theorem Task.write_lcount (p : Pending) (t : Task) : (t.write p).lcount = t.lcount := rfl
@[simp] theorem Task.write_lstride (p : Pending) (t : Task) : (t.write p).lstride = t.lstride := rfl
@[simp] theorem Task.write_lbody (p : Pending) (t : Task) : (t.write p).lbody = t.lbody := rfl
@[simp] theorem Task.write_segid (p : Pending) (t : Task) : (t.write p).segid = t.segid := rfl
@[simp] theorem Task.write_segcount (p : Pending) (t : Task) : (t.write p).segcount = t.segcount := rfl
@[simp] theorem Task.write_segsig (p : Pending) (t : Task) : (t.write p).segsig = t.segsig := rfl
@[simp] theorem Task.write_crdepth (p : Pending) (t : Task) : (t.write p).crdepth = t.crdepth := rfl
@[simp] theorem Task.write_crlevel (p : Pending) (t : Task) : (t.write p).crlevel = t.crlevel := rfl
@[simp] theorem Task.write_trapcause (p : Pending) (t : Task) : (t.write p).trapcause = t.trapcause := rfl
@[simp] theorem Task.write_trappc (p : Pending) (t : Task) : (t.write p).trappc = t.trappc := rfl
@[simp] theorem Task.write_trapinfo (p : Pending) (t : Task) : (t.write p).trapinfo = t.trapinfo := rfl
@[simp] theorem Task.write_mrx (p : Pending) (t : Task) : (t.write p).mrx = t.mrx := rfl
@[simp] theorem Task.write_pc (p : Pending) (t : Task) : (t.write p).pc = t.pc := rfl
@[simp] theorem Task.write_first (p : Pending) (t : Task) : (t.write p).first = t.first := rfl
@[simp] theorem Task.write_handler (p : Pending) (t : Task) : (t.write p).handler = t.handler := rfl
@[simp] theorem Task.write_stub (p : Pending) (t : Task) : (t.write p).stub = t.stub := rfl
@[simp] theorem Task.write_wait (p : Pending) (t : Task) : (t.write p).wait = t.wait := rfl
@[simp] theorem Task.write_heldWait (p : Pending) (t : Task) : (t.write p).heldWait = t.heldWait := rfl
@[simp] theorem Task.write_pend (p : Pending) (t : Task) : (t.write p).pend = t.pend := rfl
@[simp] theorem Task.write_pendCnf (p : Pending) (t : Task) : (t.write p).pendCnf = t.pendCnf := rfl
@[simp] theorem Task.write_exited (p : Pending) (t : Task) : (t.write p).exited = t.exited := rfl
@[simp] theorem Task.write_preempt (p : Pending) (t : Task) : (t.write p).preempt = t.preempt := rfl
@[simp] theorem Task.write_debug (p : Pending) (t : Task) : (t.write p).debug = t.debug := rfl
@[simp] theorem Task.write_keptPc (p : Pending) (t : Task) : (t.write p).keptPc = t.keptPc := rfl
@[simp] theorem Task.write_branch (p : Pending) (t : Task) : (t.write p).branch = t.branch := rfl
@[simp] theorem Task.write_loop0 (p : Pending) (t : Task) : (t.write p).loop0 = t.loop0 := rfl
@[simp] theorem Task.write_swTrap (p : Pending) (t : Task) : (t.write p).swTrap = t.swTrap := rfl
@[simp] theorem Task.write_ret (p : Pending) (t : Task) : (t.write p).ret = t.ret := rfl
@[simp] theorem Task.write_segSet (p : Pending) (t : Task) : (t.write p).segSet = t.segSet := rfl
@[simp] theorem Task.write_shield (p : Pending) (t : Task) : (t.write p).shield = t.shield := rfl
@[simp] theorem Task.write_tbind (p : Pending) (t : Task) : (t.write p).tbind = t.tbind := rfl
@[simp] theorem Task.write_mq (p : Pending) (t : Task) : (t.write p).mq = t.mq := rfl
@[simp] theorem Task.write_held (p : Pending) (t : Task) : (t.write p).held = t.held := rfl
@[simp] theorem Task.write_bbuf (p : Pending) (t : Task) : (t.write p).bbuf = t.bbuf := rfl
@[simp] theorem Task.write_poisonS (p : Pending) (t : Task) : (t.write p).poisonS = t.poisonS := rfl
@[simp] theorem Task.write_poisonV (p : Pending) (t : Task) : (t.write p).poisonV = t.poisonV := rfl
@[simp] theorem Task.write_poisonA (p : Pending) (t : Task) : (t.write p).poisonA = t.poisonA := rfl
@[simp] theorem Task.write_poisonC (p : Pending) (t : Task) : (t.write p).poisonC = t.poisonC := rfl
@[simp] theorem Task.write_poisonK (p : Pending) (t : Task) : (t.write p).poisonK = t.poisonK := rfl
@[simp] theorem Task.write_undefV (p : Pending) (t : Task) : (t.write p).undefV = t.undefV := rfl
@[simp] theorem Task.write_undefA (p : Pending) (t : Task) : (t.write p).undefA = t.undefA := rfl
@[simp] theorem Task.write_undefC (p : Pending) (t : Task) : (t.write p).undefC = t.undefC := rfl
@[simp] theorem Task.write_code (p : Pending) (t : Task) : (t.write p).code = t.code := rfl
@[simp] theorem Task.write_landedAt (p : Pending) (t : Task) : (t.write p).landedAt = t.landedAt := rfl
@[simp] theorem Task.write_landed (p : Pending) (t : Task) : (t.write p).landed = t.landed := rfl

-- The accessors.

@[simp] theorem State.ctx_setCtx (s : State) (c : Nat) (x : Task) : (s.setCtx c x).ctx c = x := tabGet_put_self _ _ _ _
theorem State.ctx_setCtx_other (s : State) (c d : Nat) (x : Task) (h : d ≠ c) : (s.setCtx c x).ctx d = s.ctx d :=
  tabGet_put_other _ _ _ _ _ h
@[simp] theorem State.me_setMe (s : State) (x : Task) : (s.setMe x).me = x := tabGet_put_self _ _ _ _
@[simp] theorem State.ctx_setMe (s : State) (x : Task) : (s.setMe x).ctx s.cur = x := tabGet_put_self _ _ _ _
theorem State.ctx_setMe_other (s : State) (d : Nat) (x : Task) (h : d ≠ s.cur) : (s.setMe x).ctx d = s.ctx d :=
  tabGet_put_other _ _ _ _ _ h
@[simp] theorem State.ctx_setCl (s : State) (k : Nat) (x : Cluster) (c : Nat) : (s.setCl k x).ctx c = s.ctx c := rfl
@[simp] theorem State.me_setCl (s : State) (k : Nat) (x : Cluster) : (s.setCl k x).me = s.me := rfl
@[simp] theorem State.src_setCl (s : State) (k : Nat) (x : Cluster) : (s.setCl k x).src = s.src := rfl
@[simp] theorem State.ctx_setCore (s : State) (k : Nat) (x : Core) (c : Nat) : (s.setCore k x).ctx c = s.ctx c := rfl
@[simp] theorem State.me_setCore (s : State) (k : Nat) (x : Core) : (s.setCore k x).me = s.me := rfl
@[simp] theorem State.src_setCore (s : State) (k : Nat) (x : Core) : (s.setCore k x).src = s.src := rfl
@[simp] theorem State.ctx_bump (s : State) (c : Nat) : s.bump.ctx c = s.ctx c := rfl
@[simp] theorem State.me_bump (s : State) : s.bump.me = s.me := rfl
@[simp] theorem State.cl_setCl (s : State) (k : Nat) (x : Cluster) : (s.setCl k x).cl k = x := tabGet_put_self _ _ _ _
theorem State.cl_setCl_other (s : State) (k j : Nat) (x : Cluster) (h : j ≠ k) : (s.setCl k x).cl j = s.cl j :=
  tabGet_put_other _ _ _ _ _ h
@[simp] theorem State.cl_setCtx (s : State) (c : Nat) (x : Task) (k : Nat) : (s.setCtx c x).cl k = s.cl k := rfl
@[simp] theorem State.cl_setMe (s : State) (x : Task) (k : Nat) : (s.setMe x).cl k = s.cl k := rfl
@[simp] theorem State.cl_setCore (s : State) (k : Nat) (x : Core) (j : Nat) : (s.setCore k x).cl j = s.cl j := rfl
@[simp] theorem State.myCl_setMyCl (s : State) (x : Cluster) : (s.setMyCl x).myCl = x := tabGet_put_self _ _ _ _
@[simp] theorem State.core_setCore (s : State) (k : Nat) (x : Core) : (s.setCore k x).core k = x := tabGet_put_self _ _ _ _
@[simp] theorem State.eng_setEng (s : State) (e : Nat) (q : List Cmd) : (s.setEng e q).eng e = q := tabGet_put_self _ _ _ _
theorem State.eng_setEng_other (s : State) (e d : Nat) (q : List Cmd) (h : d ≠ e) : (s.setEng e q).eng d = s.eng d :=
  tabGet_put_other _ _ _ _ _ h
/-- While a bundle acts, its operands are those from before it, whatever is written (R59). -/
theorem State.src_setMe (s : State) (x : Task) (h : s.before.isSome = true) : (s.setMe x).src = s.src := by
  cases hb : s.before with
  | none => simp [hb] at h
  | some t => simp [State.src, hb]


end Sys2Proof.Machine
end

