-- ==== Sys2Proof/Laws/Slots.lean ====
section
/-!
SUPPORT. What a slot of a bundle can do (R60, R70, R351): every slot instruction is an effect under `settle`, and a slot that
acts answers that effect; what issuing a result leaves alone.
-/
namespace Sys2Proof.Machine

set_option maxHeartbeats 2000000 in
/-- Every instruction of a slot is its effect, settled. -/
theorem exec_settle (i : Instr) (h : i.inSlot = true) : ∃ f, ∀ s, exec i s = settle i f s := by
  cases i
  all_goals first
    | exact ⟨_, fun _ => rfl⟩
    | cases h

theorem settle_acting (i : Instr) (f : State → State) (s : State) (h : Acting i s) : settle i f s = .next (f s) := by
  obtain ⟨hb, hs⟩ := h
  simp [settle, act, hb, hs]

/-- A slot whose meaning settles f does f. -/
theorem does_of (i : Instr) (f : State → State) (s t : State) (h : exec i s = settle i f s) (ht : f s = t) : Does i s t :=
  fun ha => by rw [h, settle_acting i f s ha, ht]

/-- Everything that settling an effect can answer, for a slot of a bundle that acts and for a bundle of its own. -/
theorem settle_cases (i : Instr) (f : State → State) (s t : State) (h : settle i f s = .next t) :
    (s.before.isSome = true ∧ suppressed i s = true ∧ t = s) ∨ (s.before.isSome = true ∧ suppressed i s = false ∧ t = f s) ∨
    (s.before = none ∧ verdict i s = .go ∧ t = closeBundle (act i f (opened (isMM i) s))) ∨
    (s.before = none ∧ verdict i s = .stall ∧ t = s) ∨
    (s.before = none ∧ verdict i s ≠ .go ∧ verdict i s ≠ .stall ∧ t = s.divert s.slotNo (verdict i s)) := by
  simp only [settle, Host.Outcome.next.injEq] at h
  cases hb : s.before with
  | some b =>
    simp only [hb, Option.isSome_some, if_true, act] at h
    cases hs : suppressed i s with
    | true => simp only [hs, if_true] at h; simp [h]
    | false => simp only [hs, Bool.false_eq_true, if_false] at h; simp [h]
  | none =>
    simp only [hb, Option.isSome_none, Bool.false_eq_true, if_false, alone] at h
    cases hv : verdict i s <;> simp only [hv] at h <;> simp [h]

theorem suppressed_congr (i : Instr) (s t : State) (h : t.src = s.src) (hf : t.stamp = s.stamp) (hc : t.cur = s.cur)
    (hn : t.slotNo = s.slotNo) : suppressed i t = suppressed i s := by
  simp only [suppressed, State.rc, State.pos, h, hf, hc, hn]

-- A bundle of one slot.

@[simp] theorem opened_before (c : Bool) (s : State) : (opened c s).before = some s.me := rfl
theorem opened_src (c : Bool) (s : State) : (opened c s).src = s.me := rfl
theorem stubBegins_eq (n : Nat) (t : Task) : ∃ u, u.isSome = t.stub.isSome ∧ t.stubBegins n = { t with stub := u } := by
  unfold Task.stubBegins
  split
  · rename_i h; exact ⟨_, by rw [h]; rfl, rfl⟩
  · exact ⟨t.stub, rfl, rfl⟩
/-- What the beginning of a bundle changes of its task (R59): the requests to its end, MREPLEFT, and a stub's time. -/
theorem opened_me (c : Bool) (s : State) : ∃ m a u x, u.isSome = s.me.stub.isSome ∧ (opened c s).me =
    { s.me with branch := none, loop0 := none, swTrap := none, ret := none, segSet := 0, mrepleft := m, mrepArmed := a,
                stub := u, undefC := x } := by
  obtain ⟨u, hu, h⟩ := stubBegins_eq s.cycle s.me.settled
  refine ⟨(opened c s).me.mrepleft, (opened c s).me.mrepArmed, u, (opened c s).me.undefC, hu, ?_⟩
  have h2 : (opened c s).me =
      { s.me.settled.stubBegins s.cycle with
        mrepleft := if c || ((s.me.settled.stubBegins s.cycle).mrepArmed && (s.me.settled.stubBegins s.cycle).stub.isNone)
          then 0 else (s.me.settled.stubBegins s.cycle).mrepleft,
        mrepArmed := (s.me.settled.stubBegins s.cycle).mrepArmed &&
          !(c || ((s.me.settled.stubBegins s.cycle).mrepArmed && (s.me.settled.stubBegins s.cycle).stub.isNone)),
        undefC := if c || ((s.me.settled.stubBegins s.cycle).mrepArmed && (s.me.settled.stubBegins s.cycle).stub.isNone)
          then setDel (s.me.settled.stubBegins s.cycle).undefC 0x12 else (s.me.settled.stubBegins s.cycle).undefC } :=
    State.ctx_setCtx s s.cur _
  rw [h2, h]; rfl
/-- A bundle of one slot that issues does its effect in the opened bundle, and ends. -/
theorem settle_issues (i : Instr) (f : State → State) (s : State) (h : Issues i s) :
    settle i f s = .next (closeBundle (f (opened (isMM i) s))) := by
  obtain ⟨hb, hv, hs, _⟩ := h
  have hs' : suppressed i (opened (isMM i) s) = false := by
    rw [suppressed_congr i s (opened (isMM i) s) (by simp [State.src, hb]) rfl rfl rfl]; exact hs
  simp [settle, hb, alone, hv, act, hs']

-- Issuing a result.

@[simp] theorem result_me (s : State) (d : Dest) (v : RVal) (f : Flags) (b : Nat) :
    (s.result d v f b).me = s.me.write { dest := some d, val := v, flags := f, due := s.cycle + b, sb := false, early := 0, poison := false } := by
  simp [State.result]

theorem write_eq (t : Task) (p : Pending) : t.write p = { t with inflight := (t.write p).inflight } := rfl

theorem result_eq (s : State) (d : Dest) (v : RVal) (f : Flags) (b : Nat) :
    s.result d v f b = s.setMe { s.me with inflight := (s.result d v f b).me.inflight } := by
  rw [result_me]; rfl

end Sys2Proof.Machine
end

