-- ==== Sys2Proof/Tests/Slice0.lean ====
section
/-!
SUPPORT. Tests of this model: ill-formed instructions are refused; words written out from the spec's encodings decode; a few
single steps; and for every statement with hypotheses a concrete state and operands that meet them (each clause).
-/
namespace Sys2Proof.Tests

set_option Elab.async false
open Sys2Proof Sys2Proof.Machine

-- Well-formedness: one ill-formed term for each check.

theorem test_wf_refuses_scalar : [Instr.cmp 0 1 2 3 7, .lds 0 1 2 3 true false 0, .amos 0 1 2 3 7, .crd 0 1 0x2F, .cwr 0 1 0x2F,
    .cwr 0 1 0x00, .fcmp 0 1 2 3 5].map Instr.wf = List.replicate 7 false := by decide

theorem test_wf_refuses_vector : [Instr.vadd 3 1 2 3 0 false, .vsub 4 1 2 3 0 false, .vmul 5 1 2 3 0 false,
    .vfma 3 1 2 3 0 false, .vfms 3 1 2 3 0 false, .vmin 3 1 2 3 0 false, .vmax 3 1 2 3 0 false, .vabs 3 1 2 0 false,
    .vneg 3 1 2 0 false, .vclamp 3 1 2 3 0 false, .vfn 3 1 2 0 0 false, .vfn 0 1 2 11 0 false, .vcmp 1 1 2 3 0, .vcmp 0 1 2 3 7,
    .vcmp 5 1 2 3 6, .vand 1 1 2 3 0 false, .vor 1 1 2 3 0 false, .vxor 1 1 2 3 0 false, .vshl 0 1 2 3 0 false,
    .vshr 0 1 2 3 0 false, .viadd 0 1 2 3 0 false, .vimul 0 1 2 3 0 false].map Instr.wf = List.replicate 22 false := by decide

theorem test_wf_refuses_moves : [Instr.vcvt 0 1 2 6 0 0 false, .vcvt 0 1 2 1 2 0 false, .vscr 3 1 2 3 0 false,
    .vscc 3 1 2 3 0 false, .vbias 3 1 2 3 0 false, .vbcr 6 1 2 0, .vbcr 0 1 2 16, .vbcc 6 1 2 0, .vbcc 0 1 2 64, .vrotr 6 1 2 0,
    .vrotr 0 1 2 16, .vrotc 6 1 2 0, .vrotc 0 1 2 64, .vredr 4 1 2 0, .vredr 0 1 2 3, .vredc 4 1 2 0, .vredc 0 1 2 3,
    .vshuf 6 1 2 3 0 false, .vshfr 6 1 2 3 0 false, .vhaar 1 2 0 0 false, .vhaar 1 2 5 0 false, .vhaar 1 2 1 1 false,
    .vtag 1 2 0x02, .vsplat 6 1 2 0 false, .viota 1 1 0, .viota 0 1 3, .vins 6 1 2 3, .vext 6 1 2 3].map Instr.wf =
    List.replicate 28 false := by decide

theorem test_wf_refuses_memory : [Instr.vld 6 1 2 3 0 false, .vst 6 1 2 3 0, .vldt 4 1 2, .vstt 4 1 2 3, .vpush 6 1 2 0,
    .vpop 6 1 2 3, .mdrns 0 1 0x18 2 3 false, .cpy 0 0 0 15 0, .cpys 0 0 0 0 8, .cpys 0 0 0 3 0, .cpys 0 0 0 0 6,
    .tcpy 0 0 0 1 0 false, .tcpy 0 0 0 2 0 true, .gath 0 0 0 1, .scat 0 0 0 1, .ramo 0 0 0 7 false, .coll 0 0 0 7 0 0,
    .coll 0 0 0 2 1 0, .bmode 0 0 0 3].map Instr.wf = List.replicate 19 false := by decide

theorem test_wf_refuses_purlin : [Instr.pcmp 1 2 3 6, .pbr 1 3 1, .pbr 1 2 1, .pbr 1 0 0, .ploop 2 1 1, .ploop 1 1 1,
    .pmld false 8 0 false 0, .pmst false 8 0 false 0, .pfld false 8 0 false 0, .pfst false 8 0 false 0, .pvadd 1 2 3 3,
    .pvmax 1 2 3 3, .pvmul 1 2 3 3, .pvacc 1 2 3 0 false, .pvacc 1 2 0 3 false, .pvnf 1 3, .pvcvt 1 2 3 0 false,
    .pvcvt 1 2 0 0 true].map Instr.wf = List.replicate 18 false := by decide

theorem test_wf_refuses_steps : [Instr.boundedResultLands 1280 0, .scoreboardedResultCompletes 1280 0, .pendingTrapTaken 1280,
    .taskExited 1280, .debugHalt 1280, .matrixInstructionBegins 640 0, .matrixInstructionBegins 0 2, .matrixPass 640 0 .good,
    .matrixPass 0 2 .good, .matrixOperationCompletes 640 0, .matrixOperationCompletes 0 2, .mcfgApplied 640,
    .preemptionRequest 1280, .preemptionTaken 1280, .taskOut 1280, .stubOverrun 1280, .launchRecordSubmit 2 0 [],
    .functionLevelReset 2, .apertureRead 2 0 8, .apertureWrite 2 0 [0], .testSlice 720 true, .coreRemap 640].map Instr.wf =
    List.replicate 22 false := by decide

-- Decoding: words written out from the encodings of the spec (the examples of 02, 04, 05, 06, 07, 12).

theorem test_decode_addi : decodeSlot ⟨0x0082032C, 0x140, true⟩ = .ok (.instr (.addi 0 0x28 1 0x12C)) := by decide
theorem test_decode_lds : decodeSlot ⟨0x09828FA0, 0, false⟩ = .ok (.instr (.lds 0 10 7 3 false true 0)) := by decide
theorem test_decode_loop : decodeSlot ⟨0x21980100, 0, false⟩ = .ok (.instr (.loop 12 1)) := by decide
theorem test_decode_vadd : decodeSlot ⟨0x404642A0, 0, false⟩ = .ok (.instr (.vadd 0 3 4 5 2 false)) := by decide
theorem test_decode_vhaar : decodeSlot ⟨0x498C54C0, 0, false⟩ = .ok (.instr (.vhaar 6 5 4 1 true)) := by decide
theorem test_decode_mma : decodeSlot ⟨0x60513296, 0, false⟩ = .ok (.instr (.mma 2 1 6 10 11 false)) := by decide
theorem test_decode_cpy : decodeSlot ⟨0x80424A78, 0, false⟩ = .ok (.instr (.cpy 0 1 2 5 0x78)) := by decide
theorem test_decode_qpush : decodeSlot ⟨0x84860001, 0, false⟩ = .ok (.instr (.qpush 0 3 0 true)) := by decide
theorem test_decode_pbr : decodePurlin 0x32000004 = .ok (.pbr 8 0 4) := by decide
theorem test_decode_ploop : decodePurlin 0x35000000 = .ok (.ploop 1 0 0) := by decide
theorem test_decode_pvacc : decodePurlin 0x559C1000 = .ok (.pvacc 6 7 0 0 true) := by decide
theorem test_decode_pfst : decodePurlin 0x440D0000 = .ok (.pfst false 0 6 true 0) := by decide
theorem test_decode_preply : decodePurlin 0x69804000 = .ok (.preply 6 0 1) := by decide
theorem test_table_word_purlin : decodeTableWord 32 0x64000000 = some .pdrop := by decide
theorem test_encode_mma : encode (.mma 2 1 6 10 11 false) = some (.slot 0x60513296 0) := by decide


-- Small states: a task of context 0 with a trap vector, at a slot of a bundle (`slot`), and before a bundle (`lone`).

def task : Task :=
  { Task.empty with active := true, tid := 1, launch := 1, group := 1, job := 1, slsize := 0x20000, cbells := 0x40000000000,
                    code := ⟨0, 0x10000, some 0x400, [], []⟩ }
/-- A task with values in s1 to s4. -/
def taskR (a b c d : Word) : Task := { task with s := [a, b, c, d].zipIdx.foldl (fun v x => vput v (x.2 + 1) x.1) task.s }
def bell (t c : BitVec 16) : Bell := { Bell.empty with target := t, count := c, holder := some (1, none, some 1) }
def cluster : Cluster := { Cluster.empty with bells := [(0, bell 3 1)] }
/-- The package after its bring-up (R463). -/
def ready : State := { State.reset with status := 1, boot := 0 }
def lone (t : Task) : State := { ready with ctxs := [(0, t)], clusters := [(0, cluster)], nextId := 9 }
def slot (t : Task) : State := { lone t with before := some t }
/-- Do slots act, and does a bundle of one slot issue? -/
def acts (s : State) (l : List Instr) : Bool := s.before.isSome && l.all fun i => !(suppressed i s)
def issues (s : State) (i : Instr) : Bool :=
  s.before.isNone && verdict i s == .go && !(suppressed i s) && !s.me.exited

-- Single steps.

/-- ADDI of R130: 7 + (-1) = 6, in flight for s1. -/
theorem test_addi_result : (match exec (.addi 0 1 2 0x3FFF) (slot (taskR 0 7 0 0)) with
    | .next t => (t.me.inflight.map fun p => (p.dest, p.val)) == [(some (.s 1), .word 6)] | _ => false) = true := by
  decide +kernel
/-- DIVS of R131: -7 / 2 = -3. -/
theorem test_divs_result : (match exec (.divs 0 3 1 2) (slot (taskR (-7) 2 0 0)) with
    | .next t => (t.me.inflight.map fun p => p.val) == [.word (-3)] | _ => false) = true := by decide +kernel
/-- TIDX of R139: the worked example gives 0x4311. -/
theorem test_tidx_result : (match exec (.tidx 0 3 1 2 1) (slot { taskR 0x0000000200030011 0 0 0 with
      e := vput (vput (vput task.e 4 (1 + 256 * 2 ^ 32)) 5 4096) 7 0x2000 }) with
    | .next t => (t.me.inflight.map fun p => p.val) == [.word 0x4311] | _ => false) = true := by decide +kernel
/-- An illegal bundle (R76): all zeros is REASON 2 in slot 0; the trap vector is next. -/
theorem test_zero_bundle_traps : (match step ((lone task).withFetchWord 128 0) with
    | .next t => (t.ctx 0).trapcause == 1 && (t.ctx 0).trapinfo == 0x200 && (t.ctx 0).handler && (t.ctx 0).pc == 0x400
    | _ => false) = true := by decide +kernel
/-- A purlin word runs as the first instruction: PMOVI w3, 5. -/
theorem test_purlin_first : (match step (State.reset.withFetchWord 32 0x2CC00005) with
    | .next t => (t.runs.map fun r => vget r.2.w 3 0) == [5] | _ => false) = true := by decide +kernel
theorem test_reset_memories : State.reset.memOk = true := by decide +kernel

-- Witnesses: encodings and steps.

theorem test_w_decode_encode : (Instr.addi 0 0x28 1 0x12C).wf = true ∧ encode (.addi 0 0x28 1 0x12C) = some (.slot 0x0082032C 0x040) ∧
    Instr.pdrop.wf = true ∧ encode .pdrop = some (.purlin 0x64000000) := by decide
theorem test_w_one_encoding : fld 7 2 (0x040 : BitVec 9) = 0 ∧ groupError 0x0082032C 0x040 = false ∧
    decodeSlot ⟨0x0082032C, 0x040, true⟩ = .ok (.instr (.addi 0 0x28 1 0x12C)) ∧ decodePurlin 0x64000000 = .ok .pdrop := by decide
theorem test_w_one_encoding_headerless : decodeSlot ⟨0x0082032C, 0, false⟩ = .ok (.instr (.addi 0 8 1 0x3F2C)) := by decide
/-- Is there a slot fault in slot n? -/
def faulty (s : State) (bits : BitVec 128) (n : Nat) : Bool :=
  let w0 := bundleSlot bits 0
  let g := headerGroup w0 n
  if n = 0 ∧ isHeader w0 = true then
    fld 27 2 w0 != 0 || [1, 2, 3].any fun j => groupError (bundleSlot bits j) (headerGroup w0 j)
  else
    match decodeSlot ⟨bundleSlot bits n, g, isHeader w0⟩ with
    | .error _ => true
    | .ok .filler => false
    | .ok (.instr i) => staticIllegal i || (edgeActs s.me ⟨n, bitAt 8 g, bitAt 7 g, i⟩ &&
        match slotVerdict i (s.atSlot bits n) with
        | .illegal _ => true
        | _ => false)
theorem faulty_spec (s : State) (bits : BitVec 128) (n r : Nat) (h : SlotFault s bits n r) : faulty s bits n = true := by
  obtain ⟨_, h⟩ := h
  unfold faulty
  split at h
  · rename_i hc
    obtain ⟨_, h⟩ := h
    simp only [if_pos hc]
    rcases h with h | ⟨j, h1, h2, h3⟩
    · have : (fld 27 2 (bundleSlot bits 0) != 0) = true := bne_iff_ne.mpr h
      rw [this]
      rfl
    · have : j = 1 ∨ j = 2 ∨ j = 3 := by omega
      rcases this with rfl | rfl | rfl <;> simp [h3]
  · rename_i hc
    simp only [if_neg hc]
    split at h
    · rename_i he; simp [he]
    · exact h.elim
    · rename_i he
      try simp only [he]
      rcases h.2 with h | ⟨h1, x, h2⟩
      · simp [h]
      · simp [h1, h2]
theorem faulty_none {s : State} {bits : BitVec 128} (h : ((List.range 4).any (faulty s bits)) = false) (n r : Nat) :
    ¬ SlotFault s bits n r := fun hf => by
  have := faulty_spec s bits n r hf
  rw [List.any_eq_false] at h
  exact h n (List.mem_range.mpr hf.1) this
theorem test_w_illegal_bundle : SlotFault (lone task) 0 0 2 ∧
    ∀ m q, SlotFault (lone task) 0 m q → 0 < m ∨ (0 = m ∧ 2 ≤ q) := by
  refine ⟨⟨by decide, rfl⟩, fun m q h => ?_⟩
  · rcases Nat.eq_zero_or_pos m with rfl | hm
    · obtain ⟨_, h⟩ := h
      exact .inr ⟨rfl, Nat.le_of_eq (show q = 2 from h).symm⟩
    · exact .inl hm
/-- Two LOOPs; VADD of v6 beside an MMA that reads it; ADDI alone. -/
def bundleLoops : BitVec 128 := 0xC0000000C00000002198010021980100
def bundleTiles : BitVec 128 := 0xC0000000C000000060513296404C42A0
theorem test_w_bundle_limits :
    ((∀ n r, ¬ SlotFault (lone task) bundleLoops n r) ∧ overLimit bundleLoops = true) ∧
    ((∀ n r, ¬ SlotFault (lone task) bundleTiles n r) ∧ overLimit bundleTiles = false ∧
      tileConflict (lone task).me (decodeBundle bundleTiles).slots = true) ∧
    (∀ n r, ¬ SlotFault (lone task) 0xC0000000C00000000082032CA0000140 n r) ∧
      overLimit 0xC0000000C00000000082032CA0000140 = false ∧
      tileConflict (lone task).me (decodeBundle 0xC0000000C00000000082032CA0000140).slots = false := by
  refine ⟨⟨faulty_none (by decide +kernel), by decide +kernel⟩, ⟨faulty_none (by decide +kernel), by decide +kernel,
    by decide +kernel⟩, faulty_none (by decide +kernel), by decide +kernel, by decide +kernel⟩
theorem test_w_word_faults : fld 29 3 (0xE0000000 : BitVec 32) = 7 ∧ fld 29 3 (0xA0000000 : BitVec 32) = 5 ∧
    fld 29 3 (0xC0000001 : BitVec 32) = 6 ∧ (SlotBits.mk 0x0C400000 0 false).op = 0x31 ∧
    fld 29 3 (0x08004000 : BitVec 32) = 0 ∧ (SlotBits.mk 0x08004000 0 false).op = 0x20 ∧
    (0x08004000 : BitVec 32) &&& 0xC000 ≠ 0 := by decide
def queued : State := { ready with inbox := [.nop] }
theorem test_w_step_turns :
    (let s := { State.reset with shut := true, inbox := [.packageReset] }; s.shut = true ∧ s.inbox = [.packageReset]) ∧
    (∀ rest, ({ State.reset with shut := true } : State).inbox ≠ .packageReset :: rest) ∧
    (let s := { ready with incidents := [.sensors 1 2] }; s.shut = false ∧ s.incidents = [.sensors 1 2]) ∧
    (queued.shut = false ∧ queued.incidents = [] ∧ queued.inbox = [.nop] ∧ configRetry queued = false) ∧
    (let s := { State.reset with inbox := [.nop] }; s.shut = false ∧ s.incidents = [] ∧ configRetry s = true ∧
      beforeReady .nop = false) ∧
    (State.reset.shut = false ∧ State.reset.incidents = [] ∧ State.reset.inbox = [] ∧ configRetry State.reset = true) ∧
    (let s := State.reset.withPurlin 0x64000000
     s.Running ∧ s.inbox = [] ∧ s.turn = 0 + 1 ∧ (tabFind s.runs 0).isSome = true ∧
       ∀ r ∈ tabFind s.runs 0, decodePurlin (runWord s r) = .ok .pdrop) := by
  refine ⟨by decide, fun rest h => ?_, by decide, by decide, by decide, by decide, by decide, by decide, by decide +kernel⟩
  cases h
theorem test_w_step_event :
    let s : State := { ready with waitDone := [⟨0, 1, 0, [], [], [], none, 0⟩] }
    s.Running ∧ s.inbox = [] ∧ s.turn = 0 ∧ dueEvent s = some .translationRequestCompletes := by decide +kernel
theorem test_w_step_idle : let s := ready
    s.Running ∧ s.inbox = [] ∧ s.turn = 0 ∧ dueEvent s = none ∧ nextCore s = none ∧ nextEngine s = none ∧ s.fences = [] ∧
      s.arrivals = [] ∧ s.jobs = [] ∧ s.queues = [] ∧ s.wbs = [] ∧ s.throttle ≤ 14 := by decide +kernel
def bundleOne : Nat := 0xC0000000C00000000082032CA0000140
def bundleTwo : Nat := 0xC0000000404642A00082032CA0000140
/-- The core's turn finds context 0 with the bundle, and context 1 idle. -/
def offers (w : Nat) : State × Offer × Offer :=
  let s := (lone task).withBundle w
  let s1 := landedCore s 0
  (s, offer s1 0, offer s1 1)
/-- The core's turn of this state comes. -/
abbrev TurnOf0 (s : State) : Prop :=
  s.Running ∧ s.inbox = [] ∧ s.turn = 0 ∧ dueEvent s = none ∧ nextCore s = some 0
theorem test_w_step_runs_one : let x := offers bundleOne
    TurnOf0 x.1 ∧
    (match x.2.1 with | .judged b (.go l) => b == BitVec.ofNat 128 bundleOne && l.length == 1 | _ => false) = true ∧
    x.2.2 = .idle ∧ (soleSlot task (BitVec.ofNat 128 bundleOne)).isSome = true := by decide +kernel
theorem test_w_step_runs_two : let x := offers bundleTwo
    TurnOf0 x.1 ∧
    (match x.2.1 with | .judged _ (.go l) => l.length == 2 | _ => false) = true ∧ x.2.2 = .idle ∧
    soleSlot task (BitVec.ofNat 128 bundleTwo) = none := by decide +kernel
theorem test_w_step_runs_illegal : let x := offers 0
    TurnOf0 x.1 ∧
    (match x.2.1 with | .judged _ (.illegal i) => i == 0x200 | _ => false) = true ∧ x.2.2 = .idle := by decide +kernel
theorem test_w_step_runs_fillers : let x := offers 0xC0000000C0000000C0000000C0000000
    TurnOf0 x.1 ∧ (match x.2.1 with | .judged b (.go l) => l == [] && consumes b == false | _ => false) = true ∧ x.2.2 = .idle ∧
    soleSlot task 0xC0000000C0000000C0000000C0000000 = none ∧
    decodeBundle 0xC0000000C0000000C0000000C0000000 = ⟨[], []⟩ ∧
    overLimit 0xC0000000C0000000C0000000C0000000 = false := by decide +kernel
/-- Both contexts offer the bundle; the primary's runs, and this says whether both fit into the cycle. -/
def offersBoth (w : Nat) : State × Option (Bool × Bool) :=
  let s := ({ lone task with ctxs := [(0, task), (1, task)] }).withBundle w
  let s := { s with ctxs := [(0, s.ctx 0), (1, s.ctx 0)] }
  let s1 := landedCore s 0
  (s, match offer s1 0, offer s1 1 with
    | .judged b1 (.go l1), .judged b2 (.go l2) =>
      let p := primaryOf (s1.core 0) s1.cycle (s1.ctx 0) (s1.ctx 1)
      let s2 := s1.setCore 0 (chooseCore (s1.core 0) true p)
      let p1 := { s2 with cur := p }
      let p2 := { s2 with cur := 1 - p }
      some (slotsFit b1 b2 && decide (unitsUsed p1 b1 l1 + unitsUsed p2 b2 l2 ≤ vectorFree p1) &&
          (enginesUsed p1 b1 l1).all fun e => !(enginesUsed p2 b2 l2).contains e,
        match runBundle s2 p b1 (.go l1) with | .next _ => true | _ => false)
    | _, _ => none)
theorem test_w_step_both_fit : TurnOf0 (offersBoth bundleOne).1 ∧ (offersBoth bundleOne).2 = some (true, true) := by
  decide +kernel
theorem test_w_step_first_alone : TurnOf0 (offersBoth 0xC0000000C0000000C000000021980100).1 ∧
    (offersBoth 0xC0000000C0000000C000000021980100).2 = some (false, true) := by decide +kernel
/-- A bundle of one slot: it issues; a source whose result is outstanding stalls it; a store outside the window fails. -/
theorem test_w_bundle_of_one : (Instr.add 0 1 2 3).inSlot = true ∧ (lone task).before = none ∧ verdict (.add 0 1 2 3) (lone task) = .go ∧
    verdict (.add 0 1 2 3) (lone { task with inflight := [⟨some (.s 2), .word 0, 0, 9, true, 0, false⟩] }) = .stall ∧
    (match verdict (.sts 0 1 2 3 0) (lone { taskR 0 0x20000 0 0 with slsize := 0x20000 }) with
      | .fault _ _ => true | _ => false) = true ∧
    (slot task).before.isSome = true ∧ suppressed (.add 1 1 2 3) (slot task) = true := by decide +kernel
theorem test_w_constants : (slot task).src.pendOf (.s 1) = none ∧ (slot task).src.pendOf (.c 1) = none ∧
    (slot task).src.pendOf (.k 1) = none ∧ (slot task).src.pendOf (.v 1) = none ∧ (slot task).me.inflight = [] := by decide +kernel
theorem test_w_lands : (slot task).cycle + 4 ≤ 4 ∧ ∀ p ∈ (slot task).me.inflight, p.isRead = false := by decide +kernel


-- Witnesses: slots. A slot of a bundle in progress whose predicate is c0 acts.

theorem test_w_scalar_slots : acts (slot task) [.add 0 1 2 3, .addi 0 1 2 3, .sub 0 1 2 3, .mul 0 1 2 3, .and 0 1 2 3, .or 0 1 2 3,
    .xor 0 1 2 3, .andn 0 1 2 3, .shl 0 1 2 3, .shrs 0 1 2 3, .shrz 0 1 2 3, .rotl 0 1 2 3, .mins 0 1 2 3, .minz 0 1 2 3,
    .maxs 0 1 2 3, .maxz 0 1 2 3, .mov 0 1 2, .mulhs 0 1 2 3, .mulhz 0 1 2 3, .clz 0 1 2, .ctz 0 1 2, .popc 0 1 2, .movi 0 1 2,
    .movhi 0 1 2 3, .sel 0 1 2 3 4, .lea 0 1 2 3 4, .tidx 0 1 2 3 1, .lds 0 1 2 3 false true 4, .sts 0 1 2 3 4, .stg 0 1 2,
    .crd 0 1 0x10, .fadd 0 1 2 3 true, .fmul 0 1 2 3, .ffma 0 1 2 3 true] = true := by decide +kernel
theorem test_w_conditions : acts (slot task) [.cmp 0 1 2 3 0, .cmp 0 1 2 3 1, .cmp 0 1 2 3 2, .cmp 0 1 2 3 3, .cmp 0 1 2 3 4,
    .cmp 0 1 2 3 5, .cmp 0 1 2 3 6, .cand 0 1 2 3, .cor 0 1 2 3, .cxor 0 1 2 3] = true := by decide +kernel
theorem test_w_result_frame : (Instr.vadd 0 1 2 3 0 false).givesResult = true ∧ (Instr.add 0 1 2 3).givesResult = true ∧
    acts (slot task) [.vadd 0 1 2 3 0 false, .add 0 1 2 3] = true := by decide +kernel
/-- R131 at its edges: a division by zero, -2^63 by -1, others; and the zeros of CLZ and CTZ. -/
theorem test_w_divisions : acts (slot (taskR 5 0 0 0)) [.divs 0 3 1 2, .divz 0 3 1 2, .rems 0 3 1 2, .remz 0 3 1 2] = true ∧
    (slot (taskR 5 0 0 0)).rs 2 = 0 ∧ ((slot (taskR (BitVec.ofNat 64 (2 ^ 63)) (-1) 0 0)).rs 1).toInt = -2 ^ 63 ∧
    ((slot (taskR (BitVec.ofNat 64 (2 ^ 63)) (-1) 0 0)).rs 2).toInt = -1 ∧ (slot (taskR (-7) 2 0 0)).rs 2 ≠ 0 ∧
    (slot (taskR (-7) 2 0 0)).me.inflight = [] ∧ (slot (taskR 0 0 0 0)).rs 1 = 0 ∧ (slot (taskR 1 0 0 0)).rs 1 ≠ 0 := by decide +kernel
/-- R132: a field of no width, one of 64 bits, and one cut off at bit 63. -/
theorem test_w_fields : acts (slot task) [.bfx 0 1 2 3 true, .bfi 0 1 2 3] = true ∧ min (min (0 / 256 % 128) 64) (64 - 0) = 0 ∧
    0 < min (min ((127 * 256) / 256 % 128) 64) (64 - 0) ∧ 0 < min (min ((64 * 256 + 63) / 256 % 128) 64) (64 - 63) := by decide +kernel
theorem test_w_atomics : (6 : BitVec 3) ≠ 7 ∧ acts (slot task) [.amos 0 1 2 3 6] = true := by decide +kernel
theorem test_w_control_registers : [0x40, 0x7F, 0x11, 0x10, 0x32, 0x12, 0x30, 0x13, 0x14, 0x19, 0x26, 0x27, 0x28, 0x1A, 0x1F,
      0x20, 0x25, 0x31, 0x35, 0x38, 0x3A, 0x3D].all (fun n => crListed n && !(crReadOnly n)) = true ∧
    ([0x40, 0x7F, 0x11, 0x10, 0x32, 0x12, 0x13, 0x14, 0x1A, 0x20, 0x26, 0x30, 0x31, 0x35, 0x3D].all fun n =>
      acts (slot task) [.cwr 0 1 n]) = true ∧ (slot { task with stub := some ⟨false, none, false⟩ }).me.restoring = true ∧
    acts (slot { task with stub := some ⟨false, none, false⟩ }) [.cwr 0 1 0x3D] = true ∧ (slot { task with landedAt := 7 }).me.landedAt ≠ (slot task).cycle := by decide +kernel
/-- R148 with a NaN and without one. -/
theorem test_w_float_compare : acts (slot task) [.fcmp 0 1 2 3 4, .fcvt 0 1 2 7] = true ∧ (4 : BitVec 3).toNat ≤ 4 ∧
    (unpack fp32 0x7FC00000).isNan = true ∧ (unpack fp32 0x3F800000).isNan = false := by decide +kernel
/-- R101: 1/3 rounds to a finite value in every direction; 2^200 does not to nearest, nor away from zero, and toward zero it is
beyond 2^128. -/
theorem test_w_rounding : (0 < 3) ∧ ([fp32, bf16, fp16].all fun f => (List.range 4).all fun r =>
      (unpack f (roundQuot f r false 1 3 0).1).finite) = true ∧ (unpack fp32 0).finite = true ∧
    (unpack fp32 (roundQuot fp32 0 false 1 1 200).1).finite = false ∧
    (unpack fp32 (roundQuot fp32 2 false 1 1 200).1).finite = false ∧
    2 * 2 ^ fp32.bias ≤ |(1 : Rat) * (1 / 1) * 2 ^ (200 : Int)| ∧ |(1 : Rat) * (1 / 3) * 2 ^ (0 : Int)| < 2 * 2 ^ fp32.bias := by
  refine ⟨by decide, by decide +kernel, by decide +kernel, by decide +kernel, by decide +kernel, ?_, ?_⟩
  · norm_num [fp32, Fmt.bias]
  · norm_num [fp32, Fmt.bias]
/-- R103: 1/3 is in range, 465, 480 and 449 exceed it, to nearest, toward zero and away from it. -/
theorem test_w_rounding_fp8 : (unpack8 (satFp8Quot 0 true false 1 3 0).1).finite = true ∧ (unpack8 0x38).finite = true ∧
    (464 : Rat) < |1 * (465 / 1) * 2 ^ (0 : Int)| ∧ (480 : Rat) ≤ |1 * (480 / 1) * 2 ^ (0 : Int)| ∧
    (448 : Rat) < |1 * (449 / 1) * 2 ^ (0 : Int)| := by
  refine ⟨by decide +kernel, by decide +kernel, ?_, ?_, ?_⟩ <;> norm_num
/-- 1, 2 and 1: sums and products that are 0 and that are not; a NaN, an infinity, and values outside an integer's range. -/
theorem test_w_exact_results :
    let u := unpack fp32 0x3F800000
    let z := unpack fp32 0x80000000
    u.finite = true ∧ z.finite = true ∧ u.rat + u.rat ≠ 0 ∧ u.rat - u.rat = 0 ∧ u.rat * u.rat ≠ 0 ∧ z.rat * u.rat = 0 ∧
    z.rat + z.rat = 0 ∧ (unpack fp32 0x7FC00000).isNan = true ∧ unpack fp32 0xFF800000 = .inf true ∧
    (unpack fp32 0x4F800000).finite = true := by decide +kernel
theorem test_w_to_integer : (1 : Int) < 2 ∧ (1 : Int) ≤ 2 ∧ (-1 : Int) < (if false then -2 ^ (8 - 1) else 0 : Int) ∧
    (if true then 2 ^ (8 - 1) - 1 else 2 ^ 8 - 1 : Int) < 200 := by decide

-- Witnesses: the X unit. A bundle of one slot that issues.

theorem test_w_branches : [Instr.br 0 false 5, .jmp 5, .jmpr 0 false 1, .call 5, .ret 0 false].all (issues (lone task)) = true := by
  decide +kernel
/-- A loop whose body is the bundle at 0x100, with n iterations left; and the same loop inside another one. -/
def inLoop (n : BitVec 32) : Task :=
  { task with pc := 0x100, ldepth := 1, lcount := vput task.lcount 0 n, lbody := vput task.lbody 0 (bodyWord 0x100 0) }
theorem test_w_loop_starts : issues (lone (taskR 3 0 0 0)) (.loop 1 2) = true ∧ (lone (taskR 3 0 0 0)).me.ldepth.toNat < 6 ∧
    ((lone (taskR 3 0 0 0)).rs 1).setWidth 32 ≠ 0 ∧ issues (lone task) (.loop 1 2) = true ∧
    ((lone task).rs 1).setWidth 32 = 0 ∧ (lone task).me.stub = none := by decide +kernel
theorem test_w_loop_ends : issues (lone (inLoop 1)) .nop = true ∧ issues (lone (inLoop 2)) .nop = true ∧
    (lone (inLoop 2)).me.stub = none ∧ (lone (inLoop 2)).me.inflight = [] ∧ (lone (inLoop 2)).me.ldepth.toNat = 0 + 1 ∧
    (lone (inLoop 2)).me.bodyEnd 0 = (lone (inLoop 2)).me.pc ∧ 1 < (vget (lone (inLoop 2)).me.lcount 0 0).toNat ∧
    (lone (inLoop 2)).me.ldepth.toNat ≤ 6 := by decide +kernel

-- Witnesses: bells.

/-- ARM below COUNT, at COUNT, and kept; ARRIVE with no target, at the target, below it (R43, R157). -/
theorem test_w_bell_events : (1 : BitVec 16) ≠ 0 ∧ (1 : BitVec 16).toNat < (bell 3 2).count.toNat ∧
    (bell 3 2).count.toNat ≤ (2 : BitVec 16).toNat ∧ (bell 0 0).target = 0 ∧ (bell 3 3).count = (bell 3 3).target ∧
    (bell 3 2).target ≠ 0 ∧ (bell 3 2).count ≠ (bell 3 2).target := by decide
theorem test_w_arm_arrive : let s := slot task
    bellLoc (clOf s.cur) ((s.rs 1).setWidth 16) = .cluster 0 0 ∧ (getBell s (.cluster 0 0)).holder.isSome = true ∧
    acts s [.arm 1 2 false 2, .arrive 1 2 0] = true ∧ s.arrivals = [] ∧ s.fences = [] ∧ cmdsOf s s.src.tid = [] ∧ s.src.mq = [] ∧
    s.src.inflight = [] := by decide +kernel
/-- WAIT at the edges of R159: PHASE - p of 1, 32,767, 0 and 32,768; and a waiting task. -/
theorem test_w_wait : acts (slot task) [.wait 1 2 0, .wait 1 2 2] = true ∧
    [0xFFFF, 0x8001, 0, 0x8000].map (fun p => ((getBell (slot task) (.cluster 0 0)).phase - (p : BitVec 16)).toNat) =
      [1, 32767, 0, 32768] ∧
    (let s := lone { task with wait := some ⟨0, 0, 0⟩ }; (s.ctx 0).wait.isSome = true ∧ (s.ctx 0).pend = []) := by decide +kernel
theorem test_w_task_control : acts (slot task) [.nop, .yield, .exit] = true ∧ (lone task).before = none ∧
    (slot task).me.stub = none := by decide +kernel

-- Witnesses: traps and segments.

theorem test_w_trap_entry : let s := lone { taskR 0 0x20000 0 0 with slsize := 0x20000 }
    s.me.stub = none ∧ s.me.handler = false ∧ s.me.code.trap = some 0x400 ∧ s.before = none ∧ (Instr.sts 0 1 2 3 0).inSlot = true ∧
    (match verdict (.sts 0 1 2 3 0) s with | .fault c _ => c == 3 | _ => false) = true ∧
    (Instr.mmah 0 0 1 2 3 false).inSlot = true ∧ verdict (.mmah 0 0 1 2 3 false) s = .illegal 10 := by decide +kernel
def aLaunch : Launch :=
  { queue := 0, num := 1, job := 1, bytes := List.replicate 64 0, code := task.code, entry := 0x100, groups := 1, tasks := 1,
    slsize := 0x1000, prio := 1, flags := 0, ncb := 0, npb := 0, nmb := 0, mbase := 0, comm := 0, hasTable := false, bells := [],
    did := 0, pbells := Vector.replicate 3 0, placed := Vector.replicate 3 0, retired := 0, consumed := 0, tiles := [],
    started := false, aborted := false, sigs := Vector.replicate 3 0, runs := 1, cores := [], held := false, voted := true }
def aGroup : Group :=
  { launch := 1, gid := 0, run := 0, cluster := 0, slbase := 0, slsize := 0x20000, ncb := 0, cbell := 0, job := 1, tasks := [1],
    left := 1, away := none, displacing := none }
/-- A package with one job, one launch and one group with one task. -/
def placed (t : Task) : State := { lone t with launches := [(1, aLaunch)], groups := [(1, aGroup)] }
theorem test_w_trap_aborts : let s := placed { task with handler := true }
    s.me.stub = none ∧ s.me.handler = true ∧ (tabFind s.launches s.me.launch).isSome = true ∧
    (tabFind s.groups 1).isSome = true ∧ aGroup.launch = s.me.launch := by decide +kernel
theorem test_w_software_trap : issues (lone task) (.trap 5) = true ∧ (lone task).me.ldepth = 0 ∧ (lone task).me.stub = none ∧
    issues (lone { task with handler := true }) .tret = true ∧ (lone task).me.heldWait = none := by decide +kernel
theorem test_w_segments : [Instr.nop, .seg 5].all (issues (lone task)) = true ∧ issues (lone { task with handler := true }) .nop = true ∧
    (lone task).me.handler = false ∧ (lone task).me.ldepth = 0 := by decide +kernel
/-- Regions at their edges: the first and the fourth are opened, the fourth and the first closed. -/
theorem test_w_regions : [0, 3].all (fun d => acts (slot { task with crdepth := d }) [.cropen 5]) = true ∧
    [1, 4].all (fun d => acts (slot { task with crdepth := d }) [.crclose] && decide (0 < (d : BitVec 3).toNat)) = true ∧
    (slot task).me.tid = (slot task).src.tid ∧ (3 : BitVec 3).toNat < 4 := by decide +kernel
theorem test_w_regions_src : ∀ t, (slot t).src = (slot t).me := fun _ => rfl


-- Witnesses: the V unit.

theorem test_w_vector_views : fpView 2 = true ∧ bitView 5 = true ∧ intView 4 = true ∧ anyView 5 = true ∧ (2 : BitVec 2) ≠ 3 ∧
    (slot task).before.isSome = true ∧ [1, 2].map (fun p => vcvtLegal 0 1 p) = [true, false] ∧ vcvtLegal 1 2 0 = true ∧
    viewCols 1 = viewCols 2 ∧ vcvtLegal 0 1 1 = true ∧ viewCols 0 < viewCols 1 ∧ vcvtLegal 3 0 3 = true ∧
    viewCols 0 < viewCols 3 := by decide +kernel
/-- R191: one and four levels, with a threshold and without; a transformed tile and a spatial one. -/
theorem test_w_wavelets : (1 : BitVec 3) ≠ 0 ∧ (4 : BitVec 3).toNat ≤ 4 ∧ isHaar 0x05 = true ∧ isHaar 0x00 = false ∧
    (slot { task with v := vput task.v 2 { Tile.zero with tag := 0x05 } }).before.isSome = true := by decide +kernel
theorem test_w_records : let s := slot task
    fullFor s s.cur s.nextId 0 (recLen (slRead (s.cl 0) 0 128)) = true ∧ s.me.inflight = [] ∧
    (let s := { s with clusters := [(0, { cluster with slate := [(8, 32)], lineEmpty := [0] })] }
     fullFor s s.cur s.nextId 0 (recLen (slRead (s.cl 0) 0 128)) = false) := by decide +kernel
/-- A VLDT that waits for its lines, which are empty, or full. -/
theorem test_w_record_waits : let p : Pending := ⟨some (.v 1), .record 3 0 32 Tile.zero, 0, 9, true, 0, false⟩
    let s := lone { task with inflight := [p] }
    (s.ctx 0).inflight = [p] ∧ p.val = .record 3 0 32 Tile.zero ∧ fullFor s 0 3 0 32 = true ∧
    fullFor { s with clusters := [(0, { cluster with lineEmpty := [0] })] } 0 3 0 32 = false :=
  ⟨rfl, rfl, by decide +kernel, by decide +kernel⟩
/-- R191 and R114: 16 elements, and up to four levels. -/
theorem test_w_haar_columns : (List.replicate 16 0).length = 16 ∧ 4 ≤ 4 ∧ (0 : Nat) < 4 ∧ (7 : Nat) < 16 / 2 ^ (0 + 1) ∧
    fpView 0 = true := by decide

-- Witnesses: the M unit.

theorem test_w_matrix_queue : let s := slot { task with mrepleft := 4 }
    (Instr.mma 0 0 1 2 3 false).queues = true ∧ acts s [.mma 0 0 1 2 3 false, .mclr 0 1 true, .mrep 0 4] = true ∧
    isMM (.mma 0 0 1 2 3 false) = true ∧ s.src.mrepleft ≠ 0 ∧ isMM (.mclr 0 1 true) = false ∧
    (slot task).src.mq = [] ∧ (slot task).src.mrepleft = 0 ∧ isMdrns (.mma 0 0 1 2 3 false) = false := by decide +kernel
def mjob (i : Instr) (n : Nat) (begun : Bool) : MJob :=
  { i := i, word := 0, s1 := 0, s2 := 0, thr := 0, n := n, next := 0, begun := begun, due := 0, retries := 0, id := 3, atile := none,
    apois := false, img := none, tag := 0, wr := false }
def engine (j : MJob) : State := lone { task with mq := [j] }
theorem test_w_matrix_begins : [Instr.mldb 0 1 2 false, .mclr 0 1 true, .macc 0 1 2, .mdrn 0 1 2 3 false, .mmas 0 1 2 3 false].all
    (fun i => (headJob (landCtx 0 (engine (mjob i 1 false))) 0).isSome && nextBegin (landCtx 0 (engine (mjob i 1 false))) 0 == some 0) =
      true ∧ fld 0 2 ((engine (mjob .nop 1 false)).core 0).cfg ≠ 1 := by decide +kernel
/-- The last pass, and one that is not the last; and the operations. -/
theorem test_w_matrix_passes : [1, 2].all (fun n =>
      let s := landCtx 0 (engine (mjob (.mma 0 1 2 3 4 false) n true))
      match dueJob s 0 with
      | some j => isMM j.i && !(jobPoison s 0 j) && !(s.ctx 0).preempt && !(s.ctx 0).debug && decide (passAcc j < 8)
      | none => false) = true ∧
    [Instr.mldb 0 1 2 false, .mclr 0 1 true, .macc 0 1 2, .mdrn 0 1 2 3 false, .mdrns 0 1 0 2 3 false].all (fun i =>
      let s := landCtx 0 (engine (mjob i 1 true))
      match dueJob s 0 with | some j => !(jobPoison s 0 j) | none => false) = true ∧
    (dueMcfg (engine (mjob (.mcfg 0 1) 1 false)) 0).isSome = true := by decide +kernel
/-- A residue mismatch: the first, and the third, at the first stop and within the tick of another; and a poisoned A tile. -/
theorem test_w_matrix_stops :
    let j := mjob (.mma 0 1 2 3 4 false) 2 true
    let at' := fun (s : State) => match dueJob (landCtx 0 s) 0 with | some x => some (x.retries, x.apois) | none => none
    at' (engine j) = some (0, false) ∧ (landCtx 0 (engine j)).jobs = [] ∧
    at' (engine { j with retries := 2 }) = some (2, false) ∧
    ((landCtx 0 (engine { j with retries := 2 })).core (coreOf 0)).stopAt ≠ some (engine j).ticks ∧
    at' ((engine { j with retries := 2 }).setCore 0 { Core.empty with stopAt := some 0 }) = some (2, false) ∧
    (((engine { j with retries := 2 }).setCore 0 { Core.empty with stopAt := some 0 }).core 0).stopAt = some (engine j).ticks ∧
    at' (engine { j with apois := true }) = some (0, true) ∧ isMM j.i = true := by decide +kernel
theorem test_w_integer_pass : (15 : Nat) < 16 ∧ 63 < 64 ∧ [0, 5].Nodup := by decide
/-- A row update of 64 ones, and of an infinity and a NaN beside an infinite element. -/
theorem test_w_row_update : (List.replicate 64 (Val.fin false 1 0)).length = 64 ∧
    (∃ j, j < 64 ∧ elClass (vget (Acc.clear false).elem (64 * 15 + j) 0) = 0 ∧ (Val.fin false 1 0).finite = true) ∧
    elClass (elOf 1) = 1 ∧ elClass (elOf 3) = 3 ∧ (Val.inf true).finite = false := by
  refine ⟨by decide, ⟨0, by decide, by decide +kernel, by decide⟩, by decide +kernel, by decide +kernel, by decide⟩
/-- Chunks of one product: 1 by 1, NaN, 0 by infinity, infinity by 1; a term between 2^0 and 2^1. -/
theorem test_w_matrix_chunks : let one := Val.fin false 1 0
    (∀ p ∈ [(one, one)], p.1.finite = true ∧ p.2.finite = true) ∧ (∃ p ∈ [(Val.nan, one)], p.1 = .nan ∨ p.2 = .nan) ∧
    (mulVal (.fin false 0 0) (.inf false)).2 = fNV ∧ (mulVal (.inf false) one).1 = .inf false ∧
    (∃ n m e, one = .fin n m e ∧ -9 ≤ e) ∧ (2 : Rat) ^ (0 : Int) ≤ |one.rat * one.rat * 2 ^ (0 : Nat)| ∧
    |one.rat * one.rat * 2 ^ (0 : Nat)| < (2 : Rat) ^ ((0 : Int) + 1) := by
  refine ⟨by decide, ⟨(.nan, .fin false 1 0), by decide, .inl rfl⟩, by decide +kernel, by decide +kernel, ⟨_, _, _, rfl, by decide⟩, ?_, ?_⟩ <;>
    norm_num [Val.rat]
/-- Drains: a row that is not written, one that is, of each mode and class; a Haar accumulator and a spatial one; a record and rows. -/
theorem test_w_drains : (Acc.clear false).written.getLsbD 3 = false ∧
    ({ Acc.clear true with written := 0xFFFF } : Acc).written.getLsbD 3 = true ∧ (Acc.clear true).imode = true ∧
    (Acc.clear false).imode = false ∧ elClass (elOf 2) = 2 ∧ elClass 0 = 0 ∧ isHaar 0x05 = true ∧ isHaar 0 = false ∧
    (2 : BitVec 5).toNat / 8 < 3 ∧ (0x14 : BitVec 5).toNat / 8 < 3 ∧ (0x14 : BitVec 5).getLsbD 2 = true ∧
    (0x13 : BitVec 5).getLsbD 2 = false ∧ (0x13 : BitVec 5).getLsbD 0 = true ∧
    8 * ((0x2000000000 : Word).toNat / 2 ^ 35 % 2 ^ 20) ≠ 0 := by decide +kernel

-- Witnesses: the C unit.

/-- A command with staging words 0 to 3 in group 0. -/
def cmd (i : Instr) (a b c d : Word) : Cmd :=
  newCmd (slot { task with e := vput (vput (vput (vput task.e 0 a) 1 b) 2 c) 3 d }) i
def went (c : Cmd) : Cmd := { c with begun := true }
def page : TlbEnt := { job := 1, va := 0x10000, level := 3, leaf := 0x2001F }
/-- Engine 0 holds commands; the task, its group and a translation of 0x10000. -/
def engs (l : List Cmd) : State :=
  { placed task with engs := [(0, l)], clusters := [(0, { cluster with tlb := [page] })] }
theorem test_w_commands : [Instr.cpy 0 0 0 0 0, .tbind 0 0 0 1, .chrcv 0 0 0, .bmode 0 0 0 1, .rshd 0 0 0 0, .qpush 0 0 0 true,
      .sete 0 0 0, .coll 0 0 0 0 0 0].all (fun i => i.isCommand && (cmdGroup i).isSome) = true ∧
    acts (slot task) [.cpy 0 0 0 0 0, .tbind 0 0 0 1, .chrcv 0 0 0, .bmode 0 0 0 1, .rshd 0 0 0 0, .fence 0 0 1, .fence 0 0 0, .rel 0 0 1,
      .rel 0 0 0, .tlbi 0] = true ∧ (1 : BitVec 16) ≠ 0 ∧ (slot task).fences = [] ∧ (slot task).arrivals = [] ∧
    vget (slot { task with tbind := vput task.tbind 2 (some ⟨0, none, false⟩) }).me.tbind 2 none = some ⟨0, none, false⟩ ∧
    (newCmd (slot task) (.rshd 0 0 0 0)).va = 0 := by decide +kernel
/-- A FENCE with an earlier command of its class, and without; a halted engine, and one that is not. -/
theorem test_w_fences : let s := { slot task with engs := [(0, [cmd (.cpy 0 0 0 0 0) 0 0 0 0])], nextId := 20 }
    (cmdsOf s s.src.tid).any (fun c => decide (c.2.id < s.nextId) && (1 : BitVec 16).getLsbD (cmdCls c.2.i)) = true ∧
    (cmdsOf (slot task) (slot task).src.tid) = [] ∧ engineHalted s 0 = false ∧
    engineHalted (engs [{ cmd (.cpy 0 0 0 0 0) 0 0 0 0 with halt := some (1, 0x10000, 2) }]) 0 = true ∧
    (let f : Fence := ⟨1, 3, 1, 0, 1, 0, false, false⟩
     f.tid = (cmd (.cpy 0 0 0 0 0) 0 0 0 0).tid ∧ f.id < (cmd (.cpy 0 0 0 0 0) 0 0 0 0).id ∧
       f.mask.getLsbD (cmdCls (cmd (.cpy 0 0 0 0 0) 0 0 0 0).i) = true) := by decide +kernel
/-- A copy of one row of 256 bytes between 0x10000 and Slate 0x200. -/
def copy (out : BitVec 9) : Cmd := cmd (.cpy 0 0 0 0 out) 0x10000 0x200 256 0
theorem test_w_engine_begins : (beginnable (engs [copy 0]) 0).isSome = true ∧ movesSectors (copy 0).i = true ∧ (copy 0).marker = false ∧
    (match beginnable (engs [markerCmd 1 3 1 0]) 0 with | some c => c.marker | none => false) = true := by decide +kernel
theorem test_w_engine_sete : let c := went (cmd (.sete 0 0 0) 0 0 256 0)
    movable (engs [c]) 0 = some c ∧ remoteState (engs [c]) c = .there := by decide +kernel
/-- The other commands that begin: GATH of one row, with its list full; TCPY with a valid descriptor; CPYS to a group that is not
there. -/
def descBytes : List Byte :=
  bytesOf 8 0 ++ bytesOf 8 65536 ++ bytesOf 16 (7 * 2 ^ 17 + 7 * 2 ^ 37 + 7 * 2 ^ 57 + 7 * 2 ^ 77) ++ bytesOf 4 4 ++
    List.replicate 20 0 ++ [1, 0, 0, 0] ++ bytesOf 4 0
theorem test_w_engine_begins_others :
    (let c := cmd (.gath 0 0 0 0) 0x10000 0x200 0x400 (BitVec.ofNat 64 (2 ^ 24 + 64))
     beginnable (engs [c]) 0 = some c ∧ c.marker = false ∧ 4 * fldN 24 16 (c.word 3) = 4 ∧
     allFull ((engs [c]).cl c.cluster) c.listAddr 4 = true ∧ anyPoison ((engs [c]).cl c.cluster) c.listAddr 4 = false) ∧
    (let c := { cmd (.tcpy 0 0 0 0 0 false) 0 0 0 0 with desc := some descBytes }
     let s := { engs [c] with meshpos := 0x0101010100000000 }
     beginnable s 0 = some c ∧ c.marker = false ∧ descValid c.descr (descMap c.descr) s.meshpos = true) ∧
    (let c := cmd (.cpys 0 0 0 0 0) 0x500000000 0x200 256 0
     beginnable (engs [c]) 0 = some c ∧ c.marker = false ∧ (remoteGroup (engs [c]) c).isNone = true) := by decide +kernel
/-- What a command writes next of these bytes: the run and its address, its bytes, and what is left of them and the words kept. -/
def writes (s : State) (c : Cmd) (out : List Byte) : Option (Ext × Nat × List Byte × (Cmd × Nat × List Byte) × List Nat) :=
  let dst := c.unitDst s.meshpos (cmdRemote s c) c.unit (c.out.map List.length)
  (extAt c.put dst).map fun x =>
    let a := x.1.addr + x.2
    let bs := bytesAt c.put (pieceLen a (x.1.len - x.2)) out
    (x.1, a, bs, wordRun s c a bs, dstFmts c (extIndex c.put dst))
/-- A sector is written into Slate: a whole line, of a unit that has been read and of one that is still read; half a line. -/
theorem test_w_engine_writes_slate : let c0 := went (copy 0)
    ([({ c0 with out := some (List.replicate 256 7) }, List.replicate 256 7), ({ c0 with got := List.replicate 128 7 }, List.replicate 128 7)].all
      fun x => let s := engs [x.1]
        movable s 0 == some x.1 && remoteState s x.1 == .there && decide (x.1.unit < x.1.units) &&
        (x.1.out.isSome || (streamReady s x.1 x.1.streamed && x.2 == x.1.streamed &&
          (extAt x.1.got.length (x.1.unitSrc s.meshpos (cmdRemote s x.1) x.1.unit x.1.got)).isSome)) &&
        match writes s x.1 x.2 with
        | some (y, a, bs, _) => y.slate == some 0 && !(slateHeld s x.1 0 a bs.length) && bs.length == 128 &&
            !(lineLeft s { x.1 with landed := [(4, [(a, bs)])], put := 128, dstpos := 128 } 4)
        | none => false) = true ∧
    (let c := { went (cmd (.cpy 0 0 0 0 0) 0x10000 (0x200 + 64 * 2 ^ 40) 64 1) with out := some (List.replicate 64 7) }
     let s := engs [c]
     movable s 0 = some c ∧ c.unit < c.units ∧ lineLeft s { c with put := 64, dstpos := 64 } 4 = true) := by decide +kernel
/-- At the home: a sector; a word of which one half comes, and is kept; a thatch slot with its tail; a page that is not writable. -/
theorem test_w_engine_writes_home :
    (let c := { went (copy 1) with out := some (List.replicate 256 7) }
     let s := engs [c]
     movable s 0 = some c ∧ remoteState s c = .there ∧ c.unit < c.units ∧ c.put = 0 ∧
     (match writes s c (List.replicate 256 7) with
      | some (x, _, bs, r, fmts) => x.slate == none && !(fmts.contains 5) && r.2.2 == bs && (partWords r.2.1 bs.length).isEmpty &&
        (match xlate s c r.2.1 false true fmts with
         | .page p => let h := forwarded s (leafPkg p.leaf) (leafAddr p.level p.leaf r.2.1)
                      h.1 == s.pkg && !(writeHeld s h.2 128) && !(backHeld s c h.1 h.2)
         | _ => false)
      | none => false) = true ∧
     c.shadow = false ∧ c.bv = false ∧ servedBy s c = false ∧ groupCache s 0 1 = [] ∧
     (let s := { s with clusters := [(0, { cluster with tlb := [{ page with leaf := 0x20003 }] })] }
      movable s 0 = some c ∧ xlate s c 0x10000 false true [] = .fault 2)) ∧
    (let c := { went (cmd (.cpy 0 0 0 0 1) 0x10000 0x200 (4 + 4 * 2 ^ 24) 1) with out := some [1, 2, 3, 4] }
     let s := engs [c]
     movable s 0 = some c ∧ c.unit < c.units ∧
     (match writes s c [1, 2, 3, 4] with | some (x, _, _, r, _) => x.slate == none && r.2.2 == [] | none => false) = true) ∧
    (let c := { went (cmd (.cpy 0 0 0 5 1) 0x10000 0x200 0x1001 0) with out := some (List.replicate 4352 0) }
     let s := { engs [c] with clusters := [(0, { cluster with tlb := [{ page with leaf := 0x000A00000002001F }] })] }
     c.put = 0 ∧ (dstFmts c 0).contains 5 = true ∧
       xlate s c (0x10000 + 4351) false false (dstFmts c 0) = .page { page with leaf := 0x000A00000002001F }) := by decide +kernel
/-- A sector is read, from Slate and from the home. -/
theorem test_w_engine_reads : [0, 1].all (fun out =>
      let c := went (copy out)
      let s := engs [c]
      let c' := { c with got := List.replicate 128 0, srcpos := c.srcpos + 1, srcSec := some 4 }
      movable s 0 == some c && remoteState s c == .there && decide (c.unit < c.units) && c.out.isNone &&
        !(streamReady s c c.streamed) && !(headerBad c) &&
        (extAt c'.got.length (c'.unitSrc s.meshpos (cmdRemote s c') c'.unit c'.got)).isSome &&
        (match extAt 0 (c.unitSrc s.meshpos (cmdRemote s c) c.unit []) with
         | some (x, o) => match x.slate with
           | some k => k == 0 && !(anyPoison (s.cl k) (x.addr + o) 128)
           | none => (match xlate s c (x.addr + o) true false (srcFmts c) with
              | .page p => let h := forwarded s (leafPkg p.leaf) (leafAddr p.level p.leaf (x.addr + o))
                           h.1 == s.pkg && !(dramPoisoned s h.2 128) && !(servedBy s c) && (groupCache s 0 1).isEmpty &&
                             !(backHeld s c h.1 h.2) && !((srcFmts c).contains 5) &&
                             gotWords (x.addr + o) 128 c (memRead s.dram h.2 128) == (c, memRead s.dram h.2 128)
              | _ => false)
         | none => false)) = true := by decide +kernel
def armed : Cmd := { went (cmd (.cpy 0 0 0 0 0) 0x10000 0x200 0 (BitVec.ofNat 64 (2 ^ 62))) with unit := 1 }
theorem test_w_engine_completes : let s := engs [armed]
    completable s 0 = some armed ∧ endedReshard s 0 = none ∧ s.wbs = [] ∧ cutOf s armed = none ∧ armed.ca = true ∧ armed.cscope = 0 ∧ s.fences = [] ∧ s.arrivals = [] ∧
    bellLoc armed.cluster armed.bell = .cluster 0 0 ∧ (getBell s (.cluster 0 0)).holder.isSome = true := by decide +kernel
theorem test_w_bmode : (quiescent (engs [cmd (.bmode 0 0 0 1) 0 0 0 0]) 0).isSome = true ∧
    (let s := { engs [cmd (.bmode 0 0 0 0) 0 0 0 0] with clusters := [(0, { cluster with mode := [(0, 1)] })] }
     (quiescent s 0).isSome = true ∧ bankMode (s.cl 0) 0 ≠ 0) := by decide +kernel
def jobE (w : List (Nat × Word)) : Job := { Job.empty with w := w.foldl (fun v x => vput v x.1 x.2) (vput Job.empty.w 0 0x8000000000000001) }
/-- Page tables of job 1: 0x10000 lies in the frame at 0x30000. -/
def tables : Mem := [(0x10000, 0x20001), (0x20000, 0x21001), (0x21000, 0x22001), (0x22008, 0x3001F)].foldl
  (fun m x => memWrite m x.1 (bytesOf 8 x.2)) []
def mapped : State := { placed task with jobs := [(0, jobE [(1, 0x10000)])], dram := tables }
def walk (va : Nat) : Walk := ⟨1, 1, va, none, [2]⟩
theorem test_w_walks : let s := { mapped with clusters := [(0, { cluster with walks := [walk 0x10000, walk 0x20000] })] }
    (s.cl 0).walks[0]? = some (walk 0x10000) ∧ (walk 0x10000).fault = none ∧ walkInFlight s (walk 0x10000) = true ∧
    (match walkPage s 1 0x10000 with | .ok l => l.level == 3 && leafPa l.e == 0x30000 | .error _ => false) = true ∧
    (s.cl 0).walks[1]? = some (walk 0x20000) ∧ walkInFlight s (walk 0x20000) = true ∧
    (match walkPage s 1 0x20000 with | .ok _ => false | .error k => k == 1) = true := by decide +kernel
theorem test_w_eviction : let l : CLine := ⟨0, 0x30000, List.replicate 128 0, BitVec.allOnes 128, 0, false⟩
    let s := { placed task with clusters := [(0, { cluster with cache := [(1, [l])] })] }
    (groupCache s 0 1)[0]? = some l ∧ l.dirty = 0 := by decide +kernel


-- Witnesses: translation and migration.

def xreq (va count size : Nat) (entry : Word) : XReq :=
  { job := 1, va := BitVec.ofNat 64 va, count := BitVec.ofNat 32 count, size := BitVec.ofNat 32 size, entry := entry, caddr := 0x100,
    cval := 1, rsvd := 0, win := 0 }
/-- Requests that fit, at their edges, and one that does not. -/
theorem test_w_requests : [xreq 0x10000 1 0 0, xreq 0x10000 (2 ^ 20) 0 0].all (fun r =>
      decide (r.size.toNat ≤ 2 ∧ r.rsvd = 0 ∧ r.count ≠ 0 ∧ r.count.toNat ≤ 2 ^ 20 ∧ r.va.toNat % pageBytes (reqLevel r) = 0)) = true ∧
    ¬((xreq 0x10000 0 0 0).count ≠ 0) ∧ ¬((xreq 0x10001 1 0 0).va.toNat % pageBytes (reqLevel (xreq 0x10001 1 0 0)) = 0) := by decide
/-- MAP where there is no table; over an entry that is not valid, of the same frame, and of another one, pinned or not. -/
theorem test_w_map :
    entryAt (placed task) 1 (reqPage (xreq 0x10000 1 0 0x3001F) 0) 3 = none ∧
    [xreq 0x20000 1 0 0x3001F, xreq 0x10000 1 0 0x3001F, xreq 0x10000 1 0 0x4001F].map (fun r =>
      match entryAt mapped 1 (reqPage r 0) 3 with
      | some (_, old) => (old.getLsbD 0 && old.getLsbD 4, leafPkg old == leafPkg (reqLeaf r 0) && leafPa old == leafPa (reqLeaf r 0),
          pagePinned mapped 1 (reqPage r 0) 65536 old)
      | none => (false, false, true)) = [(false, false, false), (true, true, false), (true, false, false)] ∧
    (let s := { mapped with launches := [(1, { aLaunch with started := true, code := ⟨0x10000, 0x100, none, [], []⟩ })] }
     match entryAt s 1 0x10000 3 with | some (_, old) => pagePinned s 1 0x10000 65536 old | none => false) = true := by decide +kernel
theorem test_w_unmap : leafAt mapped 1 0x20000 3 = none ∧ (leafAt mapped 1 0x10000 3).isSome = true ∧
    (∀ g ∈ mapped.groups, groupCache mapped g.2.cluster g.1 = []) ∧ launchPinned mapped 1 0x10000 65536 = false := by decide +kernel
theorem test_w_request_done :
    let s : State := { ready with waitDone := [⟨0, 1, 0, [], [], [], none, 0⟩] }
    s.waitDone.findIdx? (doneReady s) = some 0 ∧ s.waitDone[0]? = some ⟨0, 1, 0, [], [], [], none, 0⟩ := by decide +kernel
def halted : Cmd := { went (copy 0) with halt := some (5, 0x10000, 2) }
theorem test_w_fault_replies : (FReply.mk 5 1 1).rsvd ≠ 0 ∧ (FReply.mk 5 1 0).rsvd = 0 ∧
    tokenCmd (engs [halted]) 1 5 = some (0, halted) ∧ halted.halt = some (5, 0x10000, 2) ∧
    ctxOfTid (engs [halted]) halted.tid = some 0 ∧ ((engs [halted]).ctx 0).exited = false := by decide +kernel
def aRec : FRec := { kind := 1, reply := false, time := 0, source := 0, queue := 0, value := 0, detail := [] }
theorem test_w_fault_ring : let s := { mapped with jobs := [(0, { jobE [(1, 0x10000)] with waiting := [aRec] })] }
    jobIdx s 1 = some 0 ∧ (jobAt s 0).waiting = [aRec] ∧ ringFull (jobAt s 0) = false ∧ s.wbs = [] ∧
    writeHeld s (fldN 6 40 (vget (jobAt s 0).w 2 0) * 64) 64 = false := by decide +kernel

def migrCmd : Cmd := went (cmd (.migr 0 0 0) 0x10000 5 1 0)
def migrState (m : Migr) : State := { mapped with migr := [m], routes := [(5, 0x8000000000000000)] }
def aMigr : Migr :=
  { origin := 0, cmd := 9, job := 1, va := 0x10000, level := 3, leafAt := 0x22008, old := 0x30000, target := 5, stage := 0,
    frame := 0, copied := 0, acks := [], held := [] }
theorem test_w_migr_command : (match migrating (engs [migrCmd]) 0 with
      | some c => c.reply.isNone && c.sent.isNone && (match xlate (engs [migrCmd]) c (c.va + c.put) true true [] with
        | .page x => leafPkg x.leaf == (engs [migrCmd]).pkg | _ => false)
      | none => false) = true ∧
    (match migrating (engs [{ migrCmd with reply := some ([], 0) }]) 0 with
      | some c => c.reply == some ([], 0) | none => false) = true := by decide +kernel
/-- A page to be judged, pinned and not; a page half copied; a page that has been copied. -/
theorem test_w_migr_home : (let s := migrState aMigr
     migrReady s aMigr = true ∧ (match leafAt s 1 0x10000 3 with
       | some (_, e) => leafPkg e == s.pkg && !(pagePinned s 1 0x10000 aMigr.size e) | none => false) = true ∧ aMigr.target ≠ s.pkg ∧
     s.fwd.length + (s.migr.filter fun x => x.stage != 0).length < 16384 ∧ routable s 5 = true ∧ ∀ g ∈ s.groups, groupCache s g.2.cluster g.1 = []) ∧
    (let s := { migrState aMigr with dram := memWrite tables 0x22008 (bytesOf 8 (0x3001F + 2 ^ 47)) }
     migrReady s aMigr = true ∧ (match leafAt s 1 0x10000 3 with
       | some (_, e) => leafPkg e == s.pkg && pagePinned s 1 0x10000 aMigr.size e | none => false) = true) ∧
    migrReady (migrState { aMigr with stage := 2 }) { aMigr with stage := 2 } = true ∧ aMigr.copied < aMigr.size ∧
    (let m := { aMigr with stage := 2, copied := 65536 }; migrReady (migrState m) m = true ∧ m.size ≤ m.copied ∧
       ∀ g ∈ (migrState m).groups, groupCache (migrState m) g.2.cluster g.1 = []) := by decide +kernel

-- Witnesses: tasks.

def due (d : Nat) (sb : Bool) (early : Nat) : Pending := ⟨some (.s 5), .word 7, 0x40, d, sb, early, false⟩
theorem test_w_results : (due 3 false 0).sb = false ∧ (due 3 false 0).lands (lone task).cycle = false ∧
    (due 0 true 0).sb = true ∧ (due 0 true 0).due ≤ (lone task).cycle ∧ (due 9 true 1).early = 1 ∧ (due 9 true 2).early = 2 ∧
    ((lone { task with inflight := [due 9 true 2] }).ctx 0).inflight[0]? = some (due 9 true 2) ∧ 5 < 64 := by decide +kernel
theorem test_w_pending_errors : let t := { task with pend := [⟨17, 0x500000000, none⟩] }
    let u := { task with crdepth := 2, pend := [⟨17, 0, some 1⟩] }
    ((lone t).ctx 0).active = true ∧ ((lone t).ctx 0).exited = false ∧ ((lone t).ctx 0).handler = false ∧ ((lone t).ctx 0).stub = none ∧
    ((lone t).ctx 0).pend = [⟨17, 0x500000000, none⟩] ∧ ((lone t).ctx 0).code.trap = some 0x400 ∧
    ((lone u).ctx 0).pend = [⟨17, 0, some 1⟩] ∧ 1 < ((lone u).ctx 0).crdepth.toNat := by decide +kernel
theorem test_w_task_exits : [1, 2].all (fun n =>
      let s := landCtx 0 { placed { task with exited := true } with groups := [(1, { aGroup with left := n })] }
      hasExited s 0 && tabFind s.groups (s.ctx 0).group == some { aGroup with left := n } && aGroup.away.isNone && (tabFind s.launches 1).isSome) = true := by decide +kernel
def preState (t : Task) : State := { placed t with launches := [(1, { aLaunch with flags := 4 })] }
def qEntry : Queue := { Queue.empty with qctl := 0x100000301 }
def qRec (l : Option Nat) : QRec := { num := 1, bytes := List.replicate 64 0, launch := l, done := false, fault := none, kept := [] }
/-- A launch of higher priority finds no contexts for its group; the task on core 0 has them (the test slice is core 1's). -/
def wanting (t : Task) : State :=
  { preState t with
    launches := [(1, { aLaunch with flags := 4 }), (2, { aLaunch with queue := 1, prio := 0, tasks := 17 })],
    queues := [(1, { qEntry with recs := [qRec (some 2)] })],
    clusters := [(0, { cluster with sliceAt := 1 })] }
def stubbed : Task := { task with code := { task.code with stubs := [(0, 0x100, 0x800, 0x900)] } }
theorem test_w_preemption : let s := preState task
    mayPreempt { s with clusters := [(0, { cluster with sliceAt := 1 })] } 0 = false ∧ mayPreempt (s.setCore 0 { Core.empty with queued := true }) 0 = true ∧
    (let w := wanting task
     mayPreempt w 0 = true ∧ sliceWants w (coreOf 0) = false ∧ tabFind w.launches (w.ctx 0).launch = some { aLaunch with flags := 4 } ∧
     (w.ctx 0).wait = none ∧ contextWanted w 0 = true) ∧
    (s.ctx 0).active = true ∧ (s.ctx 0).exited = false ∧
    (let s1 := landCtx 0 (preState { task with preempt := true, savebase := 0x1000 })
     let u := s1.ctx 0
     u.preempt = true ∧ mayLeave s1 u = true ∧ drainStub u = none ∧ hasArea u = true) ∧
    (let s1 := landCtx 0 (preState { stubbed with preempt := true, savebase := 0x8000000000000000 })
     let u := s1.ctx 0
     u.preempt = true ∧ mayLeave s1 u = true ∧ drainStub u = some 0x800 ∧ hasArea u = false) ∧
    (let s1 := landCtx 0 (preState { task with handler := true })
     mayLeave s1 (s1.ctx 0) = false) := by decide +kernel
theorem test_w_stub_ends : stubEnded ((landCtx 0 (preState { task with stub := some ⟨true, some 0, true⟩ })).ctx 0) = true ∧
    stubLate ((preState { task with stub := some ⟨true, some 0, false⟩ }).ctx 0) 5601 = true ∧
    (tabFind (preState task).launches (task).launch).isSome = true := by decide +kernel
theorem test_w_restores :
    (let s := { preState task with ctxs := [], outs := [⟨stubbed, 0, true⟩] }
     mayReturn s ⟨stubbed, 0, true⟩ 0 = true ∧ stubAt stubbed (addrOf stubbed.keptPc) = some (0x800, 0x900)) ∧
    (let o : OutTask := ⟨{ task with savebase := 0x1000 }, 0, false⟩
     let s := { preState task with ctxs := [], outs := [o] }
     let w := fun (k : Nat) => BitVec.ofNat 64 (slNum (s.cl (clOf 0)) (areaOf o.task + k) 8)
     mayReturn s o 0 = true ∧ hasArea o.task = true ∧ (w 0x18).getLsbD 0 = false ∧ (∀ k, k < 9 → w (0x700 + 8 * (0x35 + k)) = 0) ∧
       o.task.pendCnf = false) := by decide +kernel
theorem test_w_displacement :
    (let l := { aLaunch with flags := 4, prio := 1, groups := 2, placed := vput aLaunch.placed 0 1 }
     let s : State := { preState task with
       launches := [(1, l), (2, { aLaunch with queue := 1, prio := 0, slsize := 0x900000 })],
       queues := [(1, { qEntry with recs := [qRec (some 2)] })] }
     tabFind s.groups 1 = some aGroup ∧ aGroup.displacing = none ∧ aGroup.away = none ∧ preemptible s 1 = true ∧ tabFind s.launches 1 = some l ∧
     roomWanted s l.prio 0 = true) ∧
    (let g := { aGroup with displacing := some 0 }
     let s := { preState task with ctxs := [], groups := [(1, g)], jobs := [(0, jobE [(14, 0x100000), (15, 0x40000)])] }
     tabFind s.groups 1 = some g ∧ groupAtRest s 1 = true ∧ poolSpot s g = some 0x100000 ∧ s.wbs = [] ∧
     groupCache s g.cluster 1 = [] ∧ writeHeld s 0x100000 (imageLen s g) = false ∧ fifoBanks (s.cl g.cluster) g = [] ∧ 0 ∈ g.banks ∧ g.slbase % 128 = 0 ∧ g.slsize % 128 = 0) := by decide +kernel

-- Witnesses: the Timetable.

theorem test_w_submit : 5 < portCount ready 0 ∧ (List.replicate 64 (0 : Byte)).length = 64 ∧ (ready.queue 5).en = false ∧
    qEntry.en = true ∧ qEntry.dev = false ∧ (qEntry.recs.filter fun y => !y.done).length < qEntry.depth ∧
    qEntry.depth ≤ ((List.replicate 8 (qRec none)).filter fun y => !y.done).length := by decide +kernel
/-- A code object at 0x10000 with one entry, and records that name it with 1 task and with none. -/
def codeBytes : List Byte :=
  bytesOf 4 0x454E4155 ++ bytesOf 4 1 ++ bytesOf 8 0x100 ++ bytesOf 8 0x40 ++ bytesOf 4 0x40 ++ bytesOf 4 1 ++ bytesOf 4 0x48 ++ bytesOf 4 0 ++
    bytesOf 4 0x48 ++ bytesOf 4 0 ++ bytesOf 4 0xFFFFFFFF ++ bytesOf 4 0 ++ bytesOf 8 0
def recBytesOf (code tasks : Nat) : List Byte :=
  bytesOf 8 code ++ bytesOf 8 1 ++ bytesOf 4 0 ++ bytesOf 1 tasks ++ List.replicate 43 0
def submitted (code tasks : Nat) : State :=
  { mapped with
    dram := memWrite tables 0x30000 codeBytes,
    queues := [(0, { qEntry with recs := [{ qRec none with bytes := recBytesOf code tasks }] })] }
/-- The head record with what its check has read after n pieces. -/
def readOn (s : State) : Nat → QRec → QRec
  | 0, r => r
  | n + 1, r => match checkHead s 0 r with | .got va bs => readOn s n { r with kept := r.kept ++ [(va, bs)] } | _ => r
theorem test_w_head_checks : [(0x10000, 1, 0), (0x10000, 1, 8), (0x10000, 0, 8), (0x20000, 1, 0)].map (fun x =>
      let s := submitted x.1 x.2.1
      match (uncheckedHead s 0).map (readOn s x.2.2) with
      | some r => (match checkHead s 0 r with | .ok _ => 1 | .reject n => 10 + n | .fault n _ _ => 20 + n | .got _ _ => 2 | _ => 0)
      | none => 99) = [2, 1, 13, 21] := by decide +kernel
/-- A launch at the head of queue 0. -/
def headed (l : Launch) : State :=
  { placed task with
    groups := [], ctxs := [], launches := [(1, l)],
    queues := [(0, { qEntry with recs := [qRec (some 1)], since := some (1, 0) })], ticks := 256 }
theorem test_w_reserving : (wantsPlace (headed aLaunch) 0).isSome = true ∧ mayReserve (headed aLaunch) 0 = true := by decide +kernel
theorem test_w_tile_records :
    let l := { aLaunch with flags := 0x10, bytes := bytesOf 8 0 ++ bytesOf 4 1 ++ bytesOf 4 1 ++ List.replicate 48 0 }
    let s := { headed l with queues := [(0, { qEntry with recs := [qRec (some 1)] }), (1, { qEntry with recs := [qRec none] })] }
    (match consumable s 0 with | some (_, _, q, r) => q == 1 && numAt 0x0E 2 r.bytes == 0 && numAt 0x30 16 r.bytes == 0 | none => false) =
      true := by decide +kernel
theorem test_w_launch_done : let l := { aLaunch with placed := vput aLaunch.placed 0 1, retired := 1 }
    tabFind (headed l).launches 1 = some l ∧ launchDone (headed l) 1 l = true ∧ ((headed l).queue 0).recs = [qRec (some 1)] ∧
    (qRec (some 1)).num = l.num := by decide +kernel
def voting (runs : Nat) (a b c : BitVec 64) : Launch :=
  { aLaunch with
    flags := 2, runs := runs, voted := false, retired := runs, placed := vgen 3 (fun k => if k < runs then 1 else 0),
    sigs := vgen 3 fun k => if k = 0 then a else if k = 1 then b else c }
theorem test_w_votes : [voting 2 5 5 0, voting 2 5 6 0, voting 3 5 6 5, voting 3 5 6 6, voting 3 5 6 7].all (fun l =>
      voteDue l && launchWritten (headed l) 1) = true := by decide +kernel
theorem test_w_launch_control :
    let r : LReq := ⟨0, 1, 0x100, 1, 0, 0⟩
    let s := { preState task with launches := [(1, { aLaunch with flags := 4, started := true })] }
    r.rsvd = 0 ∧ (reqLaunch s r).isSome = true ∧ preemptible s 1 = true ∧ reqLaunch ready r = none ∧
    ({ r with rsvd := 1 } : LReq).rsvd ≠ 0 ∧ preemptible (placed task) 1 = false ∧ tabFind s.groups 1 = some aGroup ∧
    aGroup.away = none ∧ aGroup.displacing = none := by decide +kernel
theorem test_w_placement : let s := headed aLaunch
    let p : Place := ⟨0, 0, [0], 0, 0⟩
    s.ttNext ≤ s.cycle ∧ (match decision s with | some (.fresh 0 _) => true | _ => false) = true ∧ (backlog s 0).isSome = true ∧
    aLaunch.cosched = false ∧ tabFind s.launches 1 = some aLaunch ∧ aLaunch.next = some (0, 0) ∧ placeOk s aLaunch 0 0 p = true ∧
    aLaunch.tile = false ∧ aLaunch.slsize % 4096 = 0 ∧
    (let l := { aLaunch with flags := 1 }
     let s := headed l
     (match decision s with | some (.fresh 0 _) => true | _ => false) = true ∧ (backlog s 0).isSome = true ∧ l.cosched = true ∧
     ([] : List Place).length ≠ l.runs * l.total - l.placedAll) := by decide +kernel
/-- A displaced group whose one task is out comes back to context 0 of cluster 0. -/
theorem test_w_return : let g := { aGroup with away := some ⟨0x100000, 0x24000⟩, tasks := [1] }
    let s := { headed aLaunch with groups := [(1, g)], outs := [⟨{ task with preempt := false }, 0, false⟩] }
    let p := backPlace s 1 g 0
    decision s = some (.back 0 1 p) ∧ tabFind s.groups 1 = some g ∧ returnOk s g p.cluster = true ∧ backTasks s 1 = [1] ∧ p.ctxs = [0] ∧
    (∀ c ∈ p.ctxs, c ∈ returnCtxs s g p.cluster) ∧ awayLevel s g = some aLaunch.prio ∧ g.slbase % 128 = 0 ∧ g.slsize % 128 = 0 := by decide +kernel


-- Witnesses: the Ridge. A message of package 5, which the routing table knows.

def rmsg (kind : Nat) (offset : Nat) : Msg :=
  { mkMsg ready 0 kind 0 1 with src := 5, offset := BitVec.ofNat 64 offset, port := 3 }
def ridge (m : Msg) : State := { placed task with rx := [m], routes := [(5, 0x8000000000000000), (6, 0x8000000000000000)] }
/-- The Ridge knows a way to a package. -/
def leaves (s : State) (p : Nat) : Bool := p != s.pkg && routable s p && !((routePorts s p).contains 31) && !(bitAt 63 s.ridgecfg)
theorem leaves_spec {s : State} {p : Nat} (h : leaves s p = true) : s.Leaves p := by
  simp only [leaves, Bool.and_eq_true, bne_iff_ne, Bool.not_eq_true', List.contains_eq_mem, decide_eq_false_iff_not] at h
  exact ⟨h.1.1.1, h.1.1.2, h.1.2, fun h' => absurd h' (by simp [h.2])⟩
theorem test_w_leaves : (ridge (rmsg 0 0)).Leaves 5 := leaves_spec (by decide +kernel)
theorem test_w_requests_at_home : [0, 2, 4].all (fun k =>
      let m := { rmsg k 0x30000 with payload := List.replicate 128 1 }
      let s := ridge m
      firstMsg s (fun y => y.kind == BitVec.ofNat 4 k) (requestWaits s) == some (0, m) && (fwdOf s (msgPa m)).isNone &&
        leaves s m.src && !(fromHost m) && s.ckpts.isEmpty && fldN 16 30 (jobWord s m.job 1) == 0 &&
        !(migrHeld s (msgPa m) 128) && m.payload.length == 128 && !(dramPoisoned s (msgPa m) 8)) = true := by decide +kernel
theorem test_w_request_moves_on : let w : Fwd := ⟨1, 0x10000, 0x30000, 65536, 6, 0x40000⟩
    let m := rmsg 0 0x30080
    let s := { ridge m with fwd := [w] }
    firstMsg s (fun y => y.kind == 0) (requestWaits s) = some (0, m) ∧ fwdOf s (msgPa m) = some w ∧ leaves s w.pkg = true := by decide +kernel
/-- A read, a write and an atomic on package 5 wait for their replies. -/
theorem test_w_replies : [(1, went (copy 0)), (3, { went (copy 1) with out := some [] }), (5, went (cmd (.ramo 0 0 0 0 false) 0 0 0 0))].all
    (fun x =>
      let c := { x.2 with sent := some (5, 0x30000), tag := 4 }
      let m := { rmsg x.1 (5 * 2 ^ 46 + 0x30000) with tag := 4 }
      let s := { ridge m with engs := [(0, [c])] }
      !(bitAt 127 m.note) && firstMsg s (fun y => y.kind == BitVec.ofNat 4 x.1) (fun _ => false) == some (0, m) &&
        awaiting s m == some c && !(bitAt 123 m.note) && !(bitAt 122 m.note)) = true := by decide +kernel
theorem test_w_messages_for_others :
    (let m := rmsg 9 0; firstReply (ridge m) = some (0, m) ∧ bitAt 124 m.note = false) ∧
    (let m := rmsg 11 0x30000; firstTransfer (ridge m) = some (0, m)) ∧
    (let m := rmsg 12 0; firstControl (ridge m) = some (0, m) ∧ discarded m = true ∧ m.port < 18) ∧
    (let m := rmsg 10 0; firstControl (ridge m) = some (0, m) ∧ discarded m = false ∧ fldN 32 32 m.aux ≠ 0x4D494752 ∧
      transit (ridge m) m = false ∧ isCkptNote m = false) ∧
    (let m := { rmsg 10 0 with dst := 6 }
     let s := ridge m
     firstControl s = some (0, m) ∧ discarded m = false ∧ transit s m = true ∧ leaves s m.dst = true ∧ bitAt 63 s.ridgecfg = false) :=
  by decide +kernel

/-- Communicator 1 of job 1: packages 0 and 5, this one rank 0; its table at 0x40000, its scratch at 0x50000, four pieces. -/
def commW : BitVec 512 := BitVec.ofNat 512 (1 + 2 ^ 32 + 2 * 2 ^ 48 + 0x40000 * 2 ^ 128 + 0x50000 * 2 ^ 192 + 4 * 2 ^ 256)
def inComm (m : Msg) : State := { ridge m with comms := [(1, commW)], dram := memWrite [] 0x40002 (bytesOf 2 5) }
def meshBell : Bell := { bell 3 1 with holder := some (1, some 1, some 1) }
def bellMsg (ev : Nat) (tag : Nat) : Msg :=
  { rmsg 6 0 with flow := 1, aux := BitVec.ofNat 64 (7 + tag * 65536 + ev * 2 ^ 32) }
def belled (m : Msg) : State := { inComm m with bells := [(7, meshBell)] }
/-- A mesh bell, to which a task's s1 points: this package is its root, or package 5; the event does not complete its counts, or
does, with the other member not ready, or ready; an ARM is held while it is ready. -/
def meshed (b : Bell) (root : Nat) : State :=
  { belled (bellMsg 1 0) with
    ctxs := [(0, taskR 0x8007 0 0 0)], before := some (taskR 0x8007 0 0 0), rx := [], bells := [(7, b)],
    dram := if root = 0 then memWrite [] 0x40002 (bytesOf 2 5) else memWrite [] 0x40000 (bytesOf 2 5) }
theorem test_w_mesh_bells : [(meshBell, 0), ({ meshBell with count := 2 }, 5), ({ meshBell with count := 2 }, 0),
      ({ meshBell with count := 2, readyFrom := [1] }, 0), ({ meshBell with ready := true }, 0)].map (fun x =>
        let s := meshed x.1 x.2
        let y := (arriveBell x.1).1
        let ready := setAdd y.readyFrom (commRank (commWord s 1))
        (acts s [.arm 1 2 false 2, .arrive 1 2 0] && bellLoc (clOf s.cur) ((s.rs 1).setWidth 16) == .mesh 7 &&
          (getBell s (.mesh 7)).holder.isSome && s.arrivals.isEmpty && s.fences.isEmpty && s.wbs.isEmpty &&
          (cmdsOf s s.src.tid).isEmpty && s.src.mq.isEmpty && s.src.inflight.isEmpty && s.cutWait.isEmpty && y.held.isEmpty &&
          !(bellDone { y with phase := y.phase + 1, count := BitVec.ofNat 16 y.early, early := 0 }),
        y.ready, bellDone y, commPkg s (commWord s 1) 0 == s.pkg, ready.length == commN (commWord s 1))) =
      [(true, false, false, true, false), (true, false, true, false, false), (true, false, true, true, false),
        (true, false, true, true, true), (true, true, false, true, false)] ∧
    (let s := meshed meshBell 0
     5 ∈ commMembers s (commWord s (bellComm meshBell)) ∧ 5 ≠ s.pkg ∧ routable s 5 = true) := by decide +kernel
theorem test_w_bell_messages :
    (let m := bellMsg 1 0
     firstBell (ridge m) 1 = some (0, m) ∧ bellHeld (ridge m) m = false ∧ m.port < 18 ∧ firstBell (belled m) 1 = some (0, m) ∧
     bellHeld (belled m) m = true ∧ getBell (belled m) (.mesh (msgBell m)) = meshBell ∧ meshBell.ready = false ∧
     msgTag m = meshBell.phase ∧ meshBell.target ≠ 0 ∧ meshBell.count ≠ meshBell.target ∧
     bellDone { meshBell with count := meshBell.count + 1 } = false) ∧
    (let m := bellMsg 1 1
     firstBell (belled m) 1 = some (0, m) ∧ msgTag m = meshBell.phase + 1 ∧ bellDone meshBell = false) ∧
    (let m := bellMsg 2 0
     firstBell (belled m) 2 = some (0, m) ∧ (setAdd meshBell.readyFrom (rankOfPkg (belled m) 1 m.src)).length ≠
       commN (commWord (belled m) (bellComm meshBell))) ∧
    (let m := bellMsg 3 0
     let b' := { meshBell with phase := meshBell.phase + 1, count := BitVec.ofNat 16 meshBell.early, early := 0, ready := false }
     firstBell (belled m) 3 = some (0, m) ∧ (belled m).cutWait = [] ∧ meshBell.held = [] ∧ bellDone b' = false ∧
     phasePassed b'.phase 0 = true) := by decide +kernel

/-- Channel 9 is a receive entry of the task's group; its bank 1 is in FIFO mode. -/
def chanW : BitVec 256 := BitVec.ofNat 256 (1 + 2 ^ 32 + 2 * 2 ^ 33 + 1 * 2 ^ 40 + 1 * 2 ^ 128)
def receiving (m : Msg) (l : List SegMsg) : State :=
  { ridge m with
    clusters := [(0, { cluster with mode := [(1, 1)] })],
    chans := [(9, { Chan.empty with w := chanW, msgs := l })] }
def segMsg (len : Nat) : Msg := { rmsg 7 0 with flow := 9, aux := BitVec.ofNat 64 (len * 2 ^ 32), payload := List.replicate 16 1 }
theorem test_w_channel_messages :
    [16, 8192].all (fun n => let m := segMsg n
      let s := receiving m []
      (appendChan s).isNone && firstSegment s == some (0, m) && !(atSource m) && receiverOf s 9 m.job == .at 0 1 &&
        (flowBinding s m.flow false).isNone) = true ∧ segCount 16 ≤ 1 ∧ 1 < segCount 8192 ∧
    (let y : ChMsg := ⟨9, 5, List.replicate 16 1, 0, 1, false⟩
     let x : SegMsg := ⟨5, 0, 16, [], some [y]⟩
     let s := receiving (segMsg 16) [x]
     appendChan s = some 9 ∧ (s.chan 9).msgs = [x] ∧ receiverOf s 9 (chanJob (s.chan 9).w) = .at 0 1) := by decide +kernel
theorem test_w_credits : (let w : BitVec 256 := BitVec.ofNat 256 (1 + 2 ^ 32 + 2 ^ 33 + 5 * 2 ^ 64)
     chanEn w = true ∧ chanRole w = 1 ∧ chanRpkg w = 5) ∧
    (let s := inComm (rmsg 0 0)
     (List.range (commN (commWord s 1))).find? (fun r => commPkg s (commWord s 1) r == 5) = some 1 ∧ commEn (commWord s 1) = true ∧
       1 ≠ commRank (commWord s 1)) := by decide +kernel
theorem test_w_regulators : let s := { mapped with jobs := [(0, jobE [(6, 0x8000000000000001), (7, 0x8000000000000001)])] }
    jobIdx s (fld 0 32 (vget (jobAt s 0).w 0 0)) = some 0 ∧ bitAt 63 (regReg (jobAt s 0) 0) = true ∧ 0 ≤ vget (jobAt s 0).tokens 0 0 ∧
    65536 ≤ 65536 := by decide +kernel
theorem test_w_links : (∀ m ∈ (ridge (rmsg 0 0)).outbox, (ridge (rmsg 0 0)).NotLocal m.dst) ∧
    (∀ m ∈ ({ ridge (rmsg 0 0) with outbox := [{ rmsg 0 0 with dst := 5 }] } : State).outbox,
      ({ ridge (rmsg 0 0) with outbox := [{ rmsg 0 0 with dst := 5 }] } : State).NotLocal m.dst) := by
  refine ⟨fun m h => (by cases h), fun m h => ?_⟩
  obtain rfl := List.mem_singleton.mp h
  exact (leaves_spec (s := { ridge (rmsg 0 0) with outbox := [{ rmsg 0 0 with dst := 5 }] }) (p := 5) (by decide +kernel)).2.2
theorem test_w_link_lanes : (let s := { ready with limits := [(4, 0)] }
      tabFind ready.limits 4 = none ∧ tabFind s.limits 4 = some 0 ∧ 0 < errCount s (4, 8 * 17) + 1) ∧ 17 < 18 ∧ 15 < 16 ∧ (ready.port 17).lanes = 8 ∧
    (({ ready with ports := [(17, { Port.init with lanes := 6 })] } : State).port 17).lanes ≠ 8 := by decide +kernel

-- Witnesses: collectives, of 16 FP32 elements.

def srcPage : PageT := ⟨0x10000, 65536, 0x3001F, false⟩
def dstPage : PageT := ⟨0x20000, 65536, 0x6001F, true⟩
def collCmd : Cmd := { went (cmd (.coll 0 0 0 4 0 0) 0 0 0 0) with handed := true }
def coll (kind arg : Nat) : Coll :=
  { cmd := collCmd.id, comm := 1, seq := 0, kind := kind, op := 0, ty := 0, count := 16, arg := arg, pages := [srcPage, dstPage],
    src := 0x10000, dst := 0x20000, kern := none, next := 0, running := false, due := 0, blocks := [], far := [], acks := [], nf := false,
    dones := [], doneSent := false, ended := false, reshard := false, desc := [], map := 0, rstep := 0, paid := 0, staged := [], recv := [], skern := none, words := [], parts := [] }
def collective (k : Coll) (m : Msg) : State := { inComm m with colls := [k], engs := [(0, [collCmd])] }
def piece (bits : Nat) (arg : Nat) : Msg :=
  { rmsg 8 0 with
    flow := 1, aux := BitVec.ofNat 64 (1 + 4 * 65536 + bits), payload := List.replicate 64 1,
    note := BitVec.ofNat 128 (16 + arg * 2 ^ 40 + 2 * 2 ^ 56) }
theorem test_w_pieces :
    (let k := coll 4 1
     let m := piece 0 1
     let s := collective k m
     firstPiece s = some (0, m) ∧ atSource m = false ∧ collAt s m = .now k ∧ piecesAgree s k m = true ∧
     (match chunkFor s k { m with payload := bytesAt 0 (sentLen m) m.payload } with
      | some c => (kernFor k c).isNone | none => false) = true ∧ msgCollect m = false ∧ s.ckpts = [] ∧
     (∀ x ∈ s.jobs, fldN 16 30 (vget x.2.w 1 0) = 0) ∧ msgRank m ≠ commRank commW) ∧
    (let k := { coll 4 1 with kern := some 3 }
     let m := piece 0 1
     let b : Binding := ⟨1, 1, collFlow 1 4, 0, 64, [0], false, false, [], none⟩
     let s := { collective k m with bindings := [(3, b)] }
     firstPiece s = some (0, m) ∧ collAt s m = .now k ∧ piecesAgree s k m = true ∧
     (match chunkFor s k { m with payload := bytesAt 0 (sentLen m) m.payload } with
      | some c => kernFor k c == some 3 | none => false) = true ∧ tabFind s.bindings 3 = some b) := by decide +kernel
/-- No write waits for a page. -/
theorem test_w_contributions : (collective (coll 4 1) (piece 0 1)).wbs = [] ∧
    (∀ a n, writeHeld (collective (coll 4 1) (piece 0 1)) a n = false) := ⟨rfl, fun _ _ => rfl⟩
theorem test_w_kernel_contributions : (let k := { coll 0 0 with kern := some 3, count := 32 }
     let m := { piece 0 0 with aux := 1, note := BitVec.ofNat 128 (32 + 2 * 2 ^ 56) }
     let s := { collective k m with bindings := [(3, ⟨1, 1, collFlow 1 0, 0, 64, [0], false, false, [], none⟩)] }
     firstPiece s = some (0, m) ∧ atSource m = false ∧ collAt s m = .now k ∧ piecesAgree s k m = true ∧
     (match chunkFor s k { m with payload := bytesAt 0 (sentLen m) m.payload } with
      | some c => kernFor k c == some 3 | none => false) = true ∧ k.reduces = true ∧ msgCollect m = false) := by decide +kernel
/-- A DONE that is not the last, and one that is; a FINISH; this member's own DONE. -/
theorem test_w_done_finish :
    [[], [0]].all (fun l => let k := { coll 4 1 with dones := l }
      let m := piece bDone 1
      let s := collective k m
      firstDone s == some (0, m) && collAt s m == .now k && doneAgrees k m) = true ∧
    (setAdd ([] : List Nat) 1).length < commN commW ∧ commN commW ≤ (setAdd [0] 1).length ∧ commPkg (inComm (piece 0 1)) commW 1 = 5 ∧
    commPkg (inComm (piece 0 1)) commW 0 = 0 ∧
    (let k := coll 4 1
     let m := piece bFinish 1
     let s := collective k m
     firstFinish s = some (0, m) ∧ collAt s m = .now k ∧ msgReason m = 0 ∧ (findCmd s k.cmd).isSome = true) ∧
    (let k := { coll 4 1 with next := 1 }
     let s := collective k (piece 0 1)
     currentColl s 1 = some k ∧ doneDue s k = true ∧ k.kind < 8 ∧ k.op < 4 ∧ k.ty < 8 ∧ commPkg s commW 0 = s.pkg) ∧
    (let k := { coll 4 1 with next := 1 }
     let s := { collective k (piece 0 1) with dram := memWrite [] 0x40000 (bytesOf 2 5), comms := [(1, commW ||| 2 ^ 64)] }
     currentColl s 1 = some k ∧ doneDue s k = true ∧ leaves s (commPkg s (commWord s k.comm) 0) = true) ∧
    (let k := { coll 4 1 with reshard := true }
     let m := piece bFinish 1
     let s := collective k m
     firstFinish s = some (0, m) ∧ collAt s m = .now k ∧ msgReason m = 0 ∧ (findCmd s k.cmd).isSome = true ∧ k.reshard = true) ∧
    (let k := { coll 4 1 with reshard := true, ended := true }
     endedReshard (collective k (piece 0 1)) 0 = some collCmd) := by decide +kernel
/-- A chunk that sends to another package, and one that writes here. -/
theorem test_w_chunks : [coll 6 1, coll 6 0].all (fun k =>
      let s := collective k (piece 0 1)
      (engineBusy s 0).isNone && collRoutes s k && k.issuer s == some collCmd && (groupCache s collCmd.cluster collCmd.group).isEmpty &&
        (match engineChoice s 0 with
        | some (k', c) => k' == k && !(badRoot s k) && !(chunkPoison s k c) && (chunkSource s k c).err == 0 && (chunkSource s k c).missing.isEmpty &&
            c.take.isEmpty && !c.comb && !c.feed && (c.dests.all fun r => leaves s (commPkg s commW r)) &&
            (if k.arg = 1 then c.dests == [1] && !c.write && !(sourceBound s (collFlow 1 6)) && (chunkSource s k c).bytes.length == 64
             else c.dests.isEmpty && c.write && chunkOut s k c (chunkSource s k c).bytes == [(0, (chunkSource s k c).bytes)] &&
               collRuns s k true 65 (k.dst + c.off) 64 == [(s.pkg, 0x60000, 64)])
        | none => false)) = true ∧ collCmd.bv = false ∧
    (let k := { coll 4 1 with running := true }
     let s := collective k (piece 0 1)
     engineBusy s 0 = some k ∧ chunkOver s 0 = true ∧ (match nextChunk s k with | some c => c.take == [1] | none => false) = true) := by decide +kernel
/-- A result of a block that has been asked for. -/
theorem test_w_block_result : let k := { coll 0 0 with kern := some 3, blocks := [⟨0, 64, 2, true, none⟩] }
    let m := { piece 0 0 with kind := 9, note := BitVec.ofNat 128 (2 ^ 124) }
    let s := collective k m
    firstReply s = some (0, m) ∧ bitAt 124 m.note = true ∧ collAt s m = .now k ∧
    k.blocks.find? (fun y => y.off == m.offset.toNat) = some ⟨0, 64, 2, true, none⟩ ∧ m.payload.length = 64 := by decide +kernel
/-- A reshard of four FP32 elements from a replicated axis to a split one: its first step, and its slicing. -/
def replicated : BitVec 128 := BitVec.ofNat 128 (6 * 2 ^ 17 + 6 * 2 ^ 37 + 6 * 2 ^ 57 + 6 * 2 ^ 77)
def desc4 : List Byte :=
  bytesOf 8 0x10000 ++ bytesOf 8 65536 ++ bytesOf 16 replicated.toNat ++ bytesOf 4 4 ++ List.replicate 20 0 ++ bytesOf 1 1 ++
    List.replicate 7 0
def reshard (step : Nat) : Coll :=
  { coll 0 0 with reshard := true, desc := desc4, map := BitVec.ofNat 128 (6 * 2 ^ 37 + 6 * 2 ^ 57 + 6 * 2 ^ 77), rstep := step }
theorem test_w_reshard : [0, 1].all (fun n =>
      let k := reshard n
      let s := { collective k (piece 0 1) with meshpos := 0x0101010100000000 }
      currentColl s 1 == some k && stepDue s k && collRoutes s k && (n != 0 || k.paid < stepBytes s k) &&
        (groupCache s collCmd.cluster collCmd.group).isEmpty && (let p := { k with paid := 65536 }
          currentColl { s with colls := [p] } 1 == some p && stepDue { s with colls := [p] } p && decide (stepBytes s p ≤ p.paid)) && (n != 0 || reshardBad s k == 0) && (stepReads s k).err == 0 &&
        (stepReads s k).missing.isEmpty && (n == 0 || k.step.kind == 7)) = true := by decide +kernel


-- Witnesses: the purlin processors. Run 1 on processor 2, of binding 0, behind another message.

def kern (w : List (BitVec 32)) : Kernel := ⟨1, w, 7, 0⟩
def prun : Run :=
  { bind := 0, id := 1, msg := { rmsg 7 0 with payload := List.replicate 16 1, aux := BitVec.ofNat 64 (16 * 2 ^ 32) },
    w := (Vector.replicate 16 0).map (fun x => x), z := Vector.replicate 8 0, buf := [], pc := 0, loops := [], flits := 1, cycles := 8,
    replies := [] }
/-- Registers 1 to 5 hold the edges of the buffer and of a region of 8 KiB. -/
def prunW : Run := { prun with w := [64, 4032, 4092, 4096, 8192, 4097].zipIdx.foldl (fun v x => vput v (x.2 + 1) x.1) prun.w }
def pmsg (id : Nat) (started : Bool) : PMsg := ⟨id, prun.msg, started, none⟩
def pbind (q : List PMsg) : Binding := ⟨1, 1, 9, 0, 8192, [2], false, false, q, none⟩
def running (r : Run) (q : List PMsg) (ws : List (BitVec 32)) : State :=
  { ridge (rmsg 0 0) with kernels := [(1, kern ws)], bindings := [(0, pbind q)], runs := [(2, r)], turn := 3 }
theorem test_w_purlin_runs :
    let s := running prunW [pmsg 0 true, pmsg 1 true] [0x64000000]
    runNow s = some (2, prunW) ∧ tabFind s.bindings prunW.bind = some (pbind [pmsg 0 true, pmsg 1 true]) ∧
    (pmsg 0 true).fin = none ∧ (pmsg 0 true).id ≠ prunW.id ∧ runRegion s prunW = (0, 8192) := by decide +kernel
/-- Each access at its last place and past it; a message of 4,096 bytes and of 4,097; replies that fit, and that do not. -/
theorem test_w_purlin_accesses : let W := fun n => (vget prunW.w n 0).toNat
    (W 3 % 4 = 0 ∧ W 3 + 4 ≤ 4096) ∧ (W 2 % 64 = 0 ∧ W 2 + 64 ≤ 4096) ∧ ¬(W 4 % 64 = 0 ∧ W 4 + 64 ≤ 4096) ∧
    (W 4 % 64 = 0 ∧ W 4 + 64 ≤ 8192) ∧ ¬(W 5 % 4 = 0 ∧ W 5 + 4 ≤ 8192) ∧ ¬(W 6 % 4 = 0) ∧ W 4 ≤ 4096 ∧ 4096 < W 6 ∧
    (W 4 % 64 = 0 ∧ W 4 + W 4 ≤ 8192) ∧ (W 6 % 64 ≠ 0 ∨ 8192 < W 6) ∧ 8192 < W 4 + W 6 ∧ (W 1 % 64 = 0 ∧ W 1 + W 6 ≤ 8192) := by
  decide +kernel
theorem test_w_purlin_loops : 1 < 2 ∧ 1 ≤ 1 ∧ (5 : Nat) ≠ 3 + 1 ∧ pBits 0 = 32 ∧ pBits 2 = 16 ∧ pBits 5 = 32 := by decide
theorem test_w_kernel_runs :
    (let s := { running prun [pmsg 0 false] [0x64000000] with runs := [] }
     startableMsg s 0 2 = some (pbind [pmsg 0 false], pmsg 0 false) ∧ isCollFlow 9 = false ∧ isCollFlow 0x80000401 = true) ∧
    (let s := { receiving (rmsg 0 0) [] with
       kernels := [(1, kern [0x64000000])], bindings := [(0, pbind [pmsg 1 true])], runs := [(2, prunW)], turn := 3 }
     runNow s = some (2, prunW) ∧ tabFind s.bindings 0 = some (pbind [pmsg 1 true]) ∧ prunW.msg.offset = 0 ∧
       segCount (fldN 32 17 prunW.msg.aux) = 1 ∧ (vget prunW.w 4 0).toNat ≤ 4096 ∧ (s.chan 9).msgs = [] ∧
       (pbind [pmsg 1 true]).source = false ∧ prunW.replies = []) ∧
    (let r := { prun with cycles := 12 }
     let s := running r [pmsg 0 true, pmsg 1 true] [0x64000000]
     tabFind s.runs 2 = some r ∧ runLate s r = true) := by decide +kernel

def preq (arg : Word) : PReq :=
  { job := 1, arg := arg, flow := 9, region := 64, fsize := 128, setw := 1, caddr := 0x100, cval := 1, rsvd := 0, win := 0 }
def image (n : Nat) (ws : List Nat) : List Byte :=
  bytesOf 4 0x4E4C5250 ++ bytesOf 2 n ++ List.replicate 26 0 ++ ws.flatMap (bytesOf 4)
/-- A job with a budget and a part of the flow store of 64 KiB, and a kernel image at 0x40000. -/
def loading (budget : Word) (img : List Byte) (n : Nat) : State :=
  { mapped with
    jobs := [(0, jobE [(1, 0x10000), (9, 0x10001), (10, budget)])],
    kernels := (List.range n).map fun i => (i + 1, kern [0x64000000]),
    dram := memWrite [] 0x40000 img }
/-- What LOAD finds: the head, a failing instruction, the flit count that is over the budget, whether there is room. -/
def loadCheck (budget : Word) (img : List Byte) (n : Nat) : Bool × Option Nat × Option Nat × Bool :=
  let s := loading budget img n
  let h := memRead s.dram 0x40000 32
  let ws := (List.range (numAt 4 2 h)).map fun i => BitVec.ofNat 32 (memNum s.dram (0x40000 + 32 + 4 * i) 4)
  (imageHeadOk h, failingIndex (kernelCode ws), overBudget (jobWord s 1 10) (kernelCode ws), decide (s.kernels.length < 192))
theorem test_w_load :
    loadCheck 0x0000FFFFFFFF0000 (image 1 [0x64000000]) 0 = (true, none, none, true) ∧
    (loadCheck 0x0000FFFFFFFF0000 (image 0 []) 0).1 = false ∧
    (loadCheck 0x0000FFFFFFFF0000 (image 1 [0x2CC00005]) 0).2.1 = some 0 ∧
    (loadCheck 0 (image 1 [0x64000000]) 0).2 = (none, some 0, true) ∧
    loadCheck 0x0000FFFFFFFF0000 (image 1 [0x64000000]) 192 = (true, none, none, false) ∧
    ¬(fld 46 18 (preq 0x800000000000).arg = 0) ∧ fld 46 18 (preq 0x40000).arg = 0 ∧ (preq 0x40000).rsvd = 0 := by decide +kernel
theorem test_w_bind :
    (let s := loading 0 [] 2
     let r := preq 1
     reqKernel s r = some (kern [0x64000000]) ∧ reqKernel s (preq 7) = none ∧ (∀ b ∈ s.bindings, b.2.kernel ≠ 1) ∧
     fld 16 48 r.arg = 0 ∧ fld 0 2 r.setw ≠ 3 ∧ fld 4 28 r.setw = 0 ∧ flowOk r.flow = true ∧ bitAt 3 r.setw = false ∧
     r.region.toNat % 64 = 0 ∧ r.fsize.toNat % 64 = 0 ∧ (kern [0x64000000]).fsmin ≤ r.fsize.toNat ∧
     (∀ b ∈ s.bindings, b.2.flow ≠ r.flow) ∧ 2 ≤ (pickProcs s 2 (bitAt 2 r.setw)).length ∧
     r.region.toNat + r.fsize.toNat ≤ fldN 16 9 (jobWord s 1 9) * 65536 ∧
     fldN 16 9 (jobWord s 1 9) * 65536 < 64 + ({ r with fsize := 65536 } : PReq).fsize.toNat) ∧
    (let b := pbind []
     let s := { loading 0 [] 2 with bindings := [(4, b)] }
     (∃ b ∈ s.bindings, b.2.kernel = 1) ∧ (∃ b ∈ s.bindings, b.2.flow = (preq 1).flow ∧ b.2.source = false) ∧
     s.bindings.find? (fun b => b.2.flow == (preq 1).flow && b.2.kernel == 1 && b.2.unbinding.isNone) = some (4, b) ∧
     bindingIdle s 4 b = true ∧ bindingIdle s 4 (pbind [pmsg 0 false]) = false) ∧
    (let b := { pbind [] with unbinding := some (0x100, 1, 0) }
     let s := { loading 0 [] 2 with bindings := [(4, b)] }
     tabFind s.bindings 4 = some b ∧ b.unbinding = some (0x100, 1, 0) ∧ bindingIdle s 4 b = true) := by decide +kernel


-- Witnesses: the host's tables, and accesses through the aperture.

theorem test_w_job_table :
    (let s := { mapped with jobs := [(0, jobE [(9, 0x10001)]), (7, { Job.empty with w := vput Job.empty.w 0 5 })] }
     (∃ y ∈ s.jobs, y.1 ≠ 255 ∧ bitAt 63 (vget y.2.w 0 0) = true ∧ fld 0 32 (vget y.2.w 0 0) = fld 0 32 (0x8000000000000001 : Word)) ∧
     (∀ y ∈ s.jobs, y.1 ≠ 255 → bitAt 63 (vget y.2.w 0 0) = true →
        fld 0 32 (vget y.2.w 0 0) ≠ fld 0 32 (0x8000000000000002 : Word)) ∧
     bitAt 63 (vget (jobAt s 0).w 0 0) = true ∧ bitAt 63 (vget (jobAt s 255).w 0 0) = false ∧
     (∀ b ∈ s.bindings, b.2.job ≠ fld 0 32 (vget (jobAt s 255).w 0 0)) ∧ flowOverlap s 255 0x10002 = false) ∧
    (let s := loading 0 [] 1
     ∃ b ∈ ({ s with bindings := [(0, pbind [])] } : State).bindings, b.2.job = fld 0 32 (vget (jobAt s 0).w 0 0)) ∧
    (∃ n, n < 32 ∧ fldN (2 * n) 2 (0xC000000000000000 : Word) = 3) ∧ (∀ n, n < 32 → fldN (2 * n) 2 (0x8000000000000000 : Word) ≠ 3) := by
  decide +kernel
theorem test_w_queue_table : let s := { State.reset with queues := [(65535, qEntry)] }
    (0x1FFFE0 + 24) / 32 < portCount s 0 ∧ 0x1FFFE0 % 32 / 8 = 0 ∧ bitAt 2 (4 : Word) = true ∧ bitAt 1 (4 : Word) = false ∧
    bitAt 1 (6 : Word) = true ∧ (s.queue 65535).en = true ∧ (s.queue 0).en = false ∧ portFirst s 0 + 0x1FFFE0 / 32 = 65535 := by
  decide +kernel
theorem test_w_ridge_tables :
    (let s := receiving (rmsg 0 0) []
     chanEn (s.chan 9).w = true ∧ chanEn chanW = true ∧ chanEn (s.chan 4095).w = false) ∧
    (let s := inComm (rmsg 0 0)
     commEn (commWord s 1) = true ∧ commEn commW = true ∧ commEn (commWord s 255) = false) ∧
    (fldN 0 18 (131072 : Word) % 1024 = 0 ∧ fldN 0 18 (131072 : Word) ≤ 131072 ∧ ∀ q ∈ State.reset.queues, q.2.en = false) ∧
    fldN 0 18 (1023 : Word) % 1024 ≠ 0 ∧ 131072 < fldN 0 18 (132096 : Word) ∧
    (∃ q ∈ ({ State.reset with queues := [(0, qEntry)] } : State).queues, q.2.en = true) ∧ (List.replicate 8 (1 : Byte)).length = 8 := by
  decide +kernel
theorem test_w_aperture : let s := State.reset
    apPlace s 1 0x1007F = (0, 0x1007F) ∧ (0x10000 / 128 = (0x10000 + 128 - 1) / 128) ∧ apOk s (0, 0x10000) 128 = true ∧
    s.fwd = [] ∧ s.hostAcc = [] ∧ (0 : Nat) = s.pkg ∧ s.ckpts = [] ∧ s.migr = [] ∧
    (∀ x ∈ s.jobs, fldN 16 30 (vget x.2.w 1 0) = 0) ∧
    (let t := { s with apbase := vput s.apbase 1 0x00E0000000000000 }
     apOk t (apPlace t 1 0x1007F) 1 = false) := by decide +kernel

-- Witnesses: checkpoints, sparing, resets.

/-- A control block of job 1: the image is the page at 0x10000, its shadow the one at 0x20000, its store at 0x30000. -/
def ctlBlock : List Byte :=
  bytesOf 4 1 ++ List.replicate 20 0 ++ bytesOf 8 0x10000 ++ bytesOf 8 0x20000 ++ bytesOf 8 0x20000 ++ bytesOf 8 0x30000 ++ bytesOf 4 4 ++
    bytesOf 1 2 ++ List.replicate 3 0
def shadowed : State :=
  { mapped with
    dram := [(0x22010, 0x4001F), (0x22018, 0x5001F), (0x22038, 0x6001F)].foldl (fun m x => memWrite m x.1 (bytesOf 8 x.2)) tables }
def aUnit : CutUnit := ⟨0x10000, 0x30000, 0x30000, 65536⟩
def aCkpt : Ckpt := { Ckpt.empty with ctl := ctlBlock, cut := 3, pages := [aUnit], rank := 0, n := 2, marked := [0x10000] }
def saving (k : Ckpt) : State := { shadowed with ckpts := [(0, k)] }
def aDrain (p : Nat) (todo heard : List Nat) : Drain :=
  { newDrain aCkpt with phase := p, todo := todo, heard := heard, heard2 := heard }
theorem test_w_cut_pages :
    (tabFind (saving aCkpt).ckpts 0 = some aCkpt ∧ aCkpt.pages = [aUnit] ∧ cutNext (saving aCkpt) aCkpt = some aUnit ∧
     mayCopyCut (saving aCkpt) aCkpt = true ∧ 0x30000 < (0x3FFFF : Nat) + 1 ∧
     localOf (saving aCkpt) 1 (ctlShadow ctlBlock + 0 * ctlW ctlBlock + (0x10000 - ctlLo ctlBlock)) = some 0x40000) ∧
    (let k := { aCkpt with pages := [], bell := some 0 }
     let s := saving k
     k.bell = some 0 ∧ groupAway s k.group = false ∧ (getBell s (bellLoc k.cluster 0)).holder.isSome = true ∧ bellLoc k.cluster 0 = .cluster k.cluster 0) := by
  decide +kernel
/-- The other table entries of the job lie outside the shadow's frame. -/
theorem test_w_cut_entries : (homeLeaves (copyFrame (chargeJob (saving aCkpt) 1 2 65536) 0x30000 0x40000 65536) 1).all
    (fun x => decide (x.2.addr + 8 ≤ 0x40000 ∨ 0x40000 + 65536 ≤ x.2.addr)) = true := by decide +kernel
theorem test_w_checkpoint_drains :
    (let k := { aCkpt with pages := [], draining := true }; tabFind (saving k).ckpts 0 = some k) ∧
    [aDrain 0 [] [], { aDrain 0 [] [] with told := [0, 1] }, aDrain 1 [0] [], aDrain 1 [] [], aDrain 2 [] [0, 1], aDrain 3 [0] [], aDrain 3 [] [], aDrain 4 [] [0, 1]].all
      (fun d => let k := { aCkpt with pages := [], drains := [d] }
        tabFind (saving k).ckpts 0 == some k && drainMoves (saving k) d) = true := by decide +kernel
/-- A restore of two ranks: this one's own region is lost, the other's header is in the slot. -/
def smallCtl (lo : Nat) : List Byte :=
  bytesOf 4 1 ++ List.replicate 20 0 ++ bytesOf 8 lo ++ bytesOf 8 (lo + 65536) ++ bytesOf 8 0x20000 ++ bytesOf 8 0x30000 ++
    bytesOf 4 0 ++ bytesOf 1 2 ++ List.replicate 3 0
def restoring (lo : Nat) : State :=
  { shadowed with
    jobs := [(0, jobE [(1, 0x10000), (11, 0x18000)])], dram := memWrite shadowed.dram 0x40000 (smallCtl lo),
    comms := [(1, commW)] }
/-- What a restore finds: the ranks; is a page missing; the slot; is there a key in it? -/
def restoreFinds (lo : Nat) (peers : List (List Byte)) : Option (Nat × Bool × Option Nat × Bool) :=
  let s := restoring lo
  let job := fld 0 32 (vget (jobAt s 0).w 0 0)
  (localOf s job (ofBytes ((peers.headD []).take 8))).map fun pa =>
    let ctl := memRead s.dram pa 64
    let r := restoreOf s job ctl peers
    (r.n, (List.range (imageUnits ctl)).any (fun u => (localOf s job (ctlLo ctl + 65536 * u)).isNone), r.slot,
      (r.slot.bind fun x => r.slotKey x).isSome)
theorem test_w_restores_of_jobs : bitAt 63 (vget (jobAt (restoring 0x10000) 0).w 0 0) = true ∧ restoreFinds 0x10000 [] = none ∧
    restoreFinds 0x90000 [bytesOf 8 0x20000] = some (2, true, none, false) ∧
    restoreFinds 0x10000 [bytesOf 8 0x20000] = some (2, false, none, false) ∧
    restoreFinds 0x10000 [bytesOf 8 0x20000, [], genHeader (smallCtl 0x10000) 2 3 1 2] = some (2, false, some 0, true) := by
  decide +kernel
/-- The first core of a cluster, a core that is queued, and a spare have their turn; a way and a row can be retired, and a second
way of its slice cannot. -/
theorem test_w_test_slices : mayTest State.reset 0 = true ∧
    (let s := { State.reset with cores := [(639, { State.reset.core 639 with queued := true })] }
     mayTest s 639 = true ∧ (s.core 639).queued = true) ∧
    (let s := { State.reset with clusters := [(79, { Cluster.empty with sliceAt := 8 })] }
     Config.spareCore 79 = true → mayTest s (640 + 79) = true) ∧
    (let s := { State.reset with cores := [(639, { State.reset.core 639 with retired := true })] }
     (s.core 639).retired = true ∧ coreFree s 639 = true ∧ (1, 639 / 8) ∉ s.spares) := by
  refine ⟨by decide +kernel, by decide +kernel, fun h => ?_, by decide +kernel⟩
  have hs : spareLeft { State.reset with clusters := [(79, { Cluster.empty with sliceAt := 8 })] } (sliceCluster (640 + 79)) = true := by
    unfold spareLeft
    rw [show sliceCluster (640 + 79) = 79 from by decide, h]
    decide +kernel
  unfold mayTest nextSlice sliceUnits
  rw [hs]
  decide +kernel
theorem test_w_spares : mayRetire State.reset 2 5 = true ∧ wayLeft State.reset 2 5 = true ∧
    mayRetire { State.reset with spares := [(2, 3)] } 2 3 = false ∧ mayRetire { State.reset with spares := [(2, 3)] } 2 5 = true ∧
    wayLeft { State.reset with spares := [(2, 3)] } 2 5 = false ∧ wayLeft { State.reset with spares := [(2, 3)] } 2 16 = true := by
  decide +kernel
theorem test_w_function_reset : let s := { placed task with queues := [(0, qEntry)] }
    queuePort s 0 = 0 ∧ queuePort s 65536 ≠ 0 ∧ tabFind s.launches 1 = some aLaunch ∧ queuePort s aLaunch.queue = 0 := by decide +kernel
theorem test_w_memories : State.reset.memOk = true ∧ (match step (State.reset.withFetchWord 128 0) with | .next _ => true | _ => false) = true := by
  decide +kernel

-- Witnesses: further clauses, in the order of the statements.

theorem test_w_read_back : 0x40 ≤ (0x51 : BitVec 8).toNat ∧ 0x50 ≤ (0x51 : BitVec 8).toNat ∧ (0x51 : BitVec 8).toNat % 2 = 1 ∧
    (4 : BitVec 3).toNat ≤ 4 ∧ (unpack fp32 0x7FC00000).isNan = true ∧ (unpack fp32 0x7F800000).isNan = false := by decide
/-- The cases of R179: NaN, both infinities, zero, a negative number, one of 2^20, 1.0. -/
theorem test_w_functions : unpack fp32 0x7FC00000 = .nan ∧ unpack fp32 0x7F800000 = .inf false ∧ unpack fp32 0xFF800000 = .inf true ∧
    (unpack fp32 0x80000000).isZero = true ∧ unpack fp32 0xBF800000 = .fin true 0x800000 (-23) ∧
    unpack fp32 0x49800000 = .fin false 0x800000 (-3) ∧ (Val.fin true 0x800000 (-23)).rat < 0 ∧
    (2 : Rat) ^ 20 ≤ |(Val.fin false 0x800000 (-3)).rat| ∧ (Val.fin false 0x800000 (-3)).finite = true := by
  refine ⟨by decide, by decide, by decide, by decide, by decide, by decide, ?_, ?_, by decide⟩ <;> norm_num [Val.rat]
/-- Values of each format; FP8's NaN and a number; products with a scale that are zero and that are not. -/
theorem test_w_conversions : (unpack (viewFmt 1) 0x7FC0).isNan = true ∧ unpack (viewFmt 2) 0x7C00 = .inf false ∧
    (unpack (viewFmt 0) 0x3F800000).finite = true ∧ (unpack8 0x7F).isNan = true ∧ (unpack8 0x38).isNan = false ∧
    unpack8 0x38 = .fin false 8 (-3) ∧ unpack fp32 0x3F800000 = .fin false 0x800000 (-23) ∧ (unpack8 0).finite = true ∧
    (Val.fin false 8 (-3)).rat * (Val.fin false 0x800000 (-23)).rat ≠ 0 ∧ (Val.fin false 0 0).rat * (Val.fin false 0x800000 (-23)).rat = 0 := by
  refine ⟨by decide, by decide, by decide, by decide, by decide, by decide, by decide, by decide, ?_, ?_⟩ <;> norm_num [Val.rat]
/-- Reductions of 64 columns and of the two approximation rows of a Haar tile; a record of which row 0 survives alone. -/
theorem test_w_trees : (List.replicate 64 0).length = 2 ^ 6 ∧ 6 ≤ 8 ∧ isHaar 0x0D = true ∧ tagLevels 0x0D ≤ 4 ∧ isHaar 0 = false ∧
    (recSurv [5, 0, 1, 0]).getLsbD 0 = true ∧ (recSurv [5, 0, 1, 0]).getLsbD 15 = false := by decide

/-- A matrix instruction that repeats, with a count that is defined; MLDB of either kind; drains that clear; the forms of R215, R216, R218. -/
theorem test_w_matrix_forms : (let s := slot { task with mrepleft := 4 }
     s.src.mrepleft ≠ 0 ∧ s.src.undefC.contains 0x12 = false) ∧
    [Instr.mldb 0 1 2 false, .mldb 0 1 2 true, .mdrn 0 1 2 3 true].all (fun i =>
      let s := landCtx 0 (engine (mjob i 1 true))
      match dueJob s 0 with | some j => j.i == i && !(jobPoison s 0 j) | none => false) = true ∧
    (mjob (.mma 0 1 2 3 4 false) 1 true).i = .mma 0 1 2 3 4 false ∧ (mjob (.mmas 0 1 2 3 false) 1 true).i = .mmas 0 1 2 3 false ∧
    (mjob (.mmah 0 1 2 3 4 true) 1 true).i = .mmah 0 1 2 3 4 true ∧ (Acc.clear false).imode = false ∧ (15 : Nat) < 16 := by decide +kernel
theorem test_w_lands_early : (due 3 false 0).isRead = false ∧ (due 3 false 0).lands 2 = false := by decide

/-- A read of a page that is not readable, through a leaf that the unit holds. -/
theorem test_w_source_faults : let c := went (copy 0)
    let s := { engs [c] with clusters := [(0, { cluster with tlb := [{ page with leaf := 0x20005 }] })] }
    movable s 0 = some c ∧ c.unit < c.units ∧ c.out = none ∧ streamReady s c c.streamed = false ∧ headerBad c = false ∧
    (match extAt c.got.length (c.unitSrc s.meshpos (cmdRemote s c) c.unit c.got) with
     | some (x, o) => x.slate == none && (match xlate s c ((x.addr + o) / 8 * 8) true false (srcFmts c) with | .fault _ => true | _ => false)
     | none => false) = true ∧ (srcFmts c).contains 5 = false := by decide +kernel
/-- A line of one dirty byte whose home is here. -/
theorem test_w_dirty_lines : let l : CLine := { pkg := 0, pa := 0x30000, bytes := List.replicate 128 7, dirty := 1, poison := false, valid := (BitVec.ofNat 128 (2 ^ 128 - 1)) }
    let s := placed task
    ([l].filter fun x => x.is l.pkg l.pa) = [l] ∧ l.dirty ≠ 0 ∧ l.bytes.length = 128 ∧ s.wbs = [] ∧ (∀ x ∈ s.engs, ∀ c ∈ x.2, c.sent = none) ∧
    (forwarded s l.pkg l.pa).1 = s.pkg ∧ writeHeld s (forwarded s l.pkg l.pa).2 128 = false := by decide +kernel
theorem test_w_cancels : isRshd (.rshd 0 0 0 0) = true ∧ isRshd halted.i = false := by decide
def tileRec (rows mask : Nat) : List Byte :=
  List.replicate 4 1 ++ bytesOf 4 32 ++ bytesOf 4 rows ++ bytesOf 2 mask ++ List.replicate 50 0
/-- Tiles of 20 rows: two, the second of 4 rows. -/
theorem test_w_tile_copies : (tileRec 20 5).length = 64 ∧ (List.replicate 64 (3 : Byte)).length = 64 ∧
    ((List.range 2).filter fun u => (if u + 1 < 2 then 0xFFFF else numAt 0x0C 2 (tileRec 20 5) % 2 ^ (20 - 16 * u)) != 0)[1]? = some 1 := by
  decide

/-- A write of bit 0 alone, and one of whole bytes; messages for a package to which there is no way, and their sender to whom there is. -/
theorem test_w_lost_messages : bitAt 119 (BitVec.ofNat 128 (2 ^ 119)) = true ∧ bitAt 119 (0 : BitVec 128) = false ∧
    [0, 2, 4, 7, 8].all (fun k =>
      let m := { rmsg k 0 with dst := 9 }
      let s := ridge m
      firstControl s == some (0, m) && !(discarded m) && transit s m && !(routable s m.dst) && leaves s m.src && !(unreached m)) = true := by
  decide +kernel
/-- An arrival of no phase that is expected, and one beyond the target; the last READY at the root, with a way to each member. -/
theorem test_w_bell_overruns :
    (let m := bellMsg 1 9
     firstBell (belled m) 1 = some (0, m) ∧ getBell (belled m) (.mesh (msgBell m)) = meshBell ∧ bellHeld (belled m) m = true ∧
     (meshBell.ready = true ∨ bellDone meshBell = false) ∧ msgTag m ≠ meshBell.phase ∧ msgTag m ≠ meshBell.phase + 1) ∧
    (let m := bellMsg 1 0
     let b := { meshBell with target := 2, count := 2, ready := true }
     let b' := { b with ready := false }
     msgTag m = b'.phase ∧ b'.count = b'.target ∧ (b.ready = true ∨ bellDone b = false)) ∧
    (let m := bellMsg 2 0
     let b := { meshBell with readyFrom := [0] }
     let s := { inComm m with bells := [(7, b)] }
     let w := commWord s (bellComm b)
     firstBell s 2 = some (0, m) ∧ msgTag m = b.phase ∧ s.cutWait = [] ∧ b.held = [] ∧
     (setAdd b.readyFrom (rankOfPkg s (fldN 0 8 m.flow) m.src)).length = commN w ∧
     bellDone { b with phase := b.phase + 1, count := BitVec.ofNat 16 b.early, early := 0, ready := false, readyFrom := [] } = false ∧
     ∀ p ∈ commMembers s w, p ≠ s.pkg → leaves s p = true) := by decide +kernel
theorem test_w_no_kernel : msgBinding (receiving (segMsg 16) []) (segMsg 16) false = none := by decide +kernel
theorem test_w_lanes_left : (({ ready with ports := [(17, { Port.init with lanes := 6 })] } : State).port 17).lanes = 6 ∧
    (({ ready with ports := [(17, { Port.init with lanes := 5, up := false })] } : State).port 17).lanes < 6 := by decide
theorem test_w_piece_lengths : 0 < sentLen (piece 0 1) ∧ unreached (piece bFinish 1) = false ∧
    bitAt 27 (piece (bFinish + 2 ^ 27) 1).aux = true ∧
    (let s := collective (coll 4 1) (piece bFinish 1)
     ctxOfTid s collCmd.tid = some 0 ∧ ctxOfTid { s with ctxs := [] } collCmd.tid = none) := by decide +kernel
/-- A reshard that has ended, whose descriptor a slot of the task is bound to; one that has failed. -/
theorem test_w_ended_reshards : let r := { went (cmd (.rshd 0 0 0 0) 0 0 0 0) with handed := true, desc := some desc4 }
    let s := { collective { coll 4 1 with cmd := r.id, reshard := true, ended := true } (piece 0 1) with
      engs := [(0, [r])], ctxs := [(0, { task with tbind := vput task.tbind 2 (some ⟨r.va, none, true⟩) })] }
    let f := { r with fail := some (7, false, aRec) }
    endedReshard s 0 = some r ∧ r.fail = none ∧ r.cscope = 0 ∧ (s.ctx 0).job = r.job ∧
    vget (s.ctx 0).tbind 2 none = some ⟨r.va, none, true⟩ ∧ endedReshard { s with engs := [(0, [f])] } 0 = some f ∧ f.fail.isSome = true := by
  decide +kernel
/-- A member whose destination has a part of a word left, and one that has none. -/
theorem test_w_parts_left : [[], [(8, [(0, (1 : Byte))])]].all (fun l => let k := { coll 4 1 with next := 1, parts := l }
      let s := collective k (piece 0 1)
      currentColl s 1 == some k && doneDue s k && routable s (commPkg s (commWord s k.comm) 0)) = true := by decide +kernel
/-- A chunk of four bytes, half a word of the destination; a source of one run; a chunk that combines two ranks' elements, whose piece has come. -/
theorem test_w_chunk_words : let s0 := collective (coll 2 0) (piece 0 1)
    (let k := { coll 2 0 with count := 1, next := 1 }
     let s := { s0 with
       colls := [k], dram := memWrite [] 0x40000 (bytesOf 2 5), comms := [(1, commW ||| 2 ^ 64)],
       pieces := [⟨1, 0, 0, 0, 0, 4, 0, [(0, 4, 4)], false⟩] }
     match engineChoice s 0 with
     | some (k', c) => k' == k && (engineBusy s 0).isNone && !(badRoot s k) && !(chunkPoison s k c) && (chunkSource s k c).err == 0 &&
         (chunkSource s k c).missing.isEmpty && collRoutes s k && c.dests.isEmpty && !c.feed && c.write && !k.reshard && k.parts.isEmpty &&
         chunkOut s k c [] == [(c.off, [0, 0, 0, 0])] && decide ((k.dst + c.off) % 8 + 4 < 8) && k.writesWord s ((k.dst + c.off) / 8) &&
         c.src.isNone && !c.comb && c.take == [0] && (findPiece s k 0 c.off).isSome
     | none => false) = true ∧
    (let k := { coll 0 0 with next := 1 }
     let p : Piece := ⟨1, 0, 0, 1, 0, 32, 0, [(0, 32, 32)], false⟩
     let s := { s0 with colls := [k], pieces := [p] }
     match nextChunk s k with
     | some c => c.src == some 0 && c.comb && c.take == [1] && k.words.isEmpty &&
         collRuns s k false (c.len + 1) k.src c.len == [(s.pkg, 0x30000, c.len)] && p.len == c.len &&
         (s.pieces.filter fun p => p.comm == k.comm && p.seq == k.seq && p.step == k.rstep && p.off == c.off && c.take.contains p.src) == [p]
     | none => false) = true := by decide +kernel

/-- A binding with a region, and a message in it; requests that overlap one by a byte; a binding that is idle, and one for which a message
has come. -/
theorem test_w_bindings :
    (let b := { pbind [pmsg 0 false] with flow := collFlow 1 0, fsize := 64 }
     let s := { running prun [] [0x64000000] with runs := [], bindings := [(0, b)] }
     startableMsg s 0 2 = some (b, pmsg 0 false) ∧ isCollFlow b.flow = true ∧ b.fsize ≠ 0) ∧
    (∃ b ∈ [(0, pbind [])], ∃ x, 8128 ≤ x ∧ x < 8128 + 128 ∧ b.2.base ≤ x ∧ x < b.2.base + b.2.fsize) ∧
    (let b := pbind []
     let s := { loading 0 [] 2 with bindings := [(4, b)] }
     b.queue = [] ∧ (∀ m ∈ s.rx, b.owns s.pkg m = false) ∧ (∀ x ∈ s.runs, x.2.bind ≠ 4) ∧ isCollFlow b.flow = false ∧
     (pbind [pmsg 0 false]).queue ≠ [] ∧ ∃ m ∈ ({ s with rx := [segMsg 16] } : State).rx, b.owns s.pkg m = true) := by
  refine ⟨by decide +kernel, ⟨(0, pbind []), by decide, 8128, by decide⟩, by decide +kernel⟩

/-- A host's access behind another of its port. -/
theorem test_w_host_waits : let a : HostAcc := ⟨1, 5, 0, 0x10000, 8, none, true⟩
    let s := { ready with hostAcc := [a], nextId := 9 }
    (∃ a ∈ s.hostAcc, a.port = 1) ∧ (∀ a ∈ s.hostAcc, a.tag ≠ s.nextId) ∧ apOk s (apPlace s 1 0x1007F) 1 = true := by
  refine ⟨⟨_, List.mem_singleton.mpr rfl, rfl⟩, ?_, by decide +kernel⟩
  simp
/-- No table entry of the job stands among the bytes of these places. -/
def clear (s : State) (pa : Nat) (bs : List Byte) : Bool :=
  !(writeHeld s pa bs.length) && s.wbs.isEmpty && (homeLeaves { s with dram := memWrite s.dram pa bs } 1).all fun x =>
    decide (x.2.addr + 8 ≤ pa ∨ pa + bs.length ≤ x.2.addr)
/-- A package whose store has pages for both ranks' stripes, those of rank 1 here or on package 5. -/
def storing (d : Drain) (pkg : Nat) : State :=
  { saving { aCkpt with pages := [], drains := [d] } with
    routes := [(5, 0x8000000000000000)],
    dram := [(0x22040, 0x7001F), (0x22048, 0x8001F), (0x22080, 0x9001F + pkg * 2 ^ 53)].foldl
      (fun m x => memWrite m x.1 (bytesOf 8 x.2)) shadowed.dram }
/-- Each phase writes: both headers, a data unit at rank 1, which holds it, a parity unit cleared, a data unit joined to it. -/
theorem test_w_drain_writes :
    (let d := { aDrain 0 [] [] with told := [0, 1] }
     let s := storing d 0
     drainMoves s d = true ∧ 0 ∈ d.told ∧ localOf (chargeJob s 1 2 64) 1 (slotVa d.ctl 0 1) = some 0x60000 ∧
     clear (chargeJob s 1 2 64) 0x60000 (genHeader d.ctl 1 d.cut 0 2) = true ∧
     clear (chargeJob s 1 2 64) 0x60000 (genHeader d.ctl 2 d.cut 0 2) = true) ∧
    (let d := aDrain 1 [0] []
     let s := storing d 0
     drainMoves s d = true ∧ localOf s 1 (ctlShadow d.ctl + 0 * ctlW d.ctl + 65536 * 0) = some 0x40000 ∧
     localOf (chargeJob s 1 2 65536) 1 (stripeVa d.ctl 1 1 0) = some 0x90000 ∧ writeHeld s 0x90000 65536 = false ∧ s.wbs = [] ∧
     (homeLeaves s 1).all (fun x => decide (x.2.addr + 8 ≤ 0x70000)) = true) ∧
    (let d := aDrain 1 [0] []
     let s := storing d 5
     (match walkPage (chargeJob s 1 2 65536) 1 (stripeVa d.ctl 1 1 0) with | .ok l => leafPkg l.e == 5 | _ => false) = true ∧
       leaves (chargeJob s 1 2 65536) 5 = true) ∧
    (let d := aDrain 2 [1] [0, 1]
     drainMoves (storing d 0) d = true ∧ localOf (chargeJob (storing d 0) 1 2 65536) 1 (stripeVa d.ctl 0 1 1) = some 0x80000) ∧
    (let d := aDrain 3 [0] [0, 1]
     drainMoves (storing d 0) d = true ∧ localOf (storing d 0) 1 (stripeVa d.ctl 0 1 0) = some 0x70000 ∧
       localOf (chargeJob (storing d 0) 1 2 65536) 1 (stripeVa d.ctl (0 + 0 % 2) 1 0) = some 0x70000) := by decide +kernel

end Sys2Proof.Tests
end

section
/-!
THE MEMORIES STAY IN CANONICAL FORM. `State.Canon` names the invariant; one lemma for each function of a step says that it keeps
it, in the order of the model. A change of other fields keeps it by `State.Canon.same`, a write to a memory by `memWf_write`, a
write to Slate by `slWrite_memWf`.
-/
namespace Sys2Proof.Machine

/-- The invariant, field by field: every memory of the package is in canonical form. -/
structure State.Canon (s : State) : Prop where
  dram : memWf s.dram = true
  slots : memWf s.slots = true
  flow : memWf s.flow = true
  slates : ∀ c ∈ s.clusters, memWf c.2.slate = true

theorem memOk_iff_canon (s : State) : s.memOk = true ↔ s.Canon := by
  simp only [State.memOk, Bool.and_eq_true, List.all_eq_true]
  exact ⟨fun ⟨⟨⟨hd, hs⟩, hf⟩, hc⟩ => ⟨hd, hs, hf, hc⟩, fun ⟨hd, hs, hf, hc⟩ => ⟨⟨⟨hd, hs⟩, hf⟩, hc⟩⟩

variable {s t : State}

/-- A change of other fields keeps the invariant. -/
theorem State.Canon.same (h : s.Canon)
    (e : (t.dram, t.slots, t.flow, t.clusters) = (s.dram, s.slots, s.flow, s.clusters)) : t.Canon := by
  simp only [Prod.mk.injEq] at e
  obtain ⟨hd, hs, hf, hc⟩ := e
  exact ⟨hd ▸ h.dram, hs ▸ h.slots, hf ▸ h.flow, hc ▸ h.slates⟩

theorem State.Canon.ite {c : Prop} [Decidable c] (hs : s.Canon) (ht : t.Canon) : (if c then s else t).Canon := by
  split <;> assumption

theorem State.Canon.foldl {α : Type} {f : State → α → State} {l : List α} (h : s.Canon)
    (hf : ∀ s x, s.Canon → (f s x).Canon) : (l.foldl f s).Canon :=
  List.foldlRecOn l f (motive := State.Canon) h fun s hs x _ => hf s x hs

theorem forall_mem_tabPut {α : Type} {p : Nat × α → Prop} {t : Tab α} {k : Nat} {v : α} (ht : ∀ c ∈ t, p c) (hv : p (k, v)) :
    ∀ c ∈ tabPut t k v, p c := by
  induction t with
  | nil => simpa [tabPut] using hv
  | cons x r ih =>
    rw [List.forall_mem_cons] at ht
    unfold tabPut
    split
    · simpa [hv] using ht
    · split
      · simpa [hv] using ht.2
      · exact List.forall_mem_cons.mpr ⟨ht.1, ih ht.2⟩

theorem tabGet_of_forall_mem {α : Type} {p : α → Prop} {d : α} {t : Tab α} (k : Nat) (ht : ∀ c ∈ t, p c.2) (hd : p d) :
    p (tabGet d t k) := by
  induction t with
  | nil => exact hd
  | cons x r ih =>
    rw [List.forall_mem_cons] at ht
    unfold tabGet
    split
    · exact ht.1
    · exact ih ht.2

theorem State.Canon.cl (h : s.Canon) {k : Nat} : memWf (s.cl k).slate = true :=
  tabGet_of_forall_mem (p := fun c : Cluster => memWf c.slate = true) k h.slates rfl
theorem State.Canon.myCl (h : s.Canon) : memWf s.myCl.slate = true := h.cl
theorem setCl_canon {k : Nat} {x : Cluster} (h : s.Canon) (hx : memWf x.slate = true) : (s.setCl k x).Canon :=
  ⟨h.dram, h.slots, h.flow, forall_mem_tabPut h.slates hx⟩
theorem setMyCl_canon {x : Cluster} (h : s.Canon) (hx : memWf x.slate = true) : (s.setMyCl x).Canon := setCl_canon h hx
/-- A change of the clusters that leaves their Slate alone. -/
theorem State.Canon.mapClusters {f : Nat × Cluster → Nat × Cluster}
    (e : (t.dram, t.slots, t.flow, t.clusters) = (s.dram, s.slots, s.flow, s.clusters.map f))
    (hf : ∀ c, (f c).2.slate = c.2.slate) (h : s.Canon) : t.Canon := by
  simp only [Prod.mk.injEq] at e
  obtain ⟨hd, hs, hl, hc⟩ := e
  refine ⟨hd ▸ h.dram, hs ▸ h.slots, hl ▸ h.flow, ?_⟩
  rw [hc, List.forall_mem_map]
  exact fun c hm => (hf c).symm ▸ h.slates c hm

theorem ite_fst {α : Type} {c : Prop} [Decidable c] {x y : State × α} (hx : x.1.Canon) (hy : y.1.Canon) :
    (if c then x else y).1.Canon := by
  split <;> assumption
theorem foldl_fst_canon {α β : Type} {f : State × β → α → State × β} {l : List α} {x : State × β} (h : x.1.Canon)
    (hf : ∀ x y, x.1.Canon → (f x y).1.Canon) : (l.foldl f x).1.Canon :=
  List.foldlRecOn l f (motive := fun x => x.1.Canon) h fun x hx y _ => hf x y hx
theorem foldl_slate {α : Type} {f : Cluster → α → Cluster} {l : List α} {cl : Cluster} (h : memWf cl.slate = true)
    (hf : ∀ cl y, memWf cl.slate = true → memWf (f cl y).slate = true) : memWf (l.foldl f cl).slate = true :=
  List.foldlRecOn l f (motive := fun cl => memWf cl.slate = true) h fun cl hcl y _ => hf cl y hcl
theorem ite_slate {c : Prop} [Decidable c] {x y : Cluster} (hx : memWf x.slate = true) (hy : memWf y.slate = true) :
    memWf (if c then x else y).slate = true := by
  split <;> assumption
theorem prepareWindow_slate {cl a n record} (h : memWf cl.slate = true) : memWf (prepareWindow cl a n record).slate = true :=
  slWrite_memWf _ _ _ (memWf_filter _ _ h)
/-- An outcome whose next state, if it has one, keeps the invariant. -/
def OutCanon (o : Out) : Prop := ∀ t, o = .next t → t.Canon
theorem next_canon (h : s.Canon) : OutCanon (.next s) := by
  rintro t ⟨⟩
  exact h
theorem ite_out {c : Prop} [Decidable c] {x y : Out} (hx : OutCanon x) (hy : OutCanon y) : OutCanon (if c then x else y) := by
  split <;> assumption

/-! ### Machine/State -/

theorem reset_canon : State.reset.Canon := ⟨rfl, rfl, rfl, by simp [State.reset]⟩

/-! ### Machine/Global -/

theorem setCore_canon {c x} (h : s.Canon) : (State.setCore s c x).Canon := h.same rfl
theorem setCtx_canon {c x} (h : s.Canon) : (State.setCtx s c x).Canon := h.same rfl
theorem setMe_canon {x} (h : s.Canon) : (State.setMe s x).Canon := setCtx_canon h
theorem setQueue_canon {q x} (h : s.Canon) : (State.setQueue s q x).Canon := h.same rfl
theorem setPort_canon {p x} (h : s.Canon) : (State.setPort s p x).Canon := h.same rfl
theorem bump_canon (h : s.Canon) : (State.bump s).Canon := h.same rfl
theorem setJobAt_canon {i j} (h : s.Canon) : (setJobAt s i j).Canon := h.same rfl
theorem setJobWord_canon {i w x} (h : s.Canon) : (setJobWord s i w x).Canon := setJobAt_canon h
theorem jobCount_canon {job w high} (h : s.Canon) : (jobCount s job w high).Canon := by
  unfold jobCount
  split
  · exact h
  · exact setJobWord_canon h
theorem chargeJob_canon {job k n} (h : s.Canon) : (chargeJob s job k n).Canon := by
  unfold chargeJob
  split
  · exact .ite (setJobAt_canon h) h
  · exact h
theorem putEntry_canon {a e} (h : s.Canon) : (putEntry s a e).Canon :=
  ⟨memWf_write _ _ _ h.dram, h.slots, h.flow, h.slates⟩
theorem setDirty_canon {job pa n} (h : s.Canon) : (setDirty s job pa n).Canon :=
  h.foldl (fun _ _ h => h.foldl (fun _ _ h => .ite (putEntry_canon h) h))
theorem copyFrame_canon {src dst n} (h : s.Canon) : (copyFrame s src dst n).Canon :=
  ⟨memWf_copy _ _ _ _ h.dram, h.slots, h.flow, h.slates⟩
theorem copyCutUnit_canon {job k va pa} (h : s.Canon) : (copyCutUnit s job k va pa).Canon := by
  unfold copyCutUnit
  dsimp only
  split
  · exact setDirty_canon (copyFrame_canon (chargeJob_canon h))
  · exact h
theorem copyCut_canon {idx u} (h : s.Canon) : (copyCut s idx u).Canon := .same (copyCutUnit_canon h) rfl
theorem frontCut_canon {pa n} (h : s.Canon) : (frontCut s pa n).Canon := h.same rfl
theorem homeWrite_canon {job pa bs} (h : s.Canon) : (homeWrite s job pa bs).Canon :=
  .ite h (setDirty_canon ⟨memWf_write _ _ _ h.dram, h.slots, h.flow, h.slates⟩)
theorem homeWriteMask_canon {job pa bs mask} (h : s.Canon) : (homeWriteMask s job pa bs mask).Canon :=
  h.foldl fun _ _ h => homeWrite_canon h
theorem markSectors_canon {pa n bad} (h : s.Canon) : (markSectors s pa n bad).Canon := h.same rfl
theorem partWriteMarked_canon {job pa bs bad} (h : s.Canon) : (partWriteMarked s job pa bs bad).Canon :=
  .ite (markSectors_canon (homeWrite_canon h)) (h.foldl (fun _ _ h => h.same rfl))
theorem partWrite_canon {job pa bs} (h : s.Canon) : (partWrite s job pa bs).Canon := partWriteMarked_canon h
theorem raiseMsix_canon {port vec} (h : s.Canon) : (raiseMsix s port vec).Canon := .ite h (.ite (h.same rfl) (h.same rfl))
theorem recordPosted_canon {i kind bs} (h : s.Canon) : (recordPosted s i kind bs).Canon :=
  .ite (raiseMsix_canon (setJobAt_canon h)) (.ite (raiseMsix_canon (setJobAt_canon h)) (h.same rfl))
theorem postRing_canon {i n} (h : s.Canon) : (postRing i n s).Canon := by
  induction n generalizing s with
  | zero => exact h
  | succ n ih =>
    unfold postRing
    dsimp only
    split
    · exact h
    · exact .ite h (ih (recordPosted_canon (setJobAt_canon h)))
theorem postRings_canon (h : s.Canon) : (postRings s).Canon := h.foldl fun _ _ h => postRing_canon h
theorem enterRing_canon {i r} (h : s.Canon) : (enterRing s i r).1.Canon :=
  postRing_canon (.same (partWrite_canon (setJobAt_canon h)) rfl)
theorem drainWaiting_canon {i n} (h : s.Canon) : (drainWaiting i n s).Canon := by
  induction n generalizing s with
  | zero => exact h
  | succ n ih =>
    unfold drainWaiting
    dsimp only
    split
    · exact h
    · exact .ite h (ih (enterRing_canon (setJobAt_canon h)))
theorem postRecord_canon {job r} (h : s.Canon) : (postRecord s job r).1.Canon := by
  unfold postRecord
  dsimp only
  split
  · exact h.same rfl
  · refine ite_fst (jobCount_canon (setJobAt_canon (drainWaiting_canon h))) ?_
    refine ite_fst (setJobAt_canon (drainWaiting_canon h)) ?_
    exact enterRing_canon (setJobAt_canon (drainWaiting_canon h))
theorem sparingRecord_canon {cls idx} (h : s.Canon) : (sparingRecord s cls idx).Canon :=
  h.foldl fun _ _ h => postRecord_canon h
theorem retireCore_canon {core} (h : s.Canon) : (retireCore s core).Canon :=
  .ite h (sparingRecord_canon (setCore_canon h))

/-! ### Machine/Bells -/

theorem freeInput_canon {m from'} (h : s.Canon) : (freeInput s m from').Canon := h.same rfl
theorem atPort_canon {m port} (h : s.Canon) : (atPort s m port).Canon := .ite (freeInput_canon (h.same rfl)) (h.same rfl)
theorem sendMsg_canon {m} (h : s.Canon) : (sendMsg s m).Canon :=
  .ite (h.same rfl) (.ite h (atPort_canon (bump_canon h)))
theorem leaveOne_canon {x : State × List Msg} {m} (h : x.1.Canon) : (leaveOne x m).1.Canon :=
  ite_fst h (ite_fst (freeInput_canon (.same h rfl)) (setPort_canon h))
theorem moveLinks_canon (h : s.Canon) : (moveLinks s).Canon :=
  .same (foldl_fst_canon (x := (s, [])) h fun _ _ h => leaveOne_canon h) rfl
theorem setGroupCache_canon {cluster group l} (h : s.Canon) : (setGroupCache s cluster group l).Canon :=
  setCl_canon h h.cl
theorem stepWb_canon {w} (h : s.Canon) : (stepWb s w).Canon := by
  refine .ite h ?_
  refine .ite ?_ (.ite (.ite h (h.same rfl)) (sendMsg_canon (h.same rfl)))
  exact .ite h (markSectors_canon (homeWriteMask_canon (h.same rfl)))
theorem stepWbs_canon (h : s.Canon) : (stepWbs s).Canon := h.foldl fun _ _ h => stepWb_canon h
theorem dropAcc_canon {a} (h : s.Canon) : (dropAcc s a).Canon := h.same rfl
theorem endAcc_canon {a r} (h : s.Canon) : (endAcc s a r).Canon := by
  unfold endAcc
  dsimp only
  split
  · exact h.same rfl
  · exact h.same rfl
  · exact dropAcc_canon h
  · exact h.same rfl
theorem stepHost_canon {a} (h : s.Canon) : (stepHost s a).Canon := by
  refine .ite h ?_
  refine .ite ?_ (.ite (endAcc_canon h) (sendMsg_canon (h.same rfl)))
  split
  · exact endAcc_canon h
  · exact .ite h (endAcc_canon (homeWrite_canon h))
theorem stepHosts_canon (h : s.Canon) : (stepHosts s).Canon := h.foldl fun _ _ h => stepHost_canon h
theorem queueHost_canon {port pkg pa len data} (h : s.Canon) : (queueHost s port pkg pa len data).Canon :=
  stepHost_canon (h.same rfl)
theorem queueWb_canon {owner group job pkg pa bytes mask poison} (h : s.Canon) :
    (queueWb s owner group job pkg pa bytes mask poison).Canon :=
  stepWb_canon (h.same rfl)
theorem queueBit_canon {owner group job pkg pa b} (h : s.Canon) : (queueBit s owner group job pkg pa b).Canon :=
  stepWb_canon (h.same rfl)
theorem writeBack_canon {group job l} (h : s.Canon) : (writeBack s group job l).Canon :=
  .ite h (queueWb_canon h)
theorem cacheRelease_canon {cluster group} (h : s.Canon) : (cacheRelease s cluster group).Canon :=
  setGroupCache_canon (h.foldl (fun _ _ h => writeBack_canon h))
theorem cacheAcquire_canon {cluster group} (h : s.Canon) : (cacheAcquire s cluster group).Canon :=
  setGroupCache_canon h
theorem cacheFlush_canon {cluster group f} (h : s.Canon) : (cacheFlush s cluster group f).Canon :=
  setGroupCache_canon (h.foldl (fun _ _ h => writeBack_canon h))
theorem setBell_canon {b x2} (h : s.Canon) : (setBell s b x2).Canon := by
  unfold setBell
  split
  · exact setCl_canon h h.cl
  · exact h.same rfl
  · exact h.same rfl
theorem overrunRecord_canon {l b} (h : s.Canon) : (overrunRecord s l b).Canon := by
  unfold overrunRecord
  split
  · exact h
  · exact postRecord_canon h
theorem acquireFor_canon {ctx scope} (h : s.Canon) : (acquireFor s ctx scope).Canon :=
  .ite h (cacheAcquire_canon h)
theorem wakeBell_canon {l phase} (h : s.Canon) : (wakeBell s l phase).Canon :=
  h.foldl fun _ _ h => setCtx_canon (acquireFor_canon h)
theorem bellEvent_canon {l f} (h : s.Canon) : (bellEvent s l f).Canon := by
  refine .ite h ?_
  refine .ite ?_ (setBell_canon (.ite (overrunRecord_canon h) h))
  exact wakeBell_canon (setBell_canon (.ite (overrunRecord_canon h) h))
theorem ckptRecord_canon {job code cut step} (h : s.Canon) : (ckptRecord s job code cut step).Canon :=
  postRecord_canon h
theorem takeCut_canon {r} (h : s.Canon) : (takeCut s r).Canon := by
  unfold takeCut
  split
  · refine .ite (ckptRecord_canon h) ?_
    exact ckptRecord_canon (partWrite_canon (.same (h.foldl (fun _ _ h => putEntry_canon h)) rfl))
  · exact h
theorem applyHeld_canon {i b} (h : s.Canon) : (applyHeld s i b).1.Canon :=
  foldl_fst_canon (x := (s, _)) h fun _ _ h => .ite (overrunRecord_canon h) h
/-- The three events of a replica call one another, each with less fuel. -/
theorem meshEvents_canon (n : Nat) :
    (∀ {s i}, s.Canon → (meshTest n s i).Canon) ∧ (∀ {s i rank k}, s.Canon → (meshReady n s i rank k).Canon) ∧
      ∀ {s i k}, s.Canon → (meshComplete n s i k).Canon := by
  induction n with
  | zero => exact ⟨fun h => by rwa [meshTest], fun h => by rwa [meshReady], fun h => by rwa [meshComplete]⟩
  | succ n ih =>
    obtain ⟨test, ready, complete⟩ := ih
    refine ⟨fun h => ?_, fun h => ?_, fun h => ?_⟩
    · rw [meshTest]
      exact .ite h (.ite (ready (setBell_canon h)) (sendMsg_canon (setBell_canon h)))
    · rw [meshReady]
      exact .ite (complete (.foldl (setBell_canon h) fun _ _ h => sendMsg_canon h)) (setBell_canon h)
    · rw [meshComplete]
      exact test (setBell_canon (applyHeld_canon (wakeBell_canon
        (.foldl (.same (setBell_canon h) rfl) fun _ _ h => takeCut_canon h))))
theorem meshTest_canon {n i} (h : s.Canon) : (meshTest n s i).Canon := (meshEvents_canon n).1 h
theorem meshReady_canon {n i rank k} (h : s.Canon) : (meshReady n s i rank k).Canon := (meshEvents_canon n).2.1 h
theorem meshComplete_canon {n i k} (h : s.Canon) : (meshComplete n s i k).Canon := (meshEvents_canon n).2.2 h
theorem meshArrive_canon {i tag} (h : s.Canon) : (meshArrive s i tag).Canon := by
  refine meshTest_canon ?_
  refine .ite ?_ (.ite (setBell_canon h) (overrunRecord_canon (setBell_canon h)))
  exact .ite (overrunRecord_canon (setBell_canon h)) (setBell_canon h)
theorem meshArriveAll_canon {i} (h : s.Canon) : (meshArriveAll s i).Canon :=
  .ite h (meshArrive_canon (h.foldl (fun _ _ h => sendMsg_canon h)))
theorem meshLocal_canon {i x} (h : s.Canon) : (meshLocal s i x).Canon :=
  .ite h (.ite (setBell_canon h) (meshTest_canon (.ite (overrunRecord_canon (setBell_canon h)) (setBell_canon h))))
theorem doArm_canon {l t keep bytes} (h : s.Canon) : (doArm s l t keep bytes).Canon := by
  unfold doArm
  split
  · exact meshLocal_canon h
  · exact bellEvent_canon h
theorem doArrive_canon {l} (h : s.Canon) : (doArrive s l).Canon := by
  unfold doArrive
  split
  · exact meshArriveAll_canon h
  · exact bellEvent_canon h
theorem doBytes_canon {l n} (h : s.Canon) : (doBytes s l n).Canon := by
  unfold doBytes
  split
  · exact meshLocal_canon h
  · exact bellEvent_canon h

/-! ### Machine/Displaced -/

theorem putImage_canon {cl g spot slots} (h : s.Canon) : (putImage s cl g spot slots).Canon :=
  partWriteMarked_canon h
theorem undefImage_canon {g a stamp rs} (h : s.Canon) : (undefImage s g a stamp rs).Canon := putImage_canon h

/-! ### Machine/Flags -/

theorem result_canon {d v f bound} (h : s.Canon) : (State.result s d v f bound).Canon := setMe_canon h
theorem scored_canon {d v bound early} (h : s.Canon) : (State.scored s d v bound early).Canon := setMe_canon h
theorem flagsOnly_canon {f bound} (h : s.Canon) : (State.flagsOnly s f bound).Canon := setMe_canon h
theorem outS_canon {d w bound} (h : s.Canon) : (State.outS s d w bound).Canon := result_canon h
theorem outSF_canon {d w f bound} (h : s.Canon) : (State.outSF s d w f bound).Canon := result_canon h
theorem outC_canon {d b f bound} (h : s.Canon) : (State.outC s d b f bound).Canon := result_canon h
theorem outK_canon {d m f bound} (h : s.Canon) : (State.outK s d m f bound).Canon := result_canon h
theorem outV_canon {d t f bound} (h : s.Canon) : (State.outV s d t f bound).Canon := result_canon h

/-! ### Machine/Ops -/

theorem updTask_canon {tid f} (h : s.Canon) : (updTask s tid f).Canon := by
  unfold updTask
  split
  · exact setCtx_canon h
  · exact h.same rfl
theorem setEng_canon {e q} (h : s.Canon) : (State.setEng s e q).Canon := h.same rfl
theorem delCmd_canon {id} (h : s.Canon) : (delCmd s id).Canon := h.same rfl
theorem putCmd_canon {c} (h : s.Canon) : (putCmd s c).Canon := h.same rfl
theorem fillRecords_canon {ctx} (h : s.Canon) : (fillRecords ctx s).Canon := .ite (setCtx_canon h) h
theorem landCtx_canon {ctx} (h : s.Canon) : (landCtx ctx s).Canon := fillRecords_canon (setCtx_canon h)
theorem globalWrite_canon {owner group job va bs} (h : s.Canon) : (globalWrite s owner group job va bs).Canon := by
  unfold globalWrite
  split
  · refine queueWb_canon ?_
    split
    · exact cacheFlush_canon h
    · exact h
  · exact h
theorem undefSlate_canon {stamp e} (h : s.Canon) : (undefSlate s stamp e).Canon := by
  unfold undefSlate
  split
  · exact h
  · exact setCl_canon h (foldl_slate h.cl (fun _ _ h => h))
theorem undefGlobal_canon {job stamp e} (h : s.Canon) : (undefGlobal s job stamp e).Canon := by
  refine .ite h ?_
  refine h.foldl fun _ _ h => ?_
  dsimp only
  split
  · exact .ite (partWrite_canon h) h
  · exact h
theorem mapSlots_canon {job va f} (h : s.Canon) : (mapSlots s job va f).Canon := h.same rfl
theorem busySlots_canon {job va b} (h : s.Canon) : (busySlots s job va b).Canon := mapSlots_canon h
theorem busyByte_canon {owner group job va b} (h : s.Canon) : (busyByte s owner group job va b).Canon := by
  unfold busyByte
  split
  · refine queueBit_canon ?_
    split
    · exact cacheFlush_canon h
    · exact h
  · exact h
theorem pendCopyError_canon {c seq reason} (h : s.Canon) : (pendCopyError s c seq reason).Canon := by
  unfold pendCopyError
  split
  · exact h
  · exact .ite h (updTask_canon h)
theorem reportError_canon {c reason quiet r} (h : s.Canon) : (reportError s c reason quiet r).Canon :=
  .ite (postRecord_canon h) (pendCopyError_canon (postRecord_canon h))
theorem endFailed_canon {c} (h : s.Canon) : (endFailed s c).Canon := by
  unfold endFailed
  split
  · exact .ite h (reportError_canon (delCmd_canon (.ite (busySlots_canon h) h)))
  · exact h
theorem failReshard_canon {c reason quiet r} (h : s.Canon) : (failReshard s c reason quiet r).Canon := by
  unfold failReshard
  exact endFailed_canon (.ite (busyByte_canon (putCmd_canon h)) (putCmd_canon h))
theorem failAgain_canon {id quiet} (h : s.Canon) : (failAgain s id quiet).Canon := by
  unfold failAgain
  split
  · exact putCmd_canon h
  · exact h
theorem copyError_canon {eng c reason quiet} (h : s.Canon) : (copyError s eng c reason quiet).Canon := by
  unfold copyError
  refine .ite (failAgain_canon h) ?_
  extract_lets s1 left s2 stamp remote isCpys dst s3 cl s4 s5 q r
  have h2 : s2.Canon := .same (s := s1) (.ite h (delCmd_canon h)) rfl
  have hu : (dst.foldl (fun s e => undefSlate s stamp e) s2).Canon := .foldl h2 fun _ _ h => undefSlate_canon h
  have h3 : s3.Canon := by
    refine .ite ?_ hu
    split
    · split
      · exact undefImage_canon h2
      · exact hu
    · exact h2
  have h4 : s4.Canon := by
    unfold s4
    split
    · exact setCl_canon h3 h3.cl
    · exact h3
  have h5 : s5.Canon := .ite h4 (.foldl (bump_canon h4) fun _ _ h => undefGlobal_canon h)
  exact .ite (failReshard_canon h5) (reportError_canon h5)
theorem cancelRegions_canon {tid t} (h : s.Canon) : (cancelRegions s tid t).Canon :=
  h.foldl fun _ _ h => copyError_canon h
theorem cancelTask_canon {tid} (h : s.Canon) : (cancelTask s tid).Canon :=
  h.foldl fun _ _ h => copyError_canon h
theorem dropFence_canon {id} (h : s.Canon) : (dropFence s id).Canon := h.same rfl
theorem stepFence_canon {f} (h : s.Canon) : (stepFence s f).Canon := by
  refine .ite h ?_
  refine .ite (dropFence_canon h) ?_
  exact .ite (.ite h (.same (cacheRelease_canon h) rfl)) (dropFence_canon (.ite h (.same (cacheRelease_canon h) rfl)))
theorem applyArrival_canon {a} (h : s.Canon) : (applyArrival s a).Canon := by
  refine doArrive_canon ?_
  split
  · exact h.same rfl
  · exact h
theorem stepArrival_canon {a} (h : s.Canon) : (stepArrival s a).Canon := by
  refine .ite (h.same rfl) ?_
  refine .ite (applyArrival_canon h) ?_
  exact .ite (.same (.ite h (cacheRelease_canon h)) rfl) (applyArrival_canon (.ite h (cacheRelease_canon h)))
theorem progress_canon (h : s.Canon) : (State.progress s).Canon :=
  .foldl (.same (.foldl (stepWbs_canon h) (fun _ _ h => stepFence_canon h)) rfl) fun _ _ h => stepArrival_canon h
theorem ite_pair_slate {p : Prop} [Decidable p] {x y : Nat × Cluster} {m : Mem} (hx : x.2.slate = m) (hy : y.2.slate = m) :
    (if p then x else y).2.slate = m := by
  split <;> assumption
theorem retireGroup_canon {g} (h : s.Canon) : (retireGroup s g).Canon := by
  unfold retireGroup
  split
  · exact h
  next x _ =>
    extract_lets s1 cl cl' s2 s3 s4
    have h1 : s1.Canon := cacheFlush_canon h
    have h2 : s2.Canon := .ite h1 (setCl_canon h1 h1.cl)
    have h3 : s3.Canon := .foldl h2 fun _ _ h => h.same rfl
    split
    · exact h3.same rfl
    · exact h3.same rfl
theorem launchRecord_canon {l kind detail} (h : s.Canon) : (launchRecord s l kind detail).Canon := by
  unfold launchRecord
  split
  · exact h
  · exact postRecord_canon h
theorem abortLaunch_canon {l reason} (h : s.Canon) : (abortLaunch s l reason).Canon := by
  unfold abortLaunch
  extract_lets tids s1 s2 s3 s4
  have h1 : s1.Canon := .foldl h fun _ _ h => cancelTask_canon h
  have h3 : s3.Canon := .foldl (s := s2) (h1.same rfl) fun _ _ h => retireGroup_canon h
  have h4 : s4.Canon := launchRecord_canon h3
  split
  · exact h4.same rfl
  · exact h4
theorem deadTrap_canon {ctx cause pcw info reason} (h : s.Canon) :
    (deadTrap s ctx cause pcw info reason).Canon :=
  abortLaunch_canon (postRecord_canon h)
theorem stubFailure_canon {ctx why pcw} (h : s.Canon) : (stubFailure s ctx why pcw).Canon :=
  abortLaunch_canon (postRecord_canon h)
theorem takeTrap_canon {ctx cause info pcw} (h : s.Canon) : (takeTrap s ctx cause info pcw).Canon := by
  refine .ite (stubFailure_canon h) ?_
  refine .ite (deadTrap_canon h) ?_
  split
  · exact deadTrap_canon h
  · exact setCtx_canon h
theorem unwind_canon {ctx d cause info pcw} (h : s.Canon) : (unwind s ctx d cause info pcw).Canon :=
  setCtx_canon (cancelRegions_canon h)
theorem takeEvent_canon {ctx cause info pcw} (h : s.Canon) : (takeEvent s ctx cause info pcw).Canon :=
  .ite (unwind_canon h) (takeTrap_canon h)
theorem takePending_canon {ctx} (h : s.Canon) : (takePending s ctx).Canon := by
  unfold takePending
  dsimp only
  split
  · exact h
  · refine .ite ?_ (takeEvent_canon (setCtx_canon h))
    split
    · exact .ite (unwind_canon (setCtx_canon h)) (takeTrap_canon (setCtx_canon h))
    · exact takeTrap_canon (setCtx_canon h)
theorem divert_canon {slot v} (h : s.Canon) : (State.divert s slot v).Canon := by
  unfold State.divert
  dsimp only
  split
  · exact h
  · exact h
  · exact takeTrap_canon h
  · exact takeTrap_canon h
  · exact takeEvent_canon h
  · exact takeEvent_canon h

/-! ### Machine/Engine -/

theorem enqueue_canon {i} (h : s.Canon) : (enqueue i s).Canon := h.same rfl
theorem matrixStop_canon {ctx reason j} (h : s.Canon) : (matrixStop s ctx reason j).Canon := setCtx_canon h
theorem applyPass_canon {ctx j} (h : s.Canon) : (applyPass s ctx j).Canon :=
  .ite (setCtx_canon h) (.ite (setCtx_canon h) (setCtx_canon h))
theorem finishOp_canon {ctx j} (h : s.Canon) : (finishOp s ctx j).Canon := by
  unfold finishOp
  dsimp only
  split
  · exact setCtx_canon h
  · exact setCtx_canon h
  · exact setCtx_canon h
  · exact setCtx_canon h
  · exact setCtx_canon (setCl_canon h (foldl_slate h.cl (fun _ _ h => slWrite_memWf _ _ _ h)))
  · exact setCtx_canon h
theorem countRetry_canon {ctx j} (h : s.Canon) : (countRetry s ctx j).Canon :=
  .ite (postRecord_canon (jobCount_canon (setCore_canon h))) (jobCount_canon (setCore_canon h))
theorem actResume_canon {ctx} (h : s.Canon) : (actResume s ctx).Canon := by
  unfold actResume
  extract_lets t r i j s' t' s1 add s2 u
  have h1 : s1.Canon := .ite (setCtx_canon (finishOp_canon (h.same rfl))) h
  have ha (x n) (h : x.Canon) : (add x n).Canon := by
    unfold add
    split
    · exact h
    · exact h.same rfl
  exact setCtx_canon (ha _ _ (ha _ _ h1))

/-! ### Machine/Issue -/

theorem opened_canon {consumer} (h : s.Canon) : (opened consumer s).Canon := h.same rfl
theorem shutBundle_canon {t} (h : s.Canon) : (shutBundle s t).Canon := h.same rfl
theorem endRestore_canon (h : s.Canon) : (endRestore s).Canon := by
  unfold endRestore
  dsimp only
  split
  · exact actResume_canon (setMe_canon h)
  · exact h
theorem resumeWait_canon {ctx} (h : s.Canon) : (resumeWait s ctx).Canon := by
  unfold resumeWait
  dsimp only
  split
  · exact h
  · exact .ite (setCtx_canon (acquireFor_canon h)) (setCtx_canon h)
theorem closeBundle_canon (h : s.Canon) : (closeBundle s).Canon := by
  have hs {t} := shutBundle_canon (t := t) h
  unfold closeBundle
  dsimp only
  split
  · exact resumeWait_canon (endRestore_canon hs)
  · refine .ite hs ?_
    split
    · exact hs
    · split
      · exact takeTrap_canon hs
      · exact hs

/-! ### Machine/Settle -/

theorem act_canon {i effect} (heffect : ∀ {y0}, y0.Canon → (effect y0).Canon) (h : s.Canon) :
    (act i effect s).Canon :=
  .ite h (heffect h)
theorem alone_canon {i effect} (heffect : ∀ {y0}, y0.Canon → (effect y0).Canon) (h : s.Canon) :
    (alone i effect s).Canon := by
  unfold alone
  split
  · exact closeBundle_canon (act_canon (fun h => heffect h) (opened_canon h))
  · exact h
  · exact divert_canon h
theorem settle_canon {i effect} (heffect : ∀ {y0}, y0.Canon → (effect y0).Canon) (h : s.Canon) :
    OutCanon (settle i effect s) :=
  next_canon (.ite (act_canon (fun h => heffect h) h) (alone_canon (fun h => heffect h) h))
theorem takeUnit_canon {i} (h : s.Canon) : (takeUnit i s).Canon := setCore_canon h

/-! ### Machine/Copy -/

theorem accept_canon {i} (h : s.Canon) : (accept i s).Canon := h.same rfl
theorem execCpy_canon {p g cls xf md} (h : s.Canon) : OutCanon (execCpy p g cls xf md s) :=
  settle_canon accept_canon h
theorem execCpys_canon {p g cls xf md} (h : s.Canon) : OutCanon (execCpys p g cls xf md s) :=
  settle_canon accept_canon h
theorem acceptTbind_canon {i slot} (h : s.Canon) : (acceptTbind i slot s).Canon := accept_canon (setMe_canon h)
theorem execTbind_canon {p g cls slot} (h : s.Canon) : OutCanon (execTbind p g cls slot s) :=
  settle_canon acceptTbind_canon h
theorem execTcpy_canon {p g cls xf slot dir} (h : s.Canon) : OutCanon (execTcpy p g cls xf slot dir s) :=
  settle_canon accept_canon h
theorem execGath_canon {p g cls xf} (h : s.Canon) : OutCanon (execGath p g cls xf s) :=
  settle_canon accept_canon h
theorem execScat_canon {p g cls xf} (h : s.Canon) : OutCanon (execScat p g cls xf s) :=
  settle_canon accept_canon h
theorem execRamo_canon {p g cls op ret} (h : s.Canon) : OutCanon (execRamo p g cls op ret s) :=
  settle_canon accept_canon h
theorem execPfch_canon {p g cls tgt} (h : s.Canon) : OutCanon (execPfch p g cls tgt s) :=
  settle_canon accept_canon h
theorem execMigr_canon {p g cls} (h : s.Canon) : OutCanon (execMigr p g cls s) := settle_canon accept_canon h
theorem fenceOn_canon {rel mask scope} (h : s.Canon) : (fenceOn rel mask scope s).Canon :=
  .ite (.ite (cacheRelease_canon h) h) (progress_canon (h.same rfl))
theorem execFence_canon {p scope mask} (h : s.Canon) : OutCanon (execFence p scope mask s) :=
  settle_canon fenceOn_canon h
theorem execRel_canon {p scope mask} (h : s.Canon) : OutCanon (execRel p scope mask s) :=
  settle_canon fenceOn_canon h
theorem dropTlb_canon {cluster f} (h : s.Canon) : (dropTlb s cluster f).Canon := setCl_canon h h.cl
theorem insertMarker_canon {e job tid} (h : s.Canon) : (insertMarker s e job tid).Canon :=
  .ite (dropTlb_canon h) (h.same rfl)
theorem execTlbi_canon {p} (h : s.Canon) : OutCanon (execTlbi p s) :=
  settle_canon (fun h => insertMarker_canon (insertMarker_canon h)) h
theorem execChsnd_canon {p g cls} (h : s.Canon) : OutCanon (execChsnd p g cls s) := settle_canon accept_canon h
theorem acceptChrcv_canon {i} (h : s.Canon) : (acceptChrcv i s).Canon :=
  accept_canon (setMyCl_canon h (foldl_slate h.myCl (fun _ _ h => h)))
theorem execChrcv_canon {p g cls} (h : s.Canon) : OutCanon (execChrcv p g cls s) :=
  settle_canon acceptChrcv_canon h
theorem execColl_canon {p g cls kind op ty} (h : s.Canon) : OutCanon (execColl p g cls kind op ty s) :=
  settle_canon accept_canon h
theorem acceptRshd_canon {i} (h : s.Canon) : (acceptRshd i s).Canon :=
  busyByte_canon (busySlots_canon (accept_canon h))
theorem execRshd_canon {p g cls m} (h : s.Canon) : OutCanon (execRshd p g cls m s) :=
  settle_canon acceptRshd_canon h
theorem execCkcut_canon {p g cls} (h : s.Canon) : OutCanon (execCkcut p g cls s) := settle_canon accept_canon h
theorem execQpush_canon {p g cls tile} (h : s.Canon) : OutCanon (execQpush p g cls tile s) :=
  settle_canon accept_canon h
theorem execSete_canon {p g cls} (h : s.Canon) : OutCanon (execSete p g cls s) := settle_canon accept_canon h
theorem acceptBmode_canon {i} (h : s.Canon) : (acceptBmode i s).Canon := accept_canon (setMyCl_canon h h.myCl)
theorem execBmode_canon {p g cls mode} (h : s.Canon) : OutCanon (execBmode p g cls mode s) :=
  settle_canon acceptBmode_canon h

/-! ### Machine/Fetch -/

theorem askWalk_canon {cluster job va who} (h : s.Canon) : (askWalk s cluster job va who).Canon := by
  refine .ite (setCl_canon h h.cl) ?_
  dsimp only
  split
  · exact setCl_canon h h.cl
  · exact setCl_canon (h.same rfl) h.cl
theorem dropWalk_canon {cluster job va who} (h : s.Canon) : (dropWalk s cluster job va who).Canon :=
  setCl_canon h h.cl
theorem sweepWalks_canon (h : s.Canon) : (sweepWalks s).Canon := by
  unfold sweepWalks
  exact .mapClusters rfl (fun _ => by rfl) h
theorem askSector_canon {reader pkg pa job} (h : s.Canon) : (askSector s reader pkg pa job).Canon :=
  .ite (h.same rfl) (sendMsg_canon (h.same rfl))
theorem fetchAsk_canon {ctx} (h : s.Canon) : (fetchAsk s ctx).Canon := by
  unfold fetchAsk
  dsimp only
  split
  · exact askWalk_canon h
  · exact .ite h (askSector_canon (h.same rfl))
theorem fetchDone_canon {ctx} (h : s.Canon) : (fetchDone s ctx).Canon := .same (dropWalk_canon h) rfl
theorem atSlot_canon {bits n} (h : s.Canon) : (State.atSlot s bits n).Canon := h.same rfl

/-! ### Machine/Queues -/

theorem stopQueue_canon {q} (h : s.Canon) : (stopQueue s q).Canon := setQueue_canon h
theorem submitRecord_canon {q bytes host} (h : s.Canon) : (submitRecord s q bytes host).Canon :=
  .ite (setQueue_canon h) (.ite (postRecord_canon (setQueue_canon h)) (setQueue_canon (partWrite_canon h)))
theorem completionWrite_canon {q v} (h : s.Canon) : (completionWrite s q v).Canon := by
  refine .ite (h.same rfl) ?_
  dsimp only
  split
  · exact stopQueue_canon (postRecord_canon h)
  · exact .ite (stopQueue_canon (postRecord_canon h)) (globalWrite_canon h)
theorem raiseQcv_canon {q} (h : s.Canon) : (raiseQcv s q).Canon := by
  unfold raiseQcv
  dsimp only
  split
  · exact h
  · refine .ite ?_ (completionWrite_canon (setQueue_canon h))
    exact raiseMsix_canon (completionWrite_canon (setQueue_canon h))
theorem completeRecord_canon {q num} (h : s.Canon) : (completeRecord s q num).Canon :=
  raiseQcv_canon (setQueue_canon h)

/-! ### Machine/Access -/

theorem passMarkers_canon {e} (h : s.Canon) : (passMarkers s e).Canon :=
  setEng_canon (h.foldl (fun _ _ h => dropTlb_canon h))
theorem haltCmd_canon {e c va kind} (h : s.Canon) : (haltCmd s e c va kind).Canon :=
  passMarkers_canon (postRecord_canon (dropWalk_canon (putCmd_canon h)))
theorem withPage_canon {e c va r w fmts k} (h : s.Canon) (hk : ∀ {y0}, (k y0).Canon) :
    (withPage s e c va r w fmts k).Canon := by
  unfold withPage
  split
  · exact hk
  · exact askWalk_canon h
  · exact haltCmd_canon h
  · exact copyError_canon (dropWalk_canon h)
theorem askPkg_canon {e c pkg kind pa aux mask payload} (h : s.Canon) :
    (askPkg s e c pkg kind pa aux mask payload).Canon :=
  .ite h (.ite (copyError_canon h) (putCmd_canon (sendMsg_canon (h.same rfl))))
theorem cacheAdd_canon {cluster group l} (h : s.Canon) : (cacheAdd s cluster group l).Canon := by
  refine setGroupCache_canon ?_
  split
  · exact .ite (cacheFlush_canon h) h
  · exact h
theorem cacheFill_canon {cluster group pkg sec home} (h : s.Canon) :
    (cacheFill s cluster group pkg sec home).Canon :=
  .ite (setGroupCache_canon h) (cacheAdd_canon h)
theorem cachePut_canon {cluster group pkg sec o bs} (h : s.Canon) :
    (cachePut s cluster group pkg sec o bs).Canon :=
  .ite (setGroupCache_canon h) (cacheAdd_canon h)
theorem bypass_canon {c pkg pa} (h : s.Canon) : (bypass s c pkg pa).Canon := .ite (cacheFlush_canon h) h
theorem readHome_canon {e c pkg pa len k} (h : s.Canon) (hk : ∀ {y0 y1 y2}, y0.Canon → (k y0 y1 y2).Canon) :
    (readHome s e c pkg pa len k).Canon := by
  refine .ite (.ite (copyError_canon h) (hk h)) ?_
  split
  · exact hk h
  · exact copyError_canon h
  · exact askPkg_canon h
theorem readGlobal_canon {e c va len fmts k} (h : s.Canon) (hk : ∀ {y0 y1 y2}, y0.Canon → (k y0 y1 y2).Canon) :
    (readGlobal s e c va len fmts k).Canon := by
  refine withPage_canon h ?_
  refine .ite ?_ (.ite (bypass_canon h) (readHome_canon (bypass_canon h) (fun h => hk h)))
  split
  · exact .ite (copyError_canon h) (hk h)
  · refine .ite h ?_
    refine readHome_canon h fun h => ?_
    dsimp only
    split
    · exact .ite (copyError_canon (cacheFill_canon h)) (hk (cacheFill_canon h))
    · exact hk (cacheFill_canon h)
theorem writeHome_canon {e c pkg pa bs k} (h : s.Canon) (hk : ∀ {y0 y1}, y0.Canon → (k y0 y1).Canon) :
    (writeHome s e c pkg pa bs k).Canon := by
  refine .ite (.ite (frontCut_canon h) (hk (homeWrite_canon h))) ?_
  split
  · exact hk h
  · exact copyError_canon h
  · exact askPkg_canon h
theorem writeGlobal_canon {e c va bs fmts k} (h : s.Canon) (hk : ∀ {y0 y1}, y0.Canon → (k y0 y1).Canon) :
    (writeGlobal s e c va bs fmts k).Canon := by
  refine withPage_canon h ?_
  refine .ite (hk h) ?_
  exact .ite (hk (cachePut_canon h)) (.ite (bypass_canon h) (writeHome_canon (bypass_canon h) (fun h => hk h)))
theorem countBytes_canon {c n} (h : s.Canon) : (countBytes s c n).Canon := .ite (doBytes_canon h) h
theorem completeLine_canon {c cluster line} (h : s.Canon) : (completeLine s c cluster line).Canon :=
  countBytes_canon (putCmd_canon (setCl_canon h (foldl_slate h.cl (fun _ _ h => slWrite_memWf _ _ _ h))))
theorem landWhole_canon {c a bs} (h : s.Canon) : (landWhole s c a bs).Canon :=
  countBytes_canon (setCl_canon h (foldl_slate (slWrite_memWf _ _ _ h.cl) (fun _ _ h => h)))
theorem foldWrite_canon {c va bs} (h : s.Canon) : (foldWrite s c va bs).Canon := by
  unfold foldWrite
  split
  · exact .ite (h.same rfl) h
  · exact h

/-! ### Machine/Scalar -/

theorem execAdd_canon {p d a b} (h : s.Canon) : OutCanon (execAdd p d a b s) := settle_canon outS_canon h
theorem execAddi_canon {p d a imm} (h : s.Canon) : OutCanon (execAddi p d a imm s) := settle_canon outS_canon h
theorem execSub_canon {p d a b} (h : s.Canon) : OutCanon (execSub p d a b s) := settle_canon outS_canon h
theorem execMul_canon {p d a b} (h : s.Canon) : OutCanon (execMul p d a b s) := settle_canon outS_canon h
theorem execMulhs_canon {p d a b} (h : s.Canon) : OutCanon (execMulhs p d a b s) := settle_canon outS_canon h
theorem execMulhz_canon {p d a b} (h : s.Canon) : OutCanon (execMulhz p d a b s) := settle_canon outS_canon h
theorem outDiv_canon {d w} (h : s.Canon) : (State.outDiv s d w).Canon := scored_canon h
theorem execDivs_canon {p d a b} (h : s.Canon) : OutCanon (execDivs p d a b s) := settle_canon outDiv_canon h
theorem execDivz_canon {p d a b} (h : s.Canon) : OutCanon (execDivz p d a b s) := settle_canon outDiv_canon h
theorem execRems_canon {p d a b} (h : s.Canon) : OutCanon (execRems p d a b s) := settle_canon outDiv_canon h
theorem execRemz_canon {p d a b} (h : s.Canon) : OutCanon (execRemz p d a b s) := settle_canon outDiv_canon h
theorem execAnd_canon {p d a b} (h : s.Canon) : OutCanon (execAnd p d a b s) := settle_canon outS_canon h
theorem execOr_canon {p d a b} (h : s.Canon) : OutCanon (execOr p d a b s) := settle_canon outS_canon h
theorem execXor_canon {p d a b} (h : s.Canon) : OutCanon (execXor p d a b s) := settle_canon outS_canon h
theorem execAndn_canon {p d a b} (h : s.Canon) : OutCanon (execAndn p d a b s) := settle_canon outS_canon h
theorem execShl_canon {p d a b} (h : s.Canon) : OutCanon (execShl p d a b s) := settle_canon outS_canon h
theorem execShrs_canon {p d a b} (h : s.Canon) : OutCanon (execShrs p d a b s) := settle_canon outS_canon h
theorem execShrz_canon {p d a b} (h : s.Canon) : OutCanon (execShrz p d a b s) := settle_canon outS_canon h
theorem execRotl_canon {p d a b} (h : s.Canon) : OutCanon (execRotl p d a b s) := settle_canon outS_canon h
theorem execMins_canon {p d a b} (h : s.Canon) : OutCanon (execMins p d a b s) := settle_canon outS_canon h
theorem execMinz_canon {p d a b} (h : s.Canon) : OutCanon (execMinz p d a b s) := settle_canon outS_canon h
theorem execMaxs_canon {p d a b} (h : s.Canon) : OutCanon (execMaxs p d a b s) := settle_canon outS_canon h
theorem execMaxz_canon {p d a b} (h : s.Canon) : OutCanon (execMaxz p d a b s) := settle_canon outS_canon h
theorem execClz_canon {p d a} (h : s.Canon) : OutCanon (execClz p d a s) := settle_canon outS_canon h
theorem execCtz_canon {p d a} (h : s.Canon) : OutCanon (execCtz p d a s) := settle_canon outS_canon h
theorem execPopc_canon {p d a} (h : s.Canon) : OutCanon (execPopc p d a s) := settle_canon outS_canon h
theorem execBfx_canon {p d a b sx} (h : s.Canon) : OutCanon (execBfx p d a b sx s) := settle_canon outS_canon h
theorem execBfi_canon {p d a b} (h : s.Canon) : OutCanon (execBfi p d a b s) := settle_canon outS_canon h
theorem execMov_canon {p d a} (h : s.Canon) : OutCanon (execMov p d a s) := settle_canon outS_canon h
theorem execMovi_canon {p d imm} (h : s.Canon) : OutCanon (execMovi p d imm s) := settle_canon outS_canon h
theorem execMovhi_canon {p d q val} (h : s.Canon) : OutCanon (execMovhi p d q val s) :=
  settle_canon outS_canon h
theorem execSel_canon {p d a b n} (h : s.Canon) : OutCanon (execSel p d a b n s) := settle_canon outS_canon h
theorem execCmp_canon {p cd a b cond} (h : s.Canon) : OutCanon (execCmp p cd a b cond s) :=
  settle_canon outC_canon h
theorem execCand_canon {p cd ca cb} (h : s.Canon) : OutCanon (execCand p cd ca cb s) :=
  settle_canon outC_canon h
theorem execCor_canon {p cd ca cb} (h : s.Canon) : OutCanon (execCor p cd ca cb s) := settle_canon outC_canon h
theorem execCxor_canon {p cd ca cb} (h : s.Canon) : OutCanon (execCxor p cd ca cb s) :=
  settle_canon outC_canon h
theorem execLea_canon {p d a b n} (h : s.Canon) : OutCanon (execLea p d a b n s) := settle_canon outS_canon h
theorem execTidx_canon {p d a b g} (h : s.Canon) : OutCanon (execTidx p d a b g s) := settle_canon outS_canon h
theorem execLds_canon {p d a sz sx fb imm} (h : s.Canon) : OutCanon (execLds p d a sz sx fb imm s) :=
  settle_canon scored_canon h
theorem execSts_canon {p d a sz imm} (h : s.Canon) : OutCanon (execSts p d a sz imm s) :=
  settle_canon (fun h => setMyCl_canon h (slWrite_memWf _ _ _ h.myCl)) h
theorem execAmos_canon {p d a b op} (h : s.Canon) : OutCanon (execAmos p d a b op s) :=
  settle_canon (fun h => scored_canon (setMyCl_canon h (slWrite_memWf _ _ _ h.myCl))) h
theorem outF_canon {d r} (h : s.Canon) : (State.outF s d r).Canon := outSF_canon h
theorem execFadd_canon {p d a b sub} (h : s.Canon) : OutCanon (execFadd p d a b sub s) :=
  settle_canon outF_canon h
theorem execFmul_canon {p d a b} (h : s.Canon) : OutCanon (execFmul p d a b s) := settle_canon outF_canon h
theorem execFfma_canon {p d a b neg} (h : s.Canon) : OutCanon (execFfma p d a b neg s) :=
  settle_canon outF_canon h
theorem execFcmp_canon {p cd a b cond} (h : s.Canon) : OutCanon (execFcmp p cd a b cond s) :=
  settle_canon outC_canon h
theorem execFcvt_canon {p d a kind} (h : s.Canon) : OutCanon (execFcvt p d a kind s) :=
  settle_canon outF_canon h

/-! ### Machine/CopyEngine -/

theorem settleUnit_canon {e c} (h : s.Canon) : (settleUnit s e c).Canon := by
  unfold settleUnit
  split
  · exact putCmd_canon h
  · split
    · exact putCmd_canon h
    · split
      · exact copyError_canon h
      · exact putCmd_canon h
theorem gotSector_canon {e c a bs} (h : s.Canon) : (gotSector e s c a bs).Canon := settleUnit_canon h
theorem putSector_canon {e c n m} (h : s.Canon) : (putSector e s c n m).Canon := settleUnit_canon h
theorem withTail_canon {e c x start fmts} {k : State} (h : s.Canon) (hk : k.Canon) : (withTail s e c x start fmts k).Canon :=
  .ite (withPage_canon h hk) hk
theorem readUnit_canon {e c} (h : s.Canon) : (readUnit s e c).Canon := by
  unfold readUnit
  split
  · exact settleUnit_canon h
  · refine .ite (copyError_canon h) ?_
    split
    · exact .ite (copyError_canon h) (gotSector_canon h)
    · exact withTail_canon h (readGlobal_canon h fun h => gotSector_canon h)
theorem writeUnit_canon {e c out} (h : s.Canon) : (writeUnit s e c out).Canon := by
  unfold writeUnit
  extract_lets dst
  split
  · exact settleUnit_canon h
  · extract_lets a n bs _ fmts r
    split
    next k _ =>
      have hw : (s.setCl k (slWrite (s.cl k) a bs)).Canon := setCl_canon h (slWrite_memWf _ _ _ h.cl)
      exact .ite h (.ite (settleUnit_canon hw) (settleUnit_canon (completeLine_canon hw)))
    · exact withTail_canon h (.ite (putSector_canon h)
        (writeGlobal_canon h fun h => putSector_canon (countBytes_canon (foldWrite_canon h))))
theorem flushPart_canon {e c w l} (h : s.Canon) : (flushPart s e c w l).Canon := by
  unfold flushPart
  split
  · exact putCmd_canon h
  · exact writeGlobal_canon h (fun h => putCmd_canon (countBytes_canon (foldWrite_canon h)))
theorem moveUnits_canon {e c} (h : s.Canon) : (moveUnits s e c).Canon := by
  unfold moveUnits
  split
  · exact copyError_canon h
  · exact h
  · split
    · exact flushPart_canon h
    · split
      · exact .ite (writeUnit_canon h) (readUnit_canon h)
      · exact writeUnit_canon h
theorem finish1_canon {c} (h : s.Canon) : (finish1 s c).Canon := putCmd_canon h
theorem doTbind_canon {e c} (h : s.Canon) : (doTbind s e c).Canon :=
  readGlobal_canon h fun h => finish1_canon (updTask_canon h)
theorem ramoDone_canon {c ret old} (h : s.Canon) : (ramoDone s c ret old).Canon :=
  finish1_canon (.ite (landWhole_canon h) (countBytes_canon h))
theorem doRamo_canon {e c op ret} (h : s.Canon) : (doRamo s e c op ret).Canon := by
  refine withPage_canon h ?_
  refine .ite (bypass_canon h) ?_
  refine .ite ?_ ?_
  · refine .ite (copyError_canon (bypass_canon h)) ?_
    exact .ite (frontCut_canon (bypass_canon h)) (ramoDone_canon (homeWrite_canon (bypass_canon h)))
  · split
    · exact ramoDone_canon (bypass_canon h)
    · exact copyError_canon (bypass_canon h)
    · exact askPkg_canon (bypass_canon h)
theorem pfchDrop_canon {c size} (h : s.Canon) : (pfchDrop s c size).Canon :=
  putCmd_canon (jobCount_canon (dropWalk_canon h))
theorem doPfch_canon {c tgt} (h : s.Canon) : (doPfch s c tgt).Canon := by
  unfold doPfch
  dsimp only
  split
  · exact askWalk_canon h
  · exact pfchDrop_canon h
  · exact pfchDrop_canon h
  · refine .ite ?_ ?_
    · refine .ite (.ite h (bypass_canon h)) ?_
      refine .ite (.ite (pfchDrop_canon (.ite h (bypass_canon h))) (putCmd_canon (.ite h (bypass_canon h)))) ?_
      split
      · exact putCmd_canon (.ite h (bypass_canon h))
      · exact pfchDrop_canon (.ite h (bypass_canon h))
      · refine .ite (.ite h (bypass_canon h)) ?_
        exact .ite (pfchDrop_canon (.ite h (bypass_canon h))) (askPkg_canon (.ite h (bypass_canon h)))
    · refine .ite (putCmd_canon h) ?_
      refine .ite h ?_
      refine .ite (.ite (pfchDrop_canon h) (putCmd_canon (cacheFill_canon h))) ?_
      split
      · exact putCmd_canon (cacheFill_canon h)
      · exact pfchDrop_canon h
      · exact .ite h (.ite (pfchDrop_canon h) (askPkg_canon h))
theorem setChan_canon {n x} (h : s.Canon) : (State.setChan s n x).Canon := h.same rfl
theorem giveCredit_canon {chan num peer n} (h : s.Canon) : (giveCredit s chan num peer n).Canon :=
  .ite h (.ite (h.same rfl) (h.same rfl))
theorem freeHeldCredits_canon (h : s.Canon) : (freeHeldCredits s).Canon := h.same rfl
theorem sendFlow_canon {bound m} (h : s.Canon) : (sendFlow s bound m).Canon := .ite (h.same rfl) (sendMsg_canon h)
theorem sendSegments_canon {c bytes} (h : s.Canon) : (sendSegments s c bytes).Canon :=
  .foldl (putCmd_canon (setChan_canon h)) fun _ _ h => sendFlow_canon h
theorem doChsnd_canon {e c} (h : s.Canon) : (doChsnd s e c).Canon := by
  unfold doChsnd
  dsimp only
  split
  · exact finish1_canon h
  · exact copyError_canon h
  · refine .ite h ?_
    refine .ite (copyError_canon h) ?_
    exact .ite (copyError_canon h) (.ite (copyError_canon h) (.ite h (sendSegments_canon h)))
theorem doChrcv_canon {e c} (h : s.Canon) : (doChrcv s e c).Canon := by
  refine .ite (copyError_canon h) ?_
  refine .ite h ?_
  split
  · exact h
  · split
    · exact h
    · refine .ite h ?_
      refine .ite (copyError_canon (giveCredit_canon (setCl_canon h h.cl))) ?_
      refine finish1_canon ?_
      refine countBytes_canon ?_
      exact giveCredit_canon (setCl_canon h (foldl_slate (slWrite_memWf _ _ _ h.cl) (fun _ _ h => h)))
theorem doQpush_canon {e c tile} (h : s.Canon) : (doQpush s e c tile).Canon := by
  refine .ite (copyError_canon h) ?_
  refine .ite (finish1_canon (h.foldl (fun _ _ h => submitRecord_canon h))) ?_
  exact .ite h (.ite (copyError_canon h) (.ite h (finish1_canon (h.foldl (fun _ _ h => submitRecord_canon h)))))
theorem doSete_canon {c} (h : s.Canon) : (doSete s c).Canon :=
  putCmd_canon (setCl_canon h (foldl_slate h.cl (fun _ _ h => h)))
theorem moveCmd_canon {e c} (h : s.Canon) : (moveCmd s e c).Canon := by
  unfold moveCmd
  split
  · exact doTbind_canon h
  · exact doRamo_canon h
  · exact doPfch_canon h
  · exact doChsnd_canon h
  · exact doChrcv_canon h
  · exact doQpush_canon h
  · exact doSete_canon h
  · exact moveUnits_canon h
theorem execCopySectorTransfer_canon {eng} (h : s.Canon) : OutCanon (execCopySectorTransfer eng s) := by
  refine next_canon ?_
  split
  · exact bump_canon (moveCmd_canon h)
  · exact h
theorem handColl_canon {c k} (h : s.Canon) : (handColl s c k).Canon := h.same rfl
theorem translatePages_canon {e c rs k} (h : s.Canon) (hk : ∀ {y0 y1}, y0.Canon → (k y0 y1).Canon) :
    (translatePages s e c rs k).Canon := by
  unfold translatePages
  split
  · exact hk h
  · exact withPage_canon h (putCmd_canon h)
theorem showColl_canon {c k} (h : s.Canon) : (showColl s c k).Canon := h.foldl fun _ _ h => sendMsg_canon h
theorem beginColl_canon {e c kind op ty} (h : s.Canon) : (beginColl s e c kind op ty).Canon := by
  refine .ite (copyError_canon h) ?_
  refine .ite (putCmd_canon h) ?_
  refine .ite (showColl_canon (putCmd_canon (h.same rfl))) ?_
  exact translatePages_canon h fun h => showColl_canon (handColl_canon h)
theorem readPinned_canon {e c va len k} (h : s.Canon) (hk : ∀ {y0 y1 y2}, y0.Canon → (k y0 y1 y2).Canon) :
    (readPinned s e c va len k).Canon := by
  unfold readPinned
  split
  · exact h
  · exact .ite (bypass_canon h) (readHome_canon (bypass_canon h) (fun h => hk h))
theorem beginRshd_canon {e c} (h : s.Canon) : (beginRshd s e c).Canon := by
  refine .ite (copyError_canon h) (translatePages_canon h fun h => ?_)
  split
  · exact readPinned_canon h fun h => putCmd_canon (busyByte_canon (busySlots_canon h))
  · exact handColl_canon h
theorem beginIndexed_canon {e c} (h : s.Canon) : (beginIndexed s e c).Canon :=
  .ite h (.ite (copyError_canon h) (putCmd_canon h))
theorem beginCpys_canon {e c} (h : s.Canon) : (beginCpys s e c).Canon := by
  unfold beginCpys
  split
  · exact copyError_canon h
  · exact .ite h (.ite (putCmd_canon h) (copyError_canon h))
theorem beginTcpy_canon {e c} (h : s.Canon) : (beginTcpy s e c).Canon :=
  .ite (putCmd_canon h) (copyError_canon h)
theorem reachMarker_canon {e c} (h : s.Canon) : (reachMarker s e c).Canon := dropTlb_canon (setEng_canon h)
theorem beginCmd_canon {e c} (h : s.Canon) : (beginCmd s e c).Canon := by
  unfold beginCmd
  split
  · exact reachMarker_canon h
  · exact h
  · exact beginColl_canon h
  · exact beginRshd_canon h
  · exact beginIndexed_canon h
  · exact beginIndexed_canon h
  · exact beginCpys_canon h
  · exact beginTcpy_canon h
  · exact .ite h (putCmd_canon h)
  · exact putCmd_canon h
theorem execCopyCommandBegins_canon {eng} (h : s.Canon) : OutCanon (execCopyCommandBegins eng s) := by
  refine next_canon ?_
  split
  · exact bump_canon (beginCmd_canon h)
  · exact h
theorem finishCmd_canon {c} (h : s.Canon) : (finishCmd s c).Canon := by
  unfold finishCmd
  extract_lets cut s1 cl s2
  have h2 : s2.Canon := by
    unfold s2
    split
    · exact setCl_canon (delCmd_canon h) (delCmd_canon h).cl
    · exact delCmd_canon h
  exact progress_canon (.ite (h2.same rfl) h2)
theorem finishReshard_canon {c} (h : s.Canon) : (finishReshard s c).Canon := by
  unfold finishReshard
  extract_lets s1 busy s2
  have h1 : s1.Canon := .ite h (cacheRelease_canon h)
  have h2 : s2.Canon := mapSlots_canon h1
  exact .ite (endFailed_canon h) (.ite h1 (finishCmd_canon (h2.same rfl)))
theorem execCopyCommandCompletes_canon {eng} (h : s.Canon) : OutCanon (execCopyCommandCompletes eng s) := by
  refine next_canon ?_
  split
  · exact finishReshard_canon h
  · split
    · exact finishCmd_canon h
    · exact h
theorem changeMode_canon {c bank mode} (h : s.Canon) : (changeMode s c bank mode).Canon := by
  refine .ite h ?_
  refine bump_canon ?_
  refine setCl_canon (.ite (cacheFlush_canon h) h) ?_
  refine ite_slate ?_ (State.Canon.cl (.ite (cacheFlush_canon h) h))
  exact foldl_slate (State.Canon.cl (.ite (cacheFlush_canon h) h)) fun _ _ h => h
theorem execBmodeBegins_canon {eng} (h : s.Canon) : OutCanon (execBmodeBegins eng s) := by
  refine next_canon ?_
  split
  · exact changeMode_canon (putCmd_canon h)
  · exact h
theorem execClusterCacheEviction_canon {cluster gid idx} (h : s.Canon) :
    OutCanon (execClusterCacheEviction cluster gid idx s) := by
  refine next_canon ?_
  split
  · exact cacheFlush_canon h
  · exact h

/-! ### Machine/Translation -/

theorem tlbAdd_slate (cl : Cluster) (e : TlbEnt) : (tlbAdd cl e).slate = cl.slate := by
  simp only [tlbAdd]
theorem endWalk_canon {w} (h : s.Canon) : (endWalk s w).Canon := by
  unfold endWalk
  extract_lets mine
  split
  · dsimp only
    refine h.mapClusters rfl fun c => ?_
    exact ite_pair_slate (tlbAdd_slate _ _) rfl
  · exact h.mapClusters rfl fun _ => by rfl
theorem execTranslationWalk_canon {cluster idx} (h : s.Canon) : OutCanon (execTranslationWalk cluster idx s) := by
  refine next_canon ?_
  split
  · exact .ite (endWalk_canon h) h
  · exact h
theorem flushPage_canon {job pkg pa size} (h : s.Canon) : (flushPage s job pkg pa size).Canon :=
  h.foldl fun _ _ h => cacheFlush_canon h
theorem followPage_canon {job pkg pa size npkg npa} (h : s.Canon) :
    (followPage s job pkg pa size npkg npa).Canon :=
  flushPage_canon (.foldl (h.same rfl) (fun _ _ h => setGroupCache_canon h))
theorem invalidate_canon {job va n} (h : s.Canon) : (invalidate s job va n).Canon := by
  unfold invalidate
  exact .mapClusters rfl (fun _ => by rfl) h
theorem mapPage_canon {r i} (h : s.Canon) : (mapPage s r i).1.Canon := by
  unfold mapPage
  split
  · exact h
  · exact ite_fst h (putEntry_canon h)
theorem unmapPage_canon {r i} (h : s.Canon) : (unmapPage s r i).1.Canon := by
  unfold unmapPage
  split
  · exact h
  · refine ite_fst h ?_
    dsimp only
    split
    · exact putEntry_canon (flushPage_canon h)
    · exact flushPage_canon h
theorem protectPage_canon {r i} (h : s.Canon) : (protectPage s r i).1.Canon := by
  unfold protectPage
  split
  · exact h
  · exact putEntry_canon h
theorem applyPage_canon {r op i} (h : s.Canon) : (applyPage s r op i).1.Canon := by
  unfold applyPage
  split
  · exact mapPage_canon h
  · exact unmapPage_canon h
  · exact protectPage_canon h
  · exact h
theorem applyPages_canon {r op n i} (h : s.Canon) : (applyPages r op n i s).1.Canon := by
  induction n generalizing s i with
  | zero => exact h
  | succ n ih =>
    have hp : (applyPage s r op i).1.Canon := applyPage_canon h
    unfold applyPages
    split
    · next heq => rwa [heq] at hp
    · next heq => rw [heq] at hp; exact ih hp
theorem dropFwd_canon {r} (h : s.Canon) : (dropFwd s r).Canon := h.same rfl
theorem insertMarkers_canon {job} (h : s.Canon) : (insertMarkers s job).1.Canon :=
  foldl_fst_canon h (fun _ _ h => ite_fst (insertMarker_canon h) (insertMarker_canon h))
theorem addDone_canon {d} (h : s.Canon) : (addDone s d).Canon := h.same rfl
theorem xlateRequest_canon {op r} (h : s.Canon) : (xlateRequest s op r).Canon := by
  refine .ite (addDone_canon h) ?_
  refine addDone_canon ?_
  exact insertMarkers_canon (invalidate_canon (.ite (dropFwd_canon (applyPages_canon h)) (applyPages_canon h)))
theorem execMap_canon {r} (h : s.Canon) : OutCanon (execMap r s) := next_canon (xlateRequest_canon h)
theorem execUnmap_canon {r} (h : s.Canon) : OutCanon (execUnmap r s) := next_canon (xlateRequest_canon h)
theorem execProtect_canon {r} (h : s.Canon) : OutCanon (execProtect r s) := next_canon (xlateRequest_canon h)
theorem execInval_canon {r} (h : s.Canon) : OutCanon (execInval r s) := next_canon (xlateRequest_canon h)
theorem execUnfwd_canon {r} (h : s.Canon) : OutCanon (execUnfwd r s) := next_canon (xlateRequest_canon h)
theorem removeX_canon (h : s.Canon) : (removeX s).Canon := by
  unfold removeX
  extract_lets due hit s1
  have h1 : s1.Canon := by
    refine .foldl h fun s x h => invalidate_canon ?_
    split
    · exact putEntry_canon h
    · exact h
  exact h1.same rfl
theorem writeDone_canon {d} (h : s.Canon) : (writeDone s d).Canon := h.same rfl
theorem execTranslationRequestCompletes_canon (h : s.Canon) : OutCanon (execTranslationRequestCompletes s) := by
  refine next_canon ?_
  split
  · split
    · exact writeDone_canon (h.same rfl)
    · exact h
  · exact h

/-! ### Machine/Migrate -/

theorem migrAnswer_canon {origin job va level cmd reason tick} (h : s.Canon) :
    (migrAnswer s origin job va level cmd reason tick).Canon := by
  refine .ite ?_ (sendMsg_canon h)
  split
  · exact .ite (putCmd_canon h) h
  · exact h
theorem endPage_canon {e c reason tick} (h : s.Canon) : (endPage s e c reason tick).Canon :=
  .ite (copyError_canon h) (putCmd_canon (.ite (postRecord_canon h) (.ite (jobCount_canon h) h)))
theorem askPage_canon {e c} (h : s.Canon) : (askPage s e c).Canon := by
  refine withPage_canon h ?_
  refine .ite (endPage_canon h) ?_
  exact .ite (putCmd_canon (h.same rfl)) (.ite (copyError_canon h) (putCmd_canon (sendMsg_canon h)))
theorem execMigrationPage_canon {eng} (h : s.Canon) : OutCanon (execMigrationPage eng s) := by
  refine next_canon ?_
  split
  · split
    · exact endPage_canon h
    · exact .ite h (askPage_canon h)
  · exact h
theorem putMigr_canon {i m} (h : s.Canon) : (putMigr s i m).Canon := h.same rfl
theorem endMigr_canon {i m reason} (h : s.Canon) : (endMigr s i m reason).Canon := migrAnswer_canon (h.same rfl)
theorem judgeMigr_canon {i m} (h : s.Canon) : (judgeMigr s i m).Canon := by
  unfold judgeMigr
  split
  · exact endMigr_canon h
  · refine .ite (.ite (endMigr_canon h) (sendMsg_canon (h.same rfl))) ?_
    refine .ite h ?_
    refine .ite (endMigr_canon h) ?_
    refine .ite (endMigr_canon h) ?_
    refine .ite h ?_
    refine .ite (endMigr_canon h) ?_
    exact .ite (endMigr_canon h) (sendMsg_canon (putMigr_canon (flushPage_canon (putEntry_canon h))))
theorem copyMigr_canon {i m} (h : s.Canon) : (copyMigr s i m).Canon :=
  .foldl (putMigr_canon (chargeJob_canon (h.same rfl))) fun _ _ h => sendMsg_canon h
theorem landMigr_canon {i m} (h : s.Canon) : (landMigr s i m).Canon := by
  refine endMigr_canon ?_
  refine .foldl ?_ fun _ _ h => sendMsg_canon h
  exact sendMsg_canon (followPage_canon (.same (invalidate_canon (putEntry_canon h)) rfl))
theorem execMigrationPageLands_canon {idx} (h : s.Canon) : OutCanon (execMigrationPageLands idx s) := by
  refine next_canon ?_
  split
  · exact .ite h (.ite (judgeMigr_canon h) (.ite (copyMigr_canon h) (landMigr_canon h)))
  · exact h
theorem takeFrame_canon {job f} (h : s.Canon) : (takeFrame s job f).Canon := by
  unfold takeFrame
  split
  · exact h.same rfl
  · exact h.same rfl
theorem stopMigr_canon {i x reason} (h : s.Canon) : (stopMigr s i x reason).Canon :=
  endMigr_canon (putEntry_canon h)
theorem migrDropped_canon {m} (h : s.Canon) : (migrDropped s m).Canon :=
  .ite (sendMsg_canon h) (.ite h (.ite (migrAnswer_canon h) (sendMsg_canon h)))
theorem migrControl_canon {m} (h : s.Canon) : (migrControl s m).Canon := by
  refine .ite (h.same rfl) ?_
  refine .ite ?_ ?_
  · dsimp only
    split
    · exact sendMsg_canon h
    · exact sendMsg_canon h
    · exact sendMsg_canon (takeFrame_canon h)
  · refine .ite ?_ ?_
    · split
      · split
        · exact .ite (putMigr_canon h) (stopMigr_canon h)
        · exact h
      · exact h
    · refine .ite ?_ (.ite (migrAnswer_canon h) h)
      split
      · exact invalidate_canon (putEntry_canon (.ite (followPage_canon h) h))
      · exact h

/-! ### Machine/Channels -/

theorem toldSend_canon {rpkg rchan num reason} (h : s.Canon) : (toldSend s rpkg rchan num reason).Canon :=
  h.same rfl
theorem tellSend_canon {src chan num reason} (h : s.Canon) : (tellSend s src chan num reason).Canon :=
  .ite (toldSend_canon h) (sendMsg_canon h)
theorem appendHead_canon {chan cluster bank} (h : s.Canon) : (appendHead s chan cluster bank).Canon := by
  unfold appendHead
  split
  · exact h
  · split
    · exact h
    · exact setChan_canon h
    · refine .ite h ?_
      exact .ite (setChan_canon (setCl_canon h h.cl)) (tellSend_canon (setChan_canon (setCl_canon h h.cl)))
theorem appendStep_canon {chan} (h : s.Canon) : (appendStep s chan).Canon := by
  unfold appendStep
  split
  · split
    · exact appendHead_canon h
    · exact tellSend_canon (setChan_canon h)
    · exact .ite (setChan_canon h) h
  · exact h
theorem segmentDone_canon {chan m g} (h : s.Canon) : (segmentDone s chan m g).Canon :=
  .ite (setChan_canon h) (.ite (giveCredit_canon (tellSend_canon (setChan_canon h))) (setChan_canon h))
theorem sourceDone_canon {m g} (h : s.Canon) : (sourceDone s m g).Canon := by
  refine .ite (setChan_canon h) ?_
  refine .foldl ?_ fun _ _ h => sendMsg_canon h
  refine .ite (setChan_canon (toldSend_canon (setChan_canon h))) ?_
  exact .foldl (setChan_canon h) fun _ _ h => sendMsg_canon h
theorem replyArrives_canon {m} (h : s.Canon) : (replyArrives s m).Canon := setChan_canon h

/-! ### Machine/Collective -/

theorem putColl_canon {k} (h : s.Canon) : (putColl s k).Canon := h.same rfl
theorem askFar_canon {k l} (h : s.Canon) : (askFar s k l).Canon :=
  .foldl (putColl_canon (h.same rfl)) fun _ _ h => sendMsg_canon h
theorem countColl_canon {k n} (h : s.Canon) : (countColl s k n).Canon := by
  unfold countColl
  split
  · exact countBytes_canon h
  · exact h
theorem collWrite_canon {k va bs} (h : s.Canon) : (collWrite s k va bs).1.Canon := by
  unfold collWrite
  extract_lets x
  exact foldl_fst_canon h fun _ _ h => ite_fst (countColl_canon (homeWrite_canon h)) (sendMsg_canon (h.same rfl))
theorem collPut_canon {k va bs} (h : s.Canon) : (collPut s k va bs).1.Canon :=
  foldl_fst_canon h fun _ _ h => collWrite_canon h
theorem collFlush_canon {k} (h : s.Canon) : (collFlush s k).Canon := by
  unfold collFlush
  split
  · exact .ite (cacheFlush_canon h) h
  · exact h
theorem sendPiece_canon {k kind r off bs} (h : s.Canon) : (sendPiece s k kind r off bs).Canon :=
  h.foldl (fun _ _ h => .ite (sendMsg_canon h) (sendFlow_canon h))
theorem endColl_canon {k reason} (h : s.Canon) : (endColl s k reason).Canon := by
  unfold endColl
  dsimp only
  split
  · exact copyError_canon (h.foldl (fun _ _ h => giveCredit_canon h))
  · exact .same (h.foldl (fun _ _ h => giveCredit_canon h)) rfl
theorem failColl_canon {k reason} (h : s.Canon) : (failColl s k reason).Canon :=
  endColl_canon (h.foldl (fun _ _ h => sendMsg_canon h))
theorem putPiece_canon {p} (h : s.Canon) : (putPiece s p).Canon := h.same rfl
theorem usePiece_canon {k src off} (h : s.Canon) : (usePiece s k src off).Canon :=
  .ite h (giveCredit_canon (h.same rfl))
theorem setHeld_canon {comm r n} (h : s.Canon) : (setHeld s comm r n).Canon := h.same rfl

/-! ### Machine/Reshard -/

theorem nextStep_canon {k bs} (h : s.Canon) : (nextStep s k bs).Canon := by
  refine .ite (putColl_canon h) ?_
  exact .ite (putColl_canon h) (putColl_canon (foldl_fst_canon (bump_canon h) (fun _ _ h => collPut_canon h)))
theorem execReshardStepBegins_canon {comm} (h : s.Canon) : OutCanon (execReshardStepBegins comm s) := by
  refine next_canon ?_
  split
  · refine .ite h ?_
    refine .ite (failColl_canon h) ?_
    refine .ite (failColl_canon h) ?_
    refine .ite (putColl_canon (chargeJob_canon h)) ?_
    refine .ite (collFlush_canon h) ?_
    refine .ite (failColl_canon (collFlush_canon h)) ?_
    exact .ite (askFar_canon (collFlush_canon h)) (nextStep_canon (collFlush_canon h))
  · exact h
theorem endReshard_canon {k} (h : s.Canon) : (endReshard s k).Canon := by
  refine .ite ?_ (putColl_canon (globalWrite_canon (globalWrite_canon h)))
  exact busyByte_canon (putColl_canon (globalWrite_canon (globalWrite_canon h)))

/-! ### Machine/CollEngine -/

theorem runChunk_canon {k c own} (h : s.Canon) : (runChunk s k c own).Canon := by
  refine putColl_canon ?_
  refine ite_fst ?_ ?_
  · refine foldl_fst_canon ?_ fun _ _ h => collPut_canon h
    refine .ite ?_ (.foldl (.same (chargeJob_canon h) rfl) (fun _ _ h => sendPiece_canon (setHeld_canon h)))
    exact sendPiece_canon (.foldl (.same (chargeJob_canon h) rfl) (fun _ _ h => sendPiece_canon (setHeld_canon h)))
  · refine .ite ?_ (.foldl (.same (chargeJob_canon h) rfl) (fun _ _ h => sendPiece_canon (setHeld_canon h)))
    exact sendPiece_canon (.foldl (.same (chargeJob_canon h) rfl) (fun _ _ h => sendPiece_canon (setHeld_canon h)))
theorem execCollectiveChunkStart_canon {eng} (h : s.Canon) : OutCanon (execCollectiveChunkStart eng s) := by
  refine next_canon ?_
  refine .ite h ?_
  split
  · exact h
  · refine .ite (failColl_canon h) ?_
    refine .ite (collFlush_canon h) ?_
    refine .ite (failColl_canon (collFlush_canon h)) ?_
    refine .ite (failColl_canon (collFlush_canon h)) ?_
    exact .ite (askFar_canon (collFlush_canon h)) (runChunk_canon (collFlush_canon h))
theorem execCollectiveChunkEnd_canon {eng} (h : s.Canon) : OutCanon (execCollectiveChunkEnd eng s) := by
  refine next_canon ?_
  split
  · exact h
  · refine .ite h ?_
    refine putColl_canon ?_
    split
    · exact h.foldl fun _ _ h => usePiece_canon h
    · exact h
theorem execCollectiveDoneSend_canon {comm} (h : s.Canon) : OutCanon (execCollectiveDoneSend comm s) := by
  refine next_canon ?_
  split
  · refine .ite h ?_
    refine .ite (failColl_canon h) ?_
    refine .ite ?_ (sendMsg_canon (putColl_canon h))
    exact putColl_canon (foldl_fst_canon h (fun _ _ h => collWrite_canon h))
  · exact h
theorem raiseCnf_canon {tid} (h : s.Canon) : (raiseCnf s tid).Canon := by
  unfold raiseCnf
  split
  · exact setCtx_canon h
  · exact updTask_canon h
theorem finishColl_canon {k nf} (h : s.Canon) : (finishColl s k nf).Canon := by
  unfold finishColl
  split
  · exact h.same rfl
  · refine .ite (endReshard_canon (.ite (raiseCnf_canon h) h)) ?_
    exact finishCmd_canon (.same (.ite (raiseCnf_canon h) h) rfl)
theorem enqueueMsg_canon {b m} (h : s.Canon) : (enqueueMsg s b m).Canon := by
  unfold enqueueMsg
  split
  · exact h.same rfl
  · exact h
theorem openPiece_canon {k c m} (h : s.Canon) : (openPiece s k c m).Canon :=
  .ite h (putPiece_canon (chargeJob_canon h))
theorem landPiece_canon {k m o bs} (h : s.Canon) : (landPiece s k m o bs).Canon := by
  unfold landPiece
  split
  · exact h
  · split
    · exact h
    · exact putPiece_canon (partWrite_canon h)
theorem countContribution_canon {k m} (h : s.Canon) : (countContribution s k m).Canon :=
  .ite (sendMsg_canon (putColl_canon h)) (putColl_canon h)
theorem pieceArrives_canon {m} (h : s.Canon) : (pieceArrives s m).Canon := by
  unfold pieceArrives
  split
  · refine .ite (failColl_canon h) ?_
    refine .ite h ?_
    split
    · exact failColl_canon h
    · dsimp only
      split
      · refine .ite ?_ (enqueueMsg_canon (.ite h (openPiece_canon h)))
        exact countContribution_canon (enqueueMsg_canon (.ite h (openPiece_canon h)))
      · exact landPiece_canon (.ite h (openPiece_canon h))
  · exact h
theorem collRunDone_canon {m e} (h : s.Canon) : (collRunDone s m e).Canon := by
  unfold collRunDone
  split
  · refine .ite (failColl_canon h) ?_
    refine .ite (landPiece_canon (putColl_canon h)) ?_
    split
    · exact putColl_canon h
    · refine .ite ?_ ?_
      · split
        · exact .ite (sendMsg_canon (putColl_canon h)) (failColl_canon (putColl_canon h))
        · exact failColl_canon (putColl_canon h)
      · refine .ite (failColl_canon (putColl_canon h)) ?_
        dsimp only
        split
        · split
          · exact .ite (usePiece_canon (landPiece_canon (putColl_canon h))) (landPiece_canon (putColl_canon h))
          · exact landPiece_canon (putColl_canon h)
        · exact landPiece_canon (putColl_canon h)
  · exact h
theorem resultArrives_canon {m} (h : s.Canon) : (resultArrives s m).Canon := by
  unfold resultArrives
  split
  · dsimp only
    split
    · exact .ite (putColl_canon h) (failColl_canon h)
    · exact failColl_canon h
  · exact h
theorem collSourceDone_canon {m e} (h : s.Canon) : (collSourceDone s m e).Canon := by
  unfold collSourceDone
  split
  · exact .ite (failColl_canon h) (sendMsg_canon (putColl_canon h))
  · exact h
theorem doneArrives_canon {m} (h : s.Canon) : (doneArrives s m).Canon := by
  unfold doneArrives
  split
  · refine .ite (failColl_canon h) ?_
    refine .ite (putColl_canon h) ?_
    exact .ite (failColl_canon (putColl_canon h)) (.foldl (putColl_canon h) (fun _ _ h => sendMsg_canon h))
  · exact h
theorem finishArrives_canon {m} (h : s.Canon) : (finishArrives s m).Canon := by
  unfold finishArrives
  split
  · exact .ite (failColl_canon h) (.ite (endColl_canon h) (finishColl_canon h))
  · exact h
theorem execEndToEndCreditReturn_canon {chan num peer n} (h : s.Canon) :
    OutCanon (execEndToEndCreditReturn chan num peer n s) := by
  refine next_canon ?_
  refine .ite (.ite (setChan_canon h) h) ?_
  dsimp only
  split
  · exact .ite (setHeld_canon h) h
  · exact h

/-! ### Machine/PurlinRun -/

theorem putRun_canon {p r} (h : s.Canon) : (putRun s p r).Canon := h.same rfl
theorem runStepOf_canon {f} (h : s.Canon) : (runStepOf s f).Canon := by
  unfold runStepOf
  split
  · exact putRun_canon h
  · exact h
theorem applyFate_canon {b m e} (h : s.Canon) : (applyFate s b m e).Canon :=
  .ite (.ite (collSourceDone_canon h) (collRunDone_canon h)) (.ite (sourceDone_canon h) (segmentDone_canon h))
theorem applyFates_canon {bind n} (h : s.Canon) : (applyFates bind n s).Canon := by
  induction n generalizing s with
  | zero => exact h
  | succ n ih =>
    unfold applyFates
    split
    · exact h
    · split
      · exact h
      · split
        · exact h
        · exact ih (applyFate_canon (h.same rfl))
theorem endRun_canon {p r e} (h : s.Canon) : (endRun s p r e).Canon := by
  unfold endRun
  dsimp only
  split
  · exact h.same rfl
  · exact freeHeldCredits_canon (applyFates_canon (h.same rfl))
theorem trapRun_canon {p r cause code} (h : s.Canon) : (trapRun s p r cause code).Canon :=
  endRun_canon (postRecord_canon h)
theorem execPurlinKernelRun_canon {bind proc} (h : s.Canon) : OutCanon (execPurlinKernelRun bind proc s) := by
  refine next_canon ?_
  split
  · exact putRun_canon (h.same rfl)
  · exact h
theorem execPurlinWatchdog_canon {proc} (h : s.Canon) : OutCanon (execPurlinWatchdog proc s) := by
  refine next_canon ?_
  split
  · exact .ite (trapRun_canon h) h
  · exact h

/-! ### Machine/Purlin -/

theorem scalarOp_canon {d a b f} (h : s.Canon) : (scalarOp s d a b f).Canon := runStepOf_canon h
theorem execPadd_canon {d a b} (h : s.Canon) : OutCanon (execPadd d a b s) := next_canon (scalarOp_canon h)
theorem execPsub_canon {d a b} (h : s.Canon) : OutCanon (execPsub d a b s) := next_canon (scalarOp_canon h)
theorem execPand_canon {d a b} (h : s.Canon) : OutCanon (execPand d a b s) := next_canon (scalarOp_canon h)
theorem execPor_canon {d a b} (h : s.Canon) : OutCanon (execPor d a b s) := next_canon (scalarOp_canon h)
theorem execPxor_canon {d a b} (h : s.Canon) : OutCanon (execPxor d a b s) := next_canon (scalarOp_canon h)
theorem execPshl_canon {d a b} (h : s.Canon) : OutCanon (execPshl d a b s) := next_canon (scalarOp_canon h)
theorem execPshr_canon {d a b sx} (h : s.Canon) : OutCanon (execPshr d a b sx s) :=
  next_canon (scalarOp_canon h)
theorem execPcmp_canon {d a b cond} (h : s.Canon) : OutCanon (execPcmp d a b cond s) :=
  next_canon (scalarOp_canon h)
theorem execPsel_canon {d a b c} (h : s.Canon) : OutCanon (execPsel d a b c s) := next_canon (runStepOf_canon h)
theorem execPmov_canon {d a} (h : s.Canon) : OutCanon (execPmov d a s) := next_canon (scalarOp_canon h)
theorem execPmovi_canon {d imm} (h : s.Canon) : OutCanon (execPmovi d imm s) := next_canon (scalarOp_canon h)
theorem execPbr_canon {c mode off} (h : s.Canon) : OutCanon (execPbr c mode off s) :=
  next_canon (runStepOf_canon h)
theorem execPloop_canon {src len count} (h : s.Canon) : OutCanon (execPloop src len count s) :=
  next_canon (runStepOf_canon h)
theorem withRun_canon {f} (h : s.Canon) (hf : ∀ {y0 y1}, (f y0 y1).Canon) : (withRun s f).Canon := by
  unfold withRun
  split
  · exact hf
  · exact h
theorem execPmld_canon {k reg a inc off} (h : s.Canon) : OutCanon (execPmld k reg a inc off s) :=
  next_canon (withRun_canon h (.ite (putRun_canon h) (trapRun_canon h)))
theorem execPmst_canon {k reg a inc off} (h : s.Canon) : OutCanon (execPmst k reg a inc off s) :=
  next_canon (withRun_canon h (.ite (putRun_canon h) (trapRun_canon h)))
theorem execPfld_canon {k reg a inc off} (h : s.Canon) : OutCanon (execPfld k reg a inc off s) :=
  next_canon (withRun_canon h (.ite (putRun_canon h) (trapRun_canon h)))
theorem execPfst_canon {k reg a inc off} (h : s.Canon) : OutCanon (execPfst k reg a inc off s) := by
  refine next_canon ?_
  refine withRun_canon h ?_
  exact .ite (putRun_canon ⟨h.dram, h.slots, memWf_write _ _ _ h.flow, h.slates⟩) (trapRun_canon h)
theorem vectorOp_canon {d a b t f} (h : s.Canon) : (vectorOp s d a b t f).Canon := runStepOf_canon h
theorem execPvadd_canon {d a b t} (h : s.Canon) : OutCanon (execPvadd d a b t s) :=
  next_canon (vectorOp_canon h)
theorem execPvmax_canon {d a b t} (h : s.Canon) : OutCanon (execPvmax d a b t s) :=
  next_canon (vectorOp_canon h)
theorem execPvmul_canon {d a b t} (h : s.Canon) : OutCanon (execPvmul d a b t s) :=
  next_canon (vectorOp_canon h)
theorem execPvcvt_canon {d a t u x4} (h : s.Canon) : OutCanon (execPvcvt d a t u x4 s) :=
  next_canon (runStepOf_canon h)
theorem execPvnf_canon {a t} (h : s.Canon) : OutCanon (execPvnf a t s) := next_canon (runStepOf_canon h)
theorem execPvacc_canon {a b t op inc} (h : s.Canon) : OutCanon (execPvacc a b t op inc s) := by
  refine next_canon ?_
  refine withRun_canon h ?_
  refine .ite (trapRun_canon h) ?_
  exact .ite (trapRun_canon h) (putRun_canon ⟨h.dram, h.slots, memWf_write _ _ _ h.flow, h.slates⟩)
theorem execPfwd_canon {a} (h : s.Canon) : OutCanon (execPfwd a s) :=
  next_canon (withRun_canon h (.ite (trapRun_canon h) (endRun_canon h)))
theorem execPdrop_canon (h : s.Canon) : OutCanon (execPdrop s) := next_canon (withRun_canon h (endRun_canon h))
theorem execPdone_canon (h : s.Canon) : OutCanon (execPdone s) := next_canon (withRun_canon h (endRun_canon h))
theorem execPtrap_canon {code} (h : s.Canon) : OutCanon (execPtrap code s) :=
  next_canon (withRun_canon h (trapRun_canon h))
theorem execPreply_canon {a b c} (h : s.Canon) : OutCanon (execPreply a b c s) :=
  next_canon (withRun_canon h (.ite (trapRun_canon h) (.ite (trapRun_canon h) (putRun_canon h))))

/-! ### Machine/PurlinReq -/

theorem purlinDone_canon {r status handle detail} (h : s.Canon) : (purlinDone s r status handle detail).Canon :=
  addDone_canon h
theorem loadKernel_canon {r} (h : s.Canon) : (loadKernel s r).Canon := by
  refine .ite (purlinDone_canon h) ?_
  refine .ite (purlinDone_canon h) ?_
  dsimp only
  split
  · exact purlinDone_canon h
  · split
    · exact purlinDone_canon h
    · exact .ite (purlinDone_canon h) (purlinDone_canon (h.same rfl))
theorem execLoad_canon {r} (h : s.Canon) : OutCanon (execLoad r s) := next_canon (loadKernel_canon h)
theorem unloadKernel_canon {r} (h : s.Canon) : (unloadKernel s r).Canon :=
  .ite (purlinDone_canon h) (.ite (purlinDone_canon h) (purlinDone_canon (h.same rfl)))
theorem execUnload_canon {r} (h : s.Canon) : OutCanon (execUnload r s) := next_canon (unloadKernel_canon h)
theorem bindFlow_canon {r} (h : s.Canon) : (bindFlow s r).Canon := by
  unfold bindFlow
  dsimp only
  split
  · exact purlinDone_canon h
  · refine .ite (purlinDone_canon h) ?_
    refine .ite (purlinDone_canon h) ?_
    exact .ite (purlinDone_canon h) (purlinDone_canon ⟨h.dram, h.slots, memWf_filter _ _ h.flow, h.slates⟩)
theorem execBind_canon {r} (h : s.Canon) : OutCanon (execBind r s) := next_canon (bindFlow_canon h)
theorem dropBinding_canon {i u} (h : s.Canon) : (dropBinding s i u).Canon :=
  addDone_canon (freeHeldCredits_canon (h.same rfl))
theorem keepArrived_canon {b} (h : s.Canon) : (keepArrived s b).Canon := h.same rfl
theorem unbindFlow_canon {r} (h : s.Canon) : (unbindFlow s r).Canon := by
  unfold unbindFlow
  dsimp only
  split
  next i b _ =>
    have hk := keepArrived_canon (b := b) h
    exact .ite (purlinDone_canon h) (.ite (dropBinding_canon hk) (hk.same rfl))
  · exact purlinDone_canon h
theorem execUnbind_canon {r} (h : s.Canon) : OutCanon (execUnbind r s) := next_canon (unbindFlow_canon h)
theorem execUnbindCompletes_canon {bind} (h : s.Canon) : OutCanon (execUnbindCompletes bind s) := by
  refine next_canon ?_
  split
  · split
    · exact .ite (dropBinding_canon h) h
    · exact h
  · exact h
theorem reservedPurlin_canon {r} (h : s.Canon) : (reservedPurlin s r).Canon := purlinDone_canon h

/-! ### Machine/Ridge -/

theorem dropMsg_canon {i} (h : s.Canon) : (dropMsg s i).Canon := by
  unfold dropMsg
  split
  · exact freeInput_canon (h.same rfl)
  · exact h
theorem handleMsg_canon {x f} (h : s.Canon) (hf : ∀ {y0 y1}, y0.Canon → (f y0 y1).Canon) :
    (handleMsg s x f).Canon := by
  unfold handleMsg
  split
  · exact hf (dropMsg_canon h)
  · exact h
theorem countDiscard_canon {m} (h : s.Canon) : (countDiscard s m).Canon := .ite h (setPort_canon h)
theorem sendReply_canon {m r} (h : s.Canon) : (sendReply s m r).Canon := .ite (sendMsg_canon h) (atPort_canon h)
theorem serve_canon {m f} (h : s.Canon) (hf : ∀ {y0}, y0.Canon → (f y0).Canon) : (serve s m f).Canon := by
  unfold serve
  split
  · exact sendMsg_canon h
  · exact hf (.ite h (chargeJob_canon h))
theorem readServed_canon {m} (h : s.Canon) : (readServed s m).Canon := serve_canon h sendReply_canon
theorem holdMigr_canon {m} (h : s.Canon) : (holdMigr s m).Canon := h.same rfl
theorem writeServed_canon {m} (h : s.Canon) : (writeServed s m).Canon := by
  refine serve_canon h fun h => ?_
  exact .ite (holdMigr_canon h) (sendReply_canon (.ite (.same (homeWriteMask_canon h) rfl) (homeWriteMask_canon h)))
theorem atomicServed_canon {m} (h : s.Canon) : (atomicServed s m).Canon := by
  refine serve_canon h fun h => ?_
  exact .ite (holdMigr_canon h) (.ite (sendReply_canon h) (sendReply_canon (homeWrite_canon h)))
theorem execSectorReadRequest_canon (h : s.Canon) : OutCanon (execSectorReadRequest s) :=
  next_canon (handleMsg_canon h readServed_canon)
theorem execSectorWrite_canon (h : s.Canon) : OutCanon (execSectorWrite s) :=
  next_canon (handleMsg_canon h writeServed_canon)
theorem execAtomicRequest_canon (h : s.Canon) : OutCanon (execAtomicRequest s) :=
  next_canon (handleMsg_canon h atomicServed_canon)
theorem relocate_canon {job old new} (h : s.Canon) : (relocate s job old new).Canon := by
  unfold relocate
  extract_lets opkg opa npkg npa moved s1
  have h1 : s1.Canon := h.mapClusters rfl fun _ => by rfl
  exact h1.foldl fun _ _ h => .ite h (putEntry_canon (followPage_canon h))
theorem relocated_canon {m} (h : s.Canon) : (relocated s m).Canon := .ite (relocate_canon h) h
theorem otherReader_canon {m} (h : s.Canon) : (otherReader s m).Canon := by
  refine .ite (h.same rfl) ?_
  refine .ite (h.same rfl) ?_
  split
  · exact stepHosts_canon (endAcc_canon h)
  · exact h
theorem readReplied_canon {m} (h : s.Canon) : (readReplied s m).Canon := by
  unfold readReplied
  dsimp only
  split
  · exact putCmd_canon (relocated_canon h)
  · exact otherReader_canon (relocated_canon h)
theorem execReadReply_canon (h : s.Canon) : OutCanon (execReadReply s) :=
  next_canon (handleMsg_canon h readReplied_canon)
theorem otherAck_canon {m} (h : s.Canon) : (otherAck s m).Canon := by
  refine .ite (progress_canon (h.same rfl)) ?_
  split
  · exact stepHosts_canon (endAcc_canon h)
  · split
    · exact .ite (countColl_canon (putColl_canon h)) (failColl_canon (putColl_canon h))
    · split
      · split
        · exact .ite (putMigr_canon h) (stopMigr_canon h)
        · exact h
      · exact h
theorem drainAck_canon {m} (h : s.Canon) : (drainAck s m).Canon := h.same rfl
theorem ackArrives_canon {m} (h : s.Canon) : (ackArrives s m).Canon := by
  refine .ite (toldSend_canon h) ?_
  refine .ite (drainAck_canon h) ?_
  dsimp only
  split
  · exact putCmd_canon (relocated_canon h)
  · exact otherAck_canon (relocated_canon h)
theorem execWriteAcknowledge_canon (h : s.Canon) : OutCanon (execWriteAcknowledge s) :=
  next_canon (handleMsg_canon h ackArrives_canon)
theorem atomicReplied_canon {m} (h : s.Canon) : (atomicReplied s m).Canon := by
  unfold atomicReplied
  dsimp only
  split
  · exact putCmd_canon (relocated_canon h)
  · exact relocated_canon h
theorem execAtomicReply_canon (h : s.Canon) : OutCanon (execAtomicReply s) :=
  next_canon (handleMsg_canon h atomicReplied_canon)
theorem onBell_canon {m f} (h : s.Canon) (hf : ∀ {y0}, y0.Canon → (f y0).Canon) : (onBell s m f).Canon :=
  .ite (hf h) (countDiscard_canon h)
theorem execBellEventArrive_canon (h : s.Canon) : OutCanon (execBellEventArrive s) :=
  next_canon (handleMsg_canon h (fun h => onBell_canon h meshArrive_canon))
theorem execBellEventReady_canon (h : s.Canon) : OutCanon (execBellEventReady s) :=
  next_canon (handleMsg_canon h (fun h => onBell_canon h meshReady_canon))
theorem execBellEventComplete_canon (h : s.Canon) : OutCanon (execBellEventComplete s) :=
  next_canon (handleMsg_canon h (fun h => onBell_canon h meshComplete_canon))
theorem sourceArrives_canon {m} (h : s.Canon) : (sourceArrives s m).Canon := by
  unfold sourceArrives
  split
  · exact enqueueMsg_canon h
  · exact .ite (sourceDone_canon h) (sendMsg_canon h)
theorem segmentArrives_canon {m} (h : s.Canon) : (segmentArrives s m).Canon := by
  refine .ite (sourceArrives_canon h) ?_
  dsimp only
  split
  · exact tellSend_canon h
  · split
    · exact enqueueMsg_canon h
    · exact segmentDone_canon h
theorem execChannelMessageSegment_canon (h : s.Canon) : OutCanon (execChannelMessageSegment s) := by
  refine next_canon ?_
  split
  · exact appendStep_canon h
  · exact handleMsg_canon h segmentArrives_canon
theorem execCollectivePiece_canon (h : s.Canon) : OutCanon (execCollectivePiece s) :=
  next_canon (handleMsg_canon h (fun h => .ite (sourceArrives_canon h) (pieceArrives_canon h)))
theorem execCollectiveDone_canon (h : s.Canon) : OutCanon (execCollectiveDone s) :=
  next_canon (handleMsg_canon h doneArrives_canon)
theorem execCollectiveFinish_canon (h : s.Canon) : OutCanon (execCollectiveFinish s) :=
  next_canon (handleMsg_canon h finishArrives_canon)
theorem execPurlinReply_canon (h : s.Canon) : OutCanon (execPurlinReply s) :=
  next_canon (handleMsg_canon h (fun h => .ite (resultArrives_canon h) (replyArrives_canon h)))
theorem execRegulatedRequestBegins_canon {jobIdx k n} (h : s.Canon) :
    OutCanon (execRegulatedRequestBegins jobIdx k n s) :=
  next_canon (.ite (chargeJob_canon h) h)
theorem execRegulatorRefill_canon (h : s.Canon) : OutCanon (execRegulatorRefill s) := next_canon (h.same rfl)

/-! ### Machine/Checkpoint -/

theorem writeVaMarked_canon {job va bs bad} (h : s.Canon) : (writeVaMarked s job va bs bad).Canon := by
  unfold writeVaMarked
  split
  · exact partWriteMarked_canon h
  · exact h
theorem writeVa_canon {job va bs} (h : s.Canon) : (writeVa s job va bs).Canon := writeVaMarked_canon h
theorem execCutPageCopy_canon {jobIdx} (h : s.Canon) : OutCanon (execCutPageCopy jobIdx s) := by
  refine next_canon ?_
  split
  · split
    · exact .ite (copyCut_canon h) h
    · split
      · exact .ite h (doArrive_canon (h.same rfl))
      · exact h
  · exact h
theorem storeUnit_canon {d rank stripe x bs bad} (h : s.Canon) : (storeUnit s d rank stripe x bs bad).1.Canon := by
  unfold storeUnit
  extract_lets job va
  split
  · exact h
  · dsimp only
    split
    · dsimp only
      exact partWriteMarked_canon h
    · exact .foldl h fun _ _ h => sendMsg_canon h
theorem tellMembers_canon {d op ranks} (h : s.Canon) : (tellMembers s d op ranks).Canon := by
  refine h.foldl fun _ _ h => ?_
  dsimp only
  split
  · exact .ite h (sendMsg_canon h)
  · exact h
theorem putDrain_canon {idx d} (h : s.Canon) : (putDrain s idx d).Canon := h.same rfl
theorem writeHeader_canon {d state} (h : s.Canon) : (writeHeader s d state).Canon :=
  writeVa_canon (chargeJob_canon h)
theorem drainStep_canon {idx d} (h : s.Canon) : (drainStep s idx d).Canon := by
  unfold drainStep
  dsimp only
  split
  · exact .ite (putDrain_canon (tellMembers_canon (chargeJob_canon h))) (putDrain_canon (writeHeader_canon h))
  · exact putDrain_canon (storeUnit_canon (chargeJob_canon h))
  · exact putDrain_canon (tellMembers_canon h)
  · exact putDrain_canon (writeVa_canon (chargeJob_canon h))
  · exact putDrain_canon h
  · exact putDrain_canon (storeUnit_canon (chargeJob_canon h))
  · exact putDrain_canon (tellMembers_canon h)
  · exact ckptRecord_canon (writeHeader_canon (h.same rfl))
theorem execCheckpointDrain_canon {jobIdx} (h : s.Canon) : OutCanon (execCheckpointDrain jobIdx s) := by
  refine next_canon ?_
  split
  · refine .ite (h.same rfl) ?_
    split
    · exact .ite (drainStep_canon h) h
    · exact h
  · exact h
theorem transferArrives_canon {m} (h : s.Canon) : (transferArrives s m).Canon := by
  refine .ite ?_ (markSectors_canon (homeWrite_canon (chargeJob_canon h)))
  exact sendMsg_canon (markSectors_canon (homeWrite_canon (chargeJob_canon h)))
theorem execCheckpointTransfer_canon (h : s.Canon) : OutCanon (execCheckpointTransfer s) :=
  next_canon (handleMsg_canon h transferArrives_canon)
theorem noteArrives_canon {m} (h : s.Canon) : (noteArrives s m).Canon := by
  unfold noteArrives
  split
  · exact putDrain_canon h
  · exact h
theorem dropTransit_canon {m} (h : s.Canon) : (dropTransit s m).Canon :=
  .ite (sendReply_canon h) (.ite (sendMsg_canon h) (.ite (sendMsg_canon h) (.ite (migrDropped_canon h) h)))
theorem passOn_canon {m} (h : s.Canon) : (passOn s m).Canon :=
  .ite (sendMsg_canon h) (dropTransit_canon (freeInput_canon h))
theorem controlArrives_canon {m} (h : s.Canon) : (controlArrives s m).Canon := by
  refine .ite (countDiscard_canon h) ?_
  exact .ite (passOn_canon h) (.ite (migrControl_canon h) (.ite (noteArrives_canon h) (h.same rfl)))
theorem execControlAndRouting_canon (h : s.Canon) : OutCanon (execControlAndRouting s) :=
  next_canon (handleMsg_canon h controlArrives_canon)
theorem rebuild_canon {r slot} (h : s.Canon) : (Restore.rebuild r s slot).Canon :=
  .ite h (h.foldl (fun _ _ h => writeVa_canon h))
theorem run_canon {r idx ctlPa slot cut} (h : s.Canon) : (Restore.run r s idx ctlPa slot cut).Canon := by
  refine writeVa_canon ?_
  refine partWrite_canon ?_
  refine .foldl ?_ fun _ _ h => .ite (putEntry_canon h) h
  exact .foldl (rebuild_canon (h.same rfl)) fun _ _ h => writeVaMarked_canon (writeVaMarked_canon h)
theorem restoreEnds_canon {job status} (h : s.Canon) : (restoreEnds s job status).Canon := h.same rfl
theorem restoreJob_canon {idx peers} (h : s.Canon) : (restoreJob s idx peers).Canon := by
  unfold restoreJob
  dsimp only
  split
  · exact restoreEnds_canon h
  · refine .ite (restoreEnds_canon h) ?_
    split
    · exact restoreEnds_canon h
    · exact restoreEnds_canon (run_canon h)
theorem execCheckpointRestore_canon {jobIdx peers} (h : s.Canon) :
    OutCanon (execCheckpointRestore jobIdx peers s) :=
  next_canon (.ite (restoreJob_canon h) h)

/-! ### Machine/Control -/

theorem execStg_canon {p e a} (h : s.Canon) : OutCanon (execStg p e a s) := settle_canon setMe_canon h
theorem execCrd_canon {p d crn} (h : s.Canon) : OutCanon (execCrd p d crn s) := settle_canon outS_canon h
theorem execCwr_canon {p d crn} (h : s.Canon) : OutCanon (execCwr p d crn s) := settle_canon setMe_canon h
theorem goto_canon {target} (h : s.Canon) : (goto target s).Canon := setMe_canon h
theorem jumpTo_canon {target} (h : s.Canon) : (jumpTo target s).Canon := goto_canon (setMe_canon h)
theorem execBr_canon {c n off} (h : s.Canon) : OutCanon (execBr c n off s) := settle_canon goto_canon h
theorem execJmp_canon {off} (h : s.Canon) : OutCanon (execJmp off s) := settle_canon jumpTo_canon h
theorem execJmpr_canon {c n a} (h : s.Canon) : OutCanon (execJmpr c n a s) := settle_canon jumpTo_canon h
theorem execCall_canon {off} (h : s.Canon) : OutCanon (execCall off s) :=
  settle_canon (fun h => goto_canon (outS_canon h)) h
theorem execRet_canon {c n} (h : s.Canon) : OutCanon (execRet c n s) := settle_canon goto_canon h
theorem startLoop_canon {n len} (h : s.Canon) : (startLoop n len s).Canon :=
  .ite (setMe_canon h) (setMe_canon h)
theorem execLoop_canon {a len} (h : s.Canon) : OutCanon (execLoop a len s) := settle_canon startLoop_canon h
theorem execArm_canon {a b keep t} (h : s.Canon) : OutCanon (execArm a b keep t s) := settle_canon doArm_canon h
theorem arriveOn_canon {bell mask scope} (h : s.Canon) : (arriveOn bell mask scope s).Canon :=
  progress_canon (h.same rfl)
theorem execArrive_canon {a b scope} (h : s.Canon) : OutCanon (execArrive a b scope s) :=
  settle_canon arriveOn_canon h
theorem waitOn_canon {bell phase scope} (h : s.Canon) : (waitOn bell phase scope s).Canon :=
  .ite (acquireFor_canon h) (setMe_canon h)
theorem execWait_canon {a b scope} (h : s.Canon) : OutCanon (execWait a b scope s) :=
  settle_canon waitOn_canon h
theorem execNop_canon (h : s.Canon) : OutCanon (execNop s) := settle_canon (fun h => h) h
theorem yieldCore_canon (h : s.Canon) : (yieldCore s).Canon := by
  unfold yieldCore
  dsimp only
  split
  · exact .ite (setMe_canon (setCore_canon h)) (setCore_canon h)
  · exact setCore_canon h
theorem execYield_canon (h : s.Canon) : OutCanon (execYield s) := settle_canon yieldCore_canon h
theorem execExit_canon (h : s.Canon) : OutCanon (execExit s) := settle_canon setMe_canon h
theorem execTrap_canon {code} (h : s.Canon) : OutCanon (execTrap code s) := settle_canon setMe_canon h
theorem execTret_canon (h : s.Canon) : OutCanon (execTret s) := settle_canon setMe_canon h
theorem execSeg_canon {id} (h : s.Canon) : OutCanon (execSeg id s) :=
  settle_canon (fun h => .ite (setMe_canon h) h) h
theorem execCropen_canon {off} (h : s.Canon) : OutCanon (execCropen off s) := settle_canon setMe_canon h
theorem closeRegion_canon (h : s.Canon) : (closeRegion s).Canon := h.same rfl
theorem execCrclose_canon (h : s.Canon) : OutCanon (execCrclose s) := settle_canon closeRegion_canon h
theorem execFillerBundle_canon (h : s.Canon) : OutCanon (execFillerBundle s) :=
  next_canon (.ite h (closeBundle_canon (opened_canon h)))
theorem execIllegalEncoding_canon {info} (h : s.Canon) : OutCanon (execIllegalEncoding info s) :=
  next_canon (takeTrap_canon h)

/-! ### Machine/Context -/

theorem goOut_canon {ctx t stubbed} (h : s.Canon) : (goOut s ctx t stubbed).Canon := h.same rfl
theorem hardwareSave_canon {ctx} (h : s.Canon) : (hardwareSave s ctx).Canon :=
  goOut_canon (.ite (setCl_canon h (slWrite_memWf _ _ _ h.cl)) h)
theorem divertTo_canon {ctx stub} (h : s.Canon) : (divertTo s ctx stub).Canon := setCtx_canon h
theorem takeOut_canon {ctx} (h : s.Canon) : (takeOut s ctx).Canon := by
  unfold takeOut
  split
  · exact divertTo_canon h
  · exact hardwareSave_canon h
theorem execPreemptionTaken_canon {ctx} (h : s.Canon) : OutCanon (execPreemptionTaken ctx s) :=
  next_canon (.ite (takeOut_canon (landCtx_canon h)) h)
theorem execDebugHalt_canon {ctx} (h : s.Canon) : OutCanon (execDebugHalt ctx s) :=
  next_canon (.ite h (.ite (takeOut_canon (setCtx_canon (landCtx_canon h))) (setCtx_canon (landCtx_canon h))))
theorem execTaskOut_canon {ctx} (h : s.Canon) : OutCanon (execTaskOut ctx s) :=
  next_canon (.ite (goOut_canon (landCtx_canon h)) h)
theorem execStubOverrun_canon {ctx} (h : s.Canon) : OutCanon (execStubOverrun ctx s) :=
  next_canon (.ite (stubFailure_canon h) h)
theorem rewait_canon {ctx} (h : s.Canon) : (rewait s ctx).Canon := by
  unfold rewait
  dsimp only
  split
  · exact h
  · exact .ite (setCtx_canon (acquireFor_canon h)) h
theorem hardwareRestore_canon {ctx t} (h : s.Canon) : (hardwareRestore s ctx t).Canon :=
  rewait_canon (actResume_canon (setCtx_canon h))
theorem stubRestore_canon {ctx t} (h : s.Canon) : (stubRestore s ctx t).Canon := setCtx_canon (bump_canon h)
theorem useCore_canon {grp core} (h : s.Canon) : (useCore s grp core).Canon := by
  unfold useCore
  split
  · split
    · exact .ite h (h.same rfl)
    · exact h
  · exact h
theorem restoreOut_canon {idx ctx} (h : s.Canon) : (restoreOut s idx ctx).Canon := by
  unfold restoreOut
  split
  · exact .ite (stubRestore_canon (useCore_canon (h.same rfl))) (hardwareRestore_canon (useCore_canon (h.same rfl)))
  · exact h
theorem execContextRestore_canon {idx ctx} (h : s.Canon) : OutCanon (execContextRestore idx ctx s) := by
  refine next_canon ?_
  split
  · exact .ite (restoreOut_canon h) h
  · exact h

/-! ### Machine/Records -/

theorem slotWrite_canon {port offset data} (h : s.Canon) : (slotWrite s port offset data).Canon :=
  .foldl ⟨h.dram, memWf_write _ _ _ h.slots, h.flow, h.slates⟩ fun _ _ h => submitRecord_canon h
theorem execLaunchRecordSubmit_canon {port offset data} (h : s.Canon) :
    OutCanon (execLaunchRecordSubmit port offset data s) :=
  next_canon (slotWrite_canon h)
theorem putRec_canon {q r} (h : s.Canon) : (putRec s q r).Canon := setQueue_canon h
theorem dropReads_canon {q} (h : s.Canon) : (dropReads s q).Canon := h.same rfl
theorem headRecord_canon {q r kind reply detail} (h : s.Canon) : (headRecord s q r kind reply detail).Canon :=
  postRecord_canon h
theorem rejectHead_canon {q r check} (h : s.Canon) : (rejectHead s q r check).Canon :=
  stopQueue_canon (headRecord_canon (dropReads_canon (putRec_canon h)))
theorem headStep_canon {q r} (h : s.Canon) : (headStep s q r).Canon := by
  unfold headStep
  split
  · exact h
  · exact .ite (rejectHead_canon h) (askSector_canon h)
  · exact rejectHead_canon h
  · exact putRec_canon h
  · exact headRecord_canon (dropReads_canon (putRec_canon h))
  next l _ => 
    have hd := dropReads_canon (q := q) (putRec_canon (q := q) (r := { r with launch := some s.nextId, kept := [] }) h)
    exact hd.same rfl
theorem execHeadRecordCheck_canon {q} (h : s.Canon) : OutCanon (execHeadRecordCheck q s) := by
  refine next_canon ?_
  split
  · exact headStep_canon h
  · exact h

/-! ### Machine/Timetable -/

theorem setBells_canon {id l run pbell} (h : s.Canon) : (setBells s id l run pbell).Canon := by
  refine .ite ?_ (h.foldl (fun _ _ h => setBell_canon h))
  exact .foldl (h.foldl (fun _ _ h => setBell_canon h)) fun _ _ h => setBell_canon h
theorem placeGroup_canon {id l run gid p} (h : s.Canon) : (placeGroup s id l run gid p).Canon := by
  unfold placeGroup
  extract_lets l pb p s1 record grp cl cl2 s2 tids g s3 ctxs s4 l2
  have h1 : s1.Canon := .ite (setBells_canon h) h
  have hcl : memWf cl2.slate = true := foldl_slate (prepareWindow_slate h1.cl) fun _ _ h => h
  have h3 : s3.Canon := .same (setCl_canon h1 hcl) rfl
  have h4 : s4.Canon := .foldl h3 fun _ _ h => setCtx_canon h
  exact h4.same rfl
theorem endTurn_canon (h : s.Canon) : (endTurn s).Canon := by
  unfold endTurn
  split
  · exact .ite (h.same rfl) h
  · exact h
theorem takePlaces_canon {id pl t} (h : s.Canon) (ht : takePlaces s id pl = some t) : t.Canon := by
  induction pl generalizing s with
  | nil => rw [takePlaces] at ht; cases ht; exact h
  | cons p r ih =>
    unfold takePlaces at ht
    split at ht
    · cases ht
    · split at ht
      · cases ht
      · split at ht
        · exact ih (placeGroup_canon h) ht
        · cases ht
theorem afterTurn_canon {q prio n} (h : s.Canon) : (afterTurn s q prio n).Canon := h.same rfl
theorem stopReserving_canon {id} (h : s.Canon) : (stopReserving s id).Canon := .ite (h.same rfl) h
theorem placeFresh_canon {q pl} (h : s.Canon) : (placeFresh s q pl).Canon := by
  unfold placeFresh
  split
  · exact h
  · refine .ite h ?_
    split
    · exact h
    · next ht => exact stopReserving_canon (setQueue_canon (afterTurn_canon (takePlaces_canon h ht)))
theorem refetchSlots_canon {g grp spot cluster} (h : s.Canon) : (refetchSlots s g grp spot cluster).Canon :=
  h.foldl fun _ _ h => .same (updTask_canon h) rfl
theorem takeContexts_canon {l} (h : s.Canon) : (takeContexts s l).Canon := by
  refine .foldl h fun s x h => ?_
  split
  · exact restoreOut_canon h
  · exact h
theorem mergeImage_slate {s : State} {cl g spot} (h : memWf cl.slate = true) :
    memWf (mergeImage cl (displacedCl s g spot) g).slate = true := by
  have hp := prepareWindow_slate (a := g.slbase) (n := g.slsize) (record := []) h
  have hlen : (memRead s.dram spot g.slsize).length = g.slsize := by simp [memRead_eq]
  have hc := memCells_below g.slbase (memRead s.dram spot g.slsize)
  rw [hlen] at hc
  simp only [mergeImage, displacedCl, memWrite, List.filter_nil, List.nil_append, List.append_nil]
  exact memSorted_append (memSorted_filter _ hp) (by simp)
    (memSorted_append (memSorted_cells _ _) hc (memSorted_above (memSorted_filter _ hp) (by simp)) (by omega)) (by omega)
theorem bringBack_canon {grp p} (h : s.Canon) : (bringBack s grp p).Canon := by
  unfold bringBack
  split
  next g _ =>
    split
    · extract_lets tids s1 s2
      have h1 : s1.Canon := setCl_canon h (mergeImage_slate h.cl)
      have h2 : s2.Canon := h1.same rfl
      exact .ite (takeContexts_canon (refetchSlots_canon h2)) h
    · exact h
  · exact h
theorem execGroupPlacement_canon {q pl} (h : s.Canon) : OutCanon (execGroupPlacement q pl s) := by
  refine next_canon ?_
  refine .ite h ?_
  split
  · refine .ite ?_ h
    split
    · exact bringBack_canon (endTurn_canon h)
    · exact h
  · exact .ite (placeFresh_canon h) h
  · exact h
theorem execRecordReserving_canon {q} (h : s.Canon) : OutCanon (execRecordReserving q s) := by
  refine next_canon ?_
  split
  · exact .ite (h.same rfl) h
  · exact h
theorem markWaiting_canon (h : s.Canon) : (markWaiting s).Canon := h.same rfl
theorem execTileRecordConsumed_canon {q} (h : s.Canon) : OutCanon (execTileRecordConsumed q s) := by
  refine next_canon ?_
  split
  · exact completeRecord_canon (.same (.ite (postRecord_canon h) h) rfl)
  · exact h
theorem freeLaunchBells_canon {id} (h : s.Canon) : (freeLaunchBells s id).Canon := h.same rfl
theorem endLaunch_canon {id} (h : s.Canon) : (endLaunch s id).Canon := by
  have hf := freeLaunchBells_canon (id := id) h
  unfold endLaunch
  exact removeX_canon (hf.same rfl)
theorem execLaunchCompletes_canon {l} (h : s.Canon) : OutCanon (execLaunchCompletes l s) := by
  refine next_canon ?_
  split
  · exact .ite (completeRecord_canon (endLaunch_canon h)) h
  · exact h
theorem outvote_canon {l run} (h : s.Canon) : (outvote s l run).Canon :=
  h.foldl fun _ _ h => retireCore_canon (setCore_canon h)
theorem vote_canon {id l} (h : s.Canon) : (vote s id l).Canon := by
  refine .ite (.ite (h.same rfl) (h.same rfl)) ?_
  refine .ite (.same (outvote_canon h) rfl) ?_
  exact .ite (.same (outvote_canon h) rfl) (stopQueue_canon (endLaunch_canon (launchRecord_canon h)))
theorem execReplicationVote_canon {l} (h : s.Canon) : OutCanon (execReplicationVote l s) := by
  refine next_canon ?_
  split
  · exact .ite (vote_canon h) h
  · exact h
theorem startDisplacing_canon {grp g} (h : s.Canon) : (startDisplacing s grp g).Canon :=
  .foldl (h.same rfl) fun _ _ h => setCtx_canon h
theorem groupRecord_canon {g kind detail} (h : s.Canon) : (groupRecord s g kind detail).Canon :=
  postRecord_canon h
theorem slSettle_slate {cl : Cluster} {l : Nat} (h : memWf cl.slate = true) : memWf (slSettle cl l).slate = true := by
  unfold slSettle
  split
  · exact h
  · exact memWf_write _ _ _ h
theorem takeAway_canon {grp g} (h : s.Canon) : (takeAway s grp g).Canon := by
  unfold takeAway
  extract_lets s1 cl bell a s2 cl2 cl3 unbound s2' s3
  have h1 : s1.Canon := cacheFlush_canon h
  have h2 : s2.Canon := putImage_canon h1
  have hl : memWf cl.slate = true := foldl_slate h1.cl fun _ _ h => slSettle_slate h
  have h3 : (s2.setCl g.cluster cl3).Canon := setCl_canon h2 (prepareWindow_slate hl)
  exact groupRecord_canon (s := s3) (h3.same rfl)
theorem execGroupDisplacement_canon {idx} (h : s.Canon) : OutCanon (execGroupDisplacement idx s) := by
  refine next_canon ?_
  split
  · split
    · exact .ite (takeAway_canon h) h
    · exact .ite (startDisplacing_canon h) h
  · exact h
theorem execPreemptionRequest_canon {ctx} (h : s.Canon) : OutCanon (execPreemptionRequest ctx s) :=
  next_canon (.ite (setCtx_canon h) h)
theorem launchControl_canon {op r} (h : s.Canon) : (launchControl s op r).Canon := by
  refine .ite (addDone_canon h) ?_
  split
  · exact addDone_canon h
  · refine .ite (addDone_canon (abortLaunch_canon h)) ?_
    refine .ite (addDone_canon (h.same rfl)) ?_
    exact .ite (addDone_canon h) (addDone_canon (.foldl (h.same rfl) (fun _ _ h => startDisplacing_canon h)))
theorem execDisplace_canon {r} (h : s.Canon) : OutCanon (execDisplace r s) := next_canon (launchControl_canon h)
theorem execResume_canon {r} (h : s.Canon) : OutCanon (execResume r s) := next_canon (launchControl_canon h)
theorem execAbort_canon {r} (h : s.Canon) : OutCanon (execAbort r s) := next_canon (launchControl_canon h)

/-! ### Machine/Replies -/

theorem badReply_canon (h : s.Canon) : (badReply s).Canon := h.same rfl
theorem restartCmd_canon {c va} (h : s.Canon) : (restartCmd s c va).Canon := dropTlb_canon (putCmd_canon h)
theorem replyRestart_canon {r} (h : s.Canon) : (replyRestart s r).Canon := by
  refine .ite (badReply_canon h) ?_
  split
  · split
    · exact restartCmd_canon h
    · exact h
  · split
    · exact putRec_canon h
    · exact badReply_canon h
theorem execFaultReplyRestart_canon {r} (h : s.Canon) : OutCanon (execFaultReplyRestart r s) :=
  next_canon (replyRestart_canon h)
theorem replyCancel_canon {r} (h : s.Canon) : (replyCancel s r).Canon := by
  refine .ite (badReply_canon h) ?_
  split
  · exact copyError_canon h
  · split
    · exact rejectHead_canon h
    · exact badReply_canon h
theorem execFaultReplyCancel_canon {r} (h : s.Canon) : OutCanon (execFaultReplyCancel r s) :=
  next_canon (replyCancel_canon h)
theorem execFaultRingRecordEnters_canon {job} (h : s.Canon) : OutCanon (execFaultRingRecordEnters job s) := by
  refine next_canon ?_
  split
  · exact drainWaiting_canon h
  · exact h

/-! ### Machine/Sparing -/

theorem execCoreRemap_canon {core} (h : s.Canon) : OutCanon (execCoreRemap core s) := next_canon (.ite (h.same rfl) h)
theorem sliceRecord_canon {core} (h : s.Canon) : (sliceRecord s core).Canon :=
  h.foldl fun _ _ h => postRecord_canon h
theorem retireUnit1_canon {core} (h : s.Canon) : (retireUnit1 s core).Canon :=
  .ite (retireCore_canon h) (.ite (.same (retireCore_canon h) rfl) h)
theorem sliceFails_canon {core} (h : s.Canon) : (sliceFails s core).Canon :=
  sliceRecord_canon (setCore_canon (retireUnit1_canon h))
theorem execTestSlice_canon {core pass} (h : s.Canon) : OutCanon (execTestSlice core pass s) := by
  refine next_canon ?_
  refine .ite h ?_
  refine setCl_canon (.ite (setCore_canon h) (sliceFails_canon h)) ?_
  exact State.Canon.cl (.ite (setCore_canon h) (sliceFails_canon h))
theorem remapUnit_canon {cls idx} (h : s.Canon) : (remapUnit s cls idx).Canon :=
  .ite h (sparingRecord_canon (.ite (h.same rfl) (h.same rfl)))
theorem execSpareRemap_canon {cls idx} (h : s.Canon) : OutCanon (execSpareRemap cls idx s) :=
  next_canon (remapUnit_canon h)
theorem reroute_canon (h : s.Canon) : (reroute s).Canon :=
  .foldl (h.same rfl) fun _ _ h => .ite (atPort_canon h) (h.same rfl)
theorem portDown_canon {port} (h : s.Canon) : (portDown s port).Canon :=
  reroute_canon (bump_canon (setPort_canon h))
theorem execLinkDown_canon {port} (h : s.Canon) : OutCanon (execLinkDown port s) :=
  next_canon (.ite (portDown_canon h) h)
theorem retireLane_canon {port} (h : s.Canon) : (retireLane s port).Canon := by
  refine .ite h ?_
  refine .ite h ?_
  exact .ite (setPort_canon (sparingRecord_canon h)) (portDown_canon (setPort_canon (sparingRecord_canon h)))
theorem execLaneRetire_canon {port} (h : s.Canon) : OutCanon (execLaneRetire port s) :=
  next_canon (retireLane_canon h)
theorem corrected_canon {cls idx} (h : s.Canon) : (corrected s cls idx).Canon := by
  unfold corrected
  dsimp only
  split
  · refine .ite (h.same rfl) ?_
    exact .ite (retireUnit1_canon (h.same rfl)) (.ite (retireLane_canon (h.same rfl)) (remapUnit_canon (h.same rfl)))
  · exact h.same rfl
theorem execFlitCrcError_canon {port vc} (h : s.Canon) : OutCanon (execFlitCrcError port vc s) :=
  next_canon (.ite (corrected_canon h) h)
theorem hotJunction_canon {t} (h : s.Canon) : (hotJunction s t).Canon := .ite (h.same rfl) (h.same rfl)
theorem execThermalThrottle_canon (h : s.Canon) : OutCanon (execThermalThrottle s) :=
  next_canon (hotJunction_canon h)
theorem execThermalShutdown_canon (h : s.Canon) : OutCanon (execThermalShutdown s) :=
  next_canon (hotJunction_canon h)

/-! ### Machine/Host -/

theorem countIgnored_canon (h : s.Canon) : (countIgnored s).Canon := h.same rfl
theorem holdPhase_canon {i old} (h : s.Canon) : (holdPhase s i old).Canon := by
  unfold holdPhase
  extract_lets x hb now s1
  have h1 : s1.Canon := by
    unfold s1
    split
    · exact .ite h (setBell_canon h)
    · exact h
  clear_value s1 now
  split
  · exact h1.same rfl
  · exact h1
theorem jobWrite_canon {i k data} (h : s.Canon) : (jobWrite s i k data).Canon := by
  refine .ite (.ite (countIgnored_canon h) (holdPhase_canon (setJobWord_canon h))) ?_
  refine .ite (countIgnored_canon h) ?_
  refine .ite (.ite (countIgnored_canon h) (setJobWord_canon h)) ?_
  refine .ite (setJobWord_canon h) ?_
  refine .ite (setJobAt_canon h) ?_
  refine .ite (.ite (countIgnored_canon h) (setJobWord_canon h)) ?_
  exact .ite (holdPhase_canon (setJobWord_canon h)) (.ite (countIgnored_canon h) (setJobWord_canon h))
theorem writeJobTable_canon {offset data} (h : s.Canon) : (writeJobTable s offset data).Canon :=
  .ite (jobWrite_canon h) (countIgnored_canon h)
theorem execJobTableWrite_canon {offset data} (h : s.Canon) : OutCanon (execJobTableWrite offset data s) :=
  next_canon (writeJobTable_canon h)
theorem queueWrite_canon {q k data} (h : s.Canon) : (queueWrite s q k data).Canon := by
  refine .ite (.ite (countIgnored_canon h) (setQueue_canon h)) ?_
  exact .ite (countIgnored_canon h) (.ite (setQueue_canon h) (.ite (setQueue_canon h) (setQueue_canon h)))
theorem writeQueueTable_canon {port offset data} (h : s.Canon) : (writeQueueTable s port offset data).Canon :=
  .ite (queueWrite_canon h) (countIgnored_canon h)
theorem execQueueTableWrite_canon {port offset data} (h : s.Canon) :
    OutCanon (execQueueTableWrite port offset data s) :=
  next_canon (writeQueueTable_canon h)
theorem writeQsplit_canon {data} (h : s.Canon) : (writeQsplit s data).Canon :=
  .ite (h.same rfl) (countIgnored_canon h)
theorem execQsplitWrite_canon {data} (h : s.Canon) : OutCanon (execQsplitWrite data s) :=
  next_canon (writeQsplit_canon h)
theorem writeChannel_canon {chan data} (h : s.Canon) : (writeChannel s chan data).Canon :=
  .ite (countIgnored_canon h) (setChan_canon h)
theorem execChannelTableWrite_canon {chan data} (h : s.Canon) : OutCanon (execChannelTableWrite chan data s) :=
  next_canon (writeChannel_canon h)
theorem writeCommunicator_canon {comm data} (h : s.Canon) : (writeCommunicator s comm data).Canon :=
  .ite (countIgnored_canon h) (h.same rfl)
theorem execCommunicatorTableWrite_canon {comm data} (h : s.Canon) :
    OutCanon (execCommunicatorTableWrite comm data s) :=
  next_canon (writeCommunicator_canon h)
theorem execRouteTableWrite_canon {dst data} (h : s.Canon) : OutCanon (execRouteTableWrite dst data s) :=
  next_canon (.ite (reroute_canon (bump_canon (h.same rfl))) (countIgnored_canon h))
theorem writeRidgecfg_canon {data} (h : s.Canon) : (writeRidgecfg s data).Canon :=
  reroute_canon (bump_canon (h.same rfl))
theorem execRidgecfgWrite_canon {data} (h : s.Canon) : OutCanon (execRidgecfgWrite data s) :=
  next_canon (writeRidgecfg_canon h)
theorem mgmtWrite_canon {port offset data} (h : s.Canon) : (mgmtWrite s port offset data).Canon := by
  refine .ite (.ite (h.same rfl) (countIgnored_canon h)) ?_
  refine .ite (.ite (writeRidgecfg_canon h) (countIgnored_canon h)) ?_
  exact .ite (writeQsplit_canon h) (.ite (h.same rfl) (countIgnored_canon h))
theorem postSlot_canon {port w bytes} (h : s.Canon) : (postSlot s port w bytes).Canon := by
  refine .ite (xlateRequest_canon h) ?_
  refine .ite (launchControl_canon h) ?_
  refine .ite ?_ ?_
  · split
    · exact replyRestart_canon h
    · exact replyCancel_canon h
    · exact badReply_canon h
  · refine .ite ?_ (h.same rfl)
    split
    · exact loadKernel_canon h
    · exact unloadKernel_canon h
    · exact bindFlow_canon h
    · exact unbindFlow_canon h
    · exact reservedPurlin_canon h
theorem windowWrite_canon {port w offset data} (h : s.Canon) : (windowWrite s port w offset data).Canon :=
  .foldl (h.same rfl) fun _ _ h => postSlot_canon h
theorem msixWrite_canon {port offset data} (h : s.Canon) : (msixWrite s port offset data).Canon :=
  .foldl (h.same rfl) fun _ _ h => .ite (raiseMsix_canon (h.same rfl)) h
theorem wordWrites_canon {port offset data f} (h : s.Canon) (hf : ∀ {y0 y1 y2}, y0.Canon → (f y0 y1 y2).Canon) :
    (wordWrites s port offset data f).Canon :=
  h.foldl fun _ _ h => hf h
theorem entryWrites_canon {port base n offset data f} (h : s.Canon) (hf : ∀ {y0 y1 y2}, y0.Canon → (f y0 y1 y2).Canon) :
    (entryWrites s port base n offset data f).Canon :=
  h.foldl fun _ _ h => hf h
theorem barWrite_canon {port offset data} (h : s.Canon) : (barWrite s port offset data).Canon := by
  refine .ite h ?_
  refine .ite (wordWrites_canon h mgmtWrite_canon) ?_
  refine .ite (windowWrite_canon h) ?_
  refine .ite (wordWrites_canon h writeJobTable_canon) ?_
  refine .ite (entryWrites_canon h writeChannel_canon) ?_
  refine .ite (entryWrites_canon h writeCommunicator_canon) ?_
  exact .ite (wordWrites_canon h writeQueueTable_canon) (.ite (msixWrite_canon h) (countIgnored_canon h))
theorem execRegisterWrite_canon {port offset data} (h : s.Canon) :
    OutCanon (execRegisterWrite port offset data s) :=
  next_canon (barWrite_canon h)
theorem execApertureRead_canon {port offset len} (h : s.Canon) : OutCanon (execApertureRead port offset len s) :=
  next_canon (.ite h (.ite (h.same rfl) (h.foldl (fun _ _ h => queueHost_canon h))))
theorem execApertureWrite_canon {port offset data} (h : s.Canon) :
    OutCanon (execApertureWrite port offset data s) :=
  next_canon (.ite h (.ite (countIgnored_canon h) (h.foldl (fun _ _ h => queueHost_canon h))))
theorem functionReset_canon {port} (h : s.Canon) : (functionReset s port).Canon := by
  unfold functionReset
  extract_lets mine s1 s2 l
  have h2 : s2.Canon := .foldl (s := s1) (h.same rfl) fun _ _ h => abortLaunch_canon h
  exact h2.same rfl
theorem execFunctionLevelReset_canon {port} (h : s.Canon) : OutCanon (execFunctionLevelReset port s) :=
  next_canon (.ite (functionReset_canon h) h)
theorem execPackageReset_canon (_ : s.Canon) : OutCanon (execPackageReset s) :=
  next_canon (.same reset_canon rfl)
theorem bringUp_canon (h : s.Canon) : (bringUp s).Canon := by
  unfold bringUp
  split
  · exact h
  · exact h.same rfl
  · exact h.same rfl
  · exact .ite (h.same rfl) (h.same rfl)
  · exact h.same rfl
theorem turnedAway_canon {x1} (h : s.Canon) : (turnedAway s x1).Canon := by
  unfold turnedAway
  split
  · exact h.same rfl
  · exact h

/-! ### Machine/Landing -/

theorem execBoundedResultLands_canon {ctx idx} (h : s.Canon) : OutCanon (execBoundedResultLands ctx idx s) :=
  next_canon (setCtx_canon h)
theorem execScoreboardedResultCompletes_canon {ctx idx} (h : s.Canon) :
    OutCanon (execScoreboardedResultCompletes ctx idx s) :=
  next_canon (setCtx_canon h)
theorem execPendingTrapTaken_canon {ctx} (h : s.Canon) : OutCanon (execPendingTrapTaken ctx s) :=
  next_canon (.ite (takePending_canon h) h)
theorem freeTask_canon {ctx} (h : s.Canon) : (freeTask s ctx).Canon := by
  unfold freeTask
  dsimp only
  split
  · exact setCtx_canon h
  · exact .ite (retireGroup_canon (h.same rfl)) (h.same rfl)
theorem execTaskExited_canon {ctx} (h : s.Canon) : OutCanon (execTaskExited ctx s) :=
  next_canon (.ite (freeTask_canon (landCtx_canon h)) h)

/-! ### Machine/Matrix -/

theorem execMma_canon {p acc v s1 s2 o} (h : s.Canon) : OutCanon (execMma p acc v s1 s2 o s) :=
  settle_canon enqueue_canon h
theorem execMmas_canon {p acc s1 s2 o} (h : s.Canon) : OutCanon (execMmas p acc s1 s2 o s) :=
  settle_canon enqueue_canon h
theorem execMmat_canon {p acc v s1 s2 o} (h : s.Canon) : OutCanon (execMmat p acc v s1 s2 o s) :=
  settle_canon enqueue_canon h
theorem execMmah_canon {p acc v s1 s2 o} (h : s.Canon) : OutCanon (execMmah p acc v s1 s2 o s) :=
  settle_canon enqueue_canon h
theorem execMldb_canon {p s1 s2 o} (h : s.Canon) : OutCanon (execMldb p s1 s2 o s) :=
  settle_canon enqueue_canon h
theorem execMclr_canon {p acc o} (h : s.Canon) : OutCanon (execMclr p acc o s) := settle_canon enqueue_canon h
theorem execMacc_canon {p acc src} (h : s.Canon) : OutCanon (execMacc p acc src s) :=
  settle_canon enqueue_canon h
theorem execMcfg_canon {p s1} (h : s.Canon) : OutCanon (execMcfg p s1 s) := settle_canon enqueue_canon h
theorem execMdrn_canon {p acc v s1 o} (h : s.Canon) : OutCanon (execMdrn p acc v s1 o s) :=
  settle_canon enqueue_canon h
theorem execMdrns_canon {p acc opts s1 s2 o} (h : s.Canon) : OutCanon (execMdrns p acc opts s1 s2 o s) :=
  settle_canon enqueue_canon h
theorem execMrep_canon {p count} (h : s.Canon) : OutCanon (execMrep p count s) := settle_canon setMe_canon h
theorem execMatrixInstructionBegins_canon {core ctx} (h : s.Canon) :
    OutCanon (execMatrixInstructionBegins core ctx s) := by
  refine next_canon ?_
  dsimp only
  split
  · exact .ite (bump_canon (setCtx_canon (setCore_canon (landCtx_canon h)))) h
  · exact h
theorem endPass_canon {n out j} (h : s.Canon) : (endPass s n out j).Canon := by
  unfold endPass
  split
  · exact matrixStop_canon h
  · refine .ite (setCtx_canon (countRetry_canon h)) ?_
    exact .ite (retireCore_canon (matrixStop_canon (setCore_canon h))) (matrixStop_canon (setCore_canon h))
  · exact .ite (matrixStop_canon h) (bump_canon (applyPass_canon h))
theorem execMatrixPass_canon {core ctx out} (h : s.Canon) : OutCanon (execMatrixPass core ctx out s) := by
  refine next_canon ?_
  dsimp only
  split
  · exact .ite (endPass_canon (landCtx_canon h)) h
  · exact h
theorem execMatrixOperationCompletes_canon {core ctx} (h : s.Canon) :
    OutCanon (execMatrixOperationCompletes core ctx s) := by
  refine next_canon ?_
  dsimp only
  split
  · exact .ite h (.ite (matrixStop_canon (landCtx_canon h)) (finishOp_canon (landCtx_canon h)))
  · exact h
theorem execMcfgApplied_canon {core} (h : s.Canon) : OutCanon (execMcfgApplied core s) := by
  refine next_canon ?_
  split
  · exact setCtx_canon (setCore_canon h)
  · exact h

/-! ### Machine/Vector -/

theorem vsettle_canon {i effect} (heffect : ∀ {y0}, y0.Canon → (effect y0).Canon) (h : s.Canon) :
    OutCanon (vsettle i effect s) :=
  settle_canon (fun h => heffect (takeUnit_canon h)) h
theorem eltwise_canon {i view d k m tag mask recon b f} (h : s.Canon) :
    (State.eltwise s i view d k m tag mask recon b f).Canon :=
  outV_canon h
theorem trans2_canon {i t d a b k m f} (h : s.Canon) : (State.trans2 s i t d a b k m f).Canon := eltwise_canon h
theorem recon1_canon {i t d a k m b f} (h : s.Canon) : (State.recon1 s i t d a k m b f).Canon := eltwise_canon h
theorem recon2_canon {i t d a b k m f} (h : s.Canon) : (State.recon2 s i t d a b k m f).Canon := eltwise_canon h
theorem recon3_canon {i t d a b k m f} (h : s.Canon) : (State.recon3 s i t d a b k m f).Canon := eltwise_canon h
theorem execVadd_canon {t d a b k m} (h : s.Canon) : OutCanon (execVadd t d a b k m s) :=
  vsettle_canon trans2_canon h
theorem execVsub_canon {t d a b k m} (h : s.Canon) : OutCanon (execVsub t d a b k m s) :=
  vsettle_canon trans2_canon h
theorem execVmul_canon {t d a b k m} (h : s.Canon) : OutCanon (execVmul t d a b k m s) :=
  vsettle_canon recon2_canon h
theorem execVfma_canon {t d a b k m} (h : s.Canon) : OutCanon (execVfma t d a b k m s) :=
  vsettle_canon recon3_canon h
theorem execVfms_canon {t d a b k m} (h : s.Canon) : OutCanon (execVfms t d a b k m s) :=
  vsettle_canon recon3_canon h
theorem execVmin_canon {t d a b k m} (h : s.Canon) : OutCanon (execVmin t d a b k m s) :=
  vsettle_canon recon2_canon h
theorem execVmax_canon {t d a b k m} (h : s.Canon) : OutCanon (execVmax t d a b k m s) :=
  vsettle_canon recon2_canon h
theorem execVabs_canon {t d a k m} (h : s.Canon) : OutCanon (execVabs t d a k m s) :=
  vsettle_canon recon1_canon h
theorem execVneg_canon {t d a k m} (h : s.Canon) : OutCanon (execVneg t d a k m s) :=
  vsettle_canon eltwise_canon h
theorem execVclamp_canon {t d a b k m} (h : s.Canon) : OutCanon (execVclamp t d a b k m s) :=
  vsettle_canon recon2_canon h
theorem execVfn_canon {t d a fn k m} (h : s.Canon) : OutCanon (execVfn t d a fn k m s) :=
  vsettle_canon recon1_canon h
theorem execVcmp_canon {t kd a b cc} (h : s.Canon) : OutCanon (execVcmp t kd a b cc s) :=
  vsettle_canon outK_canon h
theorem execVsel_canon {d a b k} (h : s.Canon) : OutCanon (execVsel d a b k s) := vsettle_canon outV_canon h
theorem execKand_canon {kd ka kb} (h : s.Canon) : OutCanon (execKand kd ka kb s) := vsettle_canon outK_canon h
theorem execKor_canon {kd ka kb} (h : s.Canon) : OutCanon (execKor kd ka kb s) := vsettle_canon outK_canon h
theorem execKnot_canon {kd ka} (h : s.Canon) : OutCanon (execKnot kd ka s) := vsettle_canon outK_canon h
theorem execVand_canon {t d a b k m} (h : s.Canon) : OutCanon (execVand t d a b k m s) :=
  vsettle_canon recon2_canon h
theorem execVor_canon {t d a b k m} (h : s.Canon) : OutCanon (execVor t d a b k m s) :=
  vsettle_canon recon2_canon h
theorem execVxor_canon {t d a b k m} (h : s.Canon) : OutCanon (execVxor t d a b k m s) :=
  vsettle_canon recon2_canon h
theorem execVshl_canon {t d a b k m} (h : s.Canon) : OutCanon (execVshl t d a b k m s) :=
  vsettle_canon recon2_canon h
theorem execVshr_canon {t d a b k m} (h : s.Canon) : OutCanon (execVshr t d a b k m s) :=
  vsettle_canon recon2_canon h
theorem execViadd_canon {t d a b k m} (h : s.Canon) : OutCanon (execViadd t d a b k m s) :=
  vsettle_canon recon2_canon h
theorem execVimul_canon {t d a b k m} (h : s.Canon) : OutCanon (execVimul t d a b k m s) :=
  vsettle_canon recon2_canon h
theorem execVcvt_canon {t d a src part k m} (h : s.Canon) : OutCanon (execVcvt t d a src part k m s) :=
  vsettle_canon (fun h => .ite (eltwise_canon h) (outV_canon h)) h
theorem execVqnt_canon {d a b x3} (h : s.Canon) : OutCanon (execVqnt d a b x3 s) := vsettle_canon outV_canon h
theorem execVdq_canon {d a q k m} (h : s.Canon) : OutCanon (execVdq d a q k m s) := vsettle_canon outV_canon h
theorem execVscr_canon {t d a b k m} (h : s.Canon) : OutCanon (execVscr t d a b k m s) :=
  vsettle_canon eltwise_canon h
theorem execVscc_canon {t d a b k m} (h : s.Canon) : OutCanon (execVscc t d a b k m s) :=
  vsettle_canon eltwise_canon h
theorem execVbias_canon {t d a b k m} (h : s.Canon) : OutCanon (execVbias t d a b k m s) :=
  vsettle_canon eltwise_canon h

/-! ### Machine/VectorMove -/

theorem moveRows_canon {i d a row} (h : s.Canon) : (State.moveRows s i d a row).Canon := outV_canon h
theorem moveCols_canon {t d a col} (h : s.Canon) : (State.moveCols s t d a col).Canon := outV_canon h
theorem execVbcr_canon {t d a imm} (h : s.Canon) : OutCanon (execVbcr t d a imm s) :=
  vsettle_canon moveRows_canon h
theorem execVbcc_canon {t d a imm} (h : s.Canon) : OutCanon (execVbcc t d a imm s) :=
  vsettle_canon moveCols_canon h
theorem execVrotr_canon {t d a imm} (h : s.Canon) : OutCanon (execVrotr t d a imm s) :=
  vsettle_canon moveRows_canon h
theorem execVrotc_canon {t d a imm} (h : s.Canon) : OutCanon (execVrotc t d a imm s) :=
  vsettle_canon moveCols_canon h
theorem execVredr_canon {t d a op} (h : s.Canon) : OutCanon (execVredr t d a op s) := vsettle_canon outV_canon h
theorem execVredc_canon {t d a op} (h : s.Canon) : OutCanon (execVredc t d a op s) := vsettle_canon outV_canon h
theorem execVshuf_canon {t d a b k m} (h : s.Canon) : OutCanon (execVshuf t d a b k m s) :=
  vsettle_canon eltwise_canon h
theorem execVshfr_canon {t d a b k m} (h : s.Canon) : OutCanon (execVshfr t d a b k m s) :=
  vsettle_canon eltwise_canon h
theorem execVhaar_canon {d a lv x3 th} (h : s.Canon) : OutCanon (execVhaar d a lv x3 th s) :=
  vsettle_canon outV_canon h
theorem execVihaar_canon {d a} (h : s.Canon) : OutCanon (execVihaar d a s) := vsettle_canon outV_canon h
theorem execVthr_canon {d a x2} (h : s.Canon) : OutCanon (execVthr d a x2 s) := vsettle_canon outV_canon h
theorem execVtag_canon {d a tag} (h : s.Canon) : OutCanon (execVtag d a tag s) := vsettle_canon outV_canon h
theorem execVmov_canon {d a k m} (h : s.Canon) : OutCanon (execVmov d a k m s) := vsettle_canon outV_canon h
theorem execVsplat_canon {t d sa k m} (h : s.Canon) : OutCanon (execVsplat t d sa k m s) :=
  vsettle_canon eltwise_canon h
theorem execViota_canon {t d mode} (h : s.Canon) : OutCanon (execViota t d mode s) := vsettle_canon outV_canon h
theorem execVins_canon {t d sa sb} (h : s.Canon) : OutCanon (execVins t d sa sb s) := vsettle_canon outV_canon h
theorem execVext_canon {t d sa sb} (h : s.Canon) : OutCanon (execVext t d sa sb s) := vsettle_canon outS_canon h
theorem execVld_canon {t d sa sb k m} (h : s.Canon) : OutCanon (execVld t d sa sb k m s) :=
  vsettle_canon scored_canon h
theorem storeRow_slate {cl a x sel i} (h : memWf cl.slate = true) : memWf (storeRow cl a x sel i).slate = true :=
  ite_slate (slWrite_memWf _ _ _ h) (foldl_slate h fun _ _ h => ite_slate (slWrite_memWf _ _ _ h) h)
theorem execVst_canon {t d sa sb k} (h : s.Canon) : OutCanon (execVst t d sa sb k s) := by
  refine vsettle_canon (fun {s} h => ?_) h
  extract_lets b x cl1 cl2 s1
  have hc : memWf cl1.slate = true := foldl_slate h.myCl fun _ _ h => storeRow_slate h
  have h1 : s1.Canon := setMyCl_canon h (ite_slate (slWrite_memWf _ _ _ hc) hc)
  exact .ite (flagsOnly_canon h1) h1
theorem execVldt_canon {t d sa} (h : s.Canon) : OutCanon (execVldt t d sa s) :=
  vsettle_canon (fun h => .same (fillRecords_canon (scored_canon h)) rfl) h
theorem execVstt_canon {t d sa sb} (h : s.Canon) : OutCanon (execVstt t d sa sb s) :=
  vsettle_canon (fun h => flagsOnly_canon (setMyCl_canon h (slWrite_memWf _ _ _ h.myCl))) h
theorem execVpush_canon {t d sa k} (h : s.Canon) : OutCanon (execVpush t d sa k s) :=
  vsettle_canon (fun h => .ite h (.ite (flagsOnly_canon (setMyCl_canon h h.myCl)) (setMyCl_canon h h.myCl))) h
theorem execVpop_canon {t d sa sb} (h : s.Canon) : OutCanon (execVpop t d sa sb s) :=
  vsettle_canon (fun h => scored_canon (scored_canon (setMyCl_canon h h.myCl))) h
theorem execVflags_canon {sa sb} (h : s.Canon) : OutCanon (execVflags sa sb s) := vsettle_canon scored_canon h

/-! ### Machine/Dispatch -/

theorem exec_canon {i} (h : s.Canon) : OutCanon (exec i s) := by
  unfold exec
  split
  exacts [execAdd_canon h, execAddi_canon h, execSub_canon h, execMul_canon h, execMulhs_canon h,
    execMulhz_canon h, execDivs_canon h, execDivz_canon h, execRems_canon h, execRemz_canon h,
    execAnd_canon h, execOr_canon h, execXor_canon h, execAndn_canon h, execShl_canon h, execShrs_canon h,
    execShrz_canon h, execRotl_canon h, execMins_canon h, execMinz_canon h, execMaxs_canon h,
    execMaxz_canon h, execClz_canon h, execCtz_canon h, execPopc_canon h, execBfx_canon h, execBfi_canon h,
    execMov_canon h, execMovi_canon h, execMovhi_canon h, execSel_canon h, execCmp_canon h, execCand_canon h,
    execCor_canon h, execCxor_canon h, execLea_canon h, execTidx_canon h, execLds_canon h, execSts_canon h,
    execAmos_canon h, execStg_canon h, execCrd_canon h, execCwr_canon h, execFadd_canon h, execFmul_canon h,
    execFfma_canon h, execFcmp_canon h, execFcvt_canon h, execBr_canon h, execJmp_canon h, execJmpr_canon h,
    execCall_canon h, execRet_canon h, execLoop_canon h, execArm_canon h, execArrive_canon h,
    execWait_canon h, execTrap_canon h, execSeg_canon h, execCropen_canon h, execBoundedResultLands_canon h,
    execScoreboardedResultCompletes_canon h, execPendingTrapTaken_canon h, execTaskExited_canon h,
    execDebugHalt_canon h, execVadd_canon h, execVsub_canon h, execVmul_canon h, execVfma_canon h,
    execVfms_canon h, execVmin_canon h, execVmax_canon h, execVabs_canon h, execVneg_canon h,
    execVclamp_canon h, execVfn_canon h, execVcmp_canon h, execVsel_canon h, execKand_canon h,
    execKor_canon h, execKnot_canon h, execVand_canon h, execVor_canon h, execVxor_canon h, execVshl_canon h,
    execVshr_canon h, execViadd_canon h, execVimul_canon h, execVcvt_canon h, execVqnt_canon h,
    execVdq_canon h, execVscr_canon h, execVscc_canon h, execVbias_canon h, execVbcr_canon h,
    execVbcc_canon h, execVrotr_canon h, execVrotc_canon h, execVredr_canon h, execVredc_canon h,
    execVshuf_canon h, execVshfr_canon h, execVhaar_canon h, execVihaar_canon h, execVthr_canon h,
    execVtag_canon h, execVmov_canon h, execVsplat_canon h, execViota_canon h, execVins_canon h,
    execVext_canon h, execVld_canon h, execVst_canon h, execVldt_canon h, execVstt_canon h,
    execVpush_canon h, execVpop_canon h, execVflags_canon h, execMma_canon h, execMmas_canon h,
    execMmat_canon h, execMmah_canon h, execMldb_canon h, execMclr_canon h, execMacc_canon h,
    execMcfg_canon h, execMdrn_canon h, execMdrns_canon h, execMrep_canon h,
    execMatrixInstructionBegins_canon h, execMatrixPass_canon h, execMatrixOperationCompletes_canon h,
    execMcfgApplied_canon h, execCpy_canon h, execCpys_canon h, execTbind_canon h, execTcpy_canon h,
    execGath_canon h, execScat_canon h, execRamo_canon h, execPfch_canon h, execMigr_canon h,
    execFence_canon h, execRel_canon h, execTlbi_canon h, execChsnd_canon h, execChrcv_canon h,
    execColl_canon h, execRshd_canon h, execCkcut_canon h, execQpush_canon h, execSete_canon h,
    execBmode_canon h, execCopyCommandBegins_canon h, execCopySectorTransfer_canon h,
    execCopyCommandCompletes_canon h, execBmodeBegins_canon h, execClusterCacheEviction_canon h,
    execTranslationWalk_canon h, execLaunchRecordSubmit_canon h, execHeadRecordCheck_canon h,
    execGroupPlacement_canon h, execRecordReserving_canon h, execTileRecordConsumed_canon h,
    execLaunchCompletes_canon h, execPreemptionRequest_canon h, execPreemptionTaken_canon h,
    execTaskOut_canon h, execStubOverrun_canon h, execContextRestore_canon h, execGroupDisplacement_canon h,
    execReplicationVote_canon h, execDisplace_canon h, execResume_canon h, execAbort_canon h,
    execMap_canon h, execUnmap_canon h, execProtect_canon h, execInval_canon h, execUnfwd_canon h,
    execMigrationPage_canon h, execMigrationPageLands_canon h, execFaultReplyRestart_canon h,
    execFaultReplyCancel_canon h, execFaultRingRecordEnters_canon h, execCollectiveDoneSend_canon h,
    execFlitCrcError_canon h, execLinkDown_canon h, execLaneRetire_canon h, execCollectiveChunkStart_canon h,
    execCollectiveChunkEnd_canon h, execReshardStepBegins_canon h, execRegulatedRequestBegins_canon h,
    execPurlinKernelRun_canon h, execPurlinWatchdog_canon h, execLoad_canon h, execUnload_canon h,
    execBind_canon h, execUnbind_canon h, execUnbindCompletes_canon h, execPadd_canon h, execPsub_canon h,
    execPand_canon h, execPor_canon h, execPxor_canon h, execPshl_canon h, execPshr_canon h,
    execPcmp_canon h, execPsel_canon h, execPmov_canon h, execPmovi_canon h, execPbr_canon h,
    execPloop_canon h, execPmld_canon h, execPmst_canon h, execPfld_canon h, execPfst_canon h,
    execPvadd_canon h, execPvmax_canon h, execPvmul_canon h, execPvacc_canon h, execPvnf_canon h,
    execPvcvt_canon h, execPfwd_canon h, execPreply_canon h, execPtrap_canon h, execCutPageCopy_canon h,
    execCheckpointDrain_canon h, execCheckpointRestore_canon h, execTestSlice_canon h, execCoreRemap_canon h,
    execFunctionLevelReset_canon h, execApertureRead_canon h, execApertureWrite_canon h,
    execJobTableWrite_canon h, execQueueTableWrite_canon h, execChannelTableWrite_canon h,
    execCommunicatorTableWrite_canon h, execQsplitWrite_canon h, execRouteTableWrite_canon h,
    execRidgecfgWrite_canon h, execRegisterWrite_canon h, execIllegalEncoding_canon h,
    execEndToEndCreditReturn_canon h, execSpareRemap_canon h, execYield_canon h, execExit_canon h,
    execTret_canon h, execCrclose_canon h, execNop_canon h, execTranslationRequestCompletes_canon h,
    execSectorReadRequest_canon h, execReadReply_canon h, execSectorWrite_canon h,
    execWriteAcknowledge_canon h, execAtomicRequest_canon h, execAtomicReply_canon h,
    execBellEventArrive_canon h, execBellEventReady_canon h, execBellEventComplete_canon h,
    execChannelMessageSegment_canon h, execCollectivePiece_canon h, execCollectiveDone_canon h,
    execCollectiveFinish_canon h, execPurlinReply_canon h, execControlAndRouting_canon h,
    execCheckpointTransfer_canon h, execRegulatorRefill_canon h, execPdrop_canon h, execPdone_canon h,
    execThermalThrottle_canon h, execThermalShutdown_canon h, execPackageReset_canon h,
    execFillerBundle_canon h]

/-! ### Machine/Incidents -/

theorem poisonLine_canon {cluster line} (h : s.Canon) : (poisonLine s cluster line).Canon := by
  unfold poisonLine
  extract_lets mark cl s1
  have h1 : s1.Canon := setCl_canon h h.cl
  exact h1.same rfl
theorem mapFifo_canon {cluster bank f} (h : s.Canon) : (mapFifo s cluster bank f).Canon := by
  unfold mapFifo
  dsimp only
  split
  · exact setCl_canon h h.cl
  · exact h
theorem takeIncident_canon {x1} (h : s.Canon) : (takeIncident s x1).Canon := by
  unfold takeIncident
  split
  · exact poisonLine_canon h
  · exact setGroupCache_canon h
  · exact mapFifo_canon h
  · exact mapFifo_canon h
  · exact .ite (setCtx_canon h) h
  · exact h.same rfl
  · exact h.same rfl
  · split
    · exact trapRun_canon h
    · exact h
  · exact corrected_canon h
  · exact h.same rfl
  · exact .ite (setPort_canon h) h
  · exact hotJunction_canon (h.same rfl)

/-! ### Machine/Run -/

theorem atBundle_canon {ctx bits} (h : s.Canon) : (atBundle s ctx bits).Canon := .same (fetchDone_canon h) rfl
theorem askFetch_canon {ctx x2} (h : s.Canon) : (askFetch s ctx x2).Canon := by
  unfold askFetch
  split
  · exact fetchAsk_canon h
  · exact h
theorem landedCore_canon {core} (h : s.Canon) : (landedCore s core).Canon := landCtx_canon (landCtx_canon h)
theorem endCycle_canon (h : s.Canon) : (endCycle s).Canon := by
  have hp := postRings_canon (stepHosts_canon (progress_canon h))
  have he := endTurn_canon (sweepWalks_canon (moveLinks_canon (freeHeldCredits_canon hp)))
  exact he.same rfl
theorem fault_canon {r} : OutCanon (.fault r) := fun _ h => by simp at h
theorem refused_canon {r} : OutCanon (.refused r) := fun _ h => by simp at h
theorem thenDo_canon {o : Out} {f : State → State} (ho : OutCanon o) (hf : ∀ {s}, s.Canon → (f s).Canon) :
    OutCanon (thenDo o f) := by
  cases o with
  | next s => exact next_canon (hf (ho s rfl))
  | fault r => exact fault_canon
  | refused r => exact refused_canon
theorem runPurlin_canon (h : s.Canon) : OutCanon (runPurlin s) := by
  unfold runPurlin
  dsimp only
  split
  · exact next_canon (h.same rfl)
  · split
    · exact thenDo_canon (exec_canon h) fun h => h.same rfl
    · exact next_canon (h.same rfl)
theorem runSlots_canon {l} (h : s.Canon) : OutCanon (runSlots l s) := by
  induction l generalizing s with
  | nil => exact next_canon (closeBundle_canon h)
  | cons x r ih =>
    have he : OutCanon (exec x.i { s with slotNo := x.n }) := exec_canon (h.same rfl)
    unfold runSlots
    split
    next s' hs => exact ih (he s' hs)
    · exact he
theorem runBundle_canon {ctx bits j} (h : s.Canon) : OutCanon (runBundle s ctx bits j) := by
  unfold runBundle
  extract_lets s1
  have h1 : s1.Canon := atBundle_canon h
  split
  · exact next_canon h1
  · exact exec_canon h1
  · split
    · exact exec_canon (h1.same rfl)
    · exact next_canon (divert_canon h1)
  · split
    · exact exec_canon (h1.same rfl)
    · exact ite_out (exec_canon h1) (runSlots_canon (opened_canon h1))
theorem runOffer_canon {ctx o} (h : s.Canon) : OutCanon (runOffer s ctx o) := by
  unfold runOffer
  split
  · exact next_canon h
  · exact next_canon h
  · exact exec_canon h
  · exact next_canon (takeTrap_canon (fetchDone_canon h))
  · exact runBundle_canon h
theorem runSecond_canon {s0 c1 c2 o1 o2} (h : s.Canon) : OutCanon (runSecond s0 c1 c2 o1 o2 s) := by
  unfold runSecond
  split
  next b1 l1 b2 l2 _ _ =>
    have h1 : (atBundle s c2 b2).Canon := atBundle_canon h
    exact ite_out (runSlots_canon (opened_canon (h1.same rfl))) (next_canon h)
  · exact next_canon h
theorem runCore_canon {core} (h : s.Canon) : OutCanon (runCore s core) := by
  unfold runCore
  extract_lets s1 o0 o1 s2 done p s3 op oq
  have h1 : s1.Canon := landedCore_canon h
  have h2 : s2.Canon := askFetch_canon (askFetch_canon h1)
  have h3 : s3.Canon := setCore_canon h2
  refine ite_out (next_canon (h2.same rfl)) ?_
  have ho : OutCanon (runOffer s3 (2 * core + p) op) := runOffer_canon h3
  split
  next s' hs => exact thenDo_canon (runSecond_canon (ho s' hs)) fun h => h.same rfl
  · exact ho
theorem closeCycle_canon (h : s.Canon) : OutCanon (closeCycle s) :=
  ite_out (thenDo_canon (exec_canon h) fun h => markWaiting_canon (endCycle_canon h)) (next_canon (endCycle_canon h))
theorem runStep_canon (h : s.Canon) : OutCanon (runStep s) := by
  unfold runStep
  split
  · split
    · exact exec_canon (h.same rfl)
    · exact fault_canon
  · split
    · exact next_canon (takeIncident_canon (h.same rfl))
    · exact ite_out (next_canon (turnedAway_canon (h.same rfl))) (exec_canon (h.same rfl))
    · refine ite_out (next_canon (bringUp_canon h)) (ite_out (runPurlin_canon h) ?_)
      split
      · exact exec_canon h
      · split
        · exact runCore_canon h
        · split
          · exact thenDo_canon (exec_canon h) fun h => h.same rfl
          · exact closeCycle_canon h

/-- Settles O60: each function of a step keeps the invariant, field by field. -/
theorem memoryStaysCanonical : Obligations.MemoryStaysCanonical := by
  intro s t hs ht
  rw [memOk_iff_canon] at hs ⊢
  exact runStep_canon hs t ht
end Sys2Proof.Machine
end

section
/-!
READS OF A TILE REGISTER (R18, R24, R59). A read passes through `Tile.norm`: under a spatial tag the survival mask reads 0xFFFF,
whatever the register holds.
-/
namespace Sys2Proof.Machine

theorem rv_of_pendOf_none {s : State} {n : BitVec 5} (hp : s.src.pendOf (.v n.toNat) = none) :
    s.rv n = (vget s.src.v n.toNat Tile.zero).norm := by
  simp [State.rv, Task.undefd, hp]

/-- A spatial tile that a restored area has left with an empty survival mask. -/
def unmaskedTile : Tile := { Tile.zero with mask := 0 }

/-- A bundle in progress whose task holds that tile in v0, with no result due. -/
def unmaskedState : State :=
  { State.reset with before := some { Task.empty with v := Vector.replicate 32 unmaskedTile } }

/-- Refutes O9: v0 holds a spatial tile whose survival mask is 0; it is read with the mask 0xFFFF of R24, not as it stood. -/
theorem not_constantRegistersAndReads : ¬ Obligations.ConstantRegistersAndReads := by
  intro h
  obtain ⟨_, _, _, _, _, _, hv, _⟩ := h unmaskedState
  have hp : unmaskedState.src.pendOf (.v (0 : BitVec 5).toNat) = none := rfl
  have hread : (vget unmaskedState.src.v (0 : BitVec 5).toNat Tile.zero).norm =
      vget unmaskedState.src.v (0 : BitVec 5).toNat Tile.zero := by rw [← rv_of_pendOf_none hp, hv 0 hp]
  have hmask := congrArg Tile.mask hread
  exact absurd hmask (by decide)
end Sys2Proof.Machine
end

section
/-! THE EVENTS OF A BELL (R43, R44, R157): saturation as a clamp, and the completion test. -/
namespace Sys2Proof.Machine

theorem satPending_eq (x : Int) :
    satPending x = (max (-2 ^ 39) (min x (2 ^ 39 - 1)), decide (max (-2 ^ 39) (min x (2 ^ 39 - 1)) ≠ x)) := by
  have hle : (-2 ^ 39 : Int) ≤ 2 ^ 39 - 1 := by norm_num
  unfold satPending pendMin pendMax
  split_ifs with hlo hhi
  · rw [min_eq_left (hlo.le.trans hle), max_eq_left hlo.le, decide_eq_true hlo.ne']
  · rw [min_eq_right hhi.le, max_eq_right hle, decide_eq_true hhi.ne]
  · rw [min_eq_left (not_lt.mp hhi), max_eq_right (not_lt.mp hlo), decide_eq_false (not_not_intro rfl)]

theorem bellDone_iff (b : Bell) : bellDone b = true ↔ b.target ≠ 0 ∧ b.count = b.target ∧ b.pending = 0 := by
  simp [bellDone, and_assoc]

/-- Settles O25: an ARM is refused below COUNT and else sets TARGET and PENDING; an ARRIVE is refused at TARGET and else counts;
a byte count changes PENDING. -/
theorem bellEvents : Obligations.BellEvents := by
  intro b t keep n done clamp after
  have hafter (x : Bell × Bool) : after x = done x.1 := if_congr (bellDone_iff x.1) rfl rfl
  simp only [hafter]
  refine ⟨fun hk ht hlt => ?_, fun h => congrArg done ?_, fun h => ?_, fun ht hc => congrArg done ?_, congrArg done ?_⟩
  · have hyes : (!keep && t != 0 && decide (t.toNat < b.count.toNat)) = true := by simpa [hk, hlt] using ht
    simp only [armBell, hyes, if_true]
  · have hno : (!keep && t != 0 && decide (t.toNat < b.count.toNat)) = false := by
      rcases h with rfl | rfl | h
      · rfl
      · simp
      · simp [h]
    simp only [armBell, hno, Bool.false_eq_true, if_false, satPending_eq, clamp]
  · exact if_pos h
  · simp only [arriveBell, ht, hc, or_self, if_false]
  · simp only [bytesBell, satPending_eq, clamp]
end Sys2Proof.Machine
end

section
/-! TABLES AND LISTS: entries taken out by key, sorted sets, lists without duplicates. -/
namespace Sys2Proof.Machine

theorem tabFind_filter_key {α : Type} (t : Tab α) (p : Nat → Bool) (k : Nat) :
    tabFind (t.filter fun x => p x.1) k = if p k then tabFind t k else none := by
  induction t with
  | nil => simp [tabFind]
  | cons x r ih =>
    rw [List.filter_cons]
    by_cases hx : x.1 = k
    · subst hx
      by_cases hp : p x.1 <;> simp [hp, tabFind, ih]
    · by_cases hp : p x.1 <;> simp [hp, tabFind, hx, ih]

theorem mem_of_tabFind {α : Type} {t : Tab α} {k : Nat} {v : α} (h : tabFind t k = some v) : (k, v) ∈ t := by
  induction t with
  | nil => simp [tabFind] at h
  | cons x r ih =>
    unfold tabFind at h
    split at h
    · next hx => cases h; simp [← hx]
    · exact List.mem_cons_of_mem _ (ih h)

theorem mem_setAdd {l : List Nat} {n k : Nat} : k ∈ setAdd l n ↔ k = n ∨ k ∈ l := by
  induction l with
  | nil => simp [setAdd]
  | cons x r ih =>
    unfold setAdd
    split
    · simp
    · split
      · next hx => simp [hx]
      · simp only [List.mem_cons, ih]; tauto

theorem mem_foldl_setAdd {l m : List Nat} {k : Nat} : k ∈ m.foldl setAdd l ↔ k ∈ m ∨ k ∈ l := by
  induction m generalizing l with
  | nil => simp
  | cons x r ih => rw [List.foldl_cons, ih, mem_setAdd, List.mem_cons]; tauto

theorem length_eraseDups_le (l : List Nat) : l.eraseDups.length ≤ l.length := by
  match l with
  | [] => simp
  | x :: r =>
    have h := length_eraseDups_le (r.filter fun b => !b == x)
    have hf := List.length_filter_le (fun b => !b == x) r
    rw [List.eraseDups_cons, List.length_cons, List.length_cons]
    omega
termination_by l.length
decreasing_by exact Nat.lt_succ_of_le (List.length_filter_le _ _)

theorem length_eraseDups_eq_iff {l : List Nat} : l.eraseDups.length = l.length ↔ l.Nodup := by
  induction l with
  | nil => simp
  | cons x r ih =>
    have hle := length_eraseDups_le (r.filter fun b => !b == x)
    have hf := List.length_filter_le (fun b => !b == x) r
    rw [List.eraseDups_cons, List.length_cons, List.length_cons, List.nodup_cons]
    constructor
    · intro h
      have hall := List.length_filter_eq_length_iff.mp (show (r.filter fun b => !b == x).length = r.length by omega)
      rw [List.filter_eq_self.mpr hall] at h
      exact ⟨fun hx => by simpa using hall x hx, ih.mp (by omega)⟩
    · rintro ⟨hx, hr⟩
      rw [List.filter_eq_self.mpr (fun b hb => by simpa using ne_of_mem_of_not_mem hb hx), ih.mpr hr]
end Sys2Proof.Machine
end

section
/-! A GROUP IS PLACED (R40, R47, R329): its window, its tasks, and what placing leaves. -/
namespace Sys2Proof.Machine

-- Contexts written one after another.

/-- Setting contexts, one for each entry of a list. -/
theorem foldl_setCtx_eq {α : Type} (f : α → Nat) (g : State → α → Task) (l : List α) (s : State) :
    ∃ c, l.foldl (fun s x => s.setCtx (f x) (g s x)) s = { s with ctxs := c } := by
  induction l generalizing s with
  | nil => exact ⟨s.ctxs, rfl⟩
  | cons x r ih => exact ih (s.setCtx (f x) (g s x))

theorem ctx_foldl_setCtx_other {α : Type} {f : α → Nat} {g : State → α → Task} {l : List α} {s : State} {c : Nat}
    (h : ∀ x ∈ l, f x ≠ c) : (l.foldl (fun s x => s.setCtx (f x) (g s x)) s).ctx c = s.ctx c := by
  induction l generalizing s with
  | nil => rfl
  | cons x r ih =>
    rw [List.forall_mem_cons] at h
    rw [List.foldl_cons, ih h.2, State.ctx_setCtx_other _ _ _ _ h.1.symm]

theorem ctx_foldl_setCtx {α : Type} {f : α → Nat} {g : State → α → Task} {l : List α} {s : State} {x : α}
    (hn : (l.map f).Nodup) (hx : x ∈ l) : ∃ s', (l.foldl (fun s x => s.setCtx (f x) (g s x)) s).ctx (f x) = g s' x := by
  induction l generalizing s with
  | nil => simp at hx
  | cons y r ih =>
    rw [List.map_cons, List.nodup_cons] at hn
    rcases List.mem_cons.mp hx with rfl | hr
    · refine ⟨s, ?_⟩
      rw [List.foldl_cons, ctx_foldl_setCtx_other fun z hz e => hn.1 (List.mem_map.mpr ⟨z, hz, e⟩), State.ctx_setCtx]
    · exact ih hn.2 hr

-- The window.

theorem slGet_prepareWindow_record {cl : Cluster} {a n : Nat} {record : List Byte} {i : Nat} (hi : i < record.length) :
    slGet (prepareWindow cl a n record) (a + i) = record.getD i 0 := slGet_write_in _ _ _ _ hi

theorem slGet_prepareWindow_zero {cl : Cluster} {a n x : Nat} {record : List Byte} (ha : a % 128 = 0) (hn : n % 128 = 0)
    (hlo : a + record.length ≤ x) (hhi : x < a + n) : slGet (prepareWindow cl a n record) x = 0 := by
  have h1 : a / 128 ≤ lineOf x := by unfold lineOf; omega
  have h2 : lineOf x < (a + n) / 128 := by unfold lineOf; omega
  have h3 : a ≤ x := by omega
  rw [prepareWindow, slGet_write_out _ _ _ _ (.inr hlo)]
  simp only [slGet, tabFind_filter_key _ (fun l => !(decide (a / 128 ≤ l) && decide (l < (a + n) / 128))),
    memGet_filter _ (fun c => !(decide (a ≤ c) && decide (c < a + n))), 
    h1, h2, h3, hhi, decide_true, Bool.and_self, Bool.not_true, Bool.false_eq_true, if_false]

theorem lineFull_prepareWindow {cl : Cluster} {a n l : Nat} {record : List Byte} (hlo : a / 128 ≤ l) (hhi : l < (a + n) / 128) :
    lineFull (prepareWindow cl a n record) l = true := by
  simp [lineFull, prepareWindow, hlo, hhi]

-- The cluster bells, and the launch's bells.

theorem foldl_bells_eq (f : Nat → Nat) (b : Nat → Bell) (l : List Nat) (cl : Cluster) :
    ∃ x, l.foldl (fun (cl : Cluster) i => { cl with bells := tabPut cl.bells (f i) (b i) }) cl = { cl with bells := x } := by
  induction l generalizing cl with
  | nil => exact ⟨cl.bells, rfl⟩
  | cons i r ih => exact ih { cl with bells := tabPut cl.bells (f i) (b i) }

theorem foldl_setBell_eq (f : Nat → BellLoc) (b : Nat → Bell) (hf : ∀ i c j, f i ≠ .cluster c j) (l : List Nat) (s : State) :
    ∃ x, l.foldl (fun s i => setBell s (b i) (f i)) s = { s with bells := x } := by
  induction l generalizing s with
  | nil => exact ⟨s.bells, rfl⟩
  | cons i r ih =>
    rw [List.foldl_cons]
    cases hi : f i with
    | cluster c j => exact absurd hi (hf i c j)
    | package j => exact ih { s with bells := tabPut s.bells j (b i) }
    | mesh j => exact ih { s with bells := tabPut s.bells j (b i) }

theorem setBells_eq (s : State) (id : Nat) (l : Launch) (run pbell : Nat) : ∃ x, setBells s id l run pbell = { s with bells := x } := by
  unfold setBells
  obtain ⟨x, hx⟩ := foldl_setBell_eq (fun i => .package (pbell + i)) (fun i => tableBell (l.job, none, some id) l 1 i)
    (by simp) (List.range l.npb) s
  simp only [hx]
  split
  · exact foldl_setBell_eq (fun i => .mesh (l.mbase + i)) (fun i => tableBell (l.job, some l.comm, some id) l 2 i)
      (by simp) (List.range l.nmb) { s with bells := x }
  · exact ⟨x, rfl⟩

-- What placing does to each part of the state.

theorem started_eq (s : State) (id : Nat) (l : Launch) :
    ∃ d, (if l.started then l else { l with started := true, did := freshDid s id (Config.launchHash l.did.toNat) }) =
      { l with started := true, did := d } := by
  split
  · next h => exact ⟨l.did, by rw [← h]⟩
  · exact ⟨_, rfl⟩

theorem firstBells_eq (s : State) (id : Nat) (l : Launch) (run gid pb : Nat) :
    ∃ b, (if gid = 0 then setBells s id l run pb else s) = { s with bells := b } := by
  split
  · exact setBells_eq s id l run pb
  · exact ⟨s.bells, rfl⟩

theorem placeGroup_groups (s : State) (id : Nat) (l : Launch) (run gid : Nat) (p : Place) :
    ∃ g, (placeGroup s id l run gid p).groups = tabPut s.groups s.nextId g ∧ g.launch = id ∧ g.gid = gid ∧ g.run = run ∧
      g.cluster = p.cluster ∧ g.slbase = p.slbase ∧ g.slsize = l.slsize ∧ g.left = l.tasks ∧ g.away = none := by
  unfold placeGroup
  extract_lets l1 pb p1 s1 record grp cl cl2 s2 tids g s3 ctxs s4 l2
  obtain ⟨d, hl⟩ : ∃ d, l1 = { l with started := true, did := d } := started_eq s id l
  obtain ⟨b, hs1⟩ : ∃ b, s1 = { s with bells := b } := firstBells_eq s id l1 run gid pb
  obtain ⟨c, hs4⟩ : ∃ c, s4 = { s3 with ctxs := c } := foldl_setCtx_eq _ _ _ _
  refine ⟨g, ?_, rfl, rfl, rfl, rfl, rfl, ?_, ?_, rfl⟩
  · simp only [hs4, s3, s2, State.setCl_groups, grp, hs1]
  · simp only [g, hl]
  · simp only [g, hl]

theorem placeGroup_launch (s : State) (id : Nat) (l : Launch) (run gid : Nat) (p : Place) :
    ∃ x, tabFind (placeGroup s id l run gid p).launches id = some x ∧ x.started = true ∧ x.placed = vput l.placed run (gid + 1) := by
  unfold placeGroup
  extract_lets l1 pb p1 s1 record grp cl cl2 s2 tids g s3 ctxs s4 l2
  obtain ⟨d, hl⟩ : ∃ d, l1 = { l with started := true, did := d } := started_eq s id l
  exact ⟨l2, tabFind_put_self _ _ _, by simp only [l2, hl], by simp only [l2, hl]⟩

theorem placeGroup_cl (s : State) (id : Nat) (l : Launch) (run gid : Nat) (p : Place) (hl : l.tile = false) :
    ∃ x, (placeGroup s id l run gid p).cl p.cluster =
      { prepareWindow (s.cl p.cluster) p.slbase l.slsize l.bytes with bells := x } := by
  unfold placeGroup
  extract_lets l1 pb p1 s1 record grp cl cl2 s2 tids g s3 ctxs s4 l2
  obtain ⟨d, hl1⟩ : ∃ d, l1 = { l with started := true, did := d } := started_eq s id l
  obtain ⟨b, hs1⟩ : ∃ b, s1 = { s with bells := b } := firstBells_eq s id l1 run gid pb
  obtain ⟨c, hs4⟩ : ∃ c, s4 = { s3 with ctxs := c } := foldl_setCtx_eq _ _ _ _
  obtain ⟨x, hx⟩ : ∃ x, cl2 = { cl with bells := x } := foldl_bells_eq _ _ _ _
  have hcl : cl = prepareWindow (s.cl p.cluster) p.slbase l.slsize l.bytes := by
    have htile : l1.tile = false := by rw [hl1]; exact hl
    have hsize : l1.slsize = l.slsize := by rw [hl1]
    have hrec : record = l.bytes := (if_neg (by simp [htile])).trans (by rw [hl1])
    simp only [cl, hrec, hsize, hs1]
    rfl
  have hcl2 : s4.cl p.cluster = cl2 := by
    rw [hs4]
    exact State.cl_setCl s1 p1.cluster cl2
  exact ⟨x, hcl2.trans (by rw [hx, hcl])⟩

theorem placeGroup_cycle (s : State) (id : Nat) (l : Launch) (run gid : Nat) (p : Place) :
    (placeGroup s id l run gid p).cycle = s.cycle := by
  unfold placeGroup
  extract_lets l1 pb p1 s1 record grp cl cl2 s2 tids g s3 ctxs s4 l2
  obtain ⟨b, hs1⟩ : ∃ b, s1 = { s with bells := b } := firstBells_eq s id l1 run gid pb
  obtain ⟨c, hs4⟩ : ∃ c, s4 = { s3 with ctxs := c } := foldl_setCtx_eq _ _ _ _
  simp only [hs4, s3, s2, State.setCl_cycle, hs1]

/-- Task k stands on the context of place k, as `startTask` gives it for the launch and the place, whose identifier and
package bells are set. -/
theorem placeGroup_ctx (s : State) (id : Nat) (l : Launch) (run gid : Nat) (p : Place) {k c : Nat}
    (hlen : p.ctxs.length = l.tasks) (hn : p.ctxs.Nodup) (hk : p.ctxs[k]? = some c) :
    ∃ s' d pb tid, (placeGroup s id l run gid p).ctx (16 * p.cluster + c) =
      startTask s' { l with started := true, did := d } id s.nextId gid tid k (16 * p.cluster + c) { p with pbell := pb } := by
  unfold placeGroup
  extract_lets l1 pb p1 s1 record grp cl cl2 s2 tids g s3 ctxs s4 l2
  obtain ⟨d, hl1⟩ : ∃ d, l1 = { l with started := true, did := d } := started_eq s id l
  obtain ⟨b, hs1⟩ : ∃ b, s1 = { s with bells := b } := firstBells_eq s id l1 run gid pb
  have htasks : l1.tasks = l.tasks := by rw [hl1]
  have hgrp : grp = s.nextId := by simp only [grp, hs1]
  have hctx : ctxs.getD k 0 = 16 * p.cluster + c := by simp [ctxs, p1, hk]
  have hrange : (List.range l1.tasks).map (fun t => ctxs.getD t 0) = ctxs := by
    apply List.ext_getElem
    · simp [ctxs, p1, htasks, hlen]
    · intro i h1 h2
      simp [h2]
  have hnodup : ctxs.Nodup := hn.map fun a b h => by simpa using h
  have hmem : k ∈ List.range l1.tasks := by
    have := List.getElem?_eq_some_iff.mp hk
    simpa [htasks, ← hlen] using this.1
  obtain ⟨s', hs'⟩ := ctx_foldl_setCtx (f := fun t => ctxs.getD t 0) (s := s3)
    (g := fun s t => startTask s l1 id grp gid (tids.getD t 0) t (ctxs.getD t 0) p1) (by rwa [hrange]) hmem
  refine ⟨s', d, pb, tids.getD k 0, ?_⟩
  rw [hctx] at hs'
  rw [← hl1, ← hgrp]
  exact hs'

-- The Timetable's decision is carried out (R327, R328).

theorem groupPlacement_fresh {s : State} {q : Nat} {pl' : List Place} (pl : List Place) (ht : s.ttNext ≤ s.cycle)
    (hd : decision s = some (.fresh q pl')) : exec (.groupPlacement q pl) s = .next (placeFresh s q pl) := by
  show execGroupPlacement q pl s = _
  simp only [execGroupPlacement, not_lt.mpr ht, hd, if_true, if_false]

theorem groupPlacement_back {s : State} {q g : Nat} {p' p : Place} (ht : s.ttNext ≤ s.cycle)
    (hd : decision s = some (.back q g p')) : exec (.groupPlacement q [p]) s = .next (bringBack (endTurn s) g p) := by
  show execGroupPlacement q [p] s = _
  simp only [execGroupPlacement, not_lt.mpr ht, hd, if_true, if_false]

theorem stopReserving_eq (s : State) (id : Nat) : ∃ r, stopReserving s id = { s with reserving := r } := by
  unfold stopReserving
  split
  · exact ⟨_, rfl⟩
  · exact ⟨s.reserving, rfl⟩

/-- One group of a launch that is not COSCHED is placed, and the turn goes on; eight cycles pass before the next decision. -/
theorem placeFresh_one {s : State} {q id run gid : Nat} {l : Launch} {pl : List Place} {p : Place}
    (hb : backlog s q = some (id, l, pl)) (hc : l.cosched = false) (hl : tabFind s.launches id = some l)
    (hn : l.next = some (run, gid)) (hp : placeOk s l run gid p = true) :
    ∃ turn cursor queues reserving, placeFresh s q [p] =
      { placeGroup s id l run gid p with
        ttTurn := turn, ttNext := s.cycle + 8, cursor := cursor, queues := queues, reserving := reserving } := by
  have htake : takePlaces s id [p] = some (placeGroup s id l run gid p) := by simp [takePlaces, hl, hn, hp]
  simp only [placeFresh, hb, htake, Launch.batch, hc, List.length_singleton, ne_eq, not_true_eq_false,
    Bool.false_eq_true, if_false]
  generalize hg : ((afterTurn (placeGroup s id l run gid p) q l.prio 1).setQueue q _) = u
  obtain ⟨r, hr⟩ := stopReserving_eq u id
  rw [hr, ← hg, ← placeGroup_cycle s id l run gid p]
  exact ⟨_, _, _, r, rfl⟩

/-- A COSCHED launch is placed whole, or not at all. -/
theorem placeFresh_cosched {s : State} {q id : Nat} {l : Launch} {pl' pl : List Place} (hb : backlog s q = some (id, l, pl'))
    (hc : l.cosched = true) (hlen : pl.length ≠ l.runs * l.total - l.placedAll) : placeFresh s q pl = s := by
  simp [placeFresh, hb, Launch.batch, hc, hlen]

theorem placeOk_ctxs {s : State} {l : Launch} {run gid : Nat} {p : Place} (h : placeOk s l run gid p = true) :
    p.ctxs.length = l.tasks ∧ p.ctxs.Nodup ∧ p.slbase % 4096 = 0 := by
  simp only [placeOk, Bool.and_eq_true, beq_iff_eq] at h
  obtain ⟨⟨⟨⟨⟨⟨⟨_, hlen⟩, hdup⟩, _⟩, hbase⟩, _⟩, _⟩, _⟩ := h
  exact ⟨hlen, length_eraseDups_eq_iff.mp (hdup.trans hlen.symm), hbase⟩

theorem vget_replicate {α : Type} {n : Nat} (x : α) (i : Nat) : vget (Vector.replicate n x) i x = x := by
  simp [vget]

end Sys2Proof.Machine
end

section
/-! A TASK TAKES A CONTEXT (R53, R341): what `restoreOut` leaves alone. -/
namespace Sys2Proof.Machine

/-- What a change of one context keeps: DRAM, groups, tasks that are out, the bytes and full bits of every cluster, every other
context, and the task of this one. -/
structure KeepsTask (ctx : Nat) (s t : State) : Prop where
  dram : t.dram = s.dram
  groups : t.groups = s.groups
  outs : t.outs = s.outs
  bytes : ∀ k a, slGet (t.cl k) a = slGet (s.cl k) a
  full : ∀ k l, lineFull (t.cl k) l = lineFull (s.cl k) l
  others : ∀ c, c ≠ ctx → t.ctx c = s.ctx c
  tid : (t.ctx ctx).tid = (s.ctx ctx).tid

variable {ctx : Nat} {s t u : State}

theorem KeepsTask.refl (ctx : Nat) (s : State) : KeepsTask ctx s s :=
  ⟨rfl, rfl, rfl, fun _ _ => rfl, fun _ _ => rfl, fun _ _ => rfl, rfl⟩

theorem KeepsTask.trans (h : KeepsTask ctx s t) (h' : KeepsTask ctx t u) : KeepsTask ctx s u :=
  ⟨h'.dram.trans h.dram, h'.groups.trans h.groups, h'.outs.trans h.outs, fun k a => (h'.bytes k a).trans (h.bytes k a),
    fun k l => (h'.full k l).trans (h.full k l), fun c hc => (h'.others c hc).trans (h.others c hc), h'.tid.trans h.tid⟩

theorem keepsTask_setCtx {x : Task} (hx : x.tid = (s.ctx ctx).tid) : KeepsTask ctx s (s.setCtx ctx x) :=
  ⟨rfl, rfl, rfl, fun _ _ => rfl, fun _ _ => rfl, fun c hc => s.ctx_setCtx_other ctx c x hc, by rw [State.ctx_setCtx, hx]⟩

theorem keepsTask_setCtx_nextId {x : Task} (n : Nat) (hx : x.tid = (s.ctx ctx).tid) :
    KeepsTask ctx s { s.setCtx ctx x with nextId := n } :=
  ⟨rfl, rfl, rfl, fun _ _ => rfl, fun _ _ => rfl, fun c hc => s.ctx_setCtx_other ctx c x hc, (congrArg Task.tid (s.ctx_setCtx ctx x)).trans hx⟩

theorem cl_setGroupCache (s : State) (k g : Nat) (l : List CLine) (j : Nat) :
    ∃ x, (setGroupCache s k g l).cl j = { s.cl j with cache := x } := by
  by_cases hj : j = k
  · subst hj
    exact ⟨_, State.cl_setCl s j _⟩
  · exact ⟨(s.cl j).cache, State.cl_setCl_other s k j _ hj⟩

theorem keepsTask_setGroupCache (k g : Nat) (l : List CLine) : KeepsTask ctx s (setGroupCache s k g l) := by
  refine ⟨rfl, rfl, rfl, fun j a => ?_, fun j m => ?_, fun _ _ => rfl, rfl⟩
  · obtain ⟨x, hx⟩ := cl_setGroupCache s k g l j
    rw [hx]
    rfl
  · obtain ⟨x, hx⟩ := cl_setGroupCache s k g l j
    rw [hx]
    rfl

theorem keepsTask_actResume : KeepsTask ctx s (actResume s ctx) := by
  unfold actResume
  extract_lets t r i j s' t' s1 add s2 v
  have h1 : KeepsTask ctx s s1 := by
    unfold s1
    split
    · have hf : KeepsTask ctx s s' := (keepsTask_setCtx (x := { t with mq := [j] }) rfl).trans
        (keepsTask_setCtx (by simp [t]))
      exact hf.trans (keepsTask_setCtx rfl)
    · exact .refl ctx s
  have hadd (x : State) (n : Nat) : KeepsTask ctx x (add x n) := by
    unfold add
    split
    · exact .refl ctx x
    · exact keepsTask_setCtx_nextId _ rfl
  exact (h1.trans ((hadd s1 0).trans (hadd _ 1))).trans (keepsTask_setCtx rfl)

theorem keepsTask_rewait : KeepsTask ctx s (rewait s ctx) := by
  unfold rewait
  extract_lets t
  split
  · exact .refl ctx s
  · extract_lets v
    split
    · have ha : KeepsTask ctx s v := by
        unfold v acquireFor
        split
        · exact .refl ctx s
        · exact keepsTask_setGroupCache _ _ _
      exact ha.trans (keepsTask_setCtx rfl)
    · exact .refl ctx s

theorem useCore_eq (s : State) (g c : Nat) : ∃ l, useCore s g c = { s with launches := l } := by
  unfold useCore
  split
  · split
    · split
      · exact ⟨s.launches, rfl⟩
      · exact ⟨_, rfl⟩
    · exact ⟨s.launches, rfl⟩
  · exact ⟨s.launches, rfl⟩

theorem keepsTask_hardwareRestore (x : Task) : ∃ y, y.tid = x.tid ∧ KeepsTask ctx (s.setCtx ctx y) (hardwareRestore s ctx x) := by
  unfold hardwareRestore
  extract_lets x' y
  have hx' : x'.tid = x.tid := by
    unfold x'
    split <;> rfl
  exact ⟨y, hx', keepsTask_actResume.trans keepsTask_rewait⟩

theorem stubRestore_eq (s : State) (ctx : Nat) (x : Task) :
    ∃ y, stubRestore s ctx x = s.bump.setCtx ctx y ∧ y.tid = x.tid := ⟨_, rfl, rfl⟩

/-- A task that is out takes a context: no other context changes, and no byte or full bit. -/
theorem restoreOut_eq {i : Nat} {o : OutTask} (ho : s.outs[i]? = some o) :
    ∃ l f y, y.tid = o.task.tid ∧
      KeepsTask ctx (State.setCtx { s with outs := s.outs.eraseIdx i, launches := l, fresh := f } ctx y) (restoreOut s i ctx) := by
  obtain ⟨l, hl⟩ := useCore_eq { s with outs := s.outs.eraseIdx i } o.task.group (coreOf ctx)
  simp only [restoreOut, ho, hl]
  split
  · obtain ⟨y, hy, htid⟩ := stubRestore_eq { s with outs := s.outs.eraseIdx i, launches := l } ctx o.task
    exact ⟨l, s.fresh + 1, y, htid, hy ▸ .refl ctx _⟩
  · obtain ⟨y, hy, hk⟩ := keepsTask_hardwareRestore (ctx := ctx)
      (s := { s with outs := s.outs.eraseIdx i, launches := l }) o.task
    exact ⟨l, s.fresh, y, hy, hk⟩

/-- What tasks that take contexts keep: groups, Slate bytes and full bits, and the contexts that none of them takes. -/
structure Returned (cs : List Nat) (s t : State) : Prop where
  groups : t.groups = s.groups
  bytes : ∀ k a, slGet (t.cl k) a = slGet (s.cl k) a
  full : ∀ k l, lineFull (t.cl k) l = lineFull (s.cl k) l
  others : ∀ c, c ∉ cs → t.ctx c = s.ctx c

/-- Tasks that are out, each named once for each time it is out, take contexts of their own. -/
theorem takeContexts_spec {l : List (Nat × Nat)} (hc : (l.map Prod.snd).Nodup)
    (ht : (l.map Prod.fst).Subperm (s.outs.map fun o => o.task.tid)) :
    Returned (l.map Prod.snd) s (takeContexts s l) ∧ ∀ x ∈ l, ((takeContexts s l).ctx x.2).tid = x.1 := by
  induction l generalizing s with
  | nil => exact ⟨⟨rfl, fun _ _ => rfl, fun _ _ => rfl, fun _ _ => rfl⟩, by simp⟩
  | cons x r ih =>
    rw [List.map_cons, List.nodup_cons] at hc
    obtain ⟨o, ho, htid⟩ : ∃ o ∈ s.outs, o.task.tid = x.1 := by
      simpa using ht.subset (List.mem_cons_self ..)
    obtain ⟨i, hi⟩ := Option.isSome_iff_exists.mp
      (List.findIdx?_isSome (p := fun o : OutTask => o.task.tid == x.1) ▸ List.any_eq_true.mpr ⟨o, ho, by simpa using htid⟩)
    obtain ⟨hlt, hget, -⟩ := List.findIdx?_eq_some_iff_getElem.mp hi
    have ho' : s.outs[i]? = some s.outs[i] := List.getElem?_eq_getElem hlt
    obtain ⟨ls, f, y, hy, hk⟩ := restoreOut_eq (ctx := x.2) ho'
    have hstep : takeContexts s (x :: r) = takeContexts (restoreOut s i x.2) r := by
      simp only [takeContexts, List.foldl_cons, hi]
    have hperm : (s.outs.map fun o => o.task.tid).Perm (x.1 :: (s.outs.eraseIdx i).map fun o => o.task.tid) := by
      have := (List.getElem_cons_eraseIdx_perm hlt).map fun o : OutTask => o.task.tid
      rw [List.map_cons, beq_iff_eq.mp hget] at this
      exact this.symm
    have hrest : (r.map Prod.fst).Subperm ((restoreOut s i x.2).outs.map fun o => o.task.tid) := by
      rw [hk.outs]
      exact (List.subperm_cons x.1).mp (ht.trans hperm.subperm)
    obtain ⟨hr, htids⟩ := ih hc.2 hrest
    rw [hstep]
    refine ⟨⟨hr.groups.trans hk.groups, fun k a => (hr.bytes k a).trans (hk.bytes k a),
      fun k l => (hr.full k l).trans (hk.full k l), fun c hcs => ?_⟩, ?_⟩
    · rw [List.map_cons, List.mem_cons, not_or] at hcs
      rw [hr.others c hcs.2, hk.others c hcs.1]
      exact State.ctx_setCtx_other _ _ _ _ hcs.1
    · rw [List.forall_mem_cons]
      refine ⟨?_, htids⟩
      rw [hr.others x.2 hc.1, hk.tid, State.ctx_setCtx, hy, beq_iff_eq.mp hget]

end Sys2Proof.Machine
end

section
/-! A DISPLACED GROUP COMES BACK (R55, R343): what its image gives the cluster, and its tasks their contexts. -/
namespace Sys2Proof.Machine

theorem prepareWindow_nil_undef (cl : Cluster) (a n k : Nat) (hlo : a / 128 ≤ k) (hhi : k < (a + n) / 128) :
    tabFind (prepareWindow cl a n []).undef k = none := by
  have hw : (prepareWindow cl a n []).undef =
      cl.undef.filter fun x => !(decide (a / 128 ≤ x.1) && decide (x.1 < (a + n) / 128)) := by
    simp only [prepareWindow, slWrite, linesOf, List.length_nil, if_true, List.foldl_nil]
    split <;> rfl
  rw [hw, tabFind_filter_key _ (fun k => !(decide (a / 128 ≤ k) && decide (k < (a + n) / 128)))]
  simp [hlo, hhi]

theorem slGet_mergeImage {cl : Cluster} {s : State} {g : Group} {spot b : Nat} (ha : g.slbase % 128 = 0) (hn : g.slsize % 128 = 0)
    (hb : b < g.slsize) : slGet (mergeImage cl (displacedCl s g spot) g) (g.slbase + b) = memGet s.dram (spot + b) := by
  have hundef : tabFind (mergeImage cl (displacedCl s g spot) g).undef (lineOf (g.slbase + b)) = none :=
    prepareWindow_nil_undef cl g.slbase g.slsize _ (by unfold lineOf; omega) (by unfold lineOf; omega)
  have hread : memGet (memWrite [] g.slbase (memRead s.dram spot g.slsize)) (g.slbase + b) = memGet s.dram (spot + b) := by
    rw [memGet_write_in _ _ _ _ (by simpa [memRead_eq] using hb)]
    simp [memRead_eq, hb]
  rw [slGet, hundef]
  simp only [mergeImage, displacedCl]
  rw [memGet_append, any_filter_key _ (fun a => decide (a < g.slbase)) _ (by simp), if_neg (by simp), memGet_append]
  split
  · exact hread
  · next h =>
    rw [memGet_filter _ (fun a => decide (g.slbase + g.slsize ≤ a)), if_neg (by simp; omega), ← hread]
    exact (memGet_of_not_any _ _ (Bool.eq_false_of_not_eq_true h)).symm

theorem lineFull_mergeImage {cl : Cluster} {s : State} {g : Group} {spot i : Nat} (ha : g.slbase % 128 = 0) (hi : i < g.slsize / 128) :
    lineFull (mergeImage cl (displacedCl s g spot) g) (g.slbase / 128 + i) = true ↔
      (memGet s.dram (spot + g.slsize + 64 + i / 8)).getLsbD (i % 8) = true := by
  have hprep : g.slbase / 128 + i ∉ (prepareWindow cl g.slbase g.slsize []).lineEmpty := by
    simpa [lineFull] using lineFull_prepareWindow (cl := cl) (a := g.slbase) (n := g.slsize) (record := []) (l := g.slbase / 128 + i)
      (by omega) (by omega)
  have him : g.slbase / 128 + i ∈ (displacedCl s g spot).lineEmpty ↔
      (memGet s.dram (spot + g.slsize + 64 + i / 8)).getLsbD (i % 8) = false := by
    simp only [displacedCl, List.mem_filterMap, Prod.exists, List.mem_zipIdx_iff_getElem?, Group.lines, span, bitAt]
    constructor
    · rintro ⟨l, k, hk, hl⟩
      obtain ⟨hlt, hkl⟩ : k < (g.slbase + g.slsize) / 128 - g.slbase / 128 ∧ g.slbase / 128 + k = l := by
        simpa [List.getElem?_range, List.getElem?_eq_some_iff] using hk
      obtain ⟨hbit, hli⟩ := Option.ite_none_left_eq_some.mp hl
      rw [show i = k by simp only [Option.some.injEq] at hli; omega]
      simpa using hbit
    · intro h
      refine ⟨g.slbase / 128 + i, i, ?_, by simp [h]⟩
      rw [List.getElem?_map, List.getElem?_range (by omega), Option.map_some]
  simp only [lineFull, mergeImage, Bool.not_eq_true', List.contains_eq_mem, decide_eq_false_iff_not, mem_foldl_setAdd, him,
    hprep, or_false, Bool.not_eq_false]

theorem endTurn_eq (s : State) : ∃ x, endTurn s = { s with ttTurn := x } := by
  unfold endTurn
  split
  · split
    · exact ⟨none, rfl⟩
    · exact ⟨s.ttTurn, rfl⟩
  · exact ⟨s.ttTurn, rfl⟩

theorem updTask_keeps (s : State) (tid : Nat) (f : Task → Task) (hf : ∀ t, (f t).tid = t.tid) :
    (updTask s tid f).groups = s.groups ∧ (updTask s tid f).clusters = s.clusters ∧
      (updTask s tid f).outs.map (fun o => o.task.tid) = s.outs.map fun o => o.task.tid := by
  unfold updTask
  split
  · exact ⟨rfl, rfl, rfl⟩
  · refine ⟨rfl, rfl, ?_⟩
    rw [List.map_map]
    refine List.map_congr_left fun o _ => ?_
    simp only [Function.comp_apply]
    split
    · exact hf o.task
    · rfl

theorem refetchSlots_keeps (s : State) (g : Group) (grp spot cluster : Nat) :
    (refetchSlots s g grp spot cluster).groups = s.groups ∧ (refetchSlots s g grp spot cluster).clusters = s.clusters ∧
      (refetchSlots s g grp spot cluster).outs.map (fun o => o.task.tid) = s.outs.map fun o => o.task.tid := by
  unfold refetchSlots
  extract_lets slots
  refine List.foldlRecOn slots _ (motive := fun t : State => t.groups = s.groups ∧ t.clusters = s.clusters ∧
    t.outs.map (fun o => o.task.tid) = s.outs.map fun o => o.task.tid) ⟨rfl, rfl, rfl⟩ fun t ht x _ => ?_
  obtain ⟨hg, hc, ho⟩ := ht
  obtain ⟨hg', hc', ho'⟩ := updTask_keeps t x.1 (fun t => { t with tbind := vput t.tbind x.2.1 (some ⟨x.2.2, none, false⟩) })
    fun _ => rfl
  exact ⟨hg'.trans hg, hc'.trans hc, ho'.trans ho⟩

section
variable {s : State} {g : Nat} {x : Group} {a : Away} {p : Place} (hx : tabFind s.groups g = some x) (ha : x.away = some a)
  (hok : returnOk s x p.cluster = true) (hlen : p.ctxs.length = (backTasks s g).length) (hn : p.ctxs.Nodup)
  (hc : ∀ c ∈ p.ctxs, c ∈ returnCtxs s x p.cluster)
include hx ha hok hlen hn hc

/-- At a place that is good for it, its cluster takes the image, and its tasks take their contexts. -/
theorem bringBack_eq : ∃ u : State, u.groups = tabPut s.groups g { x with cluster := p.cluster, away := none } ∧
    u.cl p.cluster = mergeImage (s.cl p.cluster) (displacedCl s x a.spot) x ∧
    u.outs.map (fun o => o.task.tid) = s.outs.map (fun o => o.task.tid) ∧
    bringBack s g p = takeContexts u ((backTasks s g).zip (p.ctxs.map (16 * p.cluster + ·))) := by
  have hgood : (returnOk s x p.cluster && p.ctxs.length == (backTasks s g).length &&
      p.ctxs.eraseDups.length == p.ctxs.length && p.ctxs.all (returnCtxs s x p.cluster).contains) = true := by
    simpa [hok, hlen, length_eraseDups_eq_iff.mpr hn] using hc
  unfold bringBack
  simp -zeta only [hx, ha, hgood, if_true]
  extract_lets tids s1 s2
  obtain ⟨hg, hcl, ho⟩ := refetchSlots_keeps s2 x g a.spot p.cluster
  refine ⟨_, hg, ?_, ho.trans ?_, rfl⟩
  · rw [State.cl, hcl]
    exact State.cl_setCl s p.cluster _
  · simp only [s2, List.map_map]
    refine List.map_congr_left fun o _ => ?_
    simp only [Function.comp_apply]
    split <;> rfl

theorem bringBack_spec :
    let t := bringBack s g p
    tabFind t.groups g = some { x with cluster := p.cluster, away := none } ∧
    (∀ b, slGet (t.cl p.cluster) b = slGet (mergeImage (s.cl p.cluster) (displacedCl s x a.spot) x) b) ∧
    (∀ l, lineFull (t.cl p.cluster) l = lineFull (mergeImage (s.cl p.cluster) (displacedCl s x a.spot) x) l) ∧
    ∀ (k c : Nat), p.ctxs[k]? = some c →
      ∃ tid, (backTasks s g)[k]? = some tid ∧ (t.ctx (16 * p.cluster + c)).tid = tid := by
  intro t
  obtain ⟨u, hg, hcl, ho, ht⟩ := bringBack_eq hx ha hok hlen hn hc
  have hfst : ((backTasks s g).zip (p.ctxs.map (16 * p.cluster + ·))).map Prod.fst = backTasks s g :=
    List.map_fst_zip (by simp [hlen])
  have hsnd : ((backTasks s g).zip (p.ctxs.map (16 * p.cluster + ·))).map Prod.snd = p.ctxs.map (16 * p.cluster + ·) :=
    List.map_snd_zip (by simp [hlen])
  have hsub : (backTasks s g).Subperm (u.outs.map fun o => o.task.tid) := by
    rw [ho]
    exact (List.filter_sublist.map _).subperm
  obtain ⟨hr, htid⟩ := takeContexts_spec (s := u)
    (by rw [hsnd]; exact hn.map fun b c h => by simpa using h) (by rwa [hfst])
  rw [← ht] at hr htid
  refine ⟨?_, fun b => ?_, fun l => ?_, fun k c hk => ?_⟩
  · rw [hr.groups, hg, tabFind_put_self]
  · rw [hr.bytes, hcl]
  · rw [hr.full, hcl]
  · obtain ⟨hlt, hkc⟩ := List.getElem?_eq_some_iff.mp hk
    refine ⟨(backTasks s g)[k]'(hlen ▸ hlt), List.getElem?_eq_getElem _, ?_⟩
    refine htid (_, 16 * p.cluster + c) (List.mem_iff_getElem.mpr ⟨k, by simpa [← hlen] using hlt, ?_⟩)
    simp [hkc]
end

end Sys2Proof.Machine
end

section
/-! PLACEMENT (R30, R40, R47, R329, R55): the statement from the lemmas about a group that is placed, and one that comes back. -/
namespace Sys2Proof.Machine

/-- Settles O51: a fresh group by `placeFresh_one` and the lemmas about `placeGroup`, a displaced one by `bringBack_spec`. -/
theorem placementStartsTasks : Obligations.PlacementStartsTasks := by
  intro s q ht
  refine ⟨?_, fun pl' id l pl'' pl hd hb hc hlen => ?_, ?_⟩
  · intro pl' id l pl'' run gid p hd hb hc hl hn hp htile hsize
    obtain ⟨turn, cursor, queues, reserving, hfresh⟩ := placeFresh_one hb hc hl hn hp
    obtain ⟨hlen, hnodup, hbase⟩ := placeOk_ctxs hp
    refine ⟨_, (groupPlacement_fresh [p] ht hd).trans (congrArg _ hfresh), rfl, ?_, ?_, ?_, ?_⟩
    · obtain ⟨g, hg, hspec⟩ := placeGroup_groups s id l run gid p
      exact ⟨g, by rw [hg, tabFind_put_self], hspec⟩
    · obtain ⟨x, hx, hstarted, hplaced⟩ := placeGroup_launch s id l run gid p
      exact ⟨x, hx, hstarted, fun hr => by rw [hplaced, vget_put_self _ _ _ _ hr]⟩
    · intro cl
      obtain ⟨x, hx⟩ : ∃ x, cl = { prepareWindow (s.cl p.cluster) p.slbase l.slsize l.bytes with bells := x } :=
        placeGroup_cl s id l run gid p htile
      rw [hx]
      refine ⟨fun i hi => slGet_prepareWindow_record hi, fun a hlo hhi => ?_, fun n hlo hhi => ?_⟩
      · exact slGet_prepareWindow_zero (by omega) (by omega) hlo hhi
      · exact lineFull_prepareWindow (by omega) (by omega)
    · intro k c hk u
      obtain ⟨s', d, pb, tid, hu⟩ : ∃ s' d pb tid, u =
          startTask s' { l with started := true, did := d } id s.nextId gid tid k (16 * p.cluster + c) { p with pbell := pb } :=
        placeGroup_ctx s id l run gid p hlen hnodup hk
      rw [hu]
      simp +contextual [startTask, Task.empty, vget_replicate, vget_put_self, vget_put_other]
  · rw [groupPlacement_fresh pl ht hd, placeFresh_cosched hb hc hlen]
  · intro g p' p x a hd hx ha hok hlen hn hc hbase hsize
    obtain ⟨tt, hturn⟩ := endTurn_eq s
    obtain ⟨hg, hbytes, hfull, htids⟩ := bringBack_spec (s := { s with ttTurn := tt }) hx ha hok hlen hn hc
    refine ⟨_, _, (groupPlacement_back ht hd).trans (by rw [hturn]), hg, rfl, rfl, fun b hb => ?_, fun i hi => ?_, htids⟩
    · rw [hbytes]
      exact slGet_mergeImage hbase hsize hb
    · rw [hfull]
      exact lineFull_mergeImage hbase hi
end Sys2Proof.Machine
end

section
/-! A TASK LEAVES ITS CONTEXT (R50, R52, R338, R339): the hardware save, the drain stub, the debug halt. -/
namespace Sys2Proof.Machine

theorem SameMem.refl (s : State) : SameMem s s := ⟨fun _ => rfl, fun _ _ => ⟨rfl, rfl⟩⟩

theorem KeepsTask.sameMem {ctx : Nat} {s t : State} (h : KeepsTask ctx s t) : SameMem s t :=
  ⟨fun a => by rw [h.dram], fun k a => ⟨h.bytes k a, h.full k (lineOf a)⟩⟩

theorem landCtx_eq (s : State) (n : Nat) : ∃ c, landCtx n s = { s with ctxs := c } := by
  unfold landCtx fillRecords
  extract_lets t
  split
  · exact ⟨_, rfl⟩
  · exact ⟨_, rfl⟩

theorem goOut_spec (s : State) (n : Nat) (x : Task) (stubbed : Bool) :
    (goOut s n x stubbed).ctx n = Task.empty ∧ (goOut s n x stubbed).outs = s.outs ++ [⟨x, clOf n, stubbed⟩] ∧
      SameMem s (goOut s n x stubbed) :=
  ⟨s.ctx_setCtx n Task.empty, rfl, SameMem.refl s⟩

/-- The hardware save frees the context, puts the task out, and writes its image to its save area, if it has one. -/
theorem hardwareSave_spec (s : State) (n : Nat) (x : Task) (hx : x = { stopMatrix (s.ctx n) with preempt := false }) :
    let t := hardwareSave s n
    t.ctx n = Task.empty ∧ t.outs = s.outs ++ [⟨{ x with bbuf := none }, clOf n, false⟩] ∧
      (hasArea x = true → ∀ i, i < (saveImage x s.cycle s.ticks).length →
        slGet (t.cl (clOf n)) (areaOf x + i) = (saveImage x s.cycle s.ticks).getD i 0) ∧
      (hasArea x = false → SameMem s t) := by
  have ht : hardwareSave s n = goOut (if hasArea x then s.setCl (clOf n) (slWrite (s.cl (clOf n)) (areaOf x)
      (saveImage x s.cycle s.ticks)) else s) n { x with bbuf := none } false := by
    subst hx
    rfl
  rw [ht]
  split
  · next ha =>
    obtain ⟨hctx, houts, -⟩ := goOut_spec (s.setCl (clOf n) (slWrite (s.cl (clOf n)) (areaOf x) (saveImage x s.cycle s.ticks)))
      n { x with bbuf := none } false
    refine ⟨hctx, houts, fun _ i hi => ?_, fun hno => absurd ha (by simp [hno])⟩
    have hcl : (goOut (s.setCl (clOf n) (slWrite (s.cl (clOf n)) (areaOf x) (saveImage x s.cycle s.ticks))) n
        { x with bbuf := none } false).cl (clOf n) = slWrite (s.cl (clOf n)) (areaOf x) (saveImage x s.cycle s.ticks) :=
      State.cl_setCl s (clOf n) _
    rw [hcl]
    exact slGet_write_in _ _ _ _ hi
  · next ha =>
    obtain ⟨hctx, houts, hmem⟩ := goOut_spec s n { x with bbuf := none } false
    exact ⟨hctx, houts, fun hyes => absurd hyes ha, fun _ => hmem⟩

theorem divertTo_spec (s : State) (n a : Nat) :
    let t := divertTo s n a
    let u := s.ctx n
    (t.ctx n).stub = some ⟨true, none, false⟩ ∧ (t.ctx n).pc = (BitVec.ofNat 64 a &&& 0x000FFFFFFFFFFFF0) ∧
      (t.ctx n).keptPc = u.pcWord ∧ (t.ctx n).trappc = u.pcWord ∧ (t.ctx n).trapcause = 19 ∧ (t.ctx n).s = u.s ∧
      SameMem s t := by
  intro t u
  have ht : t.ctx n = _ := s.ctx_setCtx n _
  rw [ht]
  exact ⟨rfl, rfl, rfl, rfl, rfl, rfl, SameMem.refl s⟩

end Sys2Proof.Machine
end

section
/-! A TASK COMES BACK (R53, R341): through its restore stub, or from its save area. -/
namespace Sys2Proof.Machine

variable {s : State} {n i : Nat} {o : OutTask}

theorem stubReturn (ho : s.outs[i]? = some o) (hret : mayReturn s o n = true) (hs : o.stubbed = true) {x : Nat × Nat}
    (hx : stubAt o.task (addrOf o.task.keptPc) = some x) : ∃ t, exec (.contextRestore i n) s = .next t ∧
      t.outs = s.outs.eraseIdx i ∧ (t.ctx n).tid = o.task.tid ∧ (t.ctx n).stub = some ⟨false, none, false⟩ ∧
      (t.ctx n).pc = (BitVec.ofNat 64 x.2 &&& 0x000FFFFFFFFFFFF0) ∧ (t.ctx n).trappc = o.task.keptPc ∧
      (t.ctx n).clusterid = clusterIdOf n ∧ SameMem s t := by
  obtain ⟨l, hl⟩ := useCore_eq { s with outs := s.outs.eraseIdx i } o.task.group (coreOf n)
  have hexec : exec (.contextRestore i n) s =
      .next (stubRestore { s with outs := s.outs.eraseIdx i, launches := l } n o.task) := by
    simp only [exec, execContextRestore, ho, hret, restoreOut, hs, if_true, hl]
  refine ⟨_, hexec, rfl, ?_⟩
  simp only [stubRestore, hx]
  rw [State.ctx_setCtx]
  exact ⟨rfl, rfl, rfl, rfl, rfl, SameMem.refl s⟩

theorem actResume_idle (h : (s.ctx n).mrx = Vector.replicate 9 0) :
    actResume s n = s.setCtx n { s.ctx n with mrx := Vector.replicate 9 0, held := [] } := by
  have hr (k : Nat) : vget (s.ctx n).mrx k 0 = 0 := by
    rw [h, vget_replicate]
  simp only [actResume, hr]
  rfl

theorem rewait_idle (h : (s.ctx n).wait = none) : rewait s n = s := by
  simp only [rewait, h]

/-- The task that a hardware restore gives its context, from the one that its save area describes. -/
def restored (n : Nat) (y : Task) : Task :=
  { y with clusterid := clusterIdOf n, flags := if y.pendCnf then y.flags ||| fCNF else y.flags, pendCnf := false,
           debug := false, preempt := false }

theorem restored_mrx (n : Nat) (y : Task) : (restored n y).mrx = y.mrx := by
  unfold restored
  rfl
theorem restored_wait (n : Nat) (y : Task) : (restored n y).wait = y.wait := by
  unfold restored
  rfl

/-- Without a wait and without matrix work, the registers are all that a hardware restore brings back. -/
theorem hardwareRestore_idle {x y : Task} (hy : y = if hasArea x then loadImage (s.cl (clOf n)) (areaOf x) x else x)
    (hm : y.mrx = Vector.replicate 9 0) (hw : y.wait = none) : hardwareRestore s n x =
      State.setCtx (s.setCtx n (restored n y)) n { restored n y with mrx := Vector.replicate 9 0, held := [] } := by
  have hctx : (s.setCtx n (restored n y)).ctx n = restored n y := s.ctx_setCtx n _
  have hstart : hardwareRestore s n x = rewait (actResume (s.setCtx n (restored n y)) n) n := by
    subst hy
    rfl
  rw [hstart, actResume_idle (by rw [hctx, restored_mrx, hm]), hctx, rewait_idle]
  rw [State.ctx_setCtx]
  exact (restored_wait n y).trans hw

theorem loadImage_wait {cl : Cluster} {a : Nat} {x : Task} (h : (BitVec.ofNat 64 (slNum cl (a + 0x18) 8)).getLsbD 0 = false) :
    (loadImage cl a x).wait = none :=
  if_neg (by rw [bitAt, h]; exact Bool.false_ne_true)

theorem loadImage_mrx {cl : Cluster} {a : Nat} {x : Task}
    (h : ∀ k, k < 9 → BitVec.ofNat 64 (slNum cl (a + (0x700 + 8 * (0x35 + k))) 8) = 0) :
    (loadImage cl a x).mrx = Vector.replicate 9 0 := by
  have hgen : (loadImage cl a x).mrx =
      vgen 9 fun k => BitVec.ofNat 64 (slNum cl (a + (0x700 + 8 * (0x35 + k))) 8) &&& mrxMask k := rfl
  rw [hgen]
  refine Vector.ext fun k hk => ?_
  have := vget_gen 9 (fun k => BitVec.ofNat 64 (slNum cl (a + (0x700 + 8 * (0x35 + k))) 8) &&& mrxMask k) k 0 hk
  simp only [vget, hk, dif_pos, h k hk] at this
  simpa using this

theorem areaReturn (ho : s.outs[i]? = some o) (hret : mayReturn s o n = true) (hs : o.stubbed = false)
    (ha : hasArea o.task = true) :
    let w := fun (k : Nat) => BitVec.ofNat 64 (slNum (s.cl (clOf n)) (areaOf o.task + k) 8)
    (w 0x18).getLsbD 0 = false → (∀ k, k < 9 → w (0x700 + 8 * (0x35 + k)) = 0) → ∃ t,
      exec (.contextRestore i n) s = .next t ∧ t.outs = s.outs.eraseIdx i ∧ (t.ctx n).tid = o.task.tid ∧
      (t.ctx n).wait = none ∧ (t.ctx n).pc = (w 8 &&& 0x000FFFFFFFFFFFF0) ∧
      (t.ctx n).first = (w 8).extractLsb' 58 6 ∧ (t.ctx n).clusterid = clusterIdOf n ∧ SameMem s t ∧
      (o.task.pendCnf = false → (t.ctx n).flags = (w 0x780).setWidth 10) ∧
      (∀ r, 0 < r → r < 64 → vget (t.ctx n).s r 0 = w (0x100 + 8 * r)) ∧
      ∀ r, r < 16 → vget (t.ctx n).e r 0 = w (0x700 + 8 * (0x70 + r)) := by
  intro w hwait hmrx
  obtain ⟨l, hl⟩ := useCore_eq { s with outs := s.outs.eraseIdx i } o.task.group (coreOf n)
  let u : State := { s with outs := s.outs.eraseIdx i, launches := l }
  let y := loadImage (s.cl (clOf n)) (areaOf o.task) o.task
  have hexec : exec (.contextRestore i n) s = .next (hardwareRestore u n o.task) := by
    simp only [exec, execContextRestore, ho, hret, restoreOut, hs, if_true, hl]
    rfl
  have hyw : y.wait = none := loadImage_wait hwait
  have hidle := hardwareRestore_idle (s := u) (n := n) (x := o.task) (y := y) (by rw [if_pos ha]; rfl) (loadImage_mrx hmrx) hyw
  refine ⟨_, hexec, ?_⟩
  rw [hidle, State.ctx_setCtx]
  unfold restored
  refine ⟨rfl, rfl, hyw, rfl, rfl, rfl, SameMem.refl s, fun hc => ?_, fun r h0 hr => ?_, fun r hr => ?_⟩
  · have hflags : (if y.pendCnf then y.flags ||| fCNF else y.flags) = y.flags :=
      if_neg (by rw [show y.pendCnf = false from hc]; exact Bool.false_ne_true)
    refine hflags.trans ?_
    exact (BitVec.setWidth_eq_extractLsb' (by decide)).symm
  · exact (vget_gen 64 _ r 0 hr).trans (if_neg (by omega))
  · exact vget_gen 16 _ r 0 hr

end Sys2Proof.Machine
end

section
/-! WHAT WRITES, RECORDS AND COPY ERRORS LEAVE ALONE. A view of the state is blind to a kind of step when the fields that such a
step changes do not enter it; each operation made of such steps then leaves the view as it was. -/
namespace Sys2Proof.Machine

variable {α β : Type} {v : State → α} {s : State}

theorem foldl_keeps {f : State → β → State} {l : List β} (hf : ∀ s x, v (f s x) = v s) : v (l.foldl f s) = v s :=
  List.foldlRecOn l f (motive := fun t => v t = v s) rfl fun t ht x _ => (hf t x).trans ht

theorem ite_keeps {c : Prop} [Decidable c] {x y : State} {a : α} (hx : v x = a) (hy : v y = a) : v (if c then x else y) = a := by
  split <;> assumption

/-- The view does not see memory, the writes queued for it, or messages to other packages. -/
structure BlindToStores (v : State → α) : Prop where
  stores : ∀ s d p w n r o l f,
    v { s with dram := d, dramPoison := p, wbs := w, nextId := n, rx := r, outbox := o, linkBack := l, fresh := f } = v s
/-- Nor does it see the jobs and what goes to the hosts. -/
structure BlindToRecords (v : State → α) : Prop extends BlindToStores v where
  records : ∀ s j h m, v { s with jobs := j, hostOut := h, msixPend := m } = v s
/-- Nor does it see the engines, the tasks, the clusters, and the collectives under way. -/
structure BlindToErrors (v : State → α) : Prop extends BlindToRecords v where
  errors : ∀ s e c o k x y, v { s with engs := e, ctxs := c, outs := o, clusters := k, colls := x, pieces := y } = v s

section
variable (hv : BlindToStores v)
include hv

theorem BlindToStores.setDirty {job : Option (BitVec 32)} {pa n : Nat} : v (setDirty s job pa n) = v s :=
  foldl_keeps fun _ _ => foldl_keeps fun s _ => ite_keeps (hv.stores s _ _ _ _ _ _ _ _) rfl
theorem BlindToStores.homeWrite {job : Option (BitVec 32)} {pa : Nat} {bs : List Byte} : v (homeWrite s job pa bs) = v s :=
  ite_keeps rfl (hv.setDirty.trans (hv.stores s _ _ _ _ _ _ _ _))
theorem BlindToStores.markSectors {pa n : Nat} {bad : Nat → Bool} : v (markSectors s pa n bad) = v s :=
  hv.stores s _ _ _ _ _ _ _ _
theorem BlindToStores.partWriteMarked {job : BitVec 32} {pa : Nat} {bs : List Byte} {bad : Nat → Bool} :
    v (partWriteMarked s job pa bs bad) = v s :=
  ite_keeps (hv.markSectors.trans hv.homeWrite) (foldl_keeps fun s _ => hv.stores s _ _ _ _ _ _ _ _)
theorem BlindToStores.atPort {m : Msg} {port : Nat} : v (atPort s m port) = v s :=
  ite_keeps (hv.stores s _ _ _ _ _ _ _ _) (hv.stores s _ _ _ _ _ _ _ _)
theorem BlindToStores.bump : v s.bump = v s := hv.stores s _ _ _ _ _ _ _ _
theorem BlindToStores.sendMsg {m : Msg} : v (sendMsg s m) = v s :=
  ite_keeps (hv.stores s _ _ _ _ _ _ _ _) (ite_keeps rfl (hv.atPort.trans hv.bump))
theorem BlindToStores.stepWb {w : WBack} : v (stepWb s w) = v s := by
  refine ite_keeps rfl (ite_keeps (ite_keeps rfl ?_) (ite_keeps (ite_keeps rfl ?_) ?_))
  · exact hv.markSectors.trans ((foldl_keeps fun _ _ => hv.homeWrite).trans (hv.stores s _ _ _ _ _ _ _ _))
  · exact hv.stores s _ _ _ _ _ _ _ _
  · exact hv.sendMsg.trans (hv.stores s _ _ _ _ _ _ _ _)
theorem BlindToStores.queueWb {owner group : Nat} {job : BitVec 32} {pkg pa : Nat} {bytes : List Byte} {mask : BitVec 128}
    {poison : Bool} : v (queueWb s owner group job pkg pa bytes mask poison) = v s :=
  hv.stepWb.trans (hv.stores s _ _ _ _ _ _ _ _)
theorem BlindToStores.queueBit {owner group : Nat} {job : BitVec 32} {pkg pa : Nat} {b : Bool} :
    v (queueBit s owner group job pkg pa b) = v s :=
  hv.stepWb.trans (hv.stores s _ _ _ _ _ _ _ _)
theorem BlindToStores.writeBack {group : Nat} {job : BitVec 32} {l : CLine} : v (writeBack s group job l) = v s :=
  ite_keeps rfl hv.queueWb

/-- A flush writes lines back, and takes them from its group's cache. -/
theorem BlindToStores.cacheFlush {cluster group : Nat} {f : CLine → Bool}
    (hc : ∀ s l, v (setGroupCache s cluster group l) = v s) : v (cacheFlush s cluster group f) = v s :=
  (hc _ _).trans (foldl_keeps fun _ _ => hv.writeBack)
theorem BlindToStores.putImage {cl : Cluster} {g : Group} {spot : Nat} {slots : List (List Byte)} :
    v (putImage s cl g spot slots) = v s := hv.partWriteMarked
end

section
variable (hv : BlindToRecords v)
include hv

theorem BlindToRecords.setJobAt {i : Nat} {j : Job} : v (setJobAt s i j) = v s := hv.records s _ _ _
theorem BlindToRecords.jobCount {job : BitVec 32} {w : Nat} {high : Bool} : v (jobCount s job w high) = v s := by
  unfold Machine.jobCount
  split
  · rfl
  · exact hv.setJobAt
theorem BlindToRecords.raiseMsix {port vec : Nat} : v (raiseMsix s port vec) = v s :=
  ite_keeps rfl (ite_keeps (hv.records s _ _ _) (hv.records s _ _ _))
theorem BlindToRecords.recordPosted {i kind : Nat} {bs : List Byte} : v (recordPosted s i kind bs) = v s :=
  ite_keeps (hv.raiseMsix.trans hv.setJobAt) (ite_keeps (hv.raiseMsix.trans hv.setJobAt) (hv.records s _ _ _))
theorem BlindToRecords.postRing {i n : Nat} : v (postRing i n s) = v s := by
  induction n generalizing s with
  | zero => rfl
  | succ n ih =>
    unfold Machine.postRing
    dsimp only
    split
    · rfl
    · exact ite_keeps rfl (ih.trans (hv.recordPosted.trans hv.setJobAt))
theorem BlindToRecords.enterRing {i : Nat} {r : FRec} : v (enterRing s i r).1 = v s :=
  hv.postRing.trans ((hv.stores _ _ _ _ _ _ _ _ _).trans (hv.partWriteMarked.trans hv.setJobAt))
theorem BlindToRecords.drainWaiting {i n : Nat} : v (drainWaiting i n s) = v s := by
  induction n generalizing s with
  | zero => rfl
  | succ n ih =>
    unfold Machine.drainWaiting
    dsimp only
    split
    · rfl
    · exact ite_keeps rfl (ih.trans (hv.enterRing.trans hv.setJobAt))
theorem BlindToRecords.postRecord {job : BitVec 32} {r : FRec} : v (postRecord s job r).1 = v s := by
  unfold Machine.postRecord
  dsimp only
  split
  · exact hv.records s _ _ _
  · split
    · exact hv.jobCount.trans (hv.setJobAt.trans hv.drainWaiting)
    · split
      · exact hv.setJobAt.trans hv.drainWaiting
      · exact hv.enterRing.trans (hv.setJobAt.trans hv.drainWaiting)
theorem BlindToRecords.groupRecord {g : Group} {kind : Nat} {detail : List Word} : v (groupRecord s g kind detail) = v s :=
  hv.postRecord
theorem BlindToRecords.launchRecord {l kind : Nat} {detail : List Word} : v (launchRecord s l kind detail) = v s := by
  unfold Machine.launchRecord
  split
  · rfl
  · exact hv.postRecord
end

section
variable (hv : BlindToErrors v)
include hv

theorem BlindToErrors.flush {cluster group : Nat} {f : CLine → Bool} : v (cacheFlush s cluster group f) = v s :=
  hv.cacheFlush fun s _ => hv.errors s _ _ _ _ _ _
theorem BlindToErrors.delCmd {id : Nat} : v (delCmd s id) = v s := hv.errors s _ _ _ _ _ _
theorem BlindToErrors.putCmd {c : Cmd} : v (putCmd s c) = v s := hv.errors s _ _ _ _ _ _
theorem BlindToErrors.busySlots {job : BitVec 32} {va : Nat} {b : Bool} : v (busySlots s job va b) = v s :=
  hv.errors s _ _ _ _ _ _
theorem BlindToErrors.updTask {tid : Nat} {f : Task → Task} : v (updTask s tid f) = v s := by
  unfold Machine.updTask
  split
  · exact hv.errors s _ _ _ _ _ _
  · exact hv.errors s _ _ _ _ _ _
theorem BlindToErrors.busyByte {owner group : Nat} {job : BitVec 32} {va : Nat} {b : Bool} :
    v (busyByte s owner group job va b) = v s := by
  unfold Machine.busyByte
  split
  · refine hv.queueBit.trans ?_
    split
    · exact hv.flush
    · rfl
  · rfl
theorem BlindToErrors.pendCopyError {c : Cmd} {seq reason : Nat} : v (pendCopyError s c seq reason) = v s := by
  unfold Machine.pendCopyError
  split
  · rfl
  · exact ite_keeps rfl hv.updTask
theorem BlindToErrors.reportError {c : Cmd} {reason : Nat} {quiet : Bool} {r : FRec} : v (reportError s c reason quiet r) = v s :=
  ite_keeps hv.postRecord (hv.pendCopyError.trans hv.postRecord)
theorem BlindToErrors.endFailed {c : Cmd} : v (endFailed s c) = v s := by
  unfold Machine.endFailed
  split
  · exact ite_keeps rfl (hv.reportError.trans (hv.delCmd.trans (ite_keeps hv.busySlots rfl)))
  · rfl
theorem BlindToErrors.failReshard {c : Cmd} {reason : Nat} {quiet : Bool} {r : FRec} : v (failReshard s c reason quiet r) = v s := by
  unfold Machine.failReshard
  exact hv.endFailed.trans (ite_keeps (hv.busyByte.trans hv.putCmd) hv.putCmd)
theorem BlindToErrors.failAgain {id : Nat} {quiet : Bool} : v (failAgain s id quiet) = v s := by
  unfold Machine.failAgain
  split
  · exact hv.putCmd
  · rfl
theorem BlindToErrors.undefSlate {stamp : Nat} {e : Ext} : v (undefSlate s stamp e) = v s := by
  unfold Machine.undefSlate
  split
  · rfl
  · exact hv.errors s _ _ _ _ _ _
theorem BlindToErrors.undefGlobal {job : BitVec 32} {stamp : Nat} {e : Ext} : v (undefGlobal s job stamp e) = v s := by
  refine ite_keeps rfl (foldl_keeps fun s p => ?_)
  dsimp only
  split
  · exact ite_keeps hv.partWriteMarked rfl
  · rfl
theorem BlindToErrors.copyError {eng : Nat} {c : Cmd} {reason : Nat} {quiet : Bool} : v (copyError s eng c reason quiet) = v s := by
  unfold Machine.copyError
  refine ite_keeps hv.failAgain ?_
  extract_lets s1 left s2 stamp remote isCpys dst s3 cl s4 s5 q r
  have h2 : v s2 = v s := (hv.errors s1 _ _ _ _ _ _).trans (ite_keeps rfl hv.delCmd)
  have hundef : v (dst.foldl (fun s e => Machine.undefSlate s stamp e) s2) = v s :=
    (foldl_keeps fun _ _ => hv.undefSlate).trans h2
  have h3 : v s3 = v s := by
    refine ite_keeps ?_ hundef
    split
    · split
      · exact hv.putImage.trans h2
      · exact hundef
    · exact h2
  have h4 : v s4 = v s := by
    unfold s4
    split
    · exact (hv.errors s3 _ _ _ _ _ _).trans h3
    · exact h3
  have h5 : v s5 = v s := ite_keeps h4 ((foldl_keeps fun _ _ => hv.undefGlobal).trans (hv.bump.trans h4))
  exact ite_keeps (hv.failReshard.trans h5) (hv.reportError.trans h5)
theorem BlindToErrors.cancelTask {tid : Nat} : v (cancelTask s tid) = v s := foldl_keeps fun _ _ => hv.copyError
end

end Sys2Proof.Machine
end

section
/-! A LAUNCH IS ABORTED (R344): its groups are gone, and its entry says so. -/
namespace Sys2Proof.Machine

/-- The tables of groups and of launches. -/
def State.tables (s : State) : Tab Group × Tab Launch := (s.groups, s.launches)

theorem blindToErrors_tables : BlindToErrors State.tables :=
  ⟨⟨⟨fun _ _ _ _ _ _ _ _ _ => rfl⟩, fun _ _ _ _ => rfl⟩, fun _ _ _ _ _ _ _ => rfl⟩

variable {s : State} {g k l : Nat}

theorem retireGroup_tables {x : Group} (hx : tabFind s.groups g = some x) : (retireGroup s g).groups = tabDel s.groups g ∧
    ((retireGroup s g).launches = s.launches ∨ ∃ y, (retireGroup s g).launches = tabPut s.launches x.launch y) := by
  unfold retireGroup
  simp -zeta only [hx]
  extract_lets s1 cl full s2 s3 s4
  have h1 : s1.tables = s.tables := blindToErrors_tables.flush
  have h2 : s2.tables = s.tables := ite_keeps h1 h1
  have h3 : s3.tables = s.tables :=
    (foldl_keeps (f := fun t c => State.setCtx t c (t.ctx c).left) fun _ _ => rfl).trans h2
  have hg : s3.groups = s.groups := congrArg Prod.fst h3
  have hl : s3.launches = s.launches := congrArg Prod.snd h3
  have h4 : s4.groups = tabDel s.groups g := congrArg (tabDel · g) hg
  have h4' : s4.launches = s.launches := hl
  split
  · exact ⟨h4, .inr ⟨_, congrArg (tabPut · x.launch _) h4'⟩⟩
  · exact ⟨h4, .inl h4'⟩

theorem retireGroup_gone (h : k = g ∨ tabFind s.groups k = none) : tabFind (retireGroup s g).groups k = none := by
  by_cases hk : k = g
  · subst hk
    cases hx : tabFind s.groups k with
    | none => simp only [retireGroup, hx]
    | some x => rw [(retireGroup_tables hx).1, tabFind_del_self]
  · cases hx : tabFind s.groups g with
    | none => simpa only [retireGroup, hx] using h.resolve_left hk
    | some x => rw [(retireGroup_tables hx).1, tabFind_del_other _ _ _ hk, h.resolve_left hk]

theorem retireGroup_launch (h : (tabFind s.launches l).isSome = true) : (tabFind (retireGroup s g).launches l).isSome = true := by
  cases hx : tabFind s.groups g with
  | none => simpa only [retireGroup, hx] using h
  | some x =>
    obtain ⟨-, hl | ⟨y, hl⟩⟩ := retireGroup_tables hx
    · rwa [hl]
    · rw [hl]
      by_cases hk : l = x.launch
      · rw [hk, tabFind_put_self, Option.isSome_some]
      · rwa [tabFind_put_other _ _ _ _ hk]

theorem foldl_retireGroup_gone {gs : List Nat} (h : k ∈ gs ∨ tabFind s.groups k = none) :
    tabFind (gs.foldl retireGroup s).groups k = none := by
  induction gs generalizing s with
  | nil => simpa using h
  | cons g gs ih =>
    refine ih ?_
    rw [List.mem_cons] at h
    by_cases hk : k ∈ gs
    · exact .inl hk
    · exact .inr (retireGroup_gone (h.imp_left fun h => h.resolve_right hk))

theorem foldl_retireGroup_launch {gs : List Nat} (h : (tabFind s.launches l).isSome = true) :
    (tabFind (gs.foldl retireGroup s).launches l).isSome = true :=
  List.foldlRecOn gs retireGroup (motive := fun t => (tabFind t.launches l).isSome = true) h fun _ ht _ _ => retireGroup_launch ht

theorem abortLaunch_spec (reason : Nat) : (∀ x, tabFind s.launches l = some x →
      ∃ y, tabFind (abortLaunch s l reason).launches l = some y ∧ y.aborted = true) ∧
    ∀ g x, tabFind s.groups g = some x → x.launch = l → tabFind (abortLaunch s l reason).groups g = none := by
  unfold abortLaunch
  extract_lets tids s1 s2 s3 s4
  have h2 : s2.tables = s.tables := (show s2.tables = s1.tables from rfl).trans (foldl_keeps fun _ _ => blindToErrors_tables.cancelTask)
  have h4 : s4.tables = s3.tables := blindToErrors_tables.launchRecord
  have hg4 : s4.groups = s3.groups := congrArg Prod.fst h4
  have hl4 : s4.launches = s3.launches := congrArg Prod.snd h4
  have hg2 : s2.groups = s.groups := congrArg Prod.fst h2
  have hl2 : s2.launches = s.launches := congrArg Prod.snd h2
  have hgone (g : Nat) (x : Group) (hx : tabFind s.groups g = some x) (hl : x.launch = l) : tabFind s4.groups g = none := by
    rw [hg4]
    refine foldl_retireGroup_gone (.inl (List.mem_map.mpr ⟨(g, x), List.mem_filter.mpr ⟨?_, by simpa using hl⟩, rfl⟩))
    rw [hg2]
    exact mem_of_tabFind hx
  constructor
  · intro x hx
    have hsome : (tabFind s4.launches l).isSome = true := by
      rw [hl4]
      exact foldl_retireGroup_launch (by rw [hl2, hx, Option.isSome_some])
    obtain ⟨y, hy⟩ := Option.isSome_iff_exists.mp hsome
    rw [hy]
    exact ⟨_, tabFind_put_self _ _ _, rfl⟩
  · intro g x hx hl
    split
    · exact hgone g x hx hl
    · exact hgone g x hx hl

/-- A stub that overruns takes its launch with it (R340). -/
theorem stubFailure_spec (n why : Nat) (pcw : Word) : (∀ x, tabFind s.launches (s.ctx n).launch = some x →
      ∃ y, tabFind (stubFailure s n why pcw).launches (s.ctx n).launch = some y ∧ y.aborted = true) ∧
    ∀ g x, tabFind s.groups g = some x → x.launch = (s.ctx n).launch → tabFind (stubFailure s n why pcw).groups g = none := by
  unfold stubFailure
  extract_lets t q s1
  have h1 : s1.tables = s.tables := blindToErrors_tables.postRecord
  have hg : s1.groups = s.groups := congrArg Prod.fst h1
  have hl : s1.launches = s.launches := congrArg Prod.snd h1
  rw [← hg, ← hl]
  exact abortLaunch_spec 4

end Sys2Proof.Machine
end

section
/-! PRE-EMPTION (R337, R343): what holds when the Timetable may ask for a context or for a group's window. -/
namespace Sys2Proof.Machine

variable {s : State} {n prio : Nat}

theorem wantsPlace_of_higherStuck {p : State → Launch → Nat → Bool} (h : higherStuck s prio p = true) :
    ∃ q id l, wantsPlace s q = some (id, l) ∧ l.prio < prio := by
  obtain ⟨q, -, hq⟩ := List.any_eq_true.mp h
  split at hq
  · next id l hw =>
    rw [Bool.and_eq_true, Bool.and_eq_true] at hq
    exact ⟨q.1, id, l, hw, of_decide_eq_true hq.1.1⟩
  · exact absurd hq (by simp)

theorem awayLevel_of_higherAway {p : Group → Bool} (h : higherAway s prio p = true) :
    ∃ x ∈ s.groups, ∃ l, awayLevel s x.2 = some l ∧ l < prio := by
  obtain ⟨x, hx, hp⟩ := List.any_eq_true.mp h
  split at hp
  · next l hl =>
    rw [Bool.and_eq_true, Bool.and_eq_true, Bool.and_eq_true] at hp
    exact ⟨x, hx, l, hl, of_decide_eq_true hp.1.1.1⟩
  · exact absurd hp (by simp)

theorem higher_of_contextsWanted {cluster : Nat} (h : contextsWanted s prio cluster = true) :
    (∃ q id l, wantsPlace s q = some (id, l) ∧ l.prio < prio) ∨ ∃ x ∈ s.groups, ∃ l, awayLevel s x.2 = some l ∧ l < prio :=
  (Bool.or_eq_true_iff.mp h).imp wantsPlace_of_higherStuck awayLevel_of_higherAway

theorem askable_iff {t : Task} : askable s t = true ↔
    t.active = true ∧ t.exited = false ∧ t.stub = none ∧ t.preempt = false ∧ preemptible s t.launch = true := by
  simp [askable, and_assoc]

theorem contextsWanted_of_contextWanted {l : Launch} (h : contextWanted s n = true)
    (hl : tabFind s.launches (s.ctx n).launch = some l) : contextsWanted s l.prio (clOf n) = true := by
  simp only [contextWanted, hl, Bool.and_eq_true] at h
  exact h.2

theorem mayPreempt_spec (h : mayPreempt s n = true) : askable s (s.ctx n) = true ∧ (sliceWants s (coreOf n) = false →
    contextWanted s n = true ∧
      ((s.ctx n).wait = none → ∀ k, (k, s.ctx k) ∈ s.ctxs → contextWanted s k = true → (s.ctx k).wait = none)) := by
  obtain ⟨hask, hwant⟩ := Bool.and_eq_true_iff.mp h
  refine ⟨hask, fun hslice => ?_⟩
  rw [hslice, Bool.false_or, Bool.and_eq_true] at hwant
  obtain ⟨hctx, hfirst⟩ := hwant
  refine ⟨hctx, fun hw k hk hwk => ?_⟩
  simp only [hw, Option.isSome_none, Bool.false_or, Bool.not_eq_true', List.any_eq_false] at hfirst
  simpa [hwk] using hfirst (k, s.ctx k) hk

end Sys2Proof.Machine
end

section
/-! THE IMAGE OF A DISPLACED GROUP (R55, R343; log 45): its bytes, part by part. -/
namespace Sys2Proof.Machine

-- Bytes of lists that are put together.

theorem takeBytes_append (l r : List Byte) : takeBytes l.length (l ++ r) = l := by
  induction l with
  | nil => rfl
  | cons b l ih => rw [List.length_cons, List.cons_append, takeBytes, ih]

theorem getD_append_skip (l r : List Byte) (k : Nat) : (l ++ r).getD (l.length + k) 0 = r.getD k 0 := by
  rw [List.getD_append_right _ _ _ _ (Nat.le_add_right ..), Nat.add_sub_cancel_left]

theorem numAt_append_skip (l r : List Byte) (k n : Nat) : numAt (l.length + k) n (l ++ r) = numAt k n r := by
  rw [numAt, bytesAt, List.drop_append, List.drop_of_length_le (Nat.le_add_right ..), List.nil_append, Nat.add_sub_cancel_left]
  rfl

/-- Blocks of w bytes: the one at place i begins at byte w * i. -/
theorem drop_flatMap {α : Type} {f : α → List Byte} {w : Nat} (hf : ∀ x, (f x).length = w) {l : List α} {i : Nat} {x : α}
    (hx : l[i]? = some x) (r : List Byte) : ∃ q, (l.flatMap f ++ r).drop (w * i) = f x ++ q := by
  induction l generalizing i with
  | nil => simp at hx
  | cons y l ih =>
    rw [List.flatMap_cons, List.append_assoc]
    cases i with
    | zero =>
      rw [List.getElem?_cons_zero, Option.some.injEq] at hx
      exact ⟨_, by rw [hx]; rfl⟩
    | succ i =>
      obtain ⟨q, hq⟩ := ih hx
      refine ⟨q, ?_⟩
      rw [← hq, Nat.mul_succ, Nat.add_comm, ← hf y, List.drop_append]
      simp

theorem testBit_bits (l : List Bool) (k : Nat) : (l.foldr (fun (b : Bool) n => (if b then 1 else 0) + 2 * n) 0).testBit k =
    l.getD k false := by
  induction l generalizing k with
  | nil => simp
  | cons b l ih =>
    rw [List.foldr_cons]
    cases k with
    | zero => cases b <;> simp [Nat.testBit_zero, Nat.add_mod]
    | succ k =>
      rw [Nat.testBit_succ, List.getD_cons_succ, ← ih]
      congr 1
      split <;> omega

theorem getLsbD_bitByte (l : List Bool) {k : Nat} (hk : k < 8) : (bitByte l).getLsbD k = l.getD k false := by
  rw [bitByte, BitVec.getLsbD_ofNat, testBit_bits, decide_eq_true hk, Bool.true_and]

-- The window.

theorem windowBytes_length (cl : Cluster) (g : Group) : (windowBytes cl g).length = g.slsize := by
  simp [windowBytes, memRead_eq]

theorem slGet_of_not_undef {cl : Cluster} {a : Nat} (h : tabFind cl.undef (lineOf a) = none) : slGet cl a = memGet cl.slate a := by
  rw [slGet, h]

variable {cl : Cluster} {g : Group} {slots : List (List Byte)}

/-- Without streams, the window's bytes are those that reads of it return. -/
theorem windowBytes_getD (hf : fifoBanks cl g = []) (ha : g.slbase % 128 = 0) (hn : g.slsize % 128 = 0) {i : Nat}
    (hi : i < g.slsize) : (windowBytes (g.lines.foldl slSettle cl) g).getD i 0 = slGet cl (g.slbase + i) := by
  obtain ⟨m, u, hset⟩ := slSettles_rest g.lines cl
  have hf' : fifoBanks (g.lines.foldl slSettle cl) g = [] := by
    rw [hset]
    exact hf
  have hline : lineOf (g.slbase + i) ∈ g.lines := by
    refine List.mem_map.mpr ⟨lineOf (g.slbase + i) - g.slbase / 128, List.mem_range.mpr ?_, ?_⟩ <;> unfold lineOf <;> omega
  rw [← slGet_settles g.lines cl, slGet_of_not_undef (slSettles_undef _ _ _ hline), windowBytes, hf', List.foldl_nil, memRead_eq]
  simp [hi]

-- The state area.

theorem stateArea_settled (ls : List Nat) : stateArea (ls.foldl slSettle cl) g slots = stateArea cl g slots := by
  obtain ⟨m, u, hset⟩ := slSettles_rest ls cl
  rw [hset]
  rfl

/-- The modes of the banks, as bytes; and the bits of the lines. -/
def modeBytes (cl : Cluster) (g : Group) : List Byte :=
  (List.range 64).map fun b => BitVec.ofNat 8 (if g.banks.contains b then bankMode cl b else 0)
def lineBytes (cl : Cluster) (g : Group) : List Byte :=
  (List.range (g.slsize / 1024)).map fun k => bitByte ((List.range 8).map fun i => lineFull cl (g.slbase / 128 + 8 * k + i))
theorem modeBytes_length : (modeBytes cl g).length = 64 := by simp [modeBytes]
theorem lineBytes_length : (lineBytes cl g).length = g.slsize / 1024 := by simp [lineBytes]

theorem stateArea_eq : ∃ r, stateArea cl g slots = modeBytes cl g ++ (lineBytes cl g ++
    (((List.range g.ncb).flatMap fun i => bytesOf 16 (bellBits (tabGet Bell.empty cl.bells (g.cbell + i)))) ++ r)) :=
  ⟨slots.flatten ++ (fifoBanks cl g).flatMap fun b => fifoHead (tabGet ⟨[], []⟩ cl.fifo b), by
    simp only [stateArea, modeBytes, lineBytes, List.append_assoc]⟩

theorem stateArea_mode {b : Nat} (hb : b ∈ g.banks) : ((stateArea cl g slots).getD b 0).toNat = bankMode cl b % 256 := by
  obtain ⟨r, hr⟩ := stateArea_eq (cl := cl) (g := g) (slots := slots)
  have hlt : b < 64 := List.mem_range.mp (List.mem_filter.mp hb).1
  rw [hr, List.getD_append _ _ _ _ (by rwa [modeBytes_length])]
  simp [modeBytes, hlt, hb]

theorem stateArea_line {i : Nat} (hi : i < 8 * (g.slsize / 1024)) :
    ((stateArea cl g slots).getD (64 + i / 8) 0).getLsbD (i % 8) = lineFull cl (g.slbase / 128 + i) := by
  obtain ⟨r, hr⟩ := stateArea_eq (cl := cl) (g := g) (slots := slots)
  have hlt : i / 8 < g.slsize / 1024 := by omega
  have hmod : i % 8 < 8 := Nat.mod_lt _ (by decide)
  have hskip := getD_append_skip (modeBytes cl g) (lineBytes cl g ++
    (((List.range g.ncb).flatMap fun i => bytesOf 16 (bellBits (tabGet Bell.empty cl.bells (g.cbell + i)))) ++ r)) (i / 8)
  rw [modeBytes_length] at hskip
  rw [hr, hskip, List.getD_append _ _ _ _ (by rwa [lineBytes_length])]
  have hbyte : (lineBytes cl g).getD (i / 8) 0 =
      bitByte ((List.range 8).map fun j => lineFull cl (g.slbase / 128 + 8 * (i / 8) + j)) := by
    simp [lineBytes, hlt]
  rw [hbyte, getLsbD_bitByte _ hmod, show g.slbase / 128 + i = g.slbase / 128 + 8 * (i / 8) + i % 8 by omega]
  simp [hmod]

theorem bellBits_lt (b : Bell) : bellBits b < 256 ^ 16 := by
  have hp : (b.pending % (2 : Int) ^ 40).toNat < 2 ^ 40 := by omega
  have hc := b.count.isLt
  have ht := b.target.isLt
  have hh := b.phase.isLt
  have ho : (if b.overrun then 2 ^ 40 else 0) ≤ 2 ^ 40 := by split <;> simp
  unfold bellBits
  omega

theorem stateArea_bell {i : Nat} (hi : i < g.ncb) : numAt (64 + (g.slsize / 1024 + 16 * i)) 16 (stateArea cl g slots) =
    bellBits (tabGet Bell.empty cl.bells (g.cbell + i)) := by
  obtain ⟨r, hr⟩ := stateArea_eq (cl := cl) (g := g) (slots := slots)
  have hmode := numAt_append_skip (modeBytes cl g) (lineBytes cl g ++
    (((List.range g.ncb).flatMap fun i => bytesOf 16 (bellBits (tabGet Bell.empty cl.bells (g.cbell + i)))) ++ r))
    (g.slsize / 1024 + 16 * i) 16
  have hline := numAt_append_skip (lineBytes cl g)
    (((List.range g.ncb).flatMap fun i => bytesOf 16 (bellBits (tabGet Bell.empty cl.bells (g.cbell + i)))) ++ r) (16 * i) 16
  rw [modeBytes_length] at hmode
  rw [lineBytes_length] at hline
  obtain ⟨q, hq⟩ := drop_flatMap (f := fun i => bytesOf 16 (bellBits (tabGet Bell.empty cl.bells (g.cbell + i))))
    (fun _ => bytesOf_length 16 _) (show (List.range g.ncb)[i]? = some i by simp [hi]) r
  have htake := takeBytes_append (bytesOf 16 (bellBits (tabGet Bell.empty cl.bells (g.cbell + i)))) q
  rw [bytesOf_length] at htake
  rw [hr, hmode, hline, numAt, bytesAt, hq, htake, ofBytes_bytesOf, Nat.mod_eq_of_lt (bellBits_lt _)]

end Sys2Proof.Machine
end

section
/-! A GROUP IS DISPLACED (R55, R343): it is asked to leave, and, once it is at rest, its state goes to the displacement pool. -/
namespace Sys2Proof.Machine

variable {s : State} {g : Nat} {x : Group}

-- The group is asked to leave.

theorem ctx_foldl_preempt {l : List Nat} {c : Nat} (hc : c ∈ l) :
    ((l.foldl (fun s c => State.setCtx s c { s.ctx c with preempt := true }) s).ctx c).preempt = true := by
  induction l generalizing s with
  | nil => simp at hc
  | cons d l ih =>
    by_cases hl : c ∈ l
    · exact ih hl
    · have hd : c = d := (List.mem_cons.mp hc).resolve_right hl
      rw [List.foldl_cons, ctx_foldl_setCtx_other (f := fun c : Nat => c) (g := fun s c => { s.ctx c with preempt := true })
        (fun y hy e => hl ((show y = c from e) ▸ hy)), hd, State.ctx_setCtx]

theorem startDisplacing_spec : tabFind (startDisplacing s g x).groups g = some { x with displacing := some s.ticks } ∧
    (∀ c ∈ ctxsOfGroup s g, (s.ctx c).exited = false → ((startDisplacing s g x).ctx c).preempt = true) ∧
    (∀ c, (s.ctx c).exited = true → (startDisplacing s g x).ctx c = s.ctx c) ∧ SameMem s (startDisplacing s g x) := by
  unfold startDisplacing
  extract_lets s1
  have hl : ((ctxsOfGroup s1 g).filter fun c => !(s1.ctx c).exited) = (ctxsOfGroup s g).filter fun c => !(s.ctx c).exited := rfl
  rw [hl]
  obtain ⟨k, hk⟩ : ∃ k, ((ctxsOfGroup s g).filter fun c => !(s.ctx c).exited).foldl
      (fun s c => State.setCtx s c { s.ctx c with preempt := true }) s1 = { s1 with ctxs := k } := foldl_setCtx_eq _ _ _ _
  refine ⟨?_, fun c hc hex => ctx_foldl_preempt (List.mem_filter.mpr ⟨hc, by simp [hex]⟩), fun c hex => ?_, ?_⟩
  · rw [hk]
    exact tabFind_put_self _ _ _
  · refine (ctx_foldl_setCtx_other (f := fun c : Nat => c) (g := fun s c => { s.ctx c with preempt := true })
      fun y hy e => ?_).trans rfl
    subst e
    simpa [hex] using (List.mem_filter.mp hy).2
  · rw [hk]
    exact SameMem.refl s

theorem displacementStarts (hx : tabFind s.groups g = some x) (hd : x.displacing = none) (ha : x.away = none)
    (hp : preemptible s x.launch = true)
    (hroom : ∀ l, tabFind s.launches x.launch = some l → roomWanted s l.prio x.cluster = true) :
    exec (.groupDisplacement g) s = .next (startDisplacing s g x) := by
  obtain ⟨l, hl⟩ : ∃ l, tabFind s.launches x.launch = some l := by
    unfold preemptible at hp
    split at hp
    · exact ⟨_, by assumption⟩
    · exact absurd hp (by simp)
  simp [exec, execGroupDisplacement, hx, hd, ha, hp, hl, hroom l hl]

-- A write at this home does not look at the clusters.

theorem leavesFrom_clusters (s : State) (k : Tab Cluster) (fuel level base va : Nat) :
    leavesFrom { s with clusters := k } fuel level base va = leavesFrom s fuel level base va := by
  induction fuel generalizing level base va with
  | zero => rfl
  | succ fuel ih =>
    simp only [leavesFrom, ih]
    rfl

theorem homeLeaves_clusters (s : State) (k : Tab Cluster) (job : BitVec 32) :
    homeLeaves { s with clusters := k } job = homeLeaves s job := by
  have hj : jobLeaves { s with clusters := k } job = jobLeaves s job := by
    simp only [jobLeaves, leavesFrom_clusters]
    rfl
  simp only [homeLeaves, hj]
  rfl

theorem setDirty_clusters (s : State) (k : Tab Cluster) (job : Option (BitVec 32)) (pa n : Nat) :
    setDirty { s with clusters := k } job pa n = { setDirty s job pa n with clusters := k } := by
  unfold setDirty
  refine List.foldl_hom (fun s : State => { s with clusters := k }) fun s j => ?_
  rw [homeLeaves_clusters]
  refine List.foldl_hom (fun s : State => { s with clusters := k }) fun s x => ?_
  dsimp only
  split <;> rfl

theorem homeWrite_clusters (s : State) (k : Tab Cluster) (job : Option (BitVec 32)) (pa : Nat) (bs : List Byte) :
    homeWrite { s with clusters := k } job pa bs = { homeWrite s job pa bs with clusters := k } := by
  by_cases h : bs.isEmpty = true
  · simp only [homeWrite, h, if_true]
  · have hs (t : State) : homeWrite t job pa bs = setDirty { t with
        dram := memWrite t.dram pa bs,
        dramPoison := t.dramPoison.filter fun k => !(decide (pa ≤ 128 * k) && decide (128 * k + 128 ≤ pa + bs.length)) }
        job pa bs.length := if_neg h
    rw [hs, hs]
    exact setDirty_clusters { s with
      dram := memWrite s.dram pa bs,
      dramPoison := s.dramPoison.filter fun k => !(decide (pa ≤ 128 * k) && decide (128 * k + 128 ≤ pa + bs.length)) }
      k job pa bs.length

theorem setDirty_eq (s : State) (job : Option (BitVec 32)) (pa n : Nat) : ∃ d, setDirty s job pa n = { s with dram := d } := by
  unfold setDirty
  refine List.foldlRecOn _ _ (motive := fun t : State => ∃ d, t = { s with dram := d }) ⟨s.dram, rfl⟩ ?_
  rintro _ ⟨d, rfl⟩ j -
  refine List.foldlRecOn _ _ (motive := fun t : State => ∃ d, t = { s with dram := d }) ⟨d, rfl⟩ ?_
  rintro _ ⟨e, rfl⟩ x -
  dsimp only
  split
  · exact ⟨_, rfl⟩
  · exact ⟨e, rfl⟩

theorem homeWrite_eq (s : State) (job : Option (BitVec 32)) (pa : Nat) (bs : List Byte) :
    ∃ d p, homeWrite s job pa bs = { s with dram := d, dramPoison := p } := by
  unfold homeWrite
  split
  · exact ⟨s.dram, s.dramPoison, rfl⟩
  · extract_lets whole s1
    obtain ⟨d, hd⟩ := setDirty_eq s1 job pa bs.length
    exact ⟨d, s1.dramPoison, hd⟩

theorem writeHeld_mono {pa m n : Nat} (h : m ≤ n) (hm : writeHeld s pa m = true) : writeHeld s pa n = true := by
  simp only [writeHeld, migrHeld, cutPending, CutUnit.touched, Bool.or_eq_true, List.any_eq_true, Bool.and_eq_true,
    decide_eq_true_eq] at hm ⊢
  obtain ⟨x, hx, ⟨hstage, hlo⟩, hhi⟩ | ⟨x, hx, u, hu, hlo, hhi⟩ := hm
  · exact .inl ⟨x, hx, ⟨hstage, by omega⟩, hhi⟩
  · exact .inr ⟨x, hx, u, hu, hlo, by omega⟩

/-- With no write queued or held, a write of the part's own is performed at once. -/
theorem partWriteMarked_now {job : BitVec 32} {pa : Nat} {bs : List Byte} {bad : Nat → Bool} (hw : s.wbs = [])
    (hh : writeHeld s pa bs.length = false) :
    partWriteMarked s job pa bs bad = markSectors (homeWrite s (some job) pa bs) pa bs.length bad := by
  simp [partWriteMarked, hw, hh]

-- The group leaves.

theorem poolSpot_cacheFlush (grp : Nat) (f : CLine → Bool) (cluster : Nat) :
    poolSpot (cacheFlush s cluster grp f) x = poolSpot s x := by
  refine BlindToStores.cacheFlush (v := fun s => poolSpot s x) ⟨fun _ _ _ _ _ _ _ _ _ => rfl⟩ fun s l => ?_
  obtain ⟨y, hy⟩ := cl_setGroupCache s cluster grp l x.cluster
  have hlen : imageLen (setGroupCache s cluster grp l) x = imageLen s x := by
    simp only [imageLen, hy]
    rfl
  simp only [poolSpot, hlen]
  rfl

end Sys2Proof.Machine
end

section
/-! A GROUP LEAVES FOR THE POOL (R55, R343; log 45): its entry, its tasks, and its image in DRAM. -/
namespace Sys2Proof.Machine

variable {s : State} {g since : Nat} {x : Group}

/-- A task of a group that leaves has no slot bound. -/
def unbound (g : Nat) (o : OutTask) : OutTask :=
  if o.task.group = g then { o with task := { o.task with tbind := Vector.replicate 8 none } } else o

/-- Where the image of a group goes, and how long it is. -/
def awayPlace (s : State) (x : Group) : Away := { spot := (poolSpot s x).getD 0, len := imageLen s x }

/-- A group is taken away: its cache is flushed, its image written, its entry and tasks changed, its record posted. -/
theorem takeAway_eq (s : State) (g : Nat) (x : Group) :
    let s1 := cacheFlush s x.cluster g fun _ => true
    let s2 := putImage s1 (leavingCl s1 x) x (awayPlace s1 x).spot ((outTasks s1 x).map slotAddrs)
    ∃ k, takeAway s g x = groupRecord { s2 with
        clusters := k, groups := tabPut s2.groups g { x with away := some (awayPlace s1 x), displacing := none },
        outs := s2.outs.map (unbound g) } x 8
      [BitVec.ofNat 64 (awayPlace s1 x).len, BitVec.ofNat 64 (s2.ticks - x.displacing.getD s2.ticks)] := ⟨_, rfl⟩

/-- The table of groups, and the tasks that are out. -/
def State.away (s : State) : Tab Group × List OutTask := (s.groups, s.outs)
theorem blindToRecords_away : BlindToRecords State.away := ⟨⟨fun _ _ _ _ _ _ _ _ _ => rfl⟩, fun _ _ _ _ => rfl⟩

theorem takeAway_tables (s : State) (g : Nat) (x : Group) :
    (takeAway s g x).groups =
      tabPut s.groups g { x with away := some (awayPlace (cacheFlush s x.cluster g fun _ => true) x), displacing := none } ∧
    (takeAway s g x).outs = s.outs.map (unbound g) := by
  obtain ⟨k, hk⟩ := takeAway_eq s g x
  generalize hs1 : (cacheFlush s x.cluster g fun _ => true) = s1 at hk ⊢
  have h1 : s1.away = s.away := hs1 ▸ blindToRecords_away.cacheFlush fun _ _ => rfl
  generalize hs2 : putImage s1 (leavingCl s1 x) x (awayPlace s1 x).spot ((outTasks s1 x).map slotAddrs) = s2 at hk
  have h2 : s2.away = s.away := (hs2 ▸ blindToRecords_away.putImage : s2.away = s1.away).trans h1
  have hg : s2.groups = s.groups := congrArg Prod.fst h2
  have ho : s2.outs = s.outs := congrArg Prod.snd h2
  have ht := congrArg State.away hk
  rw [blindToRecords_away.groupRecord] at ht
  exact ⟨(congrArg Prod.fst ht).trans (congrArg (tabPut · g _) hg), (congrArg Prod.snd ht).trans (congrArg (List.map (unbound g)) ho)⟩

theorem tbind_unbound {o : OutTask} {k : Nat} (h : (unbound g o).task.group = g) : vget (unbound g o).task.tbind k none = none := by
  unfold unbound at h ⊢
  split at h
  · next ho =>
    rw [if_pos ho, vget_replicate]
  · next ho => exact absurd h ho

/-- What the image of a group holds of a cluster. -/
structure Holds (cl : Cluster) (x : Group) (image : List Byte) : Prop where
  bytes : fifoBanks cl x = [] → ∀ i, i < x.slsize → image.getD i 0 = slGet cl (x.slbase + i)
  modes : ∀ b, b ∈ x.banks → (image.getD (x.slsize + b) 0).toNat = bankMode cl b % 256
  lines : ∀ i, i < 8 * (x.slsize / 1024) →
    ((image.getD (x.slsize + 64 + i / 8) 0).getLsbD (i % 8) = true ↔ lineFull cl (x.slbase / 128 + i) = true)
  bells : ∀ i, i < x.ncb → numAt (x.slsize + 64 + x.slsize / 1024 + 16 * i) 16 image =
    bellBits (tabGet Bell.empty cl.bells (x.cbell + i))

theorem holds_groupImage {cl : Cluster} {slots : List (List Byte)} (ha : x.slbase % 128 = 0) (hn : x.slsize % 128 = 0) :
    Holds cl x (groupImage (x.lines.foldl slSettle cl) x slots) := by
  have hlen := windowBytes_length (x.lines.foldl slSettle cl) x
  have hskip (k : Nat) : (groupImage (x.lines.foldl slSettle cl) x slots).getD (x.slsize + k) 0 = (stateArea cl x slots).getD k 0 := by
    rw [groupImage, stateArea_settled, ← hlen]
    exact getD_append_skip _ _ k
  refine ⟨fun hf i hi => ?_, fun b hb => ?_, fun i hi => ?_, fun i hi => ?_⟩
  · rw [groupImage, List.getD_append _ _ _ _ (by rwa [hlen])]
    exact windowBytes_getD hf ha hn hi
  · rw [hskip]
    exact stateArea_mode hb
  · rw [Nat.add_assoc, hskip, stateArea_line hi]
  · have hnum := numAt_append_skip (windowBytes (x.lines.foldl slSettle cl) x) (stateArea (x.lines.foldl slSettle cl) x slots)
      (64 + (x.slsize / 1024 + 16 * i)) 16
    rw [hlen, stateArea_settled, stateArea_bell hi] at hnum
    rw [groupImage, stateArea_settled, ← hnum]
    congr 1
    omega

theorem Holds.of_cache {cl : Cluster} {c : Tab (List CLine)} {image : List Byte} (h : Holds { cl with cache := c } x image) :
    Holds cl x image := ⟨h.bytes, h.modes, h.lines, h.bells⟩

theorem putImage_now {cl : Cluster} {spot : Nat} {slots : List (List Byte)} (hw : s.wbs = [])
    (hh : writeHeld s spot (groupImage cl x slots).length = false) : ∃ p, putImage s cl x spot slots =
      { s with dram := (homeWrite s (some x.job) spot (groupImage cl x slots)).dram, dramPoison := p } := by
  obtain ⟨d, p, hd⟩ := homeWrite_eq s (some x.job) spot (groupImage cl x slots)
  unfold putImage
  rw [partWriteMarked_now hw hh, hd]
  exact ⟨_, rfl⟩

/-- With no write queued and nothing in its cache, a group's image is in DRAM before its record is posted. -/
theorem takeAway_image (hsince : x.displacing = some since) (ha : x.slbase % 128 = 0) (hn : x.slsize % 128 = 0)
    (hwbs : s.wbs = []) (hcache : groupCache s x.cluster g = []) {a : Away}
    (hplace : a = awayPlace (cacheFlush s x.cluster g fun _ => true) x) (hheld : writeHeld s a.spot a.len = false) :
    ∃ (s' : State) (image : List Byte),
      s'.jobs = s.jobs ∧ s'.launches = s.launches ∧ s'.queues = s.queues ∧ s'.ticks = s.ticks ∧ s'.wbs = [] ∧
      s'.ckpts = s.ckpts ∧ s'.migr = s.migr ∧ s'.dram = (homeWrite s (some x.job) a.spot image).dram ∧
      (takeAway s g x).dram = (groupRecord s' x 8 [BitVec.ofNat 64 a.len, BitVec.ofNat 64 (s.ticks - since)]).dram ∧
      a.len = alignUp 128 image.length ∧ Holds (s.cl x.cluster) x image := by
  obtain ⟨k, hk⟩ := takeAway_eq s g x
  obtain ⟨c, hc⟩ := cl_setGroupCache s x.cluster g [] x.cluster
  have hflush : (cacheFlush s x.cluster g fun _ => true) = setGroupCache s x.cluster g [] := by
    simp [cacheFlush, hcache]
  rw [hflush] at hk hplace
  obtain ⟨j, hj⟩ : ∃ j, setGroupCache s x.cluster g [] = { s with clusters := j } := ⟨_, rfl⟩
  rw [hj] at hk hplace hc
  rw [← hplace] at hk
  have hcl : leavingCl { s with clusters := j } x = x.lines.foldl slSettle { s.cl x.cluster with cache := c } := by
    rw [leavingCl, hc]
  have hlen : a.len = alignUp 128 (groupImage (leavingCl { s with clusters := j } x) x
      ((outTasks { s with clusters := j } x).map slotAddrs)).length := by
    rw [hplace, groupImage, List.length_append, windowBytes_length, leavingCl, stateArea_settled]
    rfl
  generalize (outTasks { s with clusters := j } x).map slotAddrs = slots at hk hlen
  rw [hcl] at hk hlen
  have hle : (groupImage (x.lines.foldl slSettle { s.cl x.cluster with cache := c }) x slots).length ≤ a.len := by
    rw [hlen, alignUp]
    omega
  obtain ⟨p, hp⟩ := putImage_now (s := { s with clusters := j }) (spot := a.spot) hwbs
    (Bool.eq_false_iff.mpr fun h => Bool.eq_false_iff.mp hheld (writeHeld_mono hle h))
  rw [hp, homeWrite_clusters, hsince] at hk
  refine ⟨_, _, ?_, ?_, ?_, ?_, ?_, ?_, ?_, ?_, congrArg State.dram hk, hlen, (holds_groupImage ha hn).of_cache⟩
  · rfl
  · rfl
  · rfl
  · rfl
  · exact hwbs
  · rfl
  · rfl
  · rfl

end Sys2Proof.Machine
end

section
/-! LEAVING AND COMING BACK (R50 to R55, R337 to R343): the statement from the lemmas about each event. -/
namespace Sys2Proof.Machine

variable {s : State} {n : Nat}

/-- A task that is out, with its image in its save area. -/
structure LeftBySave (n : Nat) (s : State) (u x : Task) (t : State) : Prop where
  free : t.ctx n = Task.empty
  out : ∃ o : OutTask, t.outs = s.outs ++ [o] ∧ o.cluster = clOf n ∧ o.stubbed = false ∧ o.task.tid = u.tid ∧ o.task.mq = [] ∧
    o.task.held = u.mq
  saved : hasArea u = true → ∀ i, i < (saveImage x s.cycle s.ticks).length →
    slGet (t.cl (clOf n)) (areaOf u + i) = (saveImage x s.cycle s.ticks).getD i 0
  unsaved : hasArea u = false → SameMem s t

/-- A task that has been diverted to its drain stub. -/
structure Diverted (n : Nat) (s : State) (u : Task) (a : Nat) (t : State) : Prop where
  stub : (t.ctx n).stub = some ⟨true, none, false⟩
  pc : (t.ctx n).pc = (BitVec.ofNat 64 a &&& 0x000FFFFFFFFFFFF0)
  keptPc : (t.ctx n).keptPc = u.pcWord
  trappc : (t.ctx n).trappc = u.pcWord
  trapcause : (t.ctx n).trapcause = 19
  scalars : (t.ctx n).s = u.s
  mem : SameMem s t

variable {c : Tab Task} {u : Task}

theorem takeOut_save (hu : State.ctx { s with ctxs := c } n = u) (h : drainStub u = none) :
    LeftBySave n s u { stopMatrix u with preempt := false } (takeOut { s with ctxs := c } n) := by
  subst hu
  obtain ⟨hctx, hout, hsaved, hunsaved⟩ := hardwareSave_spec { s with ctxs := c } n _ rfl
  have ht : takeOut { s with ctxs := c } n = hardwareSave { s with ctxs := c } n := by simp only [takeOut, h]
  rw [ht]
  exact ⟨hctx, ⟨_, hout, rfl, rfl, rfl, rfl, rfl⟩, hsaved, hunsaved⟩

theorem takeOut_divert (hu : State.ctx { s with ctxs := c } n = u) {a : Nat} (h : drainStub u = some a) :
    Diverted n s u a (takeOut { s with ctxs := c } n) := by
  subst hu
  obtain ⟨hstub, hpc, hkept, htrap, hcause, hs, hmem⟩ := divertTo_spec { s with ctxs := c } n a
  have ht : takeOut { s with ctxs := c } n = divertTo { s with ctxs := c } n a := by simp only [takeOut, h]
  rw [ht]
  exact ⟨hstub, hpc, hkept, htrap, hcause, hs, hmem⟩

theorem exec_preemptionRequest : exec (.preemptionRequest n) s =
    .next (if mayPreempt s n then s.setCtx n { s.ctx n with preempt := true } else s) := rfl

theorem exec_preemptionTaken (hp : ((landCtx n s).ctx n).preempt = true) (hm : mayLeave (landCtx n s) ((landCtx n s).ctx n) = true) :
    exec (.preemptionTaken n) s = .next (takeOut (landCtx n s) n) := by
  simp [exec, execPreemptionTaken, hp, hm]

theorem exec_debugHalt (ha : ((landCtx n s).ctx n).active = true) (he : ((landCtx n s).ctx n).exited = false) :
    let halted := (landCtx n s).setCtx n { (landCtx n s).ctx n with debug := true }
    exec (.debugHalt n) s = .next (if mayLeave (landCtx n s) ((landCtx n s).ctx n) then takeOut halted n else halted) := by
  simp [exec, execDebugHalt, ha, he]

theorem exec_taskOut (h : stubEnded ((landCtx n s).ctx n) = true) : exec (.taskOut n) s =
    .next (goOut (landCtx n s) n { (landCtx n s).ctx n with stub := none, bbuf := none } true) := by
  simp [exec, execTaskOut, h]

theorem exec_stubOverrun (h : stubLate (s.ctx n) s.cycle = true) :
    ∃ why pcw, exec (.stubOverrun n) s = .next (stubFailure s n why pcw) :=
  ⟨_, _, congrArg Host.Outcome.next (if_pos h)⟩

theorem mayPreempt_consequences (h : mayPreempt s n = true) :
    (s.ctx n).active = true ∧ (s.ctx n).exited = false ∧ (s.ctx n).stub = none ∧
      preemptible s (s.ctx n).launch = true ∧
      (sliceWants s (coreOf n) = false → ∀ l, tabFind s.launches (s.ctx n).launch = some l →
        ((∃ q id l', wantsPlace s q = some (id, l') ∧ l'.prio < l.prio) ∨
          ∃ x ∈ s.groups, ∃ p, awayLevel s x.2 = some p ∧ p < l.prio) ∧
        ((s.ctx n).wait = none → ∀ k, (k, s.ctx k) ∈ s.ctxs → contextWanted s k = true → (s.ctx k).wait = none)) := by
  obtain ⟨hask, hwant⟩ := mayPreempt_spec h
  obtain ⟨hactive, hexited, hstub, -, hpre⟩ := askable_iff.mp hask
  refine ⟨hactive, hexited, hstub, hpre, fun hslice l hl => ?_⟩
  obtain ⟨hctx, hfirst⟩ := hwant hslice
  exact ⟨higher_of_contextsWanted (contextsWanted_of_contextWanted hctx hl), hfirst⟩

theorem exec_groupDisplacement_away {g since : Nat} {x : Group} (hx : tabFind s.groups g = some x)
    (hd : x.displacing = some since) (hrest : groupAtRest s g = true) :
    exec (.groupDisplacement g) s = .next (takeAway s g x) := by
  simp [exec, execGroupDisplacement, hx, hd, hrest]

theorem poolSpot_of_groupAtRest {g : Nat} {x : Group} (hx : tabFind s.groups g = some x) (hrest : groupAtRest s g = true) :
    poolSpot s x = some (awayPlace (cacheFlush s x.cluster g fun _ => true) x).spot := by
  have hsome : (poolSpot s x).isSome = true := by
    simp only [groupAtRest, hx, Bool.and_eq_true] at hrest
    exact hrest.1.1.1.1
  obtain ⟨a, ha⟩ := Option.isSome_iff_exists.mp hsome
  simp only [awayPlace, poolSpot_cacheFlush, ha, Option.getD_some]

/-- Settles O49: each event by the lemma about it, after the results that have landed. -/
theorem tasksLeaveAndReturn : Obligations.TasksLeaveAndReturn := by
  intro s n s1 u leaves diverts
  obtain ⟨c, hc⟩ : ∃ c, s1 = { s with ctxs := c } := landCtx_eq s n
  have hleaves {v x : Task} {t : State} (h : LeftBySave n s v x t) (hv : v = { u with debug := v.debug }) : leaves t x := by
    rw [hv] at h
    exact ⟨h.free, h.out, h.saved, h.unsaved⟩
  have hdiverts {v : Task} {t : State} {a : Nat} (h : Diverted n s v a t) (hv : v = { u with debug := v.debug }) : diverts t a := by
    rw [hv] at h
    exact ⟨h.stub, h.pc, h.keptPc, h.trappc, h.trapcause, h.scalars, h.mem⟩
  have hu : State.ctx { s with ctxs := c } n = u := by rw [← hc]
  refine ⟨fun h => ?_, mayPreempt_consequences, fun h => ?_, fun hp hm => ?_, fun ha he => ?_, fun h => ?_, fun h => ?_, ?_, ?_⟩
  · rw [exec_preemptionRequest, if_pos h]
  · rw [exec_preemptionRequest, if_neg (by simp [h])]
  · refine ⟨_, exec_preemptionTaken hp hm, fun hd => ?_, fun a hd => ?_⟩
    · exact hleaves (hc ▸ takeOut_save hu hd) rfl
    · exact hdiverts (hc ▸ takeOut_divert hu hd) rfl
  · have hhalt := exec_debugHalt (n := n) (s := s) ha he
    let v : Task := { u with debug := true }
    have hv : State.ctx { s with ctxs := tabPut c n v } n = v := State.ctx_setCtx { s with ctxs := c } n v
    have hs : (landCtx n s).setCtx n v = { s with ctxs := tabPut c n v } := by
      rw [show landCtx n s = { s with ctxs := c } from hc]
      rfl
    refine ⟨_, hhalt, fun hm => ?_, fun hm hd => ?_, fun a hm hd => ?_⟩
    · rw [if_neg (by simp [show mayLeave (landCtx n s) ((landCtx n s).ctx n) = false from hm])]
      exact State.ctx_setCtx _ n _
    · rw [if_pos hm]
      exact hleaves (hs ▸ takeOut_save hv hd) rfl
    · rw [if_pos hm]
      exact hdiverts (hs ▸ takeOut_divert hv hd) rfl
  · obtain ⟨hctx, hout, hmem⟩ := goOut_spec s1 n { u with stub := none, bbuf := none } true
    have hsame (t : State) : SameMem s1 t → SameMem s t := by
      rw [hc]
      exact id
    exact ⟨_, exec_taskOut h, hctx, hout.trans (by rw [hc]), hsame _ hmem⟩
  · obtain ⟨why, pcw, hexec⟩ := exec_stubOverrun h
    exact ⟨_, hexec, stubFailure_spec n why pcw⟩
  · exact fun i o ho hret => ⟨fun hs x hx => stubReturn ho hret hs hx, fun hs ha => areaReturn ho hret hs ha⟩
  · intro g x hx
    refine ⟨fun hd ha hp hroom => ⟨_, displacementStarts hx hd ha hp hroom, startDisplacing_spec⟩, fun since hd hrest hbase hsize => ?_⟩
    obtain ⟨hgroups, houts⟩ := takeAway_tables s g x
    refine ⟨_, _, _, exec_groupDisplacement_away hx hd hrest, by rw [hgroups, tabFind_put_self], rfl, rfl,
      poolSpot_of_groupAtRest hx hrest, fun o ho hg k _ => ?_, fun hwbs hcache hheld => ?_⟩
    · rw [houts] at ho
      obtain ⟨o', -, rfl⟩ := List.mem_map.mp ho
      exact tbind_unbound hg
    · obtain ⟨s', image, hjobs, hlaunches, hqueues, hticks, hw, hckpts, hmigr, hdram, htaken, hlen, hholds⟩ :=
        takeAway_image hd hbase hsize hwbs hcache rfl hheld
      exact ⟨s', image, hjobs, hlaunches, hqueues, hticks, hw, hckpts, hmigr, hdram, htaken, hlen, hholds.bytes, hholds.modes,
        hholds.lines, hholds.bells⟩

end Sys2Proof.Machine
end
section
/-!
FIELDS OF AN ENCODING (R77 to R87): for each format, a word and its group are the encoding of given operands exactly when their
fields are these operands, the unit is that of the format, and what the format leaves unused is clear.
-/
namespace Sys2Proof

/-- The widths are left out of the index: in a word of a format they are literals. -/
theorem cat_eq_iff {w v : Nat} (x : BitVec w) (y : BitVec v) (z : BitVec (w + v)) :
    @Eq (no_index (BitVec (w + v))) (no_index (x ++ y)) z ↔ x = fld v w z ∧ y = fld 0 v z := by
  constructor
  · rintro rfl
    exact ⟨by rw [fld_app_hi _ _ _ _ le_rfl, Nat.sub_self, fld_all], by rw [fld_app_lo _ _ _ _ (by omega), fld_all]⟩
  · rintro ⟨rfl, rfl⟩
    have h := fld_join 0 w v z
    rw [Nat.zero_add] at h
    rw [h, fld_all]

theorem eq_of_getLsbD_zero {x y : BitVec 1} (h : x.getLsbD 0 = y.getLsbD 0) : x = y :=
  BitVec.eq_of_getLsbD_eq fun i hi => by rwa [show i = 0 by omega]
theorem b1_eq_fld_iff {n : Nat} (x : Bool) (i : Nat) (w : BitVec n) : b1 x = fld i 1 w ↔ bitAt i w = x := by
  have h1 : (b1 x).getLsbD 0 = x := by cases x <;> rfl
  have hw : (fld i 1 w).getLsbD 0 = bitAt i w := by simp [fld, bitAt]
  rw [← hw]
  exact ⟨fun h => by rw [← h, h1], fun h => eq_of_getLsbD_zero (h1.trans h.symm)⟩
theorem zero_eq_fld_iff {n : Nat} (i : Nat) (w : BitVec n) : 0#1 = fld i 1 w ↔ bitAt i w = false := b1_eq_fld_iff false i w

theorem encG_eq_iff (x1 x2 : BitVec 1) (imx : BitVec 5) (f : SlotBits) :
    encG x1 x2 imx = f.g ↔ fld 7 2 f.g = 0 ∧ x1 = f.x1 ∧ x2 = f.x2 ∧ imx = f.imx := by
  simp [encG, SlotBits.x1, SlotBits.x2, SlotBits.imx, cat_eq_iff, fld_fld]
  tauto

variable (f : SlotBits)

@[simp] theorem encSR_eq_iff (op : BitVec 7) (p : BitVec 3) (d a b : BitVec 6) (fn : BitVec 3) :
    encSR op p d a b fn = .slot f.w f.g ↔ fld 29 3 f.w = 0 ∧ f.op = op ∧ fld 7 2 f.g = 0 ∧ f.imx = 0 ∧ f.p = p ∧ f.d = d ∧
      f.a = a ∧ f.b = b ∧ fn = f.fn := by
  simp [encSR, encG_eq_iff, SlotBits.op, SlotBits.p, SlotBits.d, SlotBits.a, SlotBits.b, SlotBits.fn, cat_eq_iff, fld_fld]
  tauto
@[simp] theorem encSI_eq_iff (hh : f.hdr = true) (op : BitVec 7) (p : BitVec 3) (d a : BitVec 6) (imm : BitVec 14) :
    encSI op p d a imm = .slot f.w f.g ↔ fld 29 3 f.w = 0 ∧ f.op = op ∧ fld 7 2 f.g = 0 ∧ f.p = p ∧ f.d = d ∧ f.a = a ∧
      f.imm14 = imm := by
  simp [encSI, encG_eq_iff, SlotBits.op, SlotBits.p, SlotBits.d, SlotBits.a, SlotBits.imm14, hh, cat_eq_iff, fld_fld]
  tauto
@[simp] theorem encSL_eq_iff (hh : f.hdr = true) (op : BitVec 7) (p : BitVec 3) (d : BitVec 6) (imm : BitVec 19) :
    encSL op p d imm = .slot f.w f.g ↔ fld 29 3 f.w = 0 ∧ f.op = op ∧ fld 7 2 f.g = 0 ∧ f.x2 = 0 ∧ f.p = p ∧ f.d = d ∧
      imm = f.imm19s := by
  rw [eq_comm (a := imm)]
  simp [encSL, encG_eq_iff, SlotBits.op, SlotBits.p, SlotBits.d, SlotBits.imm19s, hh, cat_eq_iff, fld_fld]
  tauto
@[simp] theorem encSM_eq_iff (hh : f.hdr = true) (op : BitVec 7) (p : BitVec 3) (d a : BitVec 6) (sz : BitVec 2) (sx fb : Bool)
    (imm : BitVec 10) :
    encSM op p d a sz sx fb imm = .slot f.w f.g ↔ fld 29 3 f.w = 0 ∧ f.op = op ∧ fld 7 2 f.g = 0 ∧ f.p = p ∧ f.d = d ∧
      f.a = a ∧ f.sz = sz ∧ f.sx = sx ∧ f.fb = fb ∧ f.imm10 = imm := by
  simp [encSM, encG_eq_iff, SlotBits.op, SlotBits.p, SlotBits.d, SlotBits.a, SlotBits.sz, SlotBits.sx, SlotBits.fb,
    SlotBits.imm10, hh, b1_eq_fld_iff, cat_eq_iff, fld_fld]
  tauto
@[simp] theorem encSC_eq_iff (op : BitVec 7) (p cd : BitVec 3) (a b : BitVec 6) (cond : BitVec 3) :
    encSC op p cd a b cond = .slot f.w f.g ↔ fld 29 3 f.w = 0 ∧ f.op = op ∧ fld 7 2 f.g = 0 ∧ f.x2 = 0 ∧ f.imx = 0 ∧
      f.p = p ∧ f.cd = cd ∧ f.w1514 = 0 ∧ f.a1 = a ∧ f.b = b ∧ f.fn = cond := by
  simp [encSC, encG_eq_iff, SlotBits.op, SlotBits.p, SlotBits.cd, SlotBits.w1514, SlotBits.a1, SlotBits.b, SlotBits.fn,
    cat_eq_iff, fld_fld]
  tauto
@[simp] theorem encSK_eq_iff (op : BitVec 7) (p cd ca cb : BitVec 3) :
    encSK op p cd ca cb = .slot f.w f.g ↔ fld 29 3 f.w = 0 ∧ f.op = op ∧ f.g = 0 ∧ f.p = p ∧ f.cd = cd ∧ f.ca = ca ∧
      f.cb = cb ∧ fld 0 10 f.w = 0 := by
  simp [encSK, SlotBits.op, SlotBits.p, SlotBits.cd, SlotBits.ca, SlotBits.cb, cat_eq_iff, fld_fld]
  tauto
@[simp] theorem encSG_eq_iff (op : BitVec 7) (p : BitVec 3) (e : BitVec 4) (a : BitVec 6) :
    encSG op p e a = .slot f.w f.g ↔ fld 29 3 f.w = 0 ∧ f.op = op ∧ fld 7 2 f.g = 0 ∧ f.x2 = 0 ∧ f.imx = 0 ∧ f.p = p ∧
      fld 15 4 f.w = e ∧ bitAt 14 f.w = false ∧ f.a1 = a ∧ fld 0 9 f.w = 0 := by
  simp [encSG, encG_eq_iff, SlotBits.op, SlotBits.p, SlotBits.a1, zero_eq_fld_iff, cat_eq_iff, fld_fld]
  tauto
@[simp] theorem encSX_eq_iff (op : BitVec 7) (p : BitVec 3) (d : BitVec 6) (crn : BitVec 7) :
    encSX op p d crn = .slot f.w f.g ↔ fld 29 3 f.w = 0 ∧ f.op = op ∧ fld 7 2 f.g = 0 ∧ f.x2 = 0 ∧ f.imx = 0 ∧ f.p = p ∧
      f.d = d ∧ f.crn = crn ∧ fld 0 7 f.w = 0 := by
  simp [encSX, encG_eq_iff, SlotBits.op, SlotBits.p, SlotBits.d, SlotBits.crn, cat_eq_iff, fld_fld]
  tauto

@[simp] theorem encXB_eq_iff (hh : f.hdr = true) (op : BitVec 7) (c : BitVec 3) (n : Bool) (off : BitVec 23) :
    encXB op c n off = .slot f.w f.g ↔ fld 29 3 f.w = 1 ∧ f.op = op ∧ fld 7 2 f.g = 0 ∧ f.x1 = 0 ∧ f.x2 = 0 ∧ f.p = c ∧
      f.xn = n ∧ f.off23 = off := by
  simp [encXB, encG_eq_iff, SlotBits.op, SlotBits.p, SlotBits.xn, SlotBits.off23, hh, b1_eq_fld_iff, cat_eq_iff, fld_fld]
  tauto
@[simp] theorem encXR_eq_iff (op : BitVec 7) (c : BitVec 3) (n : Bool) (a : BitVec 6) :
    encXR op c n a = .slot f.w f.g ↔ fld 29 3 f.w = 1 ∧ f.op = op ∧ fld 7 2 f.g = 0 ∧ f.x2 = 0 ∧ f.imx = 0 ∧ f.p = c ∧
      f.xn = n ∧ f.xa = a ∧ fld 0 13 f.w = 0 := by
  simp [encXR, encG_eq_iff, SlotBits.op, SlotBits.p, SlotBits.xn, SlotBits.xa, b1_eq_fld_iff, cat_eq_iff, fld_fld]
  tauto
@[simp] theorem encXL_eq_iff (op : BitVec 7) (a : BitVec 6) (len : BitVec 9) :
    encXL op a len = .slot f.w f.g ↔ fld 29 3 f.w = 1 ∧ f.op = op ∧ fld 7 2 f.g = 0 ∧ f.x2 = 0 ∧ f.imx = 0 ∧ f.ka = a ∧
      fld 8 9 f.w = len ∧ fld 0 8 f.w = 0 := by
  simp [encXL, encG_eq_iff, SlotBits.op, SlotBits.ka, cat_eq_iff, fld_fld]
  tauto
@[simp] theorem encXK_eq_iff (hh : f.hdr = true) (op : BitVec 7) (a b : BitVec 6) (imm : BitVec 17) :
    encXK op a b imm = .slot f.w f.g ↔ fld 29 3 f.w = 1 ∧ f.op = op ∧ fld 7 2 f.g = 0 ∧ f.ka = a ∧ f.kb = b ∧
      imm = f.imm17 := by
  rw [eq_comm (a := imm)]
  simp [encXK, encG_eq_iff, SlotBits.op, SlotBits.ka, SlotBits.kb, SlotBits.imm17, hh, cat_eq_iff, fld_fld]
  tauto
@[simp] theorem encXT_eq_iff (hh : f.hdr = true) (op : BitVec 7) (imm : BitVec 27) :
    encXT op imm = .slot f.w f.g ↔ fld 29 3 f.w = 1 ∧ f.op = op ∧ fld 7 2 f.g = 0 ∧ f.x1 = 0 ∧ f.x2 = 0 ∧ f.imm27z = imm := by
  simp [encXT, encG_eq_iff, SlotBits.op, SlotBits.imm27z, hh, cat_eq_iff, fld_fld]
  tauto

@[simp] theorem encVR_eq_iff (op : BitVec 7) (d a b : BitVec 5) (k t : BitVec 3) (m : Bool) :
    encVR op d a b k t m = .slot f.w f.g ↔ fld 29 3 f.w = 2 ∧ f.op = op ∧ f.g = 0 ∧ f.vd = d ∧ f.va = a ∧ b = f.vb ∧
      f.k = k ∧ f.t = t ∧ f.m = m := by
  simp [encVR, SlotBits.op, SlotBits.vd, SlotBits.va, SlotBits.vb, SlotBits.k, SlotBits.t, SlotBits.m, b1_eq_fld_iff,
    cat_eq_iff, fld_fld]
  tauto
@[simp] theorem encVC_eq_iff (op : BitVec 7) (kd : BitVec 3) (a b : BitVec 5) (cc t : BitVec 3) :
    encVC op kd a b cc t = .slot f.w f.g ↔ fld 29 3 f.w = 2 ∧ f.op = op ∧ f.g = 0 ∧ fld 20 2 f.w = 0 ∧ f.kd = kd ∧ f.va = a ∧
      f.vb = b ∧ f.k = cc ∧ f.t = t ∧ f.m = false := by
  simp [encVC, SlotBits.op, SlotBits.kd, SlotBits.va, SlotBits.vb, SlotBits.k, SlotBits.t, SlotBits.m, zero_eq_fld_iff,
    cat_eq_iff, fld_fld]
  tauto
@[simp] theorem encVK_eq_iff (op : BitVec 7) (kd ka kb : BitVec 3) :
    encVK op kd ka kb = .slot f.w f.g ↔ fld 29 3 f.w = 2 ∧ f.op = op ∧ f.g = 0 ∧ fld 20 2 f.w = 0 ∧ f.kd = kd ∧
      fld 15 2 f.w = 0 ∧ f.kka = ka ∧ fld 10 2 f.w = 0 ∧ f.kkb = kb ∧ fld 0 7 f.w = 0 := by
  simp [encVK, SlotBits.op, SlotBits.kd, SlotBits.kka, SlotBits.kkb, cat_eq_iff, fld_fld]
  tauto
@[simp] theorem encVI_eq_iff (op : BitVec 7) (d a : BitVec 5) (imm : BitVec 8) (t : BitVec 3) :
    encVI op d a imm t = .slot f.w f.g ↔ fld 29 3 f.w = 2 ∧ f.op = op ∧ f.g = 0 ∧ f.vd = d ∧ f.va = a ∧ imm = f.imm8 ∧
      f.t = t ∧ f.m = false := by
  simp [encVI, SlotBits.op, SlotBits.vd, SlotBits.va, SlotBits.imm8, SlotBits.t, SlotBits.m, zero_eq_fld_iff, cat_eq_iff,
    fld_fld]
  tauto
@[simp] theorem encVS_eq_iff (op : BitVec 7) (v : BitVec 5) (sa sb : BitVec 6) (k t : BitVec 3) (m : Bool) :
    encVS op v sa sb k t m = .slot f.w f.g ↔ fld 29 3 f.w = 2 ∧ f.op = op ∧ fld 7 2 f.g = 0 ∧ f.imx = 0 ∧ f.vd = v ∧
      f.sa = sa ∧ f.sb = sb ∧ f.k = k ∧ f.t = t ∧ f.m = m := by
  simp [encVS, encG_eq_iff, SlotBits.op, SlotBits.vd, SlotBits.sa, SlotBits.sb, SlotBits.k, SlotBits.t, SlotBits.m,
    b1_eq_fld_iff, cat_eq_iff, fld_fld]
  tauto

@[simp] theorem encMX_eq_iff (op : BitVec 7) (p acc : BitVec 3) (v : BitVec 5) (s1 s2 : BitVec 6) (o : Bool) :
    encMX op p acc v s1 s2 o = .slot f.w f.g ↔ fld 29 3 f.w = 3 ∧ f.op = op ∧ fld 7 2 f.g = 0 ∧ f.imx = 0 ∧ f.p = p ∧
      f.acc = acc ∧ v = f.mv ∧ f.s1 = s1 ∧ f.s2 = s2 ∧ f.m = o := by
  simp [encMX, encG_eq_iff, SlotBits.op, SlotBits.p, SlotBits.acc, SlotBits.mv, SlotBits.s1, SlotBits.s2, SlotBits.m,
    b1_eq_fld_iff, cat_eq_iff, fld_fld]
  tauto
@[simp] theorem encMP_eq_iff (op : BitVec 7) (p : BitVec 3) (count : BitVec 16) :
    encMP op p count = .slot f.w f.g ↔ fld 29 3 f.w = 3 ∧ f.op = op ∧ f.g = 0 ∧ f.p = p ∧ fld 3 16 f.w = count ∧
      fld 0 3 f.w = 0 := by
  simp [encMP, SlotBits.op, SlotBits.p, cat_eq_iff, fld_fld]
  tauto

@[simp] theorem encCC_eq_iff (op : BitVec 7) (p : BitVec 3) (g : BitVec 2) (cls xf : BitVec 4) (md : BitVec 9) :
    encCC op p g cls xf md = .slot f.w f.g ↔ fld 29 3 f.w = 4 ∧ f.op = op ∧ f.g = 0 ∧ f.p = p ∧ f.g2 = g ∧ f.cls = cls ∧
      f.xf = xf ∧ md = f.md := by
  simp [encCC, SlotBits.op, SlotBits.p, SlotBits.g2, SlotBits.cls, SlotBits.xf, SlotBits.md, cat_eq_iff, fld_fld]
  tauto
@[simp] theorem encCF_eq_iff (op : BitVec 7) (p : BitVec 3) (scope : BitVec 2) (mask : BitVec 16) :
    encCF op p scope mask = .slot f.w f.g ↔ fld 29 3 f.w = 4 ∧ f.op = op ∧ f.g = 0 ∧ f.p = p ∧ fld 17 2 f.w = scope ∧
      bitAt 16 f.w = false ∧ fld 0 16 f.w = mask := by
  simp [encCF, SlotBits.op, SlotBits.p, zero_eq_fld_iff, cat_eq_iff, fld_fld]
  tauto
/-! ### Fields within fields -/

/-- A literal value of a field; its field stands on the left, where `simp` rewrites it. -/
theorem ofNat_eq_comm {n : Nat} (x : Nat) (z : BitVec n) : BitVec.ofNat n x = z ↔ z = BitVec.ofNat n x := eq_comm
theorem b01_eq_iff (x : Bool) (z : BitVec 3) : b01 x = z ↔ z.toNat ≤ 1 ∧ bitAt 0 z = x := by
  revert x z
  decide

theorem SlotBits.fld_vb : fld 7 3 f.w = fld 0 3 f.vb ∧ fld 10 2 f.w = fld 3 2 f.vb ∧ fld 7 2 f.w = fld 0 2 f.vb ∧
    fld 9 3 f.w = fld 2 3 f.vb := by
  simp [SlotBits.vb, fld_fld]
theorem SlotBits.fld_mv : fld 14 2 f.w = fld 3 2 f.mv ∧ fld 11 3 f.w = fld 0 3 f.mv := by simp [SlotBits.mv, fld_fld]
theorem SlotBits.imm19z_eq (hh : f.hdr = true) : f.imm19z = f.imm19s := by simp [SlotBits.imm19z, SlotBits.imm19s, hh]
theorem SlotBits.imm27s_eq (hh : f.hdr = true) : f.imm27s = f.imm27z := by simp [SlotBits.imm27z, SlotBits.imm27s, hh]
theorem SlotBits.imx_of_group_zero (hg : f.g = 0) : f.imx = 0 := by rw [SlotBits.imx, hg]; rfl

theorem fld_add_eq_zero_iff {n : Nat} (lo a b : Nat) (w : BitVec n) :
    fld lo (a + b) w = 0#(a + b) ↔ fld (lo + b) a w = 0#a ∧ fld lo b w = 0#b := by
  have h0 : 0#a ++ 0#b = 0#(a + b) := by simp
  rw [eq_comm, ← h0, cat_eq_iff, fld_fld _ _ _ _ _ (by omega), fld_fld _ _ _ _ _ (by omega), Nat.add_zero, eq_comm,
    eq_comm (a := 0#b)]
theorem fld_one_eq_zero_iff {n : Nat} (i : Nat) (w : BitVec n) : fld i 1 w = 0#1 ↔ bitAt i w = false :=
  eq_comm.trans (zero_eq_fld_iff i w)
theorem low19_eq_zero_iff (w : BitVec 32) : fld 0 19 w = 0#19 ↔ fld 17 2 w = 0#2 ∧ bitAt 16 w = false ∧ fld 0 16 w = 0#16 := by
  rw [← fld_one_eq_zero_iff, ← fld_add_eq_zero_iff 0 1 16, ← fld_add_eq_zero_iff 0 2 17]
end Sys2Proof
end
section
/-!
THE DECODER READS AN ENCODING BACK (R77 to R87): the unit and the opcode of an encoding choose the line of the decoder that answers,
and its fields are the operands that this line reads.
-/
namespace Sys2Proof
variable {f : SlotBits} {i : Instr}

theorem legal_eq_ok_iff {r b : Bool} {i j : Instr} : legal r b i = .ok j ↔ r = false ∧ b = false ∧ i = j := by
  cases r <;> cases b <;> simp [legal]
theorem legalCr_eq_ok_iff {r b : Bool} {i j : Instr} : legalCr r b i = .ok j ↔ r = false ∧ b = false ∧ i = j := by
  cases r <;> cases b <;> simp [legalCr]

theorem decodeSlot_of_encode (hh : f.hdr = true) (hwf : i.wf = true) (he : encode i = some (.slot f.w f.g)) :
    decodeSlot f = .ok (.instr i) := by
  cases i <;> injection he <;> rename_i he
  all_goals
    delta Instr.wf at hwf
    dsimp only at hwf
    simp [hh, encPR, encPM, encPV, cat_eq_iff, fld_fld, ofNat_eq_comm, fld_one_eq_zero_iff, b01_eq_iff, b1_eq_fld_iff] at he
  all_goals
    obtain ⟨hu, hop, he⟩ := he
    rw [decodeSlot, hu]
    refine congrArg (Except.map SlotContent.instr) (a₂ := Except.ok _) ?_
    delta decodeS decodeX decodeV decodeM decodeC
    rw [hop]
  case crd | cwr => exact legalCr_eq_ok_iff.mpr (by simpa [he] using hwf)
  all_goals
    refine legal_eq_ok_iff.mpr ?_
    simp [he, hh, fpView, anyView, bitView, intView, SlotBits.imm19z_eq, SlotBits.imm27s_eq, SlotBits.fld_vb, SlotBits.fld_mv,
      SlotBits.imx_of_group_zero, low19_eq_zero_iff, or_iff_not_imp_left] at hwf ⊢
  all_goals tauto
end Sys2Proof
end
section
/-! PURLIN WORDS (R398, R399): the fields of an encoding are its operands, and the decoder reads them back. -/
namespace Sys2Proof
variable {w : BitVec 32} {i : Instr}

theorem legalP_eq_ok_iff {r : Bool} {i j : Instr} : legalP r i = .ok j ↔ r = true ∧ i = j := by
  cases r <;> simp [legalP]

/-- A number in a field, as a value of the field. -/
theorem ofNat_eq_fld_comm {n : Nat} (x lo len : Nat) (w : BitVec n) : BitVec.ofNat len x = fld lo len w ↔ fld lo len w = BitVec.ofNat len x :=
  eq_comm
theorem bitAt_fld {n : Nat} (lo len j : Nat) (w : BitVec n) (h : j < len) : bitAt j (fld lo len w) = bitAt (lo + j) w := by
  simp [bitAt, fld, h]
/-- The number of a vector register, whose high bit is clear (R398). -/
theorem fld_eq_low3 (h : bitAt 24 w = false) : 0#1 ++ fld 21 3 w = fld 21 4 w := by
  rw [cat_eq_iff, fld_fld _ _ _ _ _ (by decide), fld_fld _ _ _ _ _ (by decide), zero_eq_fld_iff]
  exact ⟨h, rfl⟩

theorem low18_eq_zero_iff : fld 0 18 w = 0#18 ↔ fld 14 4 w = 0#4 ∧ fld 0 14 w = 0#14 := fld_add_eq_zero_iff 0 4 14 w
theorem low22_eq_zero_iff : fld 0 22 w = 0#22 ↔ fld 18 4 w = 0#4 ∧ fld 14 4 w = 0#4 ∧ fld 0 14 w = 0#14 := by
  rw [← low18_eq_zero_iff, ← fld_add_eq_zero_iff 0 4 18]
theorem low26_eq_zero_iff : fld 0 26 w = 0#26 ↔ fld 22 4 w = 0#4 ∧ fld 18 4 w = 0#4 ∧ fld 14 4 w = 0#4 ∧ fld 0 14 w = 0#14 := by
  rw [← low22_eq_zero_iff, ← fld_add_eq_zero_iff 0 4 22]

theorem decodePurlin_of_encode (hwf : i.wf = true) (he : encode i = some (.purlin w)) : decodePurlin w = .ok i := by
  cases i <;> injection he <;> rename_i he
  all_goals
    delta Instr.wf at hwf
    dsimp only at hwf
    simp [encSR, encSI, encSL, encSM, encSC, encSK, encSG, encSX, encXB, encXR, encXL, encXK, encXT, encVR, encVC, encVK, encVI, encVS,
      encMX, encMP, encCC, encCF, encPR, encPM, encPV, cat_eq_iff, fld_fld, b1_eq_fld_iff, ofNat_eq_fld_comm, and_assoc, -BitVec.reduceAppend] at he
  all_goals
    obtain ⟨hop, he⟩ := he
    rw [decodePurlin, hop]
  case pmovi => simp [he]
  all_goals
    refine legalP_eq_ok_iff.mpr ?_
    simp [he, pmOk, low18_eq_zero_iff, low22_eq_zero_iff, low26_eq_zero_iff, bitAt_fld] at hwf ⊢
  case pmld | pmst | pfld | pfst => cases hk : bitAt 25 w <;> simp_all [fld_eq_low3]
  all_goals tauto

/-- Settles O1: the fields of an encoding are the operands of its instruction, and the decoder reads these fields. -/
theorem decodeOfEncodeIsTheInstruction : Obligations.DecodeOfEncodeIsTheInstruction := by
  intro i e hwf he
  cases e with
  | slot w g =>
    have h : decodeSlot ⟨w, g, true⟩ = .ok (.instr i) := decodeSlot_of_encode rfl hwf he
    simp only [decodeEnc, h]
  | purlin w => exact decodePurlin_of_encode hwf he
end Sys2Proof
end
section
/-!
A WORD THAT DECODES IS THE ENCODING OF ITS INSTRUCTION (R61, R76 to R87): what the decoder refuses is what the formats leave unused.
-/
namespace Sys2Proof
variable {f : SlotBits} {i : Instr}

theorem group_eq_zero_iff : f.g = 0#9 ↔ fld 7 2 f.g = 0 ∧ f.x1 = 0 ∧ f.x2 = 0 ∧ f.imx = 0 := by
  have h : 0#9 = f.g ↔ fld 7 2 f.g = 0 ∧ 0 = f.x1 ∧ 0 = f.x2 ∧ 0 = f.imx := encG_eq_iff 0 0 0 f
  rw [eq_comm, h]
  tauto

/-- What a header group that suits its slot leaves clear (R76). -/
theorem clear_of_groupError {u : BitVec 3} {op : BitVec 7} {n : Nat} {imm : Bool} (hg : groupError f.w f.g = false)
    (hu : fld 29 3 f.w = u) (hop : f.op = op) (h6 : u ≠ 6) (hs : slotShape u op = (n, imm)) :
    (n = 0 → f.x1 = 0) ∧ (n < 2 → f.x2 = 0) ∧ (imm = false → f.imx = 0) := by
  have hop' : fld 22 7 f.w = op := hop
  have h6' : (u == 6) = false := by simpa using h6
  have h1 : f.x1 = 0 ↔ bitAt 6 f.g = false := fld_one_eq_zero_iff 6 f.g
  have h2 : f.x2 = 0 ↔ bitAt 5 f.g = false := fld_one_eq_zero_iff 5 f.g
  have hi : f.imx = fld 0 5 f.g := rfl
  simp only [groupError, hu, hop', hs, h6', Bool.false_eq_true, if_false, Bool.or_eq_false_iff, Bool.and_eq_false_iff,
    decide_eq_false_iff_not, beq_eq_false_iff_ne, bne_eq_false_iff_eq, Bool.not_eq_false'] at hg
  obtain ⟨⟨⟨-, hx1⟩, hx2⟩, himx⟩ := hg
  rw [h1, h2, hi]
  exact ⟨hx1.resolve_right ∘ not_not_intro, hx2.resolve_right ∘ not_not_intro, fun h => himx.resolve_right (by simp [h])⟩

theorem map_instr_eq_ok_iff {o : Except Reject Instr} : o.map SlotContent.instr = .ok (.instr i) ↔ o = .ok i := by
  cases o <;> simp [Except.map]

theorem encode_of_decodeSlot (hh : f.hdr = true) (hf : fld 7 2 f.g = 0) (hg : groupError f.w f.g = false)
    (h : decodeSlot f = .ok (.instr i)) : encode i = some (.slot f.w f.g) ∧ i.wf = true := by
  have hu : fld 29 3 f.w = BitVec.ofNat 3 (fld 29 3 f.w).toNat := by simp
  have hop : f.op = BitVec.ofNat 7 f.op.toNat := by simp
  unfold decodeSlot at h
  split at h
  case h_6 | h_8 => cases h
  case h_7 => split at h <;> cases h
  all_goals
    rename_i hn
    rw [hn] at hu
    rw [map_instr_eq_ok_iff] at h
    delta decodeS decodeX decodeV decodeM decodeC at h
    split at h <;> simp only [legal_eq_ok_iff, legalCr_eq_ok_iff, reduceCtorEq] at h
    all_goals
      rename_i hn
      rw [hn] at hop
      obtain ⟨h1, h2, hi⟩ := clear_of_groupError hg hu hop (by decide) rfl
      obtain ⟨hr, hb, rfl⟩ := h
      simp [SlotBits.fld_vb, SlotBits.fld_mv, SlotBits.imm19z_eq, hh, low19_eq_zero_iff] at h1 h2 hi hr hb
      refine ⟨congrArg some ?_, ?_⟩
      · simp [*, cat_eq_iff, fld_fld, ofNat_eq_comm, fld_one_eq_zero_iff, b01_eq_iff, b1_eq_fld_iff, group_eq_zero_iff,
          SlotBits.imm19z_eq, SlotBits.imm27s_eq, SlotBits.fld_vb, SlotBits.fld_mv]
      · delta Instr.wf
        simp [fpView, anyView, bitView, intView, SlotBits.fld_vb, or_iff_not_imp_left] <;> tauto
end Sys2Proof
end
section
/-!
A WORD WITHOUT A HEADER IS THE ENCODING OF ITS INSTRUCTION (R61, R63): it decodes as with a group whose flags and extension bits are 0
and whose IMX bits repeat the sign of a signed immediate.
-/
namespace Sys2Proof

/-- The position of the sign of the immediate that an opcode extends by its sign (R63). -/
def signPlace (u op : Nat) : Option Nat :=
  match u, op with
  | 0, 0x02 => some 8 | 0, 0x1D => some 13 | 0, 0x26 => some 4 | 0, 0x27 => some 4
  | 1, 0x01 => some 17 | 1, 0x02 => some 17 | 1, 0x04 => some 17 | 1, 0x0F => some 21
  | _, _ => none

/-- The group that says what a word says without a header. -/
def signGroup (w : BitVec 32) : BitVec 9 :=
  if (signPlace (fld 29 3 w).toNat (fld 22 7 w).toNat).any (bitAt · w) then 31 else 0

theorem signGroup_cases (w : BitVec 32) : signGroup w = 0 ∨ signGroup w = 31 := by
  unfold signGroup
  split <;> simp

theorem zeroExtend_eq_append {n : Nat} (x : BitVec n) : x.zeroExtend (5 + n) = 0#5 ++ x := by
  refine BitVec.eq_of_getLsbD_eq fun i hi => ?_
  rw [BitVec.getLsbD_setWidth, BitVec.getLsbD_append]
  by_cases h : i < n
  · simp [h, hi]
  · simp [h, BitVec.getLsbD_of_ge x i (Nat.le_of_not_lt h)]
theorem signExtend_eq_append {n : Nat} (x : BitVec n) : x.signExtend (5 + n) = (if x.msb then 31#5 else 0#5) ++ x := by
  refine BitVec.eq_of_getLsbD_eq fun i hi => ?_
  rw [BitVec.getLsbD_signExtend, BitVec.getLsbD_append]
  by_cases h : i < n
  · simp [h, hi]
  · have h5 : i - n < 5 := by omega
    cases x.msb
    · simp [h]
    · have : ∀ j < 5, (31#5).getLsbD j = true := by decide
      simp [h, hi, this _ h5]
theorem msb_fld (n : Nat) (w : BitVec 32) : (fld 0 (n + 1) w).msb = bitAt n w := by
  simp [BitVec.msb_eq_getLsbD_last, fld, bitAt]

variable (w : BitVec 32)
/-- The bits of a slot word that stands without a header. -/
def bareSlot : SlotBits := ⟨w, 0, false⟩
/-- The bits of a slot word with the group that says the same. -/
def signedSlot : SlotBits := ⟨w, signGroup w, true⟩

@[simp] theorem x1_signedSlot : (signedSlot w).x1 = (bareSlot w).x1 := by
  obtain h | h := signGroup_cases w <;> simp [signedSlot, bareSlot, SlotBits.x1, h, fld]
@[simp] theorem x2_signedSlot : (signedSlot w).x2 = (bareSlot w).x2 := by
  obtain h | h := signGroup_cases w <;> simp [signedSlot, bareSlot, SlotBits.x2, h, fld]
@[simp] theorem w_signedSlot : (signedSlot w).w = (bareSlot w).w := rfl
@[simp] theorem d_signedSlot : (signedSlot w).d = (bareSlot w).d := by simp [SlotBits.d]
@[simp] theorem a_signedSlot : (signedSlot w).a = (bareSlot w).a := by simp [SlotBits.a]
@[simp] theorem a1_signedSlot : (signedSlot w).a1 = (bareSlot w).a1 := by simp [SlotBits.a1]
@[simp] theorem xa_signedSlot : (signedSlot w).xa = (bareSlot w).xa := by simp [SlotBits.xa]
@[simp] theorem ka_signedSlot : (signedSlot w).ka = (bareSlot w).ka := by simp [SlotBits.ka]
@[simp] theorem kb_signedSlot : (signedSlot w).kb = (bareSlot w).kb := by simp [SlotBits.kb]
@[simp] theorem sa_signedSlot : (signedSlot w).sa = (bareSlot w).sa := by simp [SlotBits.sa]
@[simp] theorem sb_signedSlot : (signedSlot w).sb = (bareSlot w).sb := by simp [SlotBits.sb]
@[simp] theorem s1_signedSlot : (signedSlot w).s1 = (bareSlot w).s1 := by simp [SlotBits.s1]
@[simp] theorem s2_signedSlot : (signedSlot w).s2 = (bareSlot w).s2 := by simp [SlotBits.s2]
theorem op_signedSlot : (signedSlot w).op = (bareSlot w).op := rfl
variable {w}
section
variable {n : Nat}
theorem imx_signedSlot_of_none (hp : signPlace (fld 29 3 w).toNat (fld 22 7 w).toNat = none) : (signedSlot w).imx = (bareSlot w).imx := by
  simp [signedSlot, bareSlot, SlotBits.imx, signGroup, hp]
theorem imx_signedSlot_of_some (hp : signPlace (fld 29 3 w).toNat (fld 22 7 w).toNat = some n) :
    (signedSlot w).imx = if (fld 0 (n + 1) w).msb then 31#5 else 0#5 := by
  rw [msb_fld]
  simp only [signedSlot, SlotBits.imx, signGroup, hp, Option.any_some]
  split <;> rfl
theorem signExtend_of_signPlace (hp : signPlace (fld 29 3 w).toNat (fld 22 7 w).toNat = some n) :
    (signedSlot w).imx ++ fld 0 (n + 1) w = (fld 0 (n + 1) w).signExtend (5 + (n + 1)) := by
  rw [imx_signedSlot_of_some hp, signExtend_eq_append]
theorem zeroExtend_of_signPlace (hp : signPlace (fld 29 3 w).toNat (fld 22 7 w).toNat = none) :
    (signedSlot w).imx ++ fld 0 n w = (fld 0 n w).zeroExtend (5 + n) := by
  rw [imx_signedSlot_of_none hp, zeroExtend_eq_append]
  rfl
end
theorem imm14_signedSlot (hp : signPlace (fld 29 3 w).toNat (fld 22 7 w).toNat = some 8) : (signedSlot w).imm14 = (bareSlot w).imm14 :=
  signExtend_of_signPlace hp
theorem imm19s_signedSlot (hp : signPlace (fld 29 3 w).toNat (fld 22 7 w).toNat = some 13) : (signedSlot w).imm19s = (bareSlot w).imm19s :=
  signExtend_of_signPlace hp
theorem imm10_signedSlot (hp : signPlace (fld 29 3 w).toNat (fld 22 7 w).toNat = some 4) : (signedSlot w).imm10 = (bareSlot w).imm10 :=
  signExtend_of_signPlace hp
theorem off23_signedSlot (hp : signPlace (fld 29 3 w).toNat (fld 22 7 w).toNat = some 17) : (signedSlot w).off23 = (bareSlot w).off23 :=
  signExtend_of_signPlace hp
theorem imm27s_signedSlot (hp : signPlace (fld 29 3 w).toNat (fld 22 7 w).toNat = some 21) : (signedSlot w).imm27s = (bareSlot w).imm27s :=
  signExtend_of_signPlace hp
theorem imm19z_signedSlot (hp : signPlace (fld 29 3 w).toNat (fld 22 7 w).toNat = none) : (signedSlot w).imm19z = (bareSlot w).imm19z :=
  zeroExtend_of_signPlace hp
theorem imm17_signedSlot (hp : signPlace (fld 29 3 w).toNat (fld 22 7 w).toNat = none) : (signedSlot w).imm17 = (bareSlot w).imm17 :=
  zeroExtend_of_signPlace hp
theorem imm27z_signedSlot (hp : signPlace (fld 29 3 w).toNat (fld 22 7 w).toNat = none) : (signedSlot w).imm27z = (bareSlot w).imm27z :=
  zeroExtend_of_signPlace hp

theorem decodeS_of_unassigned {f : SlotBits} (h : f.op.toNat = 0 ∨ 0x30 < f.op.toNat) : decodeS f = .error .unassignedOpcode := by
  unfold decodeS
  split
  case h_49 => rfl
  all_goals omega
theorem decodeX_of_unassigned {f : SlotBits} (h : f.op.toNat = 0 ∨ 0x11 < f.op.toNat) : decodeX f = .error .unassignedOpcode := by
  unfold decodeX
  split
  case h_18 => rfl
  all_goals omega
theorem decodeV_of_unassigned {f : SlotBits} (h : f.op.toNat = 0 ∨ 0x35 < f.op.toNat) : decodeV f = .error .unassignedOpcode := by
  unfold decodeV
  split
  case h_54 => rfl
  all_goals omega
theorem decodeM_of_unassigned {f : SlotBits} (h : f.op.toNat = 0 ∨ 0x0B < f.op.toNat) : decodeM f = .error .unassignedOpcode := by
  unfold decodeM
  split
  case h_12 => rfl
  all_goals omega
theorem decodeC_of_unassigned {f : SlotBits} (h : f.op.toNat = 0 ∨ 0x14 < f.op.toNat) : decodeC f = .error .unassignedOpcode := by
  unfold decodeC
  split
  case h_21 => rfl
  all_goals omega

theorem decodeS_signedSlot (hu : (fld 29 3 w).toNat = 0) : decodeS (signedSlot w) = decodeS (bareSlot w) := by
  delta decodeS
  simp only [op_signedSlot, d_signedSlot, a_signedSlot, a1_signedSlot]
  split
  case h_2 hn => rw [imm14_signedSlot (congrArg₂ signPlace hu hn)]; rfl
  case h_29 hn => rw [imm19s_signedSlot (congrArg₂ signPlace hu hn)]; rfl
  case h_30 hn => rw [imm19z_signedSlot (congrArg₂ signPlace hu hn)]; rfl
  case h_38 hn | h_39 hn => rw [imm10_signedSlot (congrArg₂ signPlace hu hn)]; rfl
  all_goals rfl
theorem decodeX_signedSlot (hu : (fld 29 3 w).toNat = 1) : decodeX (signedSlot w) = decodeX (bareSlot w) := by
  delta decodeX
  simp only [op_signedSlot, xa_signedSlot, ka_signedSlot, kb_signedSlot]
  split
  case h_1 hn | h_2 hn | h_4 hn => rw [off23_signedSlot (congrArg₂ signPlace hu hn)]; rfl
  case h_15 hn => rw [imm27s_signedSlot (congrArg₂ signPlace hu hn)]
  case h_7 hn | h_8 hn | h_9 hn => rw [imm17_signedSlot (congrArg₂ signPlace hu hn)]
  case h_10 hn | h_11 hn | h_12 hn | h_13 hn | h_14 hn | h_16 hn | h_17 hn => rw [imm27z_signedSlot (congrArg₂ signPlace hu hn)]
  all_goals rfl
theorem decodeV_signedSlot (hu : (fld 29 3 w).toNat = 2) : decodeV (signedSlot w) = decodeV (bareSlot w) := by
  have hp : signPlace (fld 29 3 w).toNat (fld 22 7 w).toNat = none := by
    rw [hu]
    simp [signPlace]
  simp only [decodeV, op_signedSlot, sa_signedSlot, sb_signedSlot, imx_signedSlot_of_none hp]
  rfl
theorem decodeM_signedSlot : decodeM (signedSlot w) = decodeM (bareSlot w) := by
  simp only [decodeM, op_signedSlot, s1_signedSlot, s2_signedSlot]
  rfl
theorem decodeC_signedSlot : decodeC (signedSlot w) = decodeC (bareSlot w) := rfl
end Sys2Proof
end
section
/-! ONE ENCODING OF A WORD (R61, R76, R398, R399): with its header group, without a header, and as a purlin word. -/
namespace Sys2Proof
variable {w : BitVec 32} {i : Instr}

theorem decodeSlot_signedSlot : decodeSlot (signedSlot w) = decodeSlot (bareSlot w) := by
  unfold decodeSlot
  rw [w_signedSlot]
  split
  case h_1 hu => rw [decodeS_signedSlot (w := w) hu]
  case h_2 hu => rw [decodeX_signedSlot (w := w) hu]
  case h_3 hu => rw [decodeV_signedSlot (w := w) hu]
  case h_4 => rw [decodeM_signedSlot]
  case h_5 => rw [decodeC_signedSlot]
  all_goals rfl

theorem slotShape_of_signPlace {u : BitVec 3} {op : BitVec 7} (h : signPlace u.toNat op.toNat ≠ none) : (slotShape u op).2 = true := by
  have hu : u = BitVec.ofNat 3 u.toNat := by simp
  have hop : op = BitVec.ofNat 7 op.toNat := by simp
  unfold signPlace at h
  split at h
  case h_9 => exact absurd rfl h
  all_goals
    rename_i h1 h2
    rw [hu, hop, h1, h2]
    rfl
theorem signGroup_eq_zero (h : signPlace (fld 29 3 w).toNat (fld 22 7 w).toNat = none) : signGroup w = 0 := by
  simp [signGroup, h]
theorem groupError_zero : groupError w 0 = false := by
  simp [groupError, bitAt, fld]
theorem groupError_signGroup : groupError w (signGroup w) = false := by
  by_cases h : signPlace (fld 29 3 w).toNat (fld 22 7 w).toNat = none
  · rw [signGroup_eq_zero h, groupError_zero]
  · have h6 : fld 29 3 w ≠ 6#3 := fun h6 => h (by rw [h6]; rfl)
    obtain hg | hg := signGroup_cases w
    · rw [hg, groupError_zero]
    · simp [groupError, h6, slotShape_of_signPlace h, hg, bitAt]

theorem encode_of_decodeSlot_without_header (h : decodeSlot ⟨w, 0, false⟩ = .ok (.instr i)) :
    i.wf = true ∧ ∃ g, encode i = some (.slot w g) ∧ fld 5 4 g = 0 ∧ (fld 0 5 g = 0 ∨ fld 0 5 g = 31) := by
  have hd : decodeSlot (signedSlot w) = .ok (.instr i) := decodeSlot_signedSlot.trans h
  have hg : fld 7 2 (signGroup w) = 0 ∧ fld 5 4 (signGroup w) = 0 ∧ (fld 0 5 (signGroup w) = 0 ∨ fld 0 5 (signGroup w) = 31) := by
    obtain hg | hg := signGroup_cases w <;> rw [hg] <;> decide
  obtain ⟨hf, hx, hi⟩ := hg
  obtain ⟨he, hwf⟩ := encode_of_decodeSlot (f := signedSlot w) rfl hf groupError_signGroup hd
  exact ⟨hwf, signGroup w, he, hx, hi⟩

theorem encode_of_decodePurlin (h : decodePurlin w = .ok i) : encode i = some (.purlin w) ∧ i.wf = true := by
  have hop : fld 26 6 w = BitVec.ofNat 6 (fld 26 6 w).toNat := by simp
  unfold decodePurlin at h
  dsimp only at h
  split at h <;> simp only [legalP_eq_ok_iff, reduceCtorEq, Except.ok.injEq] at h
  all_goals
    rename_i hn
    rw [hn] at hop
  case h_11 =>
    subst h
    exact ⟨congrArg some (by simp [cat_eq_iff, fld_fld, hop]), rfl⟩
  all_goals
    obtain ⟨hr, rfl⟩ := h
    simp [low18_eq_zero_iff, low22_eq_zero_iff, low26_eq_zero_iff, and_assoc] at hr
  case h_14 | h_15 | h_16 | h_17 =>
    cases hk : bitAt 25 w
    all_goals
      simp only [hk] at hr
      refine ⟨congrArg some ?_, ?_⟩
      · simp_all [encPM, cat_eq_iff, fld_fld, b1_eq_fld_iff, zero_eq_fld_iff]
      · delta Instr.wf
        simp_all [pmOk, bitAt_fld, fld_eq_low3]
  all_goals
    refine ⟨congrArg some ?_, ?_⟩
    · simp [*, encPR, encPV, cat_eq_iff, fld_fld, b1_eq_fld_iff, -BitVec.reduceAppend]
    · delta Instr.wf
      simp [*]

/-- Settles O2: what the decoder does not read it refuses unless it is clear, so each field of a word that decodes is an operand of its
instruction, or clear. -/
theorem eachWordHasOneEncoding : Obligations.EachWordHasOneEncoding :=
  ⟨fun w g _ hf hg h => encode_of_decodeSlot (f := ⟨w, g, true⟩) rfl hf hg h, fun _ _ h => encode_of_decodeSlot_without_header h,
    fun _ _ h => encode_of_decodePurlin h⟩
end Sys2Proof
end
section
/-!
THE DECODED BUNDLE (R56, R57, R61): slot by slot, what a slot adds to the decoded bundle, and what of it a judgement reports (R76).
-/
namespace Sys2Proof
variable {b : BitVec 128} {n : Nat}

/-- What slot n alone adds to the decoded bundle. -/
def slotPart (b : BitVec 128) (n : Nat) : Bundle := decodeInto b ⟨[], []⟩ n
/-- Slot n as the decoder reads it. -/
def slotBits (b : BitVec 128) (n : Nat) : SlotBits := ⟨bundleSlot b n, headerGroup (bundleSlot b 0) n, isHeader (bundleSlot b 0)⟩
/-- Slot n of a bundle, of an instruction. -/
def slotOf (b : BitVec 128) (n : Nat) (i : Instr) : BSlot :=
  ⟨n, bitAt 8 (headerGroup (bundleSlot b 0) n), bitAt 7 (headerGroup (bundleSlot b 0) n), i⟩

theorem decodeInto_eq (acc : Bundle) : decodeInto b acc n = ⟨acc.slots ++ (slotPart b n).slots, acc.faults ++ (slotPart b n).faults⟩ := by
  unfold slotPart decodeInto
  dsimp only
  split
  · split <;> simp
  · split <;> simp

theorem decodeBundle_eq (b : BitVec 128) : decodeBundle b =
    ⟨(List.range 4).flatMap fun n => (slotPart b n).slots, (List.range 4).flatMap fun n => (slotPart b n).faults⟩ := by
  have h : List.range 4 = [0, 1, 2, 3] := rfl
  simp [decodeBundle, decodeInto_eq, h]

theorem slotPart_of_header (h0 : n = 0) (h : isHeader (bundleSlot b 0) = true) : (slotPart b n).slots = [] ∧
    ∀ x, x ∈ (slotPart b n).faults ↔ x = (0, .headerError) ∧
      (fld 27 2 (bundleSlot b 0) ≠ 0 ∨ ∃ j, 1 ≤ j ∧ j ≤ 3 ∧ groupError (bundleSlot b j) (headerGroup (bundleSlot b 0) j) = true) := by
  have hj (p : Nat → Bool) : [1, 2, 3].any p = true ↔ ∃ j, 1 ≤ j ∧ j ≤ 3 ∧ p j = true := by
    simp only [List.any_cons, List.any_nil, Bool.or_false, Bool.or_eq_true]
    constructor
    · rintro (h | h | h)
      exacts [⟨1, by simp [h]⟩, ⟨2, by simp [h]⟩, ⟨3, by simp [h]⟩]
    · rintro ⟨j, h1, h3, h⟩
      interval_cases j <;> simp [h]
  subst h0
  simp only [slotPart, decodeInto, h, BEq.rfl, Bool.and_self, if_true]
  split
  case isTrue hb =>
    rw [Bool.or_eq_true, hj, bne_iff_ne] at hb
    exact ⟨rfl, fun x => by simp only [List.nil_append, List.mem_singleton, hb, and_true]⟩
  case isFalse hb =>
    rw [Bool.or_eq_true, hj, bne_iff_ne] at hb
    exact ⟨rfl, fun x => by simp only [List.not_mem_nil, hb, and_false]⟩

theorem slotPart_of_word (h : ¬ (n = 0 ∧ isHeader (bundleSlot b 0) = true)) : slotPart b n =
    match decodeSlot (slotBits b n) with
    | .error r => ⟨[], [(n, r)]⟩
    | .ok .filler => ⟨[], []⟩
    | .ok (.instr i) => ⟨[slotOf b n i], []⟩ := by
  have h' : (n == 0 && isHeader (bundleSlot b 0)) = false := by simpa using h
  simp only [slotPart, decodeInto, h', Bool.false_eq_true, if_false]
  change (match decodeSlot (slotBits b n) with | .error r => _ | .ok .filler => _ | .ok (.instr i) => _) = _
  split <;> rfl

theorem slotPart_number : (∀ x ∈ (slotPart b n).slots, x.n = n) ∧ ∀ x ∈ (slotPart b n).faults, x.1 = n := by
  by_cases h : n = 0 ∧ isHeader (bundleSlot b 0) = true
  · obtain ⟨hs, hf⟩ := slotPart_of_header h.1 h.2
    exact ⟨by simp [hs], fun x hx => by rw [((hf x).mp hx).1, h.1]⟩
  · rw [slotPart_of_word h]
    split <;> simp [slotOf]

namespace Machine
variable {s : State}

/-- The slot faults of a bundle as it is judged, each with its slot. -/
def slotFaults (s : State) (bits : BitVec 128) : List (Nat × Reject) :=
  let b := decodeBundle bits
  let vs := (b.slots.filter (edgeActs s.me)).map fun x => (x.n, slotVerdict x.i (s.atSlot bits x.n))
  b.faults ++ (b.slots.filterMap fun x => if staticIllegal x.i then some (x.n, Reject.illegalUse) else none) ++
    vs.filterMap fun x => match x.2 with | .illegal _ => some (x.1, Reject.illegalUse) | _ => none

theorem mem_slotFaults {bits : BitVec 128} {x : Nat × Reject} : x ∈ slotFaults s bits ↔ ∃ n < 4, x ∈ (slotPart bits n).faults ∨
    ∃ y ∈ (slotPart bits n).slots, x = (y.n, .illegalUse) ∧ (staticIllegal y.i = true ∨
      edgeActs s.me y = true ∧ ∃ r, slotVerdict y.i (s.atSlot bits y.n) = .illegal r) := by
  simp only [slotFaults, decodeBundle_eq, List.mem_append, List.mem_filterMap, List.mem_map, List.mem_filter, List.mem_flatMap, List.mem_range]
  constructor
  · rintro ((⟨n, hn, h⟩ | ⟨y, ⟨n, hn, hy⟩, h⟩) | ⟨_, ⟨y, ⟨⟨n, hn, hy⟩, he⟩, rfl⟩, h⟩)
    · exact ⟨n, hn, .inl h⟩
    · split at h
      case isTrue hst => exact ⟨n, hn, .inr ⟨y, hy, (Option.some.inj h).symm, .inl hst⟩⟩
      case isFalse => cases h
    · split at h
      case h_1 r hr => exact ⟨n, hn, .inr ⟨y, hy, (Option.some.inj h).symm, .inr ⟨he, r, hr⟩⟩⟩
      case h_2 => cases h
  · rintro ⟨n, hn, h | ⟨y, hy, rfl, hst | ⟨he, r, hr⟩⟩⟩
    · exact .inl (.inl ⟨n, hn, h⟩)
    · exact .inl (.inr ⟨y, ⟨n, hn, hy⟩, by simp [hst]⟩)
    · exact .inr ⟨_, ⟨y, ⟨⟨n, hn, hy⟩, he⟩, rfl⟩, by simp [hr]⟩

theorem mem_slotFaults_of_number {bits : BitVec 128} {n : Nat} {e : Reject} : (n, e) ∈ slotFaults s bits ↔ n < 4 ∧
    ((n, e) ∈ (slotPart bits n).faults ∨ ∃ y ∈ (slotPart bits n).slots, e = .illegalUse ∧ (staticIllegal y.i = true ∨
      edgeActs s.me y = true ∧ ∃ r, slotVerdict y.i (s.atSlot bits n) = .illegal r)) := by
  rw [mem_slotFaults]
  constructor
  · rintro ⟨m, hm, h | ⟨y, hy, he, h⟩⟩
    · obtain rfl : n = m := slotPart_number.2 _ h
      exact ⟨hm, .inl h⟩
    · obtain rfl : y.n = m := slotPart_number.1 _ hy
      obtain ⟨rfl, rfl⟩ := Prod.mk.inj he
      exact ⟨hm, .inr ⟨y, hy, rfl, h⟩⟩
  · rintro ⟨hn, h | ⟨y, hy, rfl, h⟩⟩
    · exact ⟨n, hn, .inl h⟩
    · obtain rfl : y.n = n := slotPart_number.1 _ hy
      exact ⟨y.n, hn, .inr ⟨y, hy, rfl, h⟩⟩

theorem slotFault_iff {bits : BitVec 128} {n r : Nat} : SlotFault s bits n r ↔ ∃ e, (n, e) ∈ slotFaults s bits ∧ e.reason = r := by
  simp only [mem_slotFaults_of_number, SlotFault, and_assoc, exists_and_left]
  refine and_congr_right fun _ => ?_
  split
  case isTrue h =>
    obtain ⟨rfl, h⟩ := h
    obtain ⟨hs, hf⟩ := slotPart_of_header rfl h
    simp only [hs, hf, Prod.mk.injEq, true_and, List.not_mem_nil, false_and, exists_false, or_false]
    constructor
    · rintro ⟨rfl, hb⟩
      exact ⟨.headerError, ⟨rfl, hb⟩, rfl⟩
    · rintro ⟨_, ⟨rfl, hb⟩, rfl⟩
      exact ⟨rfl, hb⟩
  case isFalse h =>
    rw [slotPart_of_word h]
    change (match decodeSlot (slotBits bits n) with | .error e => _ | .ok .filler => _ | .ok (.instr i) => _) ↔ _
    split
    case h_1 e _ =>
      simp only [List.mem_singleton, Prod.mk.injEq, true_and, List.not_mem_nil, false_and, exists_false, or_false, exists_eq_left]
      exact eq_comm
    case h_2 => simp only [List.not_mem_nil, false_and, exists_false, or_false]
    case h_3 i _ =>
      simp only [List.not_mem_nil, false_or, List.mem_singleton, exists_eq_left]
      constructor
      · rintro ⟨rfl, hi⟩
        exact ⟨.illegalUse, ⟨rfl, hi⟩, rfl⟩
      · rintro ⟨_, ⟨rfl, hi⟩, rfl⟩
        exact ⟨rfl, hi⟩

end Machine
end Sys2Proof
end
section
/-! THE FAULT THAT IS NAMED (R76): the lowest faulting slot, its lowest reason, and the judgement of a bundle by it. -/
namespace Sys2Proof

/-- A fault of slot `p.1` with reason `p.2` is named before another, or is the same. -/
def NamedFirst (p q : Nat × Nat) : Prop := p.1 < q.1 ∨ (p.1 = q.1 ∧ p.2 ≤ q.2)

/-- One step of the search for the fault that is named. -/
def lowerFault (acc : Option (Nat × Nat)) (x : Nat × Reject) : Option (Nat × Nat) :=
  match acc with
  | none => some (x.1, x.2.reason)
  | some y => if x.1 < y.1 || (x.1 == y.1 && decide (x.2.reason < y.2)) then some (x.1, x.2.reason) else acc

theorem lowerFault_none (x : Nat × Reject) : lowerFault none x = some (x.1, x.2.reason) := rfl
/-- Of two faults the one that is named first is kept. -/
theorem lowerFault_some {y : Nat × Nat} {x : Nat × Reject} :
    (NamedFirst y (x.1, x.2.reason) ∧ lowerFault (some y) x = some y) ∨
      (NamedFirst (x.1, x.2.reason) y ∧ lowerFault (some y) x = some (x.1, x.2.reason)) := by
  simp only [lowerFault, NamedFirst, Bool.or_eq_true, Bool.and_eq_true, decide_eq_true_eq, beq_iff_eq]
  split <;> simp <;> omega

theorem NamedFirst.antisymm {p q : Nat × Nat} (h : NamedFirst p q) (h' : NamedFirst q p) : p = q := by
  unfold NamedFirst at h h'
  ext <;> omega

/-- The search finds the fault that is named before all others. -/
theorem foldl_lowerFault {p : Nat × Nat} (l : List (Nat × Reject)) (acc : Option (Nat × Nat))
    (hp : acc = some p ∨ ∃ x ∈ l, (x.1, x.2.reason) = p) (ha : ∀ y ∈ acc, NamedFirst p y)
    (hl : ∀ x ∈ l, NamedFirst p (x.1, x.2.reason)) : l.foldl lowerFault acc = some p := by
  induction l generalizing acc with
  | nil => simpa using hp
  | cons x l ih =>
    have hx := hl x List.mem_cons_self
    have hl' : ∀ x ∈ l, NamedFirst p (x.1, x.2.reason) := fun y hy => hl y (List.mem_cons_of_mem _ hy)
    rw [List.foldl_cons]
    cases acc with
    | none =>
      refine ih _ ?_ (by simpa [lowerFault_none] using hx) hl'
      simpa [lowerFault_none] using hp
    | some y =>
      have hy := ha y rfl
      obtain ⟨h, he⟩ | ⟨h, he⟩ := lowerFault_some (y := y) (x := x) <;> rw [he]
      · refine ih _ ?_ (by simpa using hy) hl'
        obtain hp | ⟨z, hz, rfl⟩ := hp
        · exact .inl hp
        · obtain rfl | hz := List.mem_cons.mp hz
          · exact .inl (congrArg some (NamedFirst.antisymm h hy))
          · exact .inr ⟨z, hz, rfl⟩
      · refine ih _ ?_ (by simpa using hx) hl'
        obtain hp | ⟨z, hz, rfl⟩ := hp
        · obtain rfl := Option.some.inj hp
          exact .inl (congrArg some (NamedFirst.antisymm h hx))
        · obtain rfl | hz := List.mem_cons.mp hz
          · exact .inl rfl
          · exact .inr ⟨z, hz, rfl⟩

theorem illegalInfo_of_first {l : List (Nat × Reject)} {n r : Nat} {exceeds tile : Bool} (hp : ∃ x ∈ l, (x.1, x.2.reason) = (n, r))
    (hl : ∀ x ∈ l, NamedFirst (n, r) (x.1, x.2.reason)) : illegalInfo l exceeds tile = some (BitVec.ofNat 64 (256 * r + n)) := by
  have h : l.foldl lowerFault none = some (n, r) := foldl_lowerFault l none (.inr hp) (by simp) hl
  have hi : illegalInfo l exceeds tile = match l.foldl lowerFault none with
    | some (sl, r) => some (BitVec.ofNat 64 (r * 256 + sl))
    | none => if exceeds then some (BitVec.ofNat 64 (5 * 256 + 8)) else if tile then some (BitVec.ofNat 64 (8 * 256 + 8)) else none := rfl
  rw [hi, h, Nat.mul_comm 256]
theorem illegalInfo_nil (exceeds tile : Bool) : illegalInfo [] exceeds tile = if exceeds then some 0x508 else if tile then some 0x808 else none := rfl

namespace Machine
variable {s : State} {bits : BitVec 128}

theorem judge_of_info {info : Word} (h : illegalInfo (slotFaults s bits) (overLimit bits) (tileConflict s.me (decodeBundle bits).slots) = some info) :
    judge s bits = .illegal info := by
  unfold judge
  change (match illegalInfo (slotFaults s bits) (overLimit bits) (tileConflict s.me (decodeBundle bits).slots) with
    | some info => _
    | none => _) = _
  rw [h]
theorem judge_of_no_info (h : illegalInfo (slotFaults s bits) (overLimit bits) (tileConflict s.me (decodeBundle bits).slots) = none)
    (x : Word) : judge s bits ≠ .illegal x := by
  unfold judge
  change (match illegalInfo (slotFaults s bits) (overLimit bits) (tileConflict s.me (decodeBundle bits).slots) with
    | some info => _
    | none => _) ≠ _
  rw [h]
  dsimp only
  split
  · simp
  · split
    · simp
    · split <;> simp

theorem slotFaults_eq_nil (h : ∀ n r, ¬ SlotFault s bits n r) : slotFaults s bits = [] :=
  List.eq_nil_iff_forall_not_mem.mpr fun x hx => h x.1 x.2.reason (slotFault_iff.mpr ⟨x.2, hx, rfl⟩)

theorem judge_of_first_fault {n r : Nat} (h : SlotFault s bits n r) (hl : ∀ m q, SlotFault s bits m q → n < m ∨ (n = m ∧ r ≤ q)) :
    judge s bits = .illegal (BitVec.ofNat 64 (256 * r + n)) := by
  obtain ⟨e, he, rfl⟩ := slotFault_iff.mp h
  exact judge_of_info (illegalInfo_of_first ⟨_, he, rfl⟩ fun x hx => hl _ _ (slotFault_iff.mpr ⟨_, hx, rfl⟩))
theorem judge_of_no_fault (h : ∀ n r, ¬ SlotFault s bits n r) :
    (overLimit bits = true → judge s bits = .illegal 0x508) ∧
    (overLimit bits = false → tileConflict s.me (decodeBundle bits).slots = true → judge s bits = .illegal 0x808) ∧
    (overLimit bits = false → tileConflict s.me (decodeBundle bits).slots = false → ∀ x, judge s bits ≠ .illegal x) := by
  have hi := illegalInfo_nil (overLimit bits) (tileConflict s.me (decodeBundle bits).slots)
  rw [← slotFaults_eq_nil h] at hi
  refine ⟨fun ho => judge_of_info ?_, fun ho ht => judge_of_info ?_, fun ho ht => judge_of_no_info ?_⟩
  · rw [hi, ho]; rfl
  · rw [hi, ho, ht]; rfl
  · rw [hi, ho, ht]; rfl
end Machine
end Sys2Proof
end
section
/-! WHAT THE DECODER REFUSES IN A WORD (R57, R76 to R87): units, opcodes, fillers, and the reserved fields of each format. -/
namespace Sys2Proof
variable {f : SlotBits}

/-- The bits of a word in the field of `len` bits from `lo`. -/
def maskAt (lo len : Nat) : BitVec 32 := BitVec.ofNat 32 ((2 ^ len - 1) <<< lo)
/-- The bits of a word in any of these fields, each by its place and its length. -/
def fieldsMask (l : List (Nat × Nat)) : BitVec 32 := l.foldr (fun x m => maskAt x.1 x.2 ||| m) 0

theorem fld_ne_zero_of_mask {lo len : Nat} {w : BitVec 32} (h : w &&& maskAt lo len ≠ 0) : fld lo len w ≠ 0 := by
  refine fun h0 => h (BitVec.eq_of_getLsbD_eq fun i hi => ?_)
  have hb := congrArg (fun x => BitVec.getLsbD x (i - lo)) h0
  simp [fld] at hb
  rw [BitVec.getLsbD_and, maskAt, BitVec.getLsbD_ofNat, Nat.testBit_shiftLeft, Nat.testBit_two_pow_sub_one, BitVec.ofNat_eq_ofNat,
    BitVec.getLsbD_zero]
  by_cases hin : lo ≤ i ∧ i - lo < len
  · rw [show i = lo + (i - lo) by omega, hb hin.2, Bool.false_and]
  · rcases not_and_or.mp hin with h | h <;> simp [h]
theorem exists_fld_of_fieldsMask {w : BitVec 32} (l : List (Nat × Nat)) (h : w &&& fieldsMask l ≠ 0) : ∃ x ∈ l, fld x.1 x.2 w ≠ 0 := by
  induction l with
  | nil => simp [fieldsMask] at h
  | cons x l ih =>
    by_cases hx : fld x.1 x.2 w = 0
    · obtain ⟨y, hy, hne⟩ := ih fun h0 => h (by
        have hm : w &&& maskAt x.1 x.2 = 0 := by_contra fun hm => fld_ne_zero_of_mask hm hx
        have hc : fieldsMask (x :: l) = maskAt x.1 x.2 ||| fieldsMask l := rfl
        rw [hc, BitVec.and_or_distrib_left, hm, h0]; rfl)
      exact ⟨y, List.mem_cons_of_mem _ hy, hne⟩
    · exact ⟨x, List.mem_cons_self, hx⟩

/-- The reserved fields of the formats that also have reserved values, each by its place and its length. -/
def reservedFields : List (BitVec 3 × BitVec 7 × List (Nat × Nat)) :=
  [(0, 0x20, [(14, 2)]), (0, 0x2F, [(14, 2)]), (0, 0x2A, [(0, 7)]), (0, 0x2B, [(0, 7)]), (2, 0x08, [(7, 5)]), (2, 0x09, [(7, 5)]),
    (2, 0x0C, [(20, 2), (0, 1)]), (2, 0x0D, [(0, 1)]), (2, 0x19, [(4, 3)]), (2, 0x1A, [(9, 3)]), (2, 0x1E, [(0, 1)]),
    (2, 0x1F, [(0, 1)]), (2, 0x20, [(0, 1)]), (2, 0x21, [(0, 1)]), (2, 0x22, [(6, 6), (0, 1)]), (2, 0x23, [(6, 6), (0, 1)]),
    (2, 0x26, [(11, 1), (0, 1)]), (2, 0x27, [(4, 8), (0, 1)]), (2, 0x28, [(7, 5), (0, 1)]), (2, 0x29, [(0, 1)]),
    (2, 0x2A, [(7, 5)]), (2, 0x2B, [(7, 5)]), (2, 0x2C, [(4, 3), (0, 1)]), (2, 0x2D, [(4, 3), (0, 1)]),
    (2, 0x2E, [(12, 5), (6, 6), (0, 1)]), (2, 0x30, [(0, 1)]), (2, 0x31, [(7, 5), (4, 3), (0, 1)]), (2, 0x32, [(4, 3), (0, 1)]),
    (2, 0x33, [(7, 5), (0, 1)]), (2, 0x34, [(4, 3), (0, 1)]), (2, 0x35, [(17, 5), (4, 3), (0, 1)]), (4, 0x02, [(3, 6)]),
    (4, 0x03, [(3, 6)]), (4, 0x04, [(4, 5)]), (4, 0x07, [(4, 5)]), (4, 0x10, [(4, 5)]), (4, 0x05, [(0, 9)]), (4, 0x06, [(0, 9)]),
    (4, 0x09, [(0, 9)]), (4, 0x0D, [(0, 9)]), (4, 0x0E, [(0, 9)]), (4, 0x11, [(0, 9)]), (4, 0x13, [(0, 9)]), (4, 0x08, [(1, 8)]),
    (4, 0x12, [(1, 8)]), (4, 0x0F, [(8, 1)]), (4, 0x14, [(2, 7)])]

theorem reservedBits_eq : Machine.reservedBits = reservedFields.map fun x => (x.1, x.2.1, fieldsMask x.2.2) := by decide

theorem legal_eq_reserved_iff {r b : Bool} {i : Instr} : legal r b i = .error .reservedField ↔ r = true := by
  cases r <;> cases b <;> simp [legal]
theorem legalCr_eq_reserved_iff {r b : Bool} {i : Instr} : legalCr r b i = .error .reservedField ↔ r = true := by
  cases r <;> cases b <;> simp [legalCr]
theorem SlotBits.sb_eq_zero_iff : f.sb = 0#6 ↔ f.x2 = 0#1 ∧ f.vb = 0#5 := by
  rw [eq_comm, ← eq_comm (b := 0#6)]
  exact cat_eq_iff f.x2 f.vb 0#6

theorem decodeSlot_of_reservedFields : ∀ x ∈ reservedFields, fld 29 3 f.w = x.1 → f.op = x.2.1 → (∃ y ∈ x.2.2, fld y.1 y.2 f.w ≠ 0) →
    decodeSlot f = .error .reservedField := by
  simp only [reservedFields, List.forall_mem_cons, List.not_mem_nil, false_imp_iff, implies_true, and_true]
  and_intros
  all_goals
    intro hu hop hm
    rw [decodeSlot, hu]
    refine congrArg (Except.map SlotContent.instr) (a₂ := Except.error _) ?_
    delta decodeS decodeV decodeC
    rw [hop]
    simp [legal_eq_reserved_iff, legalCr_eq_reserved_iff, fld_one_eq_zero_iff, SlotBits.w1514, SlotBits.m, SlotBits.k, SlotBits.vd,
      SlotBits.va, SlotBits.vb, SlotBits.sb_eq_zero_iff, SlotBits.imm8, SlotBits.md, fld_fld, bitAt_fld] at hm ⊢
    tauto

theorem decodeSlot_of_reservedBits : ∀ x ∈ Machine.reservedBits, fld 29 3 f.w = x.1 → f.op = x.2.1 → f.w &&& x.2.2 ≠ 0 →
    decodeSlot f = .error .reservedField := by
  rw [reservedBits_eq]
  intro x hx hu hop hm
  obtain ⟨y, hy, rfl⟩ := List.mem_map.mp hx
  exact decodeSlot_of_reservedFields y hy hu hop (exists_fld_of_fieldsMask _ hm)

theorem decodeSlot_of_reservedUnit (h : fld 29 3 f.w = 7) : decodeSlot f = .error .reservedUnit := by
  rw [decodeSlot, h]
  rfl
theorem decodeSlot_of_header (h : fld 29 3 f.w = 5) : decodeSlot f = .error .headerOutside := by
  rw [decodeSlot, h]
  rfl
theorem decodeSlot_of_filler (h : fld 29 3 f.w = 6) : decodeSlot f = if fld 0 29 f.w = 0 then .ok .filler else .error .fillerBits := by
  simp [decodeSlot, h]
theorem decodeSlot_of_unassigned (h : f.op = 0 ∨ (fld 29 3 f.w = 0 ∧ 0x30 < f.op.toNat) ∨ (fld 29 3 f.w = 1 ∧ 0x11 < f.op.toNat) ∨
      (fld 29 3 f.w = 2 ∧ 0x35 < f.op.toNat) ∨ (fld 29 3 f.w = 3 ∧ 0x0B < f.op.toNat) ∨ (fld 29 3 f.w = 4 ∧ 0x14 < f.op.toNat))
    (hu : (fld 29 3 f.w).toNat ≤ 4) : decodeSlot f = .error .unassignedOpcode := by
  have h0 : f.op = 0 ↔ f.op.toNat = 0 := by simp [BitVec.toNat_eq]
  rw [h0] at h
  simp only [BitVec.toNat_eq] at h
  unfold decodeSlot
  generalize (fld 29 3 f.w).toNat = u at h hu
  interval_cases u
  · rw [decodeS_of_unassigned (by simpa using h)]; rfl
  · rw [decodeX_of_unassigned (by simpa using h)]; rfl
  · rw [decodeV_of_unassigned (by simpa using h)]; rfl
  · rw [decodeM_of_unassigned (by simpa using h)]; rfl
  · rw [decodeC_of_unassigned (by simpa using h)]; rfl

theorem overLimit_iff (bits : BitVec 128) : overLimit bits = true ↔ 2 < unitCount bits 0 ∨ 1 < unitCount bits 1 ∨ 2 < unitCount bits 2 ∨
    1 < unitCount bits 3 ∨ 2 < unitCount bits 4 := by
  simp [overLimit, or_assoc]

/-- Settles O4: the search for the lowest fault finds it, and each fault of the encoding is one that the decoder names. -/
theorem illegalBundleNamesItsLowestFault : Obligations.IllegalBundleNamesItsLowestFault :=
  ⟨fun _ _ => ⟨fun _ _ => Machine.judge_of_first_fault, Machine.judge_of_no_fault⟩, overLimit_iff,
    fun _ => ⟨decodeSlot_of_reservedUnit, decodeSlot_of_header, decodeSlot_of_filler, decodeSlot_of_unassigned, decodeSlot_of_reservedBits⟩⟩
end Sys2Proof
end
section
/-! A BUNDLE OF ONE SLOT (R60, R70, R351): what settling an effect answers, as its verdict falls out. -/
namespace Sys2Proof.Machine
variable {i : Instr} {f : State → State} {s : State}

theorem settle_of_before (h : s.before.isSome = true) : settle i f s = .next (act i f s) := by
  rw [settle, if_pos h]
theorem settle_of_alone (h : s.before = none) : settle i f s = .next (alone i f s) := by
  rw [settle, h]
  rfl
theorem alone_of_go (h : verdict i s = .go) : alone i f s = closeBundle (act i f (opened (isMM i) s)) := by
  rw [alone, h]
theorem alone_of_stall (h : verdict i s = .stall) : alone i f s = s := by
  rw [alone, h]
theorem alone_of_failing (hg : verdict i s ≠ .go) (hs : verdict i s ≠ .stall) : alone i f s = s.divert s.slotNo (verdict i s) := by
  unfold alone
  split
  case h_1 h => exact absurd h hg
  case h_2 h => exact absurd h hs
  case h_3 => rfl
theorem act_of_suppressed (h : suppressed i s = true) : act i f s = s := by
  rw [act, if_pos h]

/-- Settles O8: every slot settles its effect, by the verdict on it. -/
theorem bundleOfOneSlot : Obligations.BundleOfOneSlot := by
  intro i s hi
  obtain ⟨f, hf⟩ := exec_settle i hi
  simp only [hf]
  refine ⟨fun hb => ⟨fun hg => ⟨act i f (opened (isMM i) s), ?_, ?_⟩, fun hs => ?_, fun hg hs => ?_⟩, fun hb hs => ?_⟩
  · exact settle_of_before rfl
  · rw [settle_of_alone hb, alone_of_go hg]
  · rw [settle_of_alone hb, alone_of_stall hs]
  · rw [settle_of_alone hb, alone_of_failing hg hs]
  · rw [settle_of_before hb, act_of_suppressed hs]
end Sys2Proof.Machine
end
section
/-!
A RESULT LANDS (R71, R72): of the results that land by a cycle the last that was issued writes last, and flags only grow (R32).
-/
namespace Sys2Proof.Machine
variable {s : State} {t : Task} {p : Pending} {d : Dest} {v : RVal} {f : Flags} {cycle : Nat}

theorem raise_s : (t.raise cycle f).s = t.s := by unfold Task.raise; split <;> rfl
theorem raise_c : (t.raise cycle f).c = t.c := by unfold Task.raise; split <;> rfl
theorem raise_k : (t.raise cycle f).k = t.k := by unfold Task.raise; split <;> rfl
theorem raise_v : (t.raise cycle f).v = t.v := by unfold Task.raise; split <;> rfl
theorem raise_flags : (t.raise cycle f).flags = t.flags ||| f := by
  unfold Task.raise
  split
  case isTrue h => rw [h]; exact (BitVec.or_zero).symm
  case isFalse => rfl
theorem setDest_flags {b : Bool} : (t.setDest d v b).flags = t.flags := by
  unfold Task.setDest
  split <;> rfl

/-- A result that is no read of FLAGS writes its register and raises its flags. -/
theorem land_of_not_read (h : p.isRead = false) :
    t.land cycle p = (match p.dest with | some d => t.setDest d p.val p.poison | none => t).raise cycle p.flags := by
  unfold Task.land
  split
  case h_1 hv => simp [Pending.isRead, hv] at h
  case h_2 => rfl
theorem land_flags (h : p.isRead = false) : (t.land cycle p).flags = t.flags ||| p.flags := by
  rw [land_of_not_read h, raise_flags]
  split <;> simp only [setDest_flags]

/-- FLAGS keeps the flags that it had while results land (R32). -/
theorem foldl_land_keeps_flags (l : List Pending) (hl : ∀ p ∈ l, p.isRead = false) :
    ∃ g, (l.foldl (Task.land cycle) t).flags = t.flags ||| g := by
  induction l generalizing t with
  | nil => exact ⟨0, (BitVec.or_zero).symm⟩
  | cons p l ih =>
    obtain ⟨g, hg⟩ := ih (t := t.land cycle p) fun q hq => hl q (List.mem_cons_of_mem _ hq)
    exact ⟨p.flags ||| g, by rw [List.foldl_cons, hg, land_flags (hl p List.mem_cons_self), BitVec.or_assoc]⟩

theorem landDue_of_no_read (h : ∀ p ∈ t.inflight, p.isRead = false) : t.landDue cycle =
    (t.inflight.filter (Pending.lands cycle)).foldl (Task.land cycle) { t with inflight := t.inflight.filter fun p => !(p.lands cycle) } := by
  have hhit : ∀ p ∈ t.inflight.filter (Pending.lands cycle), p.isRead = false := fun p hp => h p (List.mem_of_mem_filter hp)
  have hread : (t.inflight.filter (Pending.lands cycle)).filter Pending.isRead = [] :=
    List.filter_eq_nil_iff.mpr fun p hp => by simp [hhit p hp]
  have hrest : (t.inflight.filter (Pending.lands cycle)).filter (fun p => !p.isRead) = t.inflight.filter (Pending.lands cycle) :=
    List.filter_eq_self.mpr fun p hp => by simp [hhit p hp]
  unfold Task.landDue
  dsimp only
  rw [hread, hrest]
  split
  case isTrue he =>
    have hnone : t.inflight.filter (fun p => !(p.lands cycle)) = t.inflight := by
      refine List.filter_eq_self.mpr fun p hp => ?_
      rw [List.isEmpty_iff, List.filter_eq_nil_iff] at he
      simp [he p hp]
    rw [List.isEmpty_iff.mp he, hnone]
    rfl
  case isFalse => rfl

theorem supersede_isRead {d : Option Dest} : (supersede d p).isRead = p.isRead := by
  unfold supersede
  split <;> rfl

/-- The result that is issued last lands last. -/
theorem landDue_write (hp : p.isRead = false) (hl : p.lands cycle = true) (h : ∀ q ∈ t.inflight, q.isRead = false) :
    ∃ u : Task, (∃ g, u.flags = t.flags ||| g) ∧ (t.write p).landDue cycle = u.land cycle { p with dest := p.dest.bind Dest.keep } := by
  let q : Pending := { p with dest := p.dest.bind Dest.keep }
  have hq : q.lands cycle = true := hl
  have hin : (t.write p).inflight = t.inflight.map (supersede q.dest) ++ [q] := rfl
  have hold : ∀ x ∈ t.inflight.map (supersede q.dest), x.isRead = false := by
    intro x hx
    obtain ⟨y, hy, rfl⟩ := List.mem_map.mp hx
    rw [supersede_isRead, h y hy]
  have hnew : ∀ x ∈ (t.write p).inflight, x.isRead = false := by
    intro x hx
    rw [hin, List.mem_append, List.mem_singleton] at hx
    obtain hx | rfl := hx
    exacts [hold x hx, hp]
  have hhit : (t.write p).inflight.filter (Pending.lands cycle) = (t.inflight.map (supersede q.dest)).filter (Pending.lands cycle) ++ [q] := by
    rw [hin, List.filter_append, List.filter_singleton, hq]
    rfl
  rw [landDue_of_no_read hnew, hhit, List.foldl_append]
  refine ⟨_, ?_, rfl⟩
  exact foldl_land_keeps_flags _ fun x hx => hold x (List.mem_of_mem_filter hx)

theorem isRead_eq_false (h : ∀ c, p.val ≠ .readFlags c) : p.isRead = false := by
  unfold Pending.isRead
  split
  case h_1 c hv => exact absurd hv (h c)
  case h_2 => rfl
theorem lands_eq_true (hd : p.due ≤ cycle) (h : ∀ i e l x, p.val ≠ .record i e l x) : p.lands cycle = true := by
  unfold Pending.lands
  rw [decide_eq_true hd, Bool.true_and]
  split
  case h_1 i e l x hv => exact absurd hv (h i e l x)
  case h_2 => rfl

/-- A result of the acting task, once its bound has passed. -/
theorem landDue_result {bound : Nat} (hb : s.cycle + bound ≤ cycle) (hs : ∀ p ∈ s.me.inflight, p.isRead = false)
    (hr : ∀ i e l x, v ≠ .record i e l x) (hf : ∀ c, v ≠ .readFlags c) :
    ∃ u : Task, (∃ g, u.flags = s.me.flags ||| g) ∧ (s.result d v f bound).me.landDue cycle =
      (match d.keep with | some d => u.setDest d v false | none => u).raise cycle f := by
  let p : Pending := { dest := some d, val := v, flags := f, due := s.cycle + bound, sb := false, early := 0, poison := false }
  have hp : p.isRead = false := isRead_eq_false hf
  have hl : p.lands cycle = true := lands_eq_true hb hr
  obtain ⟨u, hu, h⟩ := landDue_write hp hl hs
  refine ⟨u, hu, ?_⟩
  rw [result_me, h]
  exact land_of_not_read hp

theorem toNat_ne_zero {n : Nat} {r : BitVec n} (h : r ≠ 0) : r.toNat ≠ 0 := fun h0 => h (by simpa [BitVec.toNat_eq] using h0)
theorem keep_s {n : Nat} (h : n ≠ 0) : (Dest.s n).keep = some (.s n) := by
  cases n with
  | zero => exact absurd rfl h
  | succ n => rfl
theorem keep_c {n : Nat} (h : n ≠ 0) : (Dest.c n).keep = some (.c n) := by
  cases n with
  | zero => exact absurd rfl h
  | succ n => rfl
theorem keep_k {n : Nat} (h : n ≠ 0) : (Dest.k n).keep = some (.k n) := by
  cases n with
  | zero => exact absurd rfl h
  | succ n => rfl
theorem keep_v (n : Nat) : (Dest.v n).keep = some (.v n) := rfl

/-- Settles O10: the result is the last to be issued, so it lands after whatever else lands, and what lands raises flags only. -/
theorem resultLandsByItsBound : Obligations.ResultLandsByItsBound := by
  intro s f bound n hb hs
  refine ⟨fun r w hr => ?_, fun r b hr => ?_, fun r m hr => ?_, fun r x => ?_, fun d v hrec hread => ?_⟩
  · obtain ⟨u, _, h⟩ := landDue_result (d := .s r.toNat) (v := .word w) (f := f) hb hs nofun nofun
    rw [h, keep_s (toNat_ne_zero hr), raise_s]
    exact vget_put_self u.s r.toNat w 0 r.isLt
  · obtain ⟨u, _, h⟩ := landDue_result (d := .c r.toNat) (v := .bit b) (f := f) hb hs nofun nofun
    rw [h, keep_c (toNat_ne_zero hr), raise_c]
    exact vget_put_self u.c r.toNat b false r.isLt
  · obtain ⟨u, _, h⟩ := landDue_result (d := .k r.toNat) (v := .mask m) (f := f) hb hs nofun nofun
    rw [h, keep_k (toNat_ne_zero hr), raise_k]
    exact vget_put_self u.k r.toNat m 0 r.isLt
  · obtain ⟨u, _, h⟩ := landDue_result (d := .v r.toNat) (v := .tile x) (f := f) hb hs nofun nofun
    rw [h, keep_v, raise_v]
    exact vget_put_self u.v r.toNat x Tile.zero r.isLt
  · obtain ⟨u, ⟨g, hg⟩, h⟩ := landDue_result (d := d) (f := f) hb hs hrec hread
    have hu : (match d.keep with | some d => u.setDest d v false | none => u).flags = s.me.flags ||| g := by
      rw [← hg]
      split <;> simp only [setDest_flags]
    rw [h, raise_flags, hu]
    refine BitVec.eq_of_getLsbD_eq fun i _ => ?_
    simp only [BitVec.getLsbD_and, BitVec.getLsbD_or]
    cases f.getLsbD i <;> cases s.me.flags.getLsbD i <;> simp
end Sys2Proof.Machine
end
section
/-!
INSTRUCTIONS THAT ONLY GIVE A RESULT (R72): their effect is that a result is in flight, in the state in which a V slot has taken its
vector unit.
-/
namespace Sys2Proof.Machine
variable {i : Instr}

/-- The effect of an instruction is the issue of a result, after `take`. -/
def OnlyIssues (i : Instr) (take : State → State) : Prop :=
  ∃ f, (∀ s, exec i s = settle i f s) ∧ ∀ s, ∃ l, f s = (take s).setMe { (take s).me with inflight := l }
theorem onlyIssues_of_isV (hv : isV i = true) (hg : i.givesResult = true) : OnlyIssues i (takeUnit i) := by
  cases i <;> cases hv
  case vst | vstt | vpush | vpop | vflags | vldt => cases hg
  case vcvt t d a src part k m =>
    refine ⟨_, fun _ => rfl, fun s => ?_⟩
    dsimp only
    split <;> exact ⟨_, rfl⟩
  all_goals exact ⟨_, fun _ => rfl, fun _ => ⟨_, rfl⟩⟩

theorem onlyIssues_of_scalarResult (h : Instr.givesResult.scalarResult i = true) : OnlyIssues i id := by
  have hu : ∃ f : SlotBits, f.hdr = true ∧ encode i = some (.slot f.w f.g) ∧ fld 29 3 f.w = 0 := by
    unfold Instr.givesResult.scalarResult at h
    split at h
    case h_5 =>
      split at h
      case h_1 w g he => exact ⟨⟨w, g, true⟩, rfl, he, by simpa using h⟩
      case h_2 => cases h
    all_goals cases h
  obtain ⟨f, hh, he, hu⟩ := hu
  cases i <;> injection he <;> rename_i he
  case sts | amos | stg | cwr => cases h
  all_goals
    simp [encPR, encPM, encPV, hh, hu] at he
  all_goals exact ⟨_, fun _ => rfl, fun _ => ⟨_, rfl⟩⟩

theorem isV_or_scalarResult_of_givesResult (h : i.givesResult = true) : isV i = true ∨ Instr.givesResult.scalarResult i = true := by
  unfold Instr.givesResult at h
  split at h
  case h_7 => simpa using h
  all_goals cases h

/-- The state in which a V slot has taken its vector unit. -/
def unitTaken (i : Instr) (s : State) : State := if isV i then takeUnit i s else s

theorem onlyIssues_of_givesResult (h : i.givesResult = true) : OnlyIssues i (unitTaken i) := by
  cases hv : isV i with
  | true =>
    have hu : unitTaken i = takeUnit i := funext fun s => if_pos hv
    exact hu ▸ onlyIssues_of_isV hv h
  | false =>
    have hu : unitTaken i = id := funext fun s => if_neg (by simp [hv])
    exact hu ▸ onlyIssues_of_scalarResult ((isV_or_scalarResult_of_givesResult h).resolve_left (by simp [hv]))

variable {s : State} {l : List Pending}

/-- Taking a vector unit changes the record of its core alone. -/
theorem unitTaken_eq (i : Instr) (s : State) : ∃ k, unitTaken i s = { s with cores := k } := by
  unfold unitTaken
  split
  · exact ⟨_, rfl⟩
  · exact ⟨s.cores, rfl⟩
theorem unitTaken_me (i : Instr) (s : State) : (unitTaken i s).me = s.me := by
  obtain ⟨k, hk⟩ := unitTaken_eq i s
  rw [hk]
  rfl

theorem sameMem_issue (i : Instr) : SameMem s ((unitTaken i s).setMe { s.me with inflight := l }) := by
  obtain ⟨k, hk⟩ := unitTaken_eq i s
  rw [hk]
  exact SameMem.refl s
theorem othersSame_issue (i : Instr) : OthersSame s ((unitTaken i s).setMe { s.me with inflight := l }) := by
  obtain ⟨k, hk⟩ := unitTaken_eq i s
  intro c hc
  rw [hk]
  exact State.ctx_setMe_other _ _ _ hc

/-- Settles O11: the effect of such an instruction is the issue of its result. -/
theorem resultInstructionsFrame : Obligations.ResultInstructionsFrame := by
  intro i s hg ha
  obtain ⟨f, hf, hl⟩ := onlyIssues_of_givesResult hg
  obtain ⟨l, hl⟩ := hl s
  rw [unitTaken_me] at hl
  have hme : ((unitTaken i s).setMe { s.me with inflight := l }).me = { s.me with inflight := l } := State.me_setMe _ _
  refine ⟨(unitTaken i s).setMe { s.me with inflight := l }, ?_, ⟨l, rfl⟩, ?_, ?_, ?_, sameMem_issue i, othersSame_issue i⟩
  · rw [hf, settle_acting i f s ha, hl]
  · rw [hme]
    exact ⟨rfl, rfl, rfl, rfl, rfl, rfl, rfl, rfl, rfl, rfl⟩
  · rw [hme]
    exact ⟨rfl, rfl, rfl, rfl, rfl⟩
  · rw [hme]
    exact ⟨rfl, rfl, rfl, rfl, rfl, rfl⟩
end Sys2Proof.Machine
end
section
/-! RESULTS LAND ONE BY ONE (R72, R73): the flags of a bounded result before its bound, and a scoreboarded result. -/
namespace Sys2Proof.Machine
variable {s : State} {n idx : Nat} {p : Pending} {t : Task}

theorem raise_inflight {cycle : Nat} {f : Flags} : (t.raise cycle f).inflight = t.inflight := by unfold Task.raise; split <;> rfl

theorem landOne_of_early {cycle : Nat} (hp : t.inflight[idx]? = some p) (hs : p.sb = false) (hr : p.isRead = false)
    (hl : p.lands cycle = false) :
    t.landOne cycle idx = ({ t with inflight := t.inflight.set idx ({ p with flags := 0 } : Pending) } : Task).raise cycle p.flags := by
  simp only [Task.landOne, hp, hr, hl, hs, Bool.false_eq_true, if_false]

theorem completeOne_of_ready {cycle : Nat} (hp : t.inflight[idx]? = some p) (hs : p.sb = true) (hr : p.isRead = false)
    (hl : p.lands cycle = true ∨ p.early = 1 ∨ (p.early = 2 ∧ ∀ q ∈ t.inflight.take idx, q.early ≠ 2)) :
    t.completeOne cycle idx = ({ t with inflight := t.inflight.eraseIdx idx } : Task).land cycle p := by
  have hready : (p.lands cycle || (p.early == 1) || (p.early == 2 && !((t.inflight.take idx).any fun q => q.early == 2))) = true := by
    simpa [or_assoc] using hl
  simp only [Task.completeOne, hp, hs, hr, hready, Bool.not_false, Bool.and_self, if_true]

theorem resultLandsEarly (hp : (s.ctx n).inflight[idx]? = some p) (hs : p.sb = false) (hr : p.isRead = false)
    (hl : p.lands s.cycle = false) : ∃ t, exec (.boundedResultLands n idx) s = .next t ∧ (t.ctx n).flags = (s.ctx n).flags ||| p.flags ∧
      (t.ctx n).inflight = (s.ctx n).inflight.set idx ({ p with flags := 0 } : Pending) ∧ (t.ctx n).s = (s.ctx n).s ∧
      (t.ctx n).v = (s.ctx n).v ∧ SameMem s t := by
  refine ⟨s.setCtx n ((s.ctx n).landOne s.cycle idx), rfl, ?_⟩
  rw [State.ctx_setCtx, landOne_of_early hp hs hr hl]
  exact ⟨raise_flags, raise_inflight, raise_s, raise_v, SameMem.refl s⟩

theorem resultCompletes {r : Nat} {w : Word} (hp : (s.ctx n).inflight[idx]? = some p) (hs : p.sb = true) (hd : p.dest = some (.s r))
    (hv : p.val = .word w) (hr : r < 64)
    (hl : p.due ≤ s.cycle ∨ p.early = 1 ∨ (p.early = 2 ∧ ∀ q ∈ (s.ctx n).inflight.take idx, q.early ≠ 2)) :
    ∃ t, exec (.scoreboardedResultCompletes n idx) s = .next t ∧ vget (t.ctx n).s r 0 = w ∧
      (∀ k, k ≠ r → vget (t.ctx n).s k 0 = vget (s.ctx n).s k 0) ∧ (t.ctx n).inflight = (s.ctx n).inflight.eraseIdx idx ∧
      (t.ctx n).v = (s.ctx n).v ∧ SameMem s t := by
  have hread : p.isRead = false := isRead_eq_false fun c => by rw [hv]; nofun
  have hlands : p.lands s.cycle = true ∨ p.early = 1 ∨ (p.early = 2 ∧ ∀ q ∈ (s.ctx n).inflight.take idx, q.early ≠ 2) :=
    hl.imp_left fun h => lands_eq_true h fun i e l x => by rw [hv]; nofun
  refine ⟨s.setCtx n ((s.ctx n).completeOne s.cycle idx), rfl, ?_⟩
  rw [State.ctx_setCtx, completeOne_of_ready hp hs hread hlands, land_of_not_read hread, hd, hv, raise_s, raise_v, raise_inflight]
  exact ⟨vget_put_self _ r w 0 hr, fun k hk => vget_put_other _ r k w 0 hk, rfl, rfl, SameMem.refl s⟩
end Sys2Proof.Machine
end
section
/-! A TASK ENDS, AND ITS GROUP WITH ITS LAST TASK (R10, R161): what retirement leaves in the context, the window and the launch. -/
namespace Sys2Proof.Machine
variable {s : State} {n g : Nat} {x : Group}

theorem blindToStores_ctx (n : Nat) : BlindToStores fun s => s.ctx n := ⟨fun _ _ _ _ _ _ _ _ _ => rfl⟩
theorem cacheFlush_ctx {cluster group : Nat} {f : CLine → Bool} : (cacheFlush s cluster group f).ctx n = s.ctx n :=
  (blindToStores_ctx n).cacheFlush fun _ _ => rfl

theorem left_left (t : Task) : t.left.left = t.left := rfl

/-- Tasks leave their contexts: one that had left has left. -/
theorem foldl_left_ctx {t : Task} {l : List Nat} (h : s.ctx n = t.left) :
    (l.foldl (fun s c => State.setCtx s c (s.ctx c).left) s).ctx n = t.left := by
  refine List.foldlRecOn l _ (motive := fun u => State.ctx u n = t.left) h fun u hu c _ => ?_
  by_cases hc : n = c
  · subst hc
    rw [State.ctx_setCtx, hu, left_left]
  · rw [State.ctx_setCtx_other _ _ _ _ hc, hu]

theorem foldl_left_clusters {l : List Nat} : (l.foldl (fun s c => State.setCtx s c (s.ctx c).left) s).clusters = s.clusters :=
  foldl_keeps (v := State.clusters) fun _ _ => rfl

theorem lineFull_fillWindow {cl : Cluster} {l : Nat} (h : l ∈ linesOf x.slbase x.slsize) : lineFull (fillWindow cl x) l = true := by
  simp [lineFull, fillWindow, h]

theorem retireGroup_spec (hx : tabFind s.groups g = some x) :
    (∀ n t, s.ctx n = Task.left t → (retireGroup s g).ctx n = t.left) ∧
    (x.away = none → ∀ l ∈ linesOf x.slbase x.slsize, lineFull ((retireGroup s g).cl x.cluster) l = true) ∧
    ∀ l, tabFind s.launches x.launch = some l →
      tabFind (retireGroup s g).launches x.launch = some ({ l with retired := l.retired + 1 } : Launch) := by
  unfold retireGroup
  simp -zeta only [hx]
  extract_lets s1 cl filled s2 s3 s4
  have hctx (n : Nat) (t : Task) (h : s.ctx n = t.left) : s4.ctx n = t.left := by
    have h1 : s1.ctx n = t.left := cacheFlush_ctx.trans h
    have h2 : s2.ctx n = t.left := ite_keeps (v := fun s => s.ctx n) h1 h1
    exact foldl_left_ctx h2
  have hlines (ha : x.away = none) (l : Nat) (hl : l ∈ linesOf x.slbase x.slsize) : lineFull (s4.cl x.cluster) l = true := by
    have hn : ¬ x.away.isSome = true := by simp [ha]
    have h2 : s2 = s1.setCl x.cluster { filled with bells := freeBells cl.bells x.cbell x.ncb, cache := tabDel cl.cache g } := if_neg hn
    have h4 : s4.cl x.cluster = s2.cl x.cluster := congrArg (tabGet Cluster.empty · x.cluster) foldl_left_clusters
    rw [h4, h2, State.cl_setCl]
    exact lineFull_fillWindow (cl := cl) hl
  have hlaunches : s4.launches = s.launches := by
    have h1 : s1.tables = s.tables := blindToErrors_tables.flush
    have h2 : s2.tables = s.tables := ite_keeps h1 h1
    exact congrArg Prod.snd ((foldl_keeps (f := fun t c => State.setCtx t c (t.ctx c).left) fun _ _ => rfl).trans h2)
  split
  case h_1 l hl =>
    refine ⟨hctx, hlines, fun l' hl' => ?_⟩
    rw [← hlaunches, hl] at hl'
    cases hl'
    exact tabFind_put_self _ _ _
  case h_2 hl =>
    refine ⟨hctx, hlines, fun l' hl' => ?_⟩
    rw [← hlaunches, hl] at hl'
    cases hl'

/-- The group of a task that has left. -/
def groupLess (x : Group) : Group := { x with left := x.left - 1 }
/-- The state in which a task has left its context and its group counts it no more. -/
def taskGone (s : State) (n : Nat) (x : Group) : State :=
  { s.setCtx n (s.ctx n).left with groups := tabPut s.groups (s.ctx n).group (groupLess x) }

theorem freeTask_of_none (hx : tabFind s.groups (s.ctx n).group = none) : freeTask s n = s.setCtx n (s.ctx n).left := by
  have hx' : tabFind (s.setCtx n (s.ctx n).left).groups (s.ctx n).group = none := hx
  simp only [freeTask, hx']
theorem freeTask_of_some (hx : tabFind s.groups (s.ctx n).group = some x) :
    freeTask s n = if x.left ≤ 1 then retireGroup (taskGone s n x) (s.ctx n).group else taskGone s n x := by
  have hx' : tabFind (s.setCtx n (s.ctx n).left).groups (s.ctx n).group = some x := hx
  simp only [freeTask, hx']
  rfl
theorem taskGone_ctx : (taskGone s n x).ctx n = (s.ctx n).left := State.ctx_setCtx _ _ _
theorem taskGone_group : tabFind (taskGone s n x).groups (s.ctx n).group = some (groupLess x) := tabFind_put_self _ _ _

/-- What the end of a task leaves of its group. -/
theorem freeTask_group (hx : tabFind s.groups (s.ctx n).group = some x) :
    (1 < x.left → tabFind (freeTask s n).groups (s.ctx n).group = some (groupLess x)) ∧
    (x.left ≤ 1 → tabFind (freeTask s n).groups (s.ctx n).group = none ∧
      (x.away = none → ∀ l ∈ linesOf x.slbase x.slsize, lineFull ((freeTask s n).cl x.cluster) l = true) ∧
      ∀ l, tabFind s.launches x.launch = some l →
        tabFind (freeTask s n).launches x.launch = some ({ l with retired := l.retired + 1 } : Launch)) := by
  rw [freeTask_of_some hx]
  refine ⟨fun h => ?_, fun h => ?_⟩
  · rw [if_neg (by omega)]
    exact taskGone_group
  · obtain ⟨-, hlines, hlaunch⟩ := retireGroup_spec (taskGone_group (x := x) (s := s) (n := n))
    rw [if_pos h]
    exact ⟨retireGroup_gone (.inl rfl), hlines, hlaunch⟩
theorem freeTask_ctx : (freeTask s n).ctx n = (s.ctx n).left := by
  cases hx : tabFind s.groups (s.ctx n).group with
  | none => rw [freeTask_of_none hx, State.ctx_setCtx]
  | some x =>
    rw [freeTask_of_some hx]
    split
    · exact (retireGroup_spec taskGone_group).1 _ _ taskGone_ctx
    · exact taskGone_ctx

theorem taskEnds (h : hasExited (landCtx n s) n = true) : ∃ t, exec (.taskExited n) s = .next t ∧
    t.ctx n = ((landCtx n s).ctx n).left ∧ (t.ctx n).SameRegs ((landCtx n s).ctx n) ∧ (t.ctx n).active = false ∧
    ∀ x, tabFind s.groups ((landCtx n s).ctx n).group = some x →
      (1 < x.left → tabFind t.groups ((landCtx n s).ctx n).group = some ({ x with left := x.left - 1 } : Group)) ∧
      (x.left ≤ 1 → tabFind t.groups ((landCtx n s).ctx n).group = none ∧
        (x.away = none → ∀ l ∈ linesOf x.slbase x.slsize, lineFull (t.cl x.cluster) l = true) ∧
        ∀ l, tabFind s.launches x.launch = some l →
          tabFind t.launches x.launch = some ({ l with retired := l.retired + 1 } : Launch)) := by
  obtain ⟨c, hc⟩ := landCtx_eq s n
  have hexec : exec (.taskExited n) s = .next (freeTask (landCtx n s) n) := by
    simp only [exec, execTaskExited, h, if_true]
  have hgroups : (landCtx n s).groups = s.groups := by rw [hc]
  have hlaunches : (landCtx n s).launches = s.launches := by rw [hc]
  refine ⟨_, hexec, freeTask_ctx, ?_, ?_, fun x hx => ?_⟩
  · rw [freeTask_ctx]
    exact ⟨rfl, rfl, rfl, rfl, rfl, rfl, rfl, rfl, rfl, rfl⟩
  · rw [freeTask_ctx]
    rfl
  · rw [← hgroups] at hx
    rw [← hlaunches]
    exact freeTask_group hx
end Sys2Proof.Machine
end
section
/-!
COMMANDS ARE CANCELLED WITHOUT A TRAP (R267, R360): of the engines and of a task, less the slots that it has bound to descriptors, a
quiet copy error changes only the commands of its number.
-/
namespace Sys2Proof.Machine
variable {s : State} {n : Nat} {c : Cmd}

/-- A task less its bound slots. -/
def Task.unbind (t : Task) : Task := { t with tbind := Vector.replicate 8 none }
/-- The engines, and the task of a context less its bound slots. -/
def State.spared (n : Nat) (s : State) : Tab (List Cmd) × Task := (s.engs, (s.ctx n).unbind)

theorem blindToRecords_spared (n : Nat) : BlindToRecords (State.spared n) :=
  ⟨⟨fun _ _ _ _ _ _ _ _ _ => rfl⟩, fun _ _ _ _ => rfl⟩

theorem tabGet_map_keeps {α β : Type} {d : α} {f : α → α} {h : α → β} (hf : ∀ x, h (f x) = h x) (t : Tab α) (k : Nat) :
    h (tabGet d (t.map fun x => (x.1, f x.2)) k) = h (tabGet d t k) := by
  induction t with
  | nil => rfl
  | cons x r ih =>
    simp only [List.map_cons, tabGet]
    split
    · exact hf x.2
    · exact ih

/-- A task of a job with its slots changed that are bound to a descriptor. -/
def slotsMapped (job : BitVec 32) (va : Nat) (f : TSlot → TSlot) (t : Task) : Task :=
  if t.job = job then { t with tbind := t.tbind.map fun x => x.map fun y => if y.va = va then f y else y } else t
theorem slotsMapped_unbind {job : BitVec 32} {va : Nat} {f : TSlot → TSlot} (t : Task) : (slotsMapped job va f t).unbind = t.unbind := by
  unfold slotsMapped
  split <;> rfl
theorem mapSlots_spared {job : BitVec 32} {va : Nat} {f : TSlot → TSlot} : (mapSlots s job va f).spared n = s.spared n :=
  congrArg (s.engs, ·) (tabGet_map_keeps (d := Task.empty) (slotsMapped_unbind (job := job) (va := va) (f := f)) s.ctxs n)
theorem busySlots_spared {job : BitVec 32} {va : Nat} {b : Bool} : (busySlots s job va b).spared n = s.spared n := mapSlots_spared
theorem flush_spared {cluster group : Nat} {f : CLine → Bool} : (cacheFlush s cluster group f).spared n = s.spared n :=
  (blindToRecords_spared n).cacheFlush fun _ _ => rfl
theorem busyByte_spared {owner group : Nat} {job : BitVec 32} {va : Nat} {b : Bool} :
    (busyByte s owner group job va b).spared n = s.spared n := by
  unfold busyByte
  split
  · refine (blindToRecords_spared n).queueBit.trans ?_
    split
    · exact flush_spared
    · rfl
  · rfl
theorem undefSlate_spared {stamp : Nat} {e : Ext} : (undefSlate s stamp e).spared n = s.spared n := by
  unfold undefSlate
  split <;> rfl
theorem undefGlobal_spared {job : BitVec 32} {stamp : Nat} {e : Ext} : (undefGlobal s job stamp e).spared n = s.spared n := by
  refine ite_keeps (v := State.spared n) rfl (foldl_keeps fun s p => ?_)
  dsimp only
  split
  · exact ite_keeps (v := State.spared n) (blindToRecords_spared n).partWriteMarked rfl
  · rfl
theorem reportError_spared {reason : Nat} {r : FRec} : (reportError s c reason true r).spared n = s.spared n :=
  (blindToRecords_spared n).postRecord

theorem spared_eq_iff {s t : State} : s.spared n = t.spared n ↔ s.engs = t.engs ∧ (s.ctx n).unbind = (t.ctx n).unbind :=
  Prod.mk.injEq _ _ _ _ ▸ Iff.rfl

/-- The commands that a quiet copy error of a command leaves: those of other numbers, and of its number only ones that have failed,
if it is an RSHD, for which its tensor is still BUSY. -/
structure Cancels (n : Nat) (c : Cmd) (s t : State) : Prop where
  task : (t.ctx n).unbind = (s.ctx n).unbind
  gone : isRshd c.i = false → t.engs = (delCmd s c.id).engs
  failed : isRshd c.i = true → ∃ x : Cmd, x.id = c.id ∧ x.fail.isSome = true ∧
    (t.engs = (putCmd s x).engs ∨ t.engs = (delCmd (putCmd s x) c.id).engs)

theorem endFailed_cancels {u : State} {x : Cmd} {reason : Nat} {r : FRec} (hr : isRshd c.i = true) (hid : x.id = c.id)
    (hx : x.fail = some (reason, true, r)) (hu : u.spared n = (putCmd s x).spared n) : Cancels n c s (endFailed u x) := by
  have hf : x.fail.isSome = true := by simp [hx]
  obtain ⟨hengs, htask⟩ := spared_eq_iff.mp hu
  unfold endFailed
  simp -zeta only [hx]
  extract_lets u1
  have h1 : u1.spared n = u.spared n := ite_keeps (v := State.spared n) busySlots_spared rfl
  obtain ⟨hengs1, htask1⟩ := spared_eq_iff.mp h1
  split
  · exact ⟨htask, fun h => absurd hr (by simp [h]), fun _ => ⟨x, hid, hf, .inl hengs⟩⟩
  · obtain ⟨hengs2, htask2⟩ := spared_eq_iff.mp (reportError_spared (s := delCmd u1 x.id) (n := n) (c := x) (reason := reason) (r := r))
    refine ⟨htask2.trans (htask1.trans htask), fun h => absurd hr (by simp [h]), fun _ => ⟨x, hid, hf, .inr ?_⟩⟩
    rw [hengs2, ← hid]
    unfold delCmd
    rw [hengs1, hengs]

theorem findCmd_id {id : Nat} {y : Nat × Cmd} (h : findCmd s id = some y) : y.2.id = id := by
  unfold findCmd at h
  obtain ⟨e, _, he⟩ := List.exists_of_findSome?_eq_some h
  obtain ⟨x, hx, rfl⟩ := Option.map_eq_some_iff.mp he
  simpa using List.find?_some hx

theorem copyError_cancels {e reason : Nat} : Cancels n c s (copyError s e c reason true) := by
  unfold copyError
  split
  case isTrue h =>
    obtain ⟨hr, hf⟩ := Bool.and_eq_true_iff.mp h
    unfold failAgain
    cases hc : findCmd s c.id with
    | none => simp [hc] at hf
    | some y =>
      rw [hc, Option.any_some] at hf
      refine ⟨rfl, fun h => absurd hr (by simp [h]), fun _ => ⟨_, ?_, ?_, .inl rfl⟩⟩
      · exact findCmd_id hc
      · simpa using hf
  case isFalse =>
    extract_lets s1 left s2 stamp remote isCpys dst s3 cl s4 s5 q r
    have h2 : s2.spared n = s1.spared n := rfl
    have hundef : (dst.foldl (fun s e => undefSlate s stamp e) s2).spared n = s1.spared n :=
      (foldl_keeps (v := State.spared n) fun _ _ => undefSlate_spared).trans h2
    have h3 : s3.spared n = s1.spared n := by
      refine ite_keeps (v := State.spared n) ?_ hundef
      split
      · split
        · exact (blindToRecords_spared n).putImage.trans h2
        · exact hundef
      · exact h2
    have h4 : s4.spared n = s1.spared n := by
      unfold s4
      split
      · exact h3
      · exact h3
    have h5 : s5.spared n = s1.spared n :=
      ite_keeps (v := State.spared n) h4 ((foldl_keeps (v := State.spared n) fun _ _ => undefGlobal_spared).trans h4)
    split
    case isTrue hr =>
      have h1 : s1 = s := if_pos hr
      rw [h1] at h5
      have h5' : ∀ x, (putCmd s5 x).spared n = (putCmd s x).spared n := fun x => by
        obtain ⟨hengs, htask⟩ := spared_eq_iff.mp h5
        exact spared_eq_iff.mpr ⟨by unfold putCmd; rw [hengs], htask⟩
      unfold failReshard
      extract_lets x s6
      have h6 : s6.spared n = (putCmd s x).spared n := h5' x
      exact endFailed_cancels hr rfl rfl (ite_keeps (v := State.spared n) (busyByte_spared.trans h6) h6)
    case isFalse hr =>
      have h1 : s1 = delCmd s c.id := if_neg hr
      obtain ⟨hengs, htask⟩ := spared_eq_iff.mp (reportError_spared.trans h5)
      rw [h1] at hengs htask
      exact ⟨htask, fun _ => hengs, fun h => absurd h hr⟩
end Sys2Proof.Machine
end
section
/-! A PENDING COPY ERROR IS TAKEN (R351 row 0, R359, R360): it traps, or unwinds to the region of its command. -/
namespace Sys2Proof.Machine
variable {s t : State} {n d : Nat} {c : Cmd} {p : PendEvent} {rest : List PendEvent}

/-- Every command of a number has failed, and stands only if the number may be that of an RSHD. -/
def Ended (rshd : Bool) (id : Nat) (s : State) : Prop := ∀ e ∈ s.engs, ∀ x ∈ e.2, x.id = id → rshd = true ∧ x.fail.isSome = true

theorem Ended.congr {b : Bool} {k : Nat} (h : Ended b k s) (ht : t.engs = s.engs) : Ended b k t := by
  unfold Ended
  rw [ht]
  exact h
theorem Ended.delCmd {b : Bool} {k id : Nat} (h : Ended b k s) : Ended b k (delCmd s id) := by
  intro e he x hx
  obtain ⟨e', he', rfl⟩ := List.mem_map.mp he
  exact h e' he' x (List.mem_of_mem_filter hx)
theorem ended_delCmd {b : Bool} {k : Nat} : Ended b k (Machine.delCmd s k) := by
  intro e he x hx hk
  obtain ⟨e', he', rfl⟩ := List.mem_map.mp he
  have := (List.mem_filter.mp hx).2
  simp [hk] at this
theorem mem_putCmd {e : Nat × List Cmd} {x : Cmd} (he : e ∈ (putCmd s c).engs) (hx : x ∈ e.2) :
    ∃ e' ∈ s.engs, ∃ y ∈ e'.2, x = if y.id = c.id then c else y := by
  obtain ⟨e', he', rfl⟩ := List.mem_map.mp he
  obtain ⟨y, hy, rfl⟩ := List.mem_map.mp hx
  exact ⟨e', he', y, hy, rfl⟩
theorem Ended.putCmd {b : Bool} {k : Nat} (h : Ended b k s) (hf : c.fail.isSome = true) : Ended b k (putCmd s c) := by
  intro e he x hx hk
  obtain ⟨e', he', y, hy, rfl⟩ := mem_putCmd he hx
  split at hk
  case isTrue hid => exact ⟨(h e' he' y hy (hid.trans hk)).1, by rwa [if_pos hid]⟩
  case isFalse hid => rw [if_neg hid]; exact h e' he' y hy hk
theorem ended_putCmd (hf : c.fail.isSome = true) : Ended true c.id (Machine.putCmd s c) := by
  intro e he x hx hk
  obtain ⟨e', he', y, hy, rfl⟩ := mem_putCmd he hx
  split at hk
  case isTrue hid => exact ⟨rfl, by rwa [if_pos hid]⟩
  case isFalse hid => exact absurd hk hid

theorem Cancels.keeps (h : Cancels n c s t) {b : Bool} {k : Nat} (hs : Ended b k s) : Ended b k t := by
  cases hr : isRshd c.i with
  | false => exact hs.delCmd.congr (h.gone hr)
  | true =>
    obtain ⟨x, -, hf, ht | ht⟩ := h.failed hr
    · exact (hs.putCmd hf).congr ht
    · exact (hs.putCmd hf).delCmd.congr ht
theorem Cancels.ends (h : Cancels n c s t) : Ended (isRshd c.i) c.id t := by
  cases hr : isRshd c.i with
  | false => exact ended_delCmd.congr (h.gone hr)
  | true =>
    obtain ⟨x, hid, hf, ht | ht⟩ := h.failed hr
    · exact hid ▸ (ended_putCmd hf).congr ht
    · exact ended_delCmd.congr ht

/-- A command is cancelled without a trap. -/
def cancelOne (s : State) (x : Nat × Cmd) : State := copyError s x.1 x.2 5 true
theorem cancelOne_cancels {x : Nat × Cmd} : Cancels n x.2 s (cancelOne s x) := copyError_cancels

/-- Commands are cancelled one after another. -/
theorem foldl_cancelOne (l : List (Nat × Cmd)) : ((l.foldl cancelOne s).ctx n).unbind = (s.ctx n).unbind ∧
    (∀ b k, Ended b k s → Ended b k (l.foldl cancelOne s)) ∧ ∀ x ∈ l, Ended (isRshd x.2.i) x.2.id (l.foldl cancelOne s) := by
  induction l generalizing s with
  | nil => exact ⟨rfl, fun _ _ h => h, fun _ hx => absurd hx List.not_mem_nil⟩
  | cons x l ih =>
    have hc : Cancels n x.2 s (cancelOne s x) := cancelOne_cancels
    obtain ⟨htask, hkeeps, hends⟩ := ih (s := cancelOne s x)
    rw [List.foldl_cons]
    refine ⟨htask.trans hc.task, fun b k h => hkeeps b k (hc.keeps h), fun y hy => ?_⟩
    obtain rfl | hy := List.mem_cons.mp hy
    · exact hkeeps _ _ hc.ends
    · exact hends y hy

theorem cancelRegions_eq (tid : Nat) : cancelRegions s tid d = ((cmdsOf s tid).filter fun x =>
    match x.2.region with | some r => decide (d ≤ r) | none => false).foldl cancelOne s := rfl
theorem cancelRegions_task (tid : Nat) : ((cancelRegions s tid d).ctx n).unbind = (s.ctx n).unbind := by
  rw [cancelRegions_eq]
  exact (foldl_cancelOne _).1
theorem cancelRegions_ends {tid e r : Nat} (hc : (e, c) ∈ cmdsOf s tid) (hr : c.region = some r) (hd : d ≤ r) :
    Ended (isRshd c.i) c.id (cancelRegions s tid d) := by
  rw [cancelRegions_eq]
  exact (foldl_cancelOne (n := 0) _).2.2 (e, c) (List.mem_filter.mpr ⟨hc, by simp [hr, hd]⟩)

theorem mem_cmdsOf {tid e : Nat} (h : (e, c) ∈ cmdsOf s tid) : ∃ q ∈ s.engs, c ∈ q.2 := by
  obtain ⟨q, hq, h⟩ := List.mem_flatMap.mp h
  obtain ⟨x, hx, h⟩ := List.mem_map.mp h
  obtain rfl : x = c := congrArg Prod.snd h
  exact ⟨q, hq, List.mem_of_mem_filter hx⟩

/-- The state in which the first pending event of a context has been taken from its list. -/
def pendTaken (s : State) (n : Nat) (rest : List PendEvent) : State := s.setCtx n { s.ctx n with pend := rest }

/-- The unwound task is that before its commands were cancelled, but for its bound slots. -/
theorem unwind_spec {cause : Nat} {info pcw : Word} {u : Task} (hu : (s.ctx n) = u) (hd : d < u.crdepth.toNat) :
    let t := unwind s n d cause info pcw
    (t.ctx n).pend = u.pend ∧ (t.ctx n).trapcause = BitVec.ofNat 16 cause ∧ (t.ctx n).trapinfo = info ∧ (t.ctx n).trappc = pcw ∧
      (t.ctx n).handler = u.handler ∧ (t.ctx n).pc = addrOf (vget u.crlevel d 0) ∧ (t.ctx n).crdepth.toNat = d ∧
      (t.ctx n).ldepth = 0 ∧ (t.ctx n).first = 0 ∧ (t.ctx n).segcount = 0 ∧ (t.ctx n).segid = 0xFFFFFFFF ∧ (t.ctx n).s = u.s ∧
      t.engs = (cancelRegions s u.tid d).engs := by
  subst hu
  have hk : ((cancelRegions s (s.ctx n).tid d).ctx n).unbind = (s.ctx n).unbind := cancelRegions_task _
  have hpend := congrArg Task.pend hk
  have hhand := congrArg Task.handler hk
  have hlevel := congrArg Task.crlevel hk
  have hregs := congrArg Task.s hk
  have hdepth : (BitVec.ofNat 3 d).toNat = d := by
    have := (s.ctx n).crdepth.isLt
    simp
    omega
  intro t
  have ht : t = unwind s n d cause info pcw := rfl
  unfold unwind at ht
  dsimp only at ht
  rw [ht, State.ctx_setCtx]
  exact ⟨hpend, rfl, rfl, rfl, hhand, congrArg (fun l => addrOf (vget l d 0)) hlevel, hdepth, rfl, rfl, rfl, rfl, hregs, rfl⟩

section
variable (ha : (s.ctx n).active = true) (he : (s.ctx n).exited = false) (hh : (s.ctx n).handler = false)
  (hs : (s.ctx n).stub = none) (hp : (s.ctx n).pend = p :: rest)
include ha he hh hs hp

theorem exec_pendingTrapTaken (hc : p.cause = 17) : exec (.pendingTrapTaken n) s = .next (match p.region with
    | some d => if (s.ctx n).unwinds && decide (d < (s.ctx n).crdepth.toNat) then unwind (pendTaken s n rest) n d 17 p.info (s.ctx n).pcWord
        else takeTrap (pendTaken s n rest) n 17 p.info (s.ctx n).pcWord
    | none => takeTrap (pendTaken s n rest) n 17 p.info (s.ctx n).pcWord) := by
  have hc' : p.cause.toNat = cCopy := by rw [hc]; rfl
  have hgo : ((s.ctx n).active && !(s.ctx n).exited && !(s.ctx n).pend.isEmpty && !(s.ctx n).handler && (s.ctx n).stub.isNone) = true := by
    simp [ha, he, hh, hs, hp]
  simp only [exec, execPendingTrapTaken, hgo, if_true]
  simp only [takePending, hp, hc', if_true]
  rfl

theorem pendingTraps (hc : p.cause = 17) {v : Nat} (hr : p.region = none) (hv : (s.ctx n).code.trap = some v) :
    ∃ t, exec (.pendingTrapTaken n) s = .next t ∧
      (t.ctx n).pend = rest ∧ (t.ctx n).trapcause = 17 ∧ (t.ctx n).trapinfo = p.info ∧ (t.ctx n).trappc = (s.ctx n).pcWord ∧
      (t.ctx n).handler = true ∧ (t.ctx n).pc = (BitVec.ofNat 64 v &&& 0x000FFFFFFFFFFFF0) ∧ (t.ctx n).SameRegs (s.ctx n) ∧
      SameMem s t := by
  have hn : (pendTaken s n rest).ctx n = { s.ctx n with pend := rest } := State.ctx_setCtx _ _ _
  have htrap : takeTrap (pendTaken s n rest) n 17 p.info (s.ctx n).pcWord = (pendTaken s n rest).setCtx n { s.ctx n with
      pend := rest, trapcause := 17, trappc := (s.ctx n).pcWord, trapinfo := p.info, handler := true, wait := none,
      heldWait := if (s.ctx n).wait.isSome then (s.ctx n).wait else (s.ctx n).heldWait, pc := addrOf (BitVec.ofNat 64 v) } := by
    simp only [takeTrap, hn, hs, hh, hv, Option.isSome_none, Bool.false_and, Bool.false_eq_true, if_false]
    rfl
  refine ⟨_, exec_pendingTrapTaken ha he hh hs hp hc, ?_⟩
  rw [hr]
  dsimp only
  rw [htrap, State.ctx_setCtx]
  exact ⟨rfl, rfl, rfl, rfl, rfl, rfl, ⟨rfl, rfl, rfl, rfl, rfl, rfl, rfl, rfl, rfl, rfl⟩, SameMem.refl s⟩

theorem pendingUnwinds (hc : p.cause = 17) (hr : p.region = some d) (hd : d < (s.ctx n).crdepth.toNat) :
    ∃ t, exec (.pendingTrapTaken n) s = .next t ∧
      (t.ctx n).pend = rest ∧ (t.ctx n).trapcause = 17 ∧ (t.ctx n).trapinfo = p.info ∧ (t.ctx n).trappc = (s.ctx n).pcWord ∧
      (t.ctx n).handler = false ∧ (t.ctx n).pc = (vget (s.ctx n).crlevel d 0 &&& 0x000FFFFFFFFFFFF0) ∧
      (t.ctx n).crdepth.toNat = d ∧ (t.ctx n).ldepth = 0 ∧ (t.ctx n).first = 0 ∧ (t.ctx n).segcount = 0 ∧
      (t.ctx n).segid = 0xFFFFFFFF ∧ (t.ctx n).s = (s.ctx n).s ∧
      ∀ e c r, (e, c) ∈ cmdsOf s (s.ctx n).tid → c.region = some r → d ≤ r →
        ∀ c', (e, c') ∈ cmdsOf t (s.ctx n).tid → c'.id = c.id → isRshd c.i = true ∧ c'.fail.isSome = true := by
  have hn : (pendTaken s n rest).ctx n = { s.ctx n with pend := rest } := State.ctx_setCtx _ _ _
  have hgo : ((s.ctx n).unwinds && decide (d < (s.ctx n).crdepth.toNat)) = true := by
    simp [Task.unwinds, hh, hs, hd]
    omega
  have hexec := exec_pendingTrapTaken ha he hh hs hp hc
  simp only [hr, hgo, if_true] at hexec
  obtain ⟨hpend, hcause, hinfo, hpc, hhand, haddr, hdepth, hl, hf, hcount, hid, hregs, hengs⟩ :=
    unwind_spec (cause := 17) (info := p.info) (pcw := (s.ctx n).pcWord) hn hd
  refine ⟨_, hexec, hpend, hcause, hinfo, hpc, hhand.trans hh, haddr, hdepth, hl, hf, hcount, hid, hregs, ?_⟩
  intro e c r hcmd hreg hdr c' hc' hid'
  obtain ⟨q, hq, hmem⟩ := mem_cmdsOf hc'
  exact ((cancelRegions_ends (s := pendTaken s n rest) hcmd hreg hdr).congr hengs) q hq c' hmem hid'
end

/-- Settles O48: each event by what it makes of the task, and of the engines or the group. -/
theorem resultsAndTasksEnd : Obligations.ResultsAndTasksEnd := fun _ _ _ =>
  ⟨fun _ => resultLandsEarly, fun _ _ _ => resultCompletes,
    fun _ _ ha he hh hs hp hc => ⟨fun _ => pendingTraps ha he hh hs hp hc, fun _ => pendingUnwinds ha he hh hs hp hc⟩, taskEnds⟩
end Sys2Proof.Machine
end
section
/-! A CORE'S TURN (R56, R65, R67): what its step runs, by what its contexts offer. -/
namespace Sys2Proof.Machine
variable {s : State} {c k p : Nat} {bits b1 b2 : BitVec 128} {j : Judged} {l l1 l2 : List BSlot}

/-- The core's turn is over. -/
def coreDone (c : Nat) (s : State) : State := { s with coreIdx := c + 1 }

theorem step_of_nextCore (hr : s.Running) (hi : s.inbox = []) (ht : s.turn = 0) (hd : dueEvent s = none) (hc : nextCore s = some c) :
    step s = runCore s c := by
  obtain ⟨hshut, hinc, hconf⟩ := hr
  simp [step, runStep, hshut, hinc, hi, hconf, ht, hd, hc]

theorem fetch_of_offer {ctx : Nat} (h : offer s ctx = .judged bits j) :
    fetch s ctx = .bundle bits ∧ j = judge { s with cur := ctx } bits := by
  unfold offer at h
  extract_lets t at h
  split_ifs at h
  split at h
  case h_3 b hb =>
    cases h
    exact ⟨hb, rfl⟩
  all_goals cases h

theorem runSecond_of_idle {s0 t : State} {c1 c2 : Nat} {o : Offer} : runSecond s0 c1 c2 o .idle t = .next t := by
  unfold runSecond
  split
  case h_1 h => cases h
  case h_2 => rfl

theorem thenDo_next (t : State) (f : State → State) : thenDo (.next t) f = .next (f t) := rfl
theorem askFetch_of_ne {ctx : Nat} {o : Offer} (h : o ≠ .fetchWait) : askFetch s ctx o = s := by
  unfold askFetch
  split
  case h_1 => exact absurd rfl h
  case h_2 => rfl

/-- What a core's turn runs when its context p is to go first. -/
theorem runCore_of_offers {op oq : Offer} (hp : p = 0 ∨ p = 1) (ho : offer (landedCore s c) (2 * c + p) = op)
    (hq : offer (landedCore s c) (2 * c + (1 - p)) = oq) (he : op.eligible = true) (hw : oq ≠ .fetchWait)
    (hprim : oq.eligible = true → primaryOf ((landedCore s c).core c) (landedCore s c).cycle ((landedCore s c).ctx (2 * c))
      ((landedCore s c).ctx (2 * c + 1)) = p) :
    let s2 := (landedCore s c).setCore c (chooseCore ((landedCore s c).core c) oq.eligible p)
    runCore s c = match runOffer s2 (2 * c + p) op with
      | .next t => thenDo (runSecond s2 (2 * c + p) (2 * c + (1 - p)) op oq t) (coreDone c)
      | o => o := by
  have hw' : op ≠ .fetchWait := fun h => by rw [h] at he; cases he
  unfold runCore
  obtain rfl | rfl := hp
  · have ho' : offer (landedCore s c) (2 * c) = op := ho
    have hprimary : primary (landedCore s c) c op oq = 0 := by
      cases h : oq.eligible <;> simp [primary, he, h]
      exact hprim h
    simp only [ho', hq, Nat.sub_zero, askFetch_of_ne hw, askFetch_of_ne hw', he, hprimary]
    rfl
  · have hq' : offer (landedCore s c) (2 * c) = oq := hq
    have hprimary : primary (landedCore s c) c oq op = 1 := by
      cases h : oq.eligible <;> simp [primary, he, h]
      exact hprim h
    simp only [ho, hq', Nat.sub_self, askFetch_of_ne hw, askFetch_of_ne hw', he, hprimary, Bool.and_true, Bool.not_true, Bool.and_false,
      Bool.false_eq_true, if_false]
    rfl

/-- The core as one context has been chosen. -/
def chosen (s : State) (c : Nat) (both : Bool) (p : Nat) : State := s.setCore c (chooseCore (s.core c) both p)

theorem runCore_of_one (hk : k = 0 ∨ k = 1) (ho : offer (landedCore s c) (2 * c + k) = .judged bits j) (hj : j ≠ .stall)
    (hq : offer (landedCore s c) (2 * c + (1 - k)) = .idle) :
    runCore s c = thenDo (runBundle (chosen (landedCore s c) c false k) (2 * c + k) bits j) (coreDone c) := by
  have he : (Offer.judged bits j).eligible = true := by
    cases j with
    | stall => exact absurd rfl hj
    | illegal | divert | go => rfl
  rw [runCore_of_offers hk ho hq he nofun nofun]
  change (match runBundle (chosen (landedCore s c) c false k) (2 * c + k) bits j with | .next t => _ | o => o) = _
  cases runBundle (chosen (landedCore s c) c false k) (2 * c + k) bits j with
  | next t => simp only [runSecond_of_idle, thenDo_next]
  | fault r => rfl
  | refused r => rfl

theorem runBundle_of_sole {ctx : Nat} {x : BSlot} (h : soleSlot (atBundle s ctx bits).me bits = some x) :
    runBundle s ctx bits (.go l) = exec x.i { atBundle s ctx bits with slotNo := x.n } := by
  simp only [runBundle, h]
theorem runBundle_of_slots {ctx : Nat} (h : soleSlot (atBundle s ctx bits).me bits = none) (hl : l ≠ []) :
    runBundle s ctx bits (.go l) = runSlots l (opened (consumes bits) (atBundle s ctx bits)) := by
  have hl' : l.isEmpty = false := by simpa using hl
  simp [runBundle, h, hl']
theorem runBundle_of_fillers {ctx : Nat} (h : soleSlot (atBundle s ctx bits).me bits = none) (hc : consumes bits = false) :
    runBundle s ctx bits (.go []) = exec .fillerBundle (atBundle s ctx bits) := by
  simp [runBundle, h, hc]
theorem runBundle_of_illegal {ctx : Nat} {info : Word} :
    runBundle s ctx bits (.illegal info) = exec (.illegalEncoding info) (atBundle s ctx bits) := rfl

theorem decodeBundleOne_of_soleSlot {t : Task} {x : BSlot} (h : soleSlot t bits = some x) : decodeBundleOne bits = some x.i := by
  unfold soleSlot at h
  dsimp only at h
  split at h
  case h_1 y hs hf =>
    split at h
    case isTrue hg =>
      have hover : overLimit bits = false := by simpa using (Bool.and_eq_true_iff.mp hg).2
      cases h
      simp only [decodeBundleOne, hf, hover, illegalInfo_nil, Bool.false_eq_true, if_false, hs]
    case isFalse => cases h
  case h_2 => cases h

theorem soleSlot_of_fillers {t : Task} (h : decodeBundle bits = ⟨[], []⟩) : soleSlot t bits = none := by
  simp [soleSlot, h]
theorem consumes_of_fillers (h : decodeBundle bits = ⟨[], []⟩) : consumes bits = false := by
  simp [consumes, h]
theorem eq_of_judge_go (hj : judge s bits = .go l) : l = (decodeBundle bits).slots.filter (edgeActs s.me) := by
  unfold judge at hj
  extract_lets b t live vs dyn stat at hj
  split at hj
  case h_1 => cases hj
  case h_2 =>
    split at hj
    case h_1 => cases hj
    case h_2 =>
      split at hj
      case isTrue => cases hj
      case isFalse =>
        split at hj
        case h_1 => cases hj
        case h_2 => exact (Judged.go.inj hj).symm
theorem judge_fillers (h : decodeBundle bits = ⟨[], []⟩) (hj : judge s bits = .go l) : l = [] := by
  rw [eq_of_judge_go hj, h]
  rfl

theorem not_any_contains_iff (a b : List Nat) : (!(b.any a.contains)) = true ↔ ∀ e, e ∈ a → e ∉ b := by
  simp only [Bool.not_eq_true', List.any_eq_false, List.contains_iff_mem]
  exact ⟨fun h e ha hb => h e hb ha, fun h e hb ha => h e ha hb⟩

theorem runSecond_eq {s0 t : State} {c1 c2 : Nat} :
    let p1 := { s0 with cur := c1 }
    let p2 := { s0 with cur := c2 }
    let fits := slotsFit b1 b2 = true ∧ unitsUsed p1 b1 l1 + unitsUsed p2 b2 l2 ≤ vectorFree p1 ∧
      ∀ e, e ∈ enginesUsed p1 b1 l1 → e ∉ enginesUsed p2 b2 l2
    (fits → runSecond s0 c1 c2 (.judged b1 (.go l1)) (.judged b2 (.go l2)) t =
      runSlots l2 (opened (consumes b2) { atBundle t c2 b2 with stamp := s0.stamp })) ∧
    (¬ fits → runSecond s0 c1 c2 (.judged b1 (.go l1)) (.judged b2 (.go l2)) t = .next t) := by
  intro p1 p2 fits
  have h : (slotsFit b1 b2 && decide (unitsUsed p1 b1 l1 + unitsUsed p2 b2 l2 ≤ vectorFree p1) &&
      !((enginesUsed p2 b2 l2).any (enginesUsed p1 b1 l1).contains)) = true ↔ fits := by
    rw [Bool.and_eq_true, Bool.and_eq_true, decide_eq_true_iff, not_any_contains_iff, and_assoc]
  exact ⟨fun hf => if_pos (h.mpr hf), fun hf => if_neg (mt h.mp hf)⟩

theorem stepRunsOne (hr : s.Running) (hi : s.inbox = []) (ht : s.turn = 0) (hd : dueEvent s = none) (hc : nextCore s = some c)
    (hk : k = 0 ∨ k = 1) (ho : offer (landedCore s c) (2 * c + k) = .judged bits j) (hj : j ≠ .stall)
    (hq : offer (landedCore s c) (2 * c + (1 - k)) = .idle) :
    step s = thenDo (runBundle (chosen (landedCore s c) c false k) (2 * c + k) bits j) (coreDone c) := by
  rw [step_of_nextCore hr hi ht hd hc, runCore_of_one hk ho hj hq]

theorem stepRunsTwo {t : State} (hr : s.Running) (hi : s.inbox = []) (ht : s.turn = 0) (hd : dueEvent s = none)
    (hc : nextCore s = some c) (hp : p = 0 ∨ p = 1) (ho : offer (landedCore s c) (2 * c + p) = .judged b1 (.go l1))
    (hq : offer (landedCore s c) (2 * c + (1 - p)) = .judged b2 (.go l2))
    (hprim : primaryOf ((landedCore s c).core c) (landedCore s c).cycle ((landedCore s c).ctx (2 * c))
      ((landedCore s c).ctx (2 * c + 1)) = p)
    (h1 : runBundle (chosen (landedCore s c) c true p) (2 * c + p) b1 (.go l1) = .next t) :
    step s = thenDo (runSecond (chosen (landedCore s c) c true p) (2 * c + p) (2 * c + (1 - p)) (.judged b1 (.go l1))
      (.judged b2 (.go l2)) t) (coreDone c) := by
  rw [step_of_nextCore hr hi ht hd hc, runCore_of_offers hp ho hq rfl nofun fun _ => hprim]
  change (match runBundle (chosen (landedCore s c) c true p) (2 * c + p) b1 (.go l1) with | .next t => _ | o => o) = _
  rw [h1]
  rfl

/-- Settles O7: a core's turn runs what its one context offers, or what both offer when both fit. -/
theorem stepRunsTheDecodedBundle : Obligations.StepRunsTheDecodedBundle := by
  refine ⟨fun s c k bits j hr hi ht hd hc hk => ?_, fun s c p b1 b2 l1 l2 hr hi ht hd hc hp => ?_⟩
  · intro s1 ctx ho hq s2
    have hstep (hj : j ≠ .stall) := stepRunsOne hr hi ht hd hc hk ho hj hq
    obtain ⟨hfetch, hjudge⟩ := fetch_of_offer ho
    refine ⟨hfetch, ?_, ?_, ?_, ?_, ?_⟩
    · rintro x l rfl hx
      exact ⟨decodeBundleOne_of_soleSlot hx, (hstep nofun).trans (congrArg (thenDo · (coreDone c)) (runBundle_of_sole hx))⟩
    · rintro l rfl hl hx
      exact (hstep nofun).trans (congrArg (thenDo · (coreDone c)) (runBundle_of_slots hx hl))
    · rintro rfl hcons hx
      exact (hstep nofun).trans (congrArg (thenDo · (coreDone c)) (runBundle_of_fillers hx hcons))
    · rintro hb - l rfl
      exact ⟨judge_fillers hb hjudge.symm, soleSlot_of_fillers hb, consumes_of_fillers hb⟩
    · rintro info rfl
      exact (hstep nofun).trans (congrArg (thenDo · (coreDone c)) runBundle_of_illegal)
  · intro s1 ho hq hprim s2 p1 p2 fits t h1
    have hstep := stepRunsTwo hr hi ht hd hc hp ho hq hprim h1
    obtain ⟨hfits, hnot⟩ := runSecond_eq (b1 := b1) (b2 := b2) (l1 := l1) (l2 := l2) (s0 := s2) (t := t) (c1 := 2 * c + p)
      (c2 := 2 * c + (1 - p))
    exact ⟨fun hf => hstep.trans (congrArg (thenDo · (coreDone c)) (hfits hf)),
      fun hf => hstep.trans (congrArg (thenDo · (coreDone c)) (hnot hf))⟩
end Sys2Proof.Machine
end

section
/-! ROUNDING ON A GRID (R101): an exact value scaled to a step is a rational, and the direction picks a whole number next to it. -/
namespace Sys2Proof.Machine

/-- Does a number of whole part k and fraction z round away from zero? -/
def awayAt (rnd : Nat) (neg : Bool) (k : Nat) (z : Rat) : Bool :=
  if z = 0 then false
  else
    match rnd with
    | 0 => decide (1 / 2 < z) || (decide (z = 1 / 2) && k % 2 == 1)
    | 1 => false
    | 2 => !neg
    | _ => neg
/-- The whole number to which a magnitude rounds. -/
def roundNat (rnd : Nat) (neg : Bool) (t : Rat) : Nat :=
  if awayAt rnd neg ⌊t⌋₊ (t - ⌊t⌋₊) then ⌊t⌋₊ + 1 else ⌊t⌋₊
/-- The exponent of the step on which a magnitude a rounds: p bits below its own, and no less than the least. -/
def stepExp (p : Nat) (least : Int) (a : Rat) : Int := if a = 0 then least else max (Int.log 2 a - p) least
/-- The directions that round toward zero a value of a sign (R101). -/
def inwardDir (rnd : Nat) (neg : Bool) : Prop := rnd = 1 ∨ (rnd = 2 ∧ neg = true) ∨ (rnd = 3 ∧ neg = false)

-- The model's quotients of naturals.

theorem scaleUp_cast (n : Nat) (k : Int) : (scaleUp n k : Rat) = n * 2 ^ k.toNat := by
  simp [scaleUp, Nat.shiftLeft_eq]

theorem zpow_eq_toNat_div (k : Int) : (2 : Rat) ^ k = 2 ^ k.toNat / 2 ^ (-k).toNat := by
  rw [← zpow_natCast, ← zpow_natCast, ← zpow_sub₀ two_ne_zero]
  congr 1
  omega

theorem scaleUp_div (n d : Nat) (k : Int) : (scaleUp n k : Rat) / scaleUp d (-k) = n / d * 2 ^ k := by
  rw [scaleUp_cast, scaleUp_cast, zpow_eq_toNat_div k, mul_div_mul_comm]

theorem scaleUp_pos {d : Nat} (hd : 0 < d) (k : Int) : 0 < scaleUp d k := by
  simp only [scaleUp, Nat.shiftLeft_eq]
  positivity

theorem roundsUp_eq {d : Nat} (hd : 0 < d) (rnd : Nat) (neg : Bool) (k r : Nat) :
    roundsUp rnd neg k r d = awayAt rnd neg k ((r : Rat) / d) := by
  have hd' : (0 : Rat) < d := by exact_mod_cast hd
  have hzero : ((r : Rat) / d = 0) ↔ r = 0 := by simp [hd.ne']
  have hmore : ((1 / 2 : Rat) < r / d) ↔ d < 2 * r := by
    rw [div_lt_div_iff₀ two_pos hd', one_mul, mul_comm]
    exact_mod_cast Iff.rfl
  have hhalf : ((r : Rat) / d = 1 / 2) ↔ d = 2 * r := by
    rw [div_eq_div_iff hd'.ne' two_ne_zero, one_mul, mul_comm, eq_comm]
    exact_mod_cast Iff.rfl
  simp only [roundsUp, awayAt, hzero, hmore, hhalf] <;> rfl

/-- What the model rounds is the value of the quotient, whatever numerator, denominator and exponent it is given by. -/
theorem roundAt_eq {d : Nat} (hd : 0 < d) (rnd : Nat) (neg : Bool) (n : Nat) (e q : Int) :
    roundAt rnd neg n d e q = (roundNat rnd neg (n / d * 2 ^ (e - q)),
      decide ((n / d * 2 ^ (e - q) : Rat) ≠ (⌊(n / d * 2 ^ (e - q) : Rat)⌋₊ : Rat))) := by
  have hpos := scaleUp_pos hd (q - e)
  have hval : (n / d * 2 ^ (e - q) : Rat) = (scaleUp n (e - q) : Rat) / scaleUp d (q - e) := by
    rw [← scaleUp_div, neg_sub]
  have hfloor : ⌊(n / d * 2 ^ (e - q) : Rat)⌋₊ = scaleUp n (e - q) / scaleUp d (q - e) := by
    rw [hval, Nat.floor_div_eq_div]
  have hrest : (n / d * 2 ^ (e - q) : Rat) - (scaleUp n (e - q) / scaleUp d (q - e) : Nat) =
      ((scaleUp n (e - q) % scaleUp d (q - e) : Nat) : Rat) / scaleUp d (q - e) := by
    have hdm : ((scaleUp d (q - e) * (scaleUp n (e - q) / scaleUp d (q - e)) + scaleUp n (e - q) % scaleUp d (q - e) : Nat) : Rat) =
        scaleUp n (e - q) := by rw [Nat.div_add_mod]
    have hne : (scaleUp d (q - e) : Rat) ≠ 0 := by exact_mod_cast hpos.ne'
    rw [hval, eq_div_iff hne, sub_mul, div_mul_cancel₀ _ hne, ← hdm]
    push_cast
    ring
  have hexact : (n / d * 2 ^ (e - q) : Rat) = (scaleUp n (e - q) / scaleUp d (q - e) : Nat) ↔
      scaleUp n (e - q) % scaleUp d (q - e) = 0 := by
    rw [← sub_eq_zero, hrest]
    simp [hpos.ne']
  simp only [roundAt, roundNat, hfloor, hrest, roundsUp_eq hpos, hexact, ne_eq]
  refine Prod.ext rfl ?_
  by_cases h : scaleUp n (e - q) % scaleUp d (q - e) = 0 <;> simp [h]

theorem log2Quot_eq {n d : Nat} (hn : 0 < n) (hd : 0 < d) : log2Quot n d = Int.log 2 (n / d : Rat) := by
  have hn' : (0 : Rat) < n := by exact_mod_cast hn
  have hd' : (0 : Rat) < d := by exact_mod_cast hd
  have hq : (0 : Rat) < n / d := by positivity
  have hnlo : (2 : Rat) ^ (n.log2 : Int) ≤ n := by exact_mod_cast Nat.log2_self_le hn.ne'
  have hnhi : (n : Rat) < 2 ^ ((n.log2 : Int) + 1) := by exact_mod_cast Nat.lt_log2_self (n := n)
  have hdlo : (2 : Rat) ^ (d.log2 : Int) ≤ d := by exact_mod_cast Nat.log2_self_le hd.ne'
  have hdhi : (d : Rat) < 2 ^ ((d.log2 : Int) + 1) := by exact_mod_cast Nat.lt_log2_self (n := d)
  have hlow : (2 : Rat) ^ ((n.log2 : Int) - d.log2 - 1) ≤ n / d := by
    rw [show (n.log2 : Int) - d.log2 - 1 = n.log2 - (d.log2 + 1) by ring, zpow_sub₀ two_ne_zero]
    exact div_le_div₀ hn'.le hnlo hd' hdhi.le
  have hhigh : (n / d : Rat) < 2 ^ ((n.log2 : Int) - d.log2 + 1) := by
    rw [show (n.log2 : Int) - d.log2 + 1 = n.log2 + 1 - d.log2 by ring, zpow_sub₀ two_ne_zero]
    exact div_lt_div₀ hnhi hdlo (by positivity) (by positivity)
  have hcut : scaleUp d ((n.log2 : Int) - d.log2) ≤ scaleUp n (-((n.log2 : Int) - d.log2)) ↔
      (2 : Rat) ^ ((n.log2 : Int) - d.log2) ≤ n / d := by
    have hs : (0 : Rat) < scaleUp n (-((n.log2 : Int) - d.log2)) := by exact_mod_cast scaleUp_pos hn _
    rw [← Nat.cast_le (α := Rat), ← div_le_one hs, scaleUp_div, le_div_iff₀ hd', div_mul_eq_mul_div, div_le_one hn', mul_comm]
  simp only [log2Quot, hcut]
  split_ifs with h
  · refine le_antisymm ((Int.zpow_le_iff_le_log (by decide) hq).mp (by exact_mod_cast h)) (Int.lt_add_one_iff.mp ?_)
    exact (Int.lt_zpow_iff_log_lt (by decide) hq).mp (by exact_mod_cast hhigh)
  · refine le_antisymm ((Int.zpow_le_iff_le_log (by decide) hq).mp (by exact_mod_cast hlow)) (Int.lt_add_one_iff.mp ?_)
    rw [sub_add_cancel]
    exact (Int.lt_zpow_iff_log_lt (by decide) hq).mp (by exact_mod_cast not_le.mp h)

theorem log_mul_zpow {a : Rat} (ha : 0 < a) (e : Int) : Int.log 2 (a * 2 ^ e) = Int.log 2 a + e := by
  have h2 : (0 : Rat) < 2 ^ e := by positivity
  have hlo : (2 : Rat) ^ Int.log 2 a ≤ a := by exact_mod_cast Int.zpow_log_le_self (b := 2) (by decide) ha
  have hhi : a < (2 : Rat) ^ (Int.log 2 a + 1) := by exact_mod_cast Int.lt_zpow_succ_log_self (b := 2) (by decide) a
  refine le_antisymm (Int.lt_add_one_iff.mp ((Int.lt_zpow_iff_log_lt (by decide) (by positivity)).mp ?_))
    ((Int.zpow_le_iff_le_log (by decide) (by positivity)).mp ?_)
  · rw [show Int.log 2 a + e + 1 = Int.log 2 a + 1 + e by ring, Nat.cast_ofNat, zpow_add₀ two_ne_zero]
    gcongr
  · rw [Nat.cast_ofNat, zpow_add₀ two_ne_zero]
    gcongr

-- The whole number that is picked.

variable {rnd : Nat} {neg : Bool} {t : Rat}

theorem awayAt_whole {k : Nat} : awayAt rnd neg k 0 = false := if_pos rfl
theorem awayAt_inward {k : Nat} {z : Rat} (h : inwardDir rnd neg) : awayAt rnd neg k z = false := by
  obtain rfl | ⟨rfl, rfl⟩ | ⟨rfl, rfl⟩ := h <;> exact ite_self false
theorem awayAt_outward {k : Nat} {z : Rat} (hr : rnd < 4) (h0 : rnd ≠ 0) (h : ¬ inwardDir rnd neg) (hz : z ≠ 0) :
    awayAt rnd neg k z = true := by
  unfold awayAt
  rw [if_neg hz]
  obtain rfl | rfl | rfl : rnd = 1 ∨ rnd = 2 ∨ rnd = 3 := by omega
  · exact absurd (.inl rfl) h
  · cases neg with
    | false => rfl
    | true => exact absurd (.inr (.inl ⟨rfl, rfl⟩)) h
  · cases neg with
    | false => exact absurd (.inr (.inr ⟨rfl, rfl⟩)) h
    | true => rfl
theorem awayAt_near_iff {k : Nat} {z : Rat} : awayAt 0 neg k z = true ↔ 1 / 2 < z ∨ (z = 1 / 2 ∧ k % 2 = 1) := by
  unfold awayAt
  split_ifs with h
  · norm_num [h]
  · simp

theorem roundNat_eq_or : roundNat rnd neg t = ⌊t⌋₊ ∨ roundNat rnd neg t = ⌊t⌋₊ + 1 := by
  unfold roundNat
  split_ifs <;> simp
theorem roundNat_inward (h : inwardDir rnd neg) : roundNat rnd neg t = ⌊t⌋₊ := by simp [roundNat, awayAt_inward h]
theorem roundNat_exact (h : t = ⌊t⌋₊) : roundNat rnd neg t = ⌊t⌋₊ := by
  rw [roundNat, sub_eq_zero.mpr h, awayAt_whole, if_neg Bool.false_ne_true]
theorem roundNat_outward (hr : rnd < 4) (h0 : rnd ≠ 0) (h : ¬ inwardDir rnd neg) (ht : t ≠ ⌊t⌋₊) :
    roundNat rnd neg t = ⌊t⌋₊ + 1 := if_pos (awayAt_outward hr h0 h (sub_ne_zero.mpr ht))

/-- No other whole number is nearer, and of two as near the even one is picked. -/
theorem roundNat_near (ht : 0 ≤ t) : |t - roundNat 0 neg t| ≤ 1 / 2 ∧ (|t - roundNat 0 neg t| = 1 / 2 → roundNat 0 neg t % 2 = 0) := by
  have hlo := Nat.floor_le ht
  have hhi := Nat.lt_floor_add_one t
  by_cases haway : awayAt 0 neg ⌊t⌋₊ (t - ⌊t⌋₊) = true
  · rw [roundNat, if_pos haway, Nat.cast_add_one, abs_of_neg (by linarith)]
    obtain hmore | ⟨hhalf, hodd⟩ := awayAt_near_iff.mp haway
    · exact ⟨by linarith, fun h => by linarith⟩
    · exact ⟨by linarith, fun _ => by omega⟩
  · rw [roundNat, if_neg haway, abs_of_nonneg (by linarith)]
    rw [awayAt_near_iff, not_or, not_lt, not_and] at haway
    exact ⟨haway.1, fun h => Nat.mod_two_ne_one.mp (haway.2 h)⟩
theorem roundNat_eq_self_iff : (roundNat rnd neg t : Rat) = t ↔ t = ⌊t⌋₊ := by
  refine ⟨fun h => ?_, fun h => by rw [roundNat_exact h, ← h]⟩
  rw [← h, Nat.floor_natCast]
end Sys2Proof.Machine
end

section
/-! THE NEIGHBOURS OF A VALUE (R101): between a magnitude's two neighbours on its step there is no value of its format. -/
namespace Sys2Proof.Machine

/-- The sign of a value as a factor. -/
def signOf (neg : Bool) : Rat := if neg then -1 else 1
/-- A magnitude of p + 1 significant bits, on the least step or on a coarser one. -/
def IsFloat (p : Nat) (least : Int) (y : Rat) : Prop := ∃ (m : Nat) (e : Int), y = m * 2 ^ e ∧ m < 2 ^ (p + 1) ∧ least ≤ e
/-- The multiple of the step to which a magnitude rounds, and its value. -/
def roundCount (p : Nat) (least : Int) (rnd : Nat) (neg : Bool) (a : Rat) : Nat := roundNat rnd neg (a / 2 ^ stepExp p least a)
def roundMag (p : Nat) (least : Int) (rnd : Nat) (neg : Bool) (a : Rat) : Rat :=
  roundCount p least rnd neg a * 2 ^ stepExp p least a

theorem abs_signOf_mul (neg : Bool) (a : Rat) : |signOf neg * a| = |a| := by cases neg <;> simp [signOf]
theorem signOf_mul_inj {neg : Bool} {a b : Rat} : signOf neg * a = signOf neg * b ↔ a = b := by cases neg <;> simp [signOf]
theorem signOf_mul_self (neg : Bool) (a : Rat) : signOf neg * (signOf neg * a) = a := by cases neg <;> simp [signOf]

variable {p : Nat} {least : Int} {rnd : Nat} {neg : Bool} {a y : Rat}

theorem zpow_log_le (ha : 0 < a) : (2 : Rat) ^ Int.log 2 a ≤ a := by exact_mod_cast Int.zpow_log_le_self (b := 2) (by decide) ha
theorem lt_zpow_log (a : Rat) : a < 2 ^ (Int.log 2 a + 1) := by exact_mod_cast Int.lt_zpow_succ_log_self (b := 2) (by decide) a
theorem lt_zpow_iff_log_lt (ha : 0 < a) {x : Int} : a < 2 ^ x ↔ Int.log 2 a < x := by
  exact_mod_cast Int.lt_zpow_iff_log_lt (b := 2) (by decide) ha
theorem zpow_le_iff_le_log (ha : 0 < a) {x : Int} : 2 ^ x ≤ a ↔ x ≤ Int.log 2 a := by
  exact_mod_cast Int.zpow_le_iff_le_log (b := 2) (by decide) ha
theorem two_zpow_pos (x : Int) : (0 : Rat) < 2 ^ x := zpow_pos two_pos x
theorem two_zpow_le {x z : Int} (h : x ≤ z) : (2 : Rat) ^ x ≤ 2 ^ z := zpow_le_zpow_right₀ one_le_two h
theorem two_zpow_add_nat (n : Nat) (x : Int) : (2 : Rat) ^ (n + x) = 2 ^ n * 2 ^ x := by
  rw [zpow_add₀ two_ne_zero, zpow_natCast]

theorem stepExp_of_pos (ha : 0 < a) : stepExp p least a = max (Int.log 2 a - p) least := if_neg ha.ne'
theorem stepExp_zero : stepExp p least 0 = least := if_pos rfl
theorem least_le_stepExp : least ≤ stepExp p least a := by
  unfold stepExp
  split_ifs
  · exact le_rfl
  · exact le_max_right ..
theorem scaled_lt (ha : 0 ≤ a) : a / 2 ^ stepExp p least a < 2 ^ (p + 1) := by
  rcases ha.eq_or_lt with rfl | ha
  · rw [zero_div]
    positivity
  rw [div_lt_iff₀ (two_zpow_pos _), ← two_zpow_add_nat, stepExp_of_pos ha]
  refine (lt_zpow_log a).trans_le (two_zpow_le ?_)
  have : Int.log 2 a - p ≤ max (Int.log 2 a - p) least := le_max_left ..
  push_cast
  omega
theorem step_least_or_normal (ha : 0 ≤ a) : stepExp p least a = least ∨ (2 : Rat) ^ p ≤ a / 2 ^ stepExp p least a := by
  rcases ha.eq_or_lt with rfl | ha
  · exact .inl stepExp_zero
  rw [stepExp_of_pos ha]
  rcases max_choice (Int.log 2 a - p) least with h | h
  · refine .inr ?_
    rw [le_div_iff₀ (two_zpow_pos _), h, ← two_zpow_add_nat, add_sub_cancel]
    exact zpow_log_le ha
  · exact .inl h
theorem scaled_nonneg (ha : 0 ≤ a) (q : Int) : 0 ≤ a / 2 ^ q := div_nonneg ha (two_zpow_pos q).le

theorem roundCount_le (ha : 0 ≤ a) : roundCount p least rnd neg a ≤ 2 ^ (p + 1) := by
  have hfloor : ⌊a / 2 ^ stepExp p least a⌋₊ < 2 ^ (p + 1) :=
    (Nat.floor_lt (scaled_nonneg ha _)).mpr (by exact_mod_cast scaled_lt ha)
  obtain h | h := roundNat_eq_or (rnd := rnd) (neg := neg) (t := a / 2 ^ stepExp p least a) <;> rw [roundCount, h] <;> omega
theorem roundCount_least_or_normal (ha : 0 ≤ a) : stepExp p least a = least ∨ 2 ^ p ≤ roundCount p least rnd neg a := by
  refine (step_least_or_normal ha).imp_right fun h => ?_
  have hfloor : 2 ^ p ≤ ⌊a / 2 ^ stepExp p least a⌋₊ := Nat.le_floor (by exact_mod_cast h)
  obtain h | h := roundNat_eq_or (rnd := rnd) (neg := neg) (t := a / 2 ^ stepExp p least a) <;> rw [roundCount, h] <;> omega

/-- No value of the format lies between two neighbouring multiples of a step on which the lower one has p + 1 bits. -/
theorem IsFloat.le_or_le {m : Nat} {e : Int} (hy : IsFloat p least y) (hm : e = least ∨ 2 ^ p ≤ m) :
    y ≤ m * 2 ^ e ∨ ((m : Rat) + 1) * 2 ^ e ≤ y := by
  obtain ⟨n, c, rfl, hn, hc⟩ := hy
  have hg := two_zpow_pos e
  rcases le_or_gt e c with hge | hlt
  · have hmul : (n : Rat) * 2 ^ c = ((n * 2 ^ (c - e).toNat : Nat) : Rat) * 2 ^ e := by
      obtain ⟨j, rfl⟩ : ∃ j : Nat, c = j + e := ⟨(c - e).toNat, by omega⟩
      rw [add_sub_cancel_right, Int.toNat_natCast, two_zpow_add_nat]
      push_cast
      ring
    rw [hmul]
    refine (le_or_gt (n * 2 ^ (c - e).toNat) m).imp (fun h => ?_) fun h => ?_
    · exact mul_le_mul_of_nonneg_right (by exact_mod_cast h) hg.le
    · exact mul_le_mul_of_nonneg_right (by exact_mod_cast h) hg.le
  · refine .inl ?_
    have hm' : 2 ^ p ≤ m := hm.resolve_left (by omega)
    calc (n : Rat) * 2 ^ c ≤ 2 ^ (p + 1) * 2 ^ (e - 1) :=
          mul_le_mul (by exact_mod_cast hn.le) (two_zpow_le (by omega)) (two_zpow_pos _).le (by positivity)
      _ = 2 ^ p * 2 ^ e := by
          rw [← two_zpow_add_nat, ← two_zpow_add_nat]
          congr 1
          push_cast
          ring
      _ ≤ _ := mul_le_mul_of_nonneg_right (by exact_mod_cast hm') hg.le

/-- A value of the format lies at or below the lower neighbour of a magnitude, or at or above the upper one. -/
theorem IsFloat.not_between (hy : IsFloat p least y) (ha : 0 ≤ a) : y ≤ ⌊a / 2 ^ stepExp p least a⌋₊ * 2 ^ stepExp p least a ∨
    ((⌊a / 2 ^ stepExp p least a⌋₊ : Rat) + 1) * 2 ^ stepExp p least a ≤ y :=
  hy.le_or_le ((step_least_or_normal ha).imp_right fun h => Nat.le_floor (by exact_mod_cast h))

theorem roundMag_isFloat (ha : 0 ≤ a) : IsFloat p least (roundMag p least rnd neg a) := by
  rcases (roundCount_le (p := p) (least := least) (rnd := rnd) (neg := neg) ha).lt_or_eq with h | h
  · exact ⟨_, _, rfl, h, least_le_stepExp⟩
  · refine ⟨1, stepExp p least a + (p + 1), ?_, Nat.one_lt_two_pow (Nat.succ_ne_zero p), ?_⟩
    · rw [roundMag, h, Nat.cast_one, one_mul, add_comm (stepExp p least a), ← Nat.cast_add_one, two_zpow_add_nat]
      push_cast
      rfl
    · have := least_le_stepExp (p := p) (least := least) (a := a)
      omega

/-- The step of a magnitude, from its neighbours. -/
theorem stepExp_eq {m : Nat} {e : Int} (hm : 2 ^ p ≤ m) (hm' : m < 2 ^ (p + 1)) (he : least ≤ e) (hlo : m * 2 ^ e ≤ a)
    (hhi : a < ((m : Rat) + 1) * 2 ^ e) : stepExp p least a = e := by
  have ha : 0 < a := lt_of_lt_of_le (mul_pos (by exact_mod_cast lt_of_lt_of_le (Nat.two_pow_pos p) hm) (two_zpow_pos e)) hlo
  have hlog : Int.log 2 a = p + e := by
    refine le_antisymm (Int.lt_add_one_iff.mp ((lt_zpow_iff_log_lt ha).mp (hhi.trans_le ?_))) ((zpow_le_iff_le_log ha).mp (le_trans ?_ hlo))
    · rw [show (p : Int) + e + 1 = (p + 1 : Nat) + e by push_cast; ring, two_zpow_add_nat]
      exact mul_le_mul_of_nonneg_right (by exact_mod_cast hm') (two_zpow_pos e).le
    · rw [two_zpow_add_nat]
      exact mul_le_mul_of_nonneg_right (by exact_mod_cast hm) (two_zpow_pos e).le
  rw [stepExp_of_pos ha, hlog]
  omega

theorem floor_step_le (ha : 0 ≤ a) : ⌊a / 2 ^ stepExp p least a⌋₊ * 2 ^ stepExp p least a ≤ a :=
  (le_div_iff₀ (two_zpow_pos _)).mp (Nat.floor_le (scaled_nonneg ha _))
theorem lt_floor_step (a : Rat) : a < ((⌊a / 2 ^ stepExp p least a⌋₊ : Rat) + 1) * 2 ^ stepExp p least a :=
  (div_lt_iff₀ (two_zpow_pos _)).mp (Nat.lt_floor_add_one _)

theorem roundMag_eq_iff : roundMag p least rnd neg a = a ↔ a / 2 ^ stepExp p least a = ⌊a / 2 ^ stepExp p least a⌋₊ := by
  rw [roundMag, ← eq_div_iff (two_zpow_pos _).ne', roundCount, roundNat_eq_self_iff]
theorem roundMag_zero : roundMag p least rnd neg 0 = 0 := roundMag_eq_iff.mpr (by simp)
theorem roundMag_nonneg : 0 ≤ roundMag p least rnd neg a := mul_nonneg (Nat.cast_nonneg _) (two_zpow_pos _).le

/-- Toward zero: the greatest value that is not above. -/
theorem roundMag_inward (h : inwardDir rnd neg) (ha : 0 ≤ a) :
    roundMag p least rnd neg a ≤ a ∧ ∀ y, IsFloat p least y → y ≤ a → y ≤ roundMag p least rnd neg a := by
  rw [roundMag, roundCount, roundNat_inward h]
  refine ⟨floor_step_le ha, fun y hy hya => ?_⟩
  exact (hy.not_between ha).resolve_right fun hup => absurd (lt_floor_step a) (not_lt.mpr (hup.trans hya))
/-- Away from zero: the least value that is not below. -/
theorem roundMag_outward (hr : rnd < 4) (h0 : rnd ≠ 0) (h : ¬ inwardDir rnd neg) (ha : 0 ≤ a) :
    a ≤ roundMag p least rnd neg a ∧ ∀ y, IsFloat p least y → a ≤ y → roundMag p least rnd neg a ≤ y := by
  by_cases hex : a / 2 ^ stepExp p least a = ⌊a / 2 ^ stepExp p least a⌋₊
  · rw [roundMag_eq_iff.mpr hex]
    exact ⟨le_rfl, fun y _ hy => hy⟩
  · rw [roundMag, roundCount, roundNat_outward hr h0 h hex, Nat.cast_add_one]
    refine ⟨(lt_floor_step a).le, fun y hy hya => (hy.not_between ha).resolve_left fun hlow => hex ?_⟩
    have heq : (⌊a / 2 ^ stepExp p least a⌋₊ : Rat) * 2 ^ stepExp p least a = a := le_antisymm (floor_step_le ha) (hya.trans hlow)
    exact ((eq_div_iff (two_zpow_pos _).ne').mpr heq).symm

theorem roundMag_half (ha : 0 ≤ a) : |a - roundMag p least 0 neg a| ≤ 2 ^ stepExp p least a / 2 ∧
    (|a - roundMag p least 0 neg a| = 2 ^ stepExp p least a / 2 → roundCount p least 0 neg a % 2 = 0) := by
  have hg := two_zpow_pos (stepExp p least a)
  obtain ⟨hle, hev⟩ := roundNat_near (neg := neg) (scaled_nonneg ha _)
  have habs : |a - roundMag p least 0 neg a| = |a / 2 ^ stepExp p least a - roundNat 0 neg (a / 2 ^ stepExp p least a)| *
      2 ^ stepExp p least a := by
    rw [← abs_of_pos hg, ← abs_mul, abs_of_pos hg, sub_mul, div_mul_cancel₀ _ hg.ne']
    rfl
  rw [habs, show (2 : Rat) ^ stepExp p least a / 2 = 1 / 2 * 2 ^ stepExp p least a by ring, mul_le_mul_iff_left₀ hg,
    mul_left_inj' hg.ne']
  exact ⟨hle, hev⟩

/-- To nearest: no other value is nearer, and of two as near the even one is taken. -/
theorem roundMag_near (ha : 0 ≤ a) (hy : IsFloat p least y) (hne : y ≠ roundMag p least 0 neg a) :
    |a - roundMag p least 0 neg a| ≤ |a - y| ∧
      (|a - roundMag p least 0 neg a| = |a - y| → roundCount p least 0 neg a % 2 = 0) := by
  obtain ⟨hle, hev⟩ := roundMag_half (p := p) (least := least) (neg := neg) ha
  have hlo := floor_step_le (p := p) (least := least) ha
  have hhi := lt_floor_step (p := p) (least := least) a
  have hbetween := hy.not_between ha
  have hmag : roundMag p least 0 neg a = ⌊a / 2 ^ stepExp p least a⌋₊ * 2 ^ stepExp p least a ∨
      roundMag p least 0 neg a = (⌊a / 2 ^ stepExp p least a⌋₊ + 1) * 2 ^ stepExp p least a := by
    rw [roundMag, roundCount]
    exact roundNat_eq_or.imp (fun h => by rw [h]) fun h => by rw [h, Nat.cast_add_one]
  generalize roundMag p least 0 neg a = v at *
  generalize (2 : Rat) ^ stepExp p least a = g at *
  generalize (⌊a / g⌋₊ : Rat) = k at *
  rw [add_mul, one_mul] at hbetween hmag hhi
  obtain hv | hv := hmag
  · rw [abs_of_nonneg (by linarith)] at hle hev ⊢
    obtain hb | hb := hbetween
    · have := lt_of_le_of_ne (hb.trans hv.ge) hne
      rw [abs_of_pos (by linarith)]
      exact ⟨by linarith, fun h => by linarith⟩
    · rw [abs_of_neg (by linarith)]
      exact ⟨by linarith, fun h => hev (by linarith)⟩
  · rw [abs_of_neg (by linarith)] at hle hev ⊢
    obtain hb | hb := hbetween
    · rw [abs_of_nonneg (by linarith)]
      exact ⟨by linarith, fun h => hev (by linarith)⟩
    · have := lt_of_le_of_ne (hv.le.trans hb) (Ne.symm hne)
      rw [abs_of_neg (by linarith)]
      exact ⟨by linarith, fun h => by linarith⟩

-- The bounds of a format: two neighbouring multiples m and m + 1 of a step.

section
variable {m : Nat} {e : Int}

theorem roundMag_inward_ge_iff (h : inwardDir rnd neg) (ha : 0 ≤ a) (hy : IsFloat p least y) :
    y ≤ roundMag p least rnd neg a ↔ y ≤ a :=
  have hround := roundMag_inward (p := p) (least := least) h ha
  ⟨fun hle => hle.trans hround.1, hround.2 y hy⟩
theorem roundMag_outward_le_iff (hr : rnd < 4) (h0 : rnd ≠ 0) (h : ¬ inwardDir rnd neg) (ha : 0 ≤ a) (hy : IsFloat p least y) :
    roundMag p least rnd neg a ≤ y ↔ a ≤ y :=
  have hround := roundMag_outward (p := p) (least := least) hr h0 h ha
  ⟨hround.1.trans, hround.2 y hy⟩

/-- To nearest, a magnitude between the two goes to the lower one up to the midpoint, which goes to the even one. -/
theorem roundMag_near_le_iff (hm : 2 ^ p ≤ m) (hm' : m < 2 ^ (p + 1)) (he : least ≤ e) (ha : 0 ≤ a) :
    roundMag p least 0 neg a ≤ m * 2 ^ e ↔ a < (m + 1 / 2) * 2 ^ e ∨ (a = (m + 1 / 2) * 2 ^ e ∧ m % 2 = 0) := by
  have hg := two_zpow_pos e
  have hlow : IsFloat p least (m * 2 ^ e) := ⟨m, e, rfl, hm', he⟩
  have hvfloat := roundMag_isFloat (p := p) (least := least) (rnd := 0) (neg := neg) ha
  have hsplit := hvfloat.le_or_le (m := m) (e := e) (.inr hm)
  rcases lt_trichotomy a ((m + 1 / 2) * 2 ^ e) with hlt | heq | hgt
  · refine iff_of_true (hsplit.resolve_right fun hup => ?_) (.inl hlt)
    have hne : (m : Rat) * 2 ^ e ≠ roundMag p least 0 neg a := fun h => by rw [← h] at hup; linarith
    have hnear := (roundMag_near ha hlow hne).1
    rw [abs_of_neg (by linarith)] at hnear
    rcases abs_cases (a - m * 2 ^ e) with ⟨h, -⟩ | ⟨h, -⟩ <;> rw [h] at hnear <;> linarith
  · have hstep : stepExp p least a = e := stepExp_eq hm hm' he (by linarith) (by linarith)
    have hfloor : ⌊a / 2 ^ e⌋₊ = m := by
      rw [heq, mul_div_cancel_right₀ _ hg.ne', Nat.floor_eq_iff (by positivity)]
      constructor <;> linarith
    have hmid : a / 2 ^ e = m + 1 / 2 := by rw [heq, mul_div_cancel_right₀ _ hg.ne']
    have hcount : roundCount p least 0 neg a = if m % 2 = 1 then m + 1 else m := by
      rw [roundCount, hstep, roundNat, hfloor]
      refine if_congr ?_ rfl rfl
      rw [awayAt_near_iff, hmid, add_sub_cancel_left]
      simp
    rw [roundMag, hcount, hstep, or_iff_right (by rw [heq]; exact lt_irrefl _), and_iff_right heq]
    rcases Nat.mod_two_eq_zero_or_one m with hev | hodd
    · simp [hev]
    · simp only [hodd, if_true, one_ne_zero, iff_false, not_le, Nat.cast_add_one]
      linarith
  · refine iff_of_false (fun hle => ?_) (by rintro (h | ⟨h, -⟩) <;> linarith)
    have hhigh : ∃ y, IsFloat p least y ∧ y = (m + 1) * 2 ^ e := by
      rcases Nat.lt_or_eq_of_le (Nat.succ_le_of_lt hm') with h | h
      · exact ⟨_, ⟨m + 1, e, rfl, h, he⟩, by push_cast; ring⟩
      · refine ⟨_, ⟨1, (p + 1 : Nat) + e, rfl, Nat.one_lt_two_pow (Nat.succ_ne_zero p), by omega⟩, ?_⟩
        rw [two_zpow_add_nat, ← Nat.cast_add_one m, show m + 1 = 2 ^ (p + 1) from h]
        push_cast
        ring
    obtain ⟨y, hy, hyeq⟩ := hhigh
    have hnear := (roundMag_near (neg := neg) ha hy (by intro h; rw [← h, hyeq] at hle; linarith)).1
    rw [abs_of_pos (by linarith)] at hnear
    rcases abs_cases (a - y) with ⟨h, -⟩ | ⟨h, -⟩ <;> rw [h] at hnear <;> linarith
end

/-- The same among values of both signs. -/
theorem roundMag_near_signed (ha : 0 ≤ a) (hy : IsFloat p least |y|) (hne : y ≠ signOf neg * roundMag p least 0 neg a) :
    |signOf neg * a - signOf neg * roundMag p least 0 neg a| ≤ |signOf neg * a - y| ∧
      (|signOf neg * a - signOf neg * roundMag p least 0 neg a| = |signOf neg * a - y| → roundCount p least 0 neg a % 2 = 0) := by
  have hv := roundMag_nonneg (p := p) (least := least) (rnd := 0) (neg := neg) (a := a)
  have hy' : |signOf neg * a - y| = |a - signOf neg * y| := by
    rw [← abs_signOf_mul neg, mul_sub, signOf_mul_self]
  have hne' : signOf neg * y ≠ roundMag p least 0 neg a := fun h => hne (by rw [← h, signOf_mul_self])
  rw [hy', ← mul_sub, abs_signOf_mul]
  rw [← abs_signOf_mul neg] at hy
  generalize signOf neg * y = z at *
  rcases le_or_gt 0 z with hz | hz
  · rw [abs_of_nonneg hz] at hy
    exact roundMag_near ha hy hne'
  · have hfar : |a - z| = a + |z| := by rw [abs_of_neg hz, abs_of_pos (by linarith)]; ring
    by_cases heq : |z| = roundMag p least 0 neg a
    · have hpos : 0 < roundMag p least 0 neg a := heq ▸ abs_pos.mpr hz.ne
      have ha' : 0 < a := ha.lt_of_ne fun h => hpos.ne' (by rw [← h, roundMag_zero])
      have hclose : |a - roundMag p least 0 neg a| < a + |z| := by
        rw [heq, abs_lt]
        constructor <;> linarith
      rw [hfar]
      exact ⟨hclose.le, fun h => absurd h hclose.ne⟩
    · obtain ⟨hle, hev⟩ := roundMag_near ha hy heq
      have hclose : |a - abs z| ≤ a + abs z := by
        have := abs_pos.mpr hz.ne
        rw [abs_le]
        constructor <;> linarith
      rw [hfar]
      exact ⟨hle.trans hclose, fun h => hev (hle.antisymm (hclose.trans h.ge))⟩
end Sys2Proof.Machine
end

section
/-! PATTERNS AND THEIR VALUES (R96, R97): what a pattern put together from its fields unpacks to, and which values a format has. -/
namespace Sys2Proof.Machine

/-- A format with exponents of both signs and a fraction, as those of R96. -/
structure Fmt.Proper (f : Fmt) : Prop where
  eb : 2 ≤ f.eb
  fb : 1 ≤ f.fb

theorem fmt_proper {f : Fmt} (h : f = fp32 ∨ f = bf16 ∨ f = fp16) : f.Proper := by
  obtain rfl | rfl | rfl := h <;> exact ⟨by decide, by decide⟩

variable {f : Fmt} {neg : Bool} {E F k x : Nat} {q : Int}

theorem Fmt.Proper.eall_eq (hf : f.Proper) : f.eall = 2 * f.bias + 1 ∧ 1 ≤ f.bias := by
  obtain ⟨n, hn⟩ := Nat.exists_eq_add_of_le' hf.eb
  have : 1 ≤ 2 ^ n := Nat.one_le_two_pow
  simp only [Fmt.eall, Fmt.bias, hn, show n + 2 - 1 = n + 1 by omega, pow_succ]
  omega
theorem Fmt.Proper.eall_lt (_ : f.Proper) : f.eall < 2 ^ f.eb := Nat.sub_lt (Nat.two_pow_pos _) one_pos

theorem sign_eq (f : Fmt) (neg : Bool) : f.sign neg = (if neg then 1 else 0) * 2 ^ f.eb * 2 ^ f.fb := by
  cases neg <;> simp [Fmt.sign, pow_add]

/-- The fields of a pattern. -/
theorem unpack_fields (hE : E < 2 ^ f.eb) (hF : F < 2 ^ f.fb) : unpack f (f.sign neg + (E * 2 ^ f.fb + F)) =
    if E = f.eall then (if F = 0 then .inf neg else .nan)
    else if E = 0 then .fin neg F f.qmin
    else .fin neg (2 ^ f.fb + F) ((E : Int) - f.bias - f.fb) := by
  have hx : f.sign neg + (E * 2 ^ f.fb + F) = ((if neg then 1 else 0) * 2 ^ f.eb + E) * 2 ^ f.fb + F := by
    rw [sign_eq]
    ring
  have hdiv : (f.sign neg + (E * 2 ^ f.fb + F)) / 2 ^ f.fb = (if neg then 1 else 0) * 2 ^ f.eb + E := by
    rw [hx, mul_comm, Nat.mul_add_div (Nat.two_pow_pos _), Nat.div_eq_of_lt hF, add_zero]
  have hfrac : (f.sign neg + (E * 2 ^ f.fb + F)) % 2 ^ f.fb = F := by
    rw [hx, Nat.mul_add_mod', Nat.mod_eq_of_lt hF]
  have hexp : (f.sign neg + (E * 2 ^ f.fb + F)) / 2 ^ f.fb % 2 ^ f.eb = E := by
    rw [hdiv, Nat.mul_add_mod', Nat.mod_eq_of_lt hE]
  have hneg : (f.sign neg + (E * 2 ^ f.fb + F)).testBit (f.eb + f.fb) = neg := by
    rw [Nat.testBit_eq_decide_div_mod_eq, add_comm f.eb, pow_add, ← Nat.div_div_eq_div_mul, hdiv, mul_comm,
      Nat.mul_add_div (Nat.two_pow_pos _), Nat.div_eq_of_lt hE]
    cases neg <;> rfl
  simp only [unpack, hfrac, hexp, hneg]

/-- A finite pattern is a significand of fb + 1 bits on a step of the format, with the sign of its top bit. -/
theorem unpack_finite (hf : f.Proper) (h : (unpack f x).finite = true) :
    ∃ neg m e, unpack f x = .fin neg m e ∧ m < 2 ^ (f.fb + 1) ∧ f.qmin ≤ e ∧ e ≤ (f.bias : Int) - f.fb := by
  obtain ⟨hall, hbias⟩ := hf.eall_eq
  have hF : x % 2 ^ f.fb < 2 ^ f.fb := Nat.mod_lt _ (Nat.two_pow_pos _)
  have hE : x / 2 ^ f.fb % 2 ^ f.eb ≤ f.eall := Nat.le_sub_one_of_lt (Nat.mod_lt _ (Nat.two_pow_pos _))
  have hpow : 2 ^ (f.fb + 1) = 2 ^ f.fb + 2 ^ f.fb := by rw [pow_succ]; ring
  unfold unpack at h ⊢
  dsimp only at h ⊢
  split_ifs at h ⊢ with h1 h2 h3
  · cases h
  · cases h
  · exact ⟨_, _, _, rfl, by omega, le_rfl, by simp only [Fmt.qmin, Fmt.emin]; omega⟩
  · exact ⟨_, _, _, rfl, by omega, by simp only [Fmt.qmin, Fmt.emin]; omega, by omega⟩

theorem fin_rat (neg : Bool) (m : Nat) (e : Int) : (Val.fin neg m e).rat = signOf neg * (m * 2 ^ e) := by
  rw [Val.rat, signOf, mul_assoc]
theorem abs_fin_rat (neg : Bool) (m : Nat) (e : Int) : |(Val.fin neg m e).rat| = m * 2 ^ e := by
  rw [fin_rat, abs_signOf_mul, abs_of_nonneg (mul_nonneg (Nat.cast_nonneg _) (two_zpow_pos _).le)]

/-- The step of the largest binade, and the largest finite magnitude (R96). -/
def Fmt.topStep (f : Fmt) : Rat := 2 ^ ((f.bias : Int) - f.fb)
def Fmt.most (f : Fmt) : Rat := (2 ^ (f.fb + 1) - 1) * f.topStep
theorem most_add_topStep (f : Fmt) : f.most + f.topStep = 2 ^ (f.bias + 1) := by
  rw [Fmt.most, sub_mul, one_mul, sub_add_cancel, Fmt.topStep, ← zpow_natCast, ← zpow_natCast, ← zpow_add₀ two_ne_zero]
  congr 1
  push_cast
  ring
theorem topStep_pos (f : Fmt) : 0 < f.topStep := two_zpow_pos _

theorem abs_unpack_isFloat (hf : f.Proper) (h : (unpack f x).finite = true) : IsFloat f.fb f.qmin |(unpack f x).rat| := by
  obtain ⟨neg, m, e, hv, hm, he, -⟩ := unpack_finite hf h
  rw [hv, abs_fin_rat]
  exact ⟨m, e, rfl, hm, he⟩
theorem abs_unpack_le_most (hf : f.Proper) (h : (unpack f x).finite = true) : |(unpack f x).rat| ≤ f.most := by
  obtain ⟨neg, m, e, hv, hm, -, he⟩ := unpack_finite hf h
  rw [hv, abs_fin_rat]
  have hm' : (m : Rat) ≤ 2 ^ (f.fb + 1) - 1 := by
    rw [le_sub_iff_add_le]
    exact_mod_cast hm
  exact mul_le_mul hm' (two_zpow_le he) (two_zpow_pos _).le ((Nat.cast_nonneg _).trans hm')
theorem most_isFloat (hf : f.Proper) : IsFloat f.fb f.qmin f.most := by
  obtain ⟨-, hbias⟩ := hf.eall_eq
  refine ⟨2 ^ (f.fb + 1) - 1, (f.bias : Int) - f.fb, ?_, Nat.sub_lt (Nat.two_pow_pos _) one_pos, ?_⟩
  · rw [Fmt.most, Fmt.topStep, Nat.cast_sub Nat.one_le_two_pow]
    push_cast
    rfl
  · simp only [Fmt.qmin, Fmt.emin]
    omega
/-- The power of two above the largest finite magnitude: a value of the format, but for its exponent. -/
theorem overMost_isFloat (hf : f.Proper) : IsFloat f.fb f.qmin (2 ^ (f.bias + 1)) := by
  obtain ⟨-, hbias⟩ := hf.eall_eq
  refine ⟨1, f.bias + 1, ?_, Nat.one_lt_two_pow (by omega), ?_⟩
  · rw [Nat.cast_one, one_mul]
    exact_mod_cast rfl
  · simp only [Fmt.qmin, Fmt.emin]
    omega

-- A rounded magnitude as a pattern.

/-- The places of a multiple k of 2^q in the order of the format's patterns. -/
def placeOf (f : Fmt) (k : Nat) (q : Int) : Nat := (q - f.qmin).toNat * 2 ^ f.fb + k

theorem packAt_eq (hk : q = f.qmin ∨ 2 ^ f.fb ≤ k) : packAt f neg k q = f.sign neg + placeOf f k q := by
  rw [packAt, placeOf]
  split_ifs with h
  · rw [hk.resolve_right (by omega), sub_self]
    simp
  · rw [add_assoc]

/-- The fields of a place: a multiple at or above 2^fb steps one up in the exponent, one of 2^(fb + 1) two. -/
theorem placeOf_fields (hq : f.qmin ≤ q) (hk : q = f.qmin ∨ 2 ^ f.fb ≤ k) (hle : k ≤ 2 ^ (f.fb + 1)) :
    ∃ E F, F < 2 ^ f.fb ∧ placeOf f k q = E * 2 ^ f.fb + F ∧ (k : Rat) * 2 ^ q =
      if E = 0 then (F : Rat) * 2 ^ f.qmin else ((2 ^ f.fb + F : Nat) : Rat) * 2 ^ ((E : Int) - f.bias - f.fb) := by
  obtain ⟨j, hj⟩ : ∃ j : Nat, q = f.qmin + j := ⟨(q - f.qmin).toNat, by omega⟩
  have hpow : 2 ^ (f.fb + 1) = 2 ^ f.fb + 2 ^ f.fb := by rw [pow_succ]; ring
  have hplace : placeOf f k q = j * 2 ^ f.fb + k := by rw [placeOf, hj, add_sub_cancel_left, Int.toNat_natCast]
  have hexp (E : Nat) : (E : Int) - f.bias - f.fb = f.qmin + E - 1 := by
    simp only [Fmt.qmin, Fmt.emin]
    ring
  rcases lt_or_ge k (2 ^ f.fb) with hlt | hge
  · have hj0 : j = 0 := by have := hk.resolve_right (by omega); omega
    refine ⟨0, k, hlt, by rw [hplace, hj0], ?_⟩
    rw [if_pos rfl, hj, hj0, Nat.cast_zero, add_zero]
  rcases hle.lt_or_eq with hlt | heq
  · refine ⟨j + 1, k - 2 ^ f.fb, by omega, ?_, ?_⟩
    · rw [hplace, add_mul, one_mul, add_assoc, Nat.add_sub_cancel' hge]
    · rw [if_neg (Nat.succ_ne_zero j), Nat.add_sub_cancel' hge, hexp, hj]
      congr 2
      push_cast
      ring
  · refine ⟨j + 2, 0, Nat.two_pow_pos _, ?_, ?_⟩
    · rw [hplace, heq, hpow]
      ring
    · rw [if_neg (Nat.succ_ne_zero _), hexp, hj, heq, pow_succ, add_zero, Nat.cast_mul, mul_assoc]
      congr 1
      rw [Nat.cast_ofNat, ← zpow_one_add₀ two_ne_zero]
      congr 1
      push_cast
      ring

theorem placeOf_lt_iff (hf : f.Proper) (hq : f.qmin ≤ q) (hk : q = f.qmin ∨ 2 ^ f.fb ≤ k) (hle : k ≤ 2 ^ (f.fb + 1)) :
    placeOf f k q < f.eall * 2 ^ f.fb ↔ (k : Rat) * 2 ^ q < 2 ^ (f.bias + 1) := by
  obtain ⟨hall, hbias⟩ := hf.eall_eq
  obtain ⟨E, F, hF, hplace, hval⟩ := placeOf_fields hq hk hle
  have hlt : placeOf f k q < f.eall * 2 ^ f.fb ↔ E < f.eall := by
    rw [hplace]
    constructor
    · intro h
      exact Nat.lt_of_mul_lt_mul_right (a := 2 ^ f.fb) (by omega)
    · intro h
      calc E * 2 ^ f.fb + F < (E + 1) * 2 ^ f.fb := by rw [add_mul, one_mul]; omega
        _ ≤ _ := Nat.mul_le_mul_right _ h
  have hover : (2 : Rat) ^ (f.bias + 1) = 2 ^ f.fb * 2 ^ ((f.bias : Int) + 1 - f.fb) := by
    rw [← two_zpow_add_nat, ← zpow_natCast]
    congr 1
    push_cast
    ring
  have hF' : (F : Rat) < 2 ^ f.fb := by exact_mod_cast hF
  rw [hlt, hval]
  split_ifs with h0
  · refine ⟨fun _ => ?_, fun _ => by omega⟩
    rw [hover]
    refine mul_lt_mul hF' (two_zpow_le ?_) (two_zpow_pos _) (by positivity)
    simp only [Fmt.qmin, Fmt.emin]
    omega
  · rw [hover]
    constructor
    · intro h
      calc ((2 ^ f.fb + F : Nat) : Rat) * 2 ^ ((E : Int) - f.bias - f.fb)
          < (2 ^ f.fb * 2) * 2 ^ ((E : Int) - f.bias - f.fb) := by
            refine mul_lt_mul_of_pos_right ?_ (two_zpow_pos _)
            push_cast
            linarith
        _ = 2 ^ f.fb * 2 ^ ((E : Int) - f.bias - f.fb + 1) := by rw [mul_assoc, zpow_add_one₀ two_ne_zero, mul_comm 2]
        _ ≤ _ := mul_le_mul_of_nonneg_left (two_zpow_le (by omega)) (by positivity)
    · intro h
      by_contra hE
      refine absurd h (not_lt.mpr ?_)
      refine mul_le_mul ?_ (two_zpow_le (by omega)) (two_zpow_pos _).le (Nat.cast_nonneg _)
      push_cast
      exact le_add_of_nonneg_right (Nat.cast_nonneg _)

theorem inf_eq (f : Fmt) (neg : Bool) : f.inf neg = f.sign neg + f.eall * 2 ^ f.fb := rfl

/-- A pattern that does not overflow holds the rounded value. -/
theorem unpack_packAt (hf : f.Proper) (hq : f.qmin ≤ q) (hk : q = f.qmin ∨ 2 ^ f.fb ≤ k) (hle : k ≤ 2 ^ (f.fb + 1))
    (hlt : packAt f neg k q < f.inf neg) : ∃ m e, unpack f (packAt f neg k q) = .fin neg m e ∧ (m : Rat) * 2 ^ e = k * 2 ^ q := by
  obtain ⟨E, F, hF, hplace, hval⟩ := placeOf_fields hq hk hle
  rw [packAt_eq hk, inf_eq, add_lt_add_iff_left, hplace] at hlt
  have hE : E < f.eall := Nat.lt_of_mul_lt_mul_right (a := 2 ^ f.fb) (by omega)
  rw [packAt_eq hk, hplace, unpack_fields (hE.trans hf.eall_lt) hF, if_neg hE.ne, hval]
  split_ifs
  · exact ⟨_, _, rfl, rfl⟩
  · exact ⟨_, _, rfl, rfl⟩

theorem packAt_lt_inf_iff (hf : f.Proper) (hq : f.qmin ≤ q) (hk : q = f.qmin ∨ 2 ^ f.fb ≤ k) (hle : k ≤ 2 ^ (f.fb + 1)) :
    packAt f neg k q < f.inf neg ↔ (k : Rat) * 2 ^ q < 2 ^ (f.bias + 1) := by
  rw [packAt_eq hk, inf_eq, add_lt_add_iff_left, placeOf_lt_iff hf hq hk hle]

theorem packAt_mod_two (hf : f.Proper) (hk : q = f.qmin ∨ 2 ^ f.fb ≤ k) : packAt f neg k q % 2 = k % 2 := by
  obtain ⟨n, hn⟩ := Nat.exists_eq_add_of_le' hf.fb
  have h : packAt f neg k q = 2 * (((if neg then 1 else 0) * 2 ^ f.eb + (q - f.qmin).toNat) * 2 ^ n) + k := by
    rw [packAt_eq hk, sign_eq, placeOf, hn, pow_succ]
    ring
  rw [h, Nat.mul_add_mod]

theorem unpack_inf (hf : f.Proper) (neg : Bool) : unpack f (f.inf neg) = .inf neg := by
  have h := unpack_fields (neg := neg) hf.eall_lt (Nat.two_pow_pos f.fb)
  rwa [if_pos rfl, if_pos rfl, add_zero] at h
theorem unpack_sign (hf : f.Proper) (neg : Bool) : unpack f (f.sign neg) = .fin neg 0 f.qmin := by
  obtain ⟨hall, -⟩ := hf.eall_eq
  have h := unpack_fields (neg := neg) (E := 0) (Nat.two_pow_pos f.eb) (Nat.two_pow_pos f.fb)
  rwa [if_neg (by omega), if_pos rfl, zero_mul, add_zero, add_zero] at h
theorem unpack_maxFin (hf : f.Proper) (neg : Bool) :
    unpack f (f.maxFin neg) = .fin neg (2 ^ (f.fb + 1) - 1) ((f.bias : Int) - f.fb) := by
  obtain ⟨hall, hbias⟩ := hf.eall_eq
  have hpos := Nat.two_pow_pos f.fb
  have hx : f.maxFin neg = f.sign neg + (2 * f.bias * 2 ^ f.fb + (2 ^ f.fb - 1)) := by
    rw [Fmt.maxFin, hall, add_mul, one_mul, ← add_assoc, ← add_assoc, Nat.add_sub_assoc hpos]
  have h := unpack_fields (neg := neg) (E := 2 * f.bias) (by have := hf.eall_lt; omega) (Nat.sub_lt hpos one_pos)
  rw [if_neg (by omega), if_neg (by omega)] at h
  rw [hx, h]
  congr 1
  · rw [pow_succ]
    omega
  · push_cast
    ring
end Sys2Proof.Machine
end

section
/-! ONE ROUNDING INTO A FORMAT (R101, R102): its result from the value alone, and what it is in each direction. -/
namespace Sys2Proof.Machine

/-- The magnitude a rounded into a format as the value of a sign: what roundQuot gives for every quotient of that value. -/
def roundRat (f : Fmt) (rnd : Nat) (neg : Bool) (a : Rat) : Nat × Flags :=
  if a = 0 then (f.sign neg, 0)
  else
    let bits := packAt f neg (roundCount f.fb f.qmin rnd neg a) (stepExp f.fb f.qmin a)
    let inx := decide (roundMag f.fb f.qmin rnd neg a ≠ a)
    if bits ≥ f.inf neg then
      (overflowTo f rnd neg, fOF ||| fNX ||| fIf (overflowTo f rnd neg == f.inf neg) fNFP)
    else (bits, fIf inx fNX ||| fIf (inx && decide (a < 2 ^ f.emin)) fUF)

variable {f : Fmt} {rnd : Nat} {neg : Bool} {a : Rat} {n d : Nat} {e : Int}

theorem quot_pos (hn : 0 < n) (hd : 0 < d) (e : Int) : (0 : Rat) < n / d * 2 ^ e :=
  mul_pos (div_pos (Nat.cast_pos.mpr hn) (Nat.cast_pos.mpr hd)) (two_zpow_pos e)

/-- The step of a quotient, as the model finds it. -/
theorem stepExp_quot (hn : 0 < n) (hd : 0 < d) (e : Int) (p : Nat) (least : Int) :
    max (log2Quot n d + e - p) least = stepExp p least (n / d * 2 ^ e) := by
  rw [stepExp_of_pos (quot_pos hn hd e), log2Quot_eq hn hd, log_mul_zpow (div_pos (Nat.cast_pos.mpr hn) (Nat.cast_pos.mpr hd))]
theorem log2Quot_lt_iff (hn : 0 < n) (hd : 0 < d) (e x : Int) : log2Quot n d + e < x ↔ (n / d * 2 ^ e : Rat) < 2 ^ x := by
  rw [lt_zpow_iff_log_lt (quot_pos hn hd e), log2Quot_eq hn hd,
    log_mul_zpow (div_pos (Nat.cast_pos.mpr hn) (Nat.cast_pos.mpr hd))]

theorem roundAt_stepExp (hd : 0 < d) (p : Nat) (least : Int) :
    roundAt rnd neg n d e (stepExp p least (n / d * 2 ^ e)) = (roundCount p least rnd neg (n / d * 2 ^ e),
      decide (roundMag p least rnd neg (n / d * 2 ^ e) ≠ n / d * 2 ^ e)) := by
  rw [roundAt_eq hd, zpow_sub₀ two_ne_zero, ← mul_div_assoc, roundCount]
  exact Prod.ext rfl (decide_eq_decide.mpr roundMag_eq_iff.symm.not)

/-- A rounding depends on the value of the quotient only. -/
theorem roundQuot_eq (hd : 0 < d) : roundQuot f rnd neg n d e = roundRat f rnd neg (n / d * 2 ^ e) := by
  rcases Nat.eq_zero_or_pos n with rfl | hn
  · rw [roundQuot, if_pos rfl, roundRat, if_pos (by simp)]
  · simp only [roundQuot, if_neg hn.ne', roundRat, if_neg (quot_pos hn hd e).ne', stepExp_quot hn hd, roundAt_stepExp hd,
      log2Quot_lt_iff hn hd]

/-- What a rounding gives: the pattern of the rounded magnitude, or, where that reaches the exponent's end, the overflow result. -/
theorem roundRat_cases (hf : f.Proper) (ha : 0 ≤ a) :
    (roundMag f.fb f.qmin rnd neg a < 2 ^ (f.bias + 1) ∧ (roundRat f rnd neg a).1 % 2 = roundCount f.fb f.qmin rnd neg a % 2 ∧
      (roundRat f rnd neg a).2 = fIf (decide (roundMag f.fb f.qmin rnd neg a ≠ a)) fNX |||
        fIf (decide (roundMag f.fb f.qmin rnd neg a ≠ a) && decide (a < 2 ^ f.emin)) fUF ∧
      ∃ m e, unpack f (roundRat f rnd neg a).1 = .fin neg m e ∧ (m : Rat) * 2 ^ e = roundMag f.fb f.qmin rnd neg a) ∨
    (2 ^ (f.bias + 1) ≤ roundMag f.fb f.qmin rnd neg a ∧ roundRat f rnd neg a =
      (overflowTo f rnd neg, fOF ||| fNX ||| fIf (overflowTo f rnd neg == f.inf neg) fNFP)) := by
  have hq := least_le_stepExp (p := f.fb) (least := f.qmin) (a := a)
  have hk := roundCount_least_or_normal (p := f.fb) (least := f.qmin) (rnd := rnd) (neg := neg) ha
  have hle := roundCount_le (p := f.fb) (least := f.qmin) (rnd := rnd) (neg := neg) ha
  have hiff := packAt_lt_inf_iff (neg := neg) hf hq hk hle
  rcases lt_or_ge (packAt f neg (roundCount f.fb f.qmin rnd neg a) (stepExp f.fb f.qmin a)) (f.inf neg) with hlt | hge
  · have hr : roundRat f rnd neg a = (packAt f neg (roundCount f.fb f.qmin rnd neg a) (stepExp f.fb f.qmin a),
        fIf (decide (roundMag f.fb f.qmin rnd neg a ≠ a)) fNX |||
          fIf (decide (roundMag f.fb f.qmin rnd neg a ≠ a) && decide (a < 2 ^ f.emin)) fUF) := by
      rcases eq_or_ne a 0 with rfl | h0
      · have hcount : roundCount f.fb f.qmin rnd neg 0 = 0 := (roundNat_exact (by simp)).trans (by simp)
        have hpack : packAt f neg 0 f.qmin = f.sign neg := if_pos (Nat.two_pow_pos _)
        rw [roundRat, if_pos rfl, hcount, stepExp_zero, hpack, roundMag_zero]
        simp [fIf]
      · rw [roundRat, if_neg h0]
        exact if_neg (not_le.mpr hlt)
    rw [hr]
    exact .inl ⟨hiff.mp hlt, packAt_mod_two hf hk, rfl, unpack_packAt hf hq hk hle hlt⟩
  · have hover : 2 ^ (f.bias + 1) ≤ roundMag f.fb f.qmin rnd neg a := not_lt.mp fun h => absurd (hiff.mpr h) (not_lt.mpr hge)
    have h0 : a ≠ 0 := by
      rintro rfl
      rw [roundMag_zero] at hover
      exact absurd hover (not_le.mpr (by positivity))
    refine .inr ⟨hover, ?_⟩
    rw [roundRat, if_neg h0]
    exact if_pos hge

-- Overflow (R102).

theorem inf_ne_maxFin (hf : f.Proper) (neg : Bool) : f.maxFin neg ≠ f.inf neg := fun h => by
  have := congrArg (unpack f) h
  rw [unpack_inf hf, unpack_maxFin hf] at this
  cases this
theorem overflowTo_inward (h : inwardDir rnd neg) : overflowTo f rnd neg = f.maxFin neg := by
  obtain rfl | ⟨rfl, rfl⟩ | ⟨rfl, rfl⟩ := h <;> rfl
theorem overflowTo_outward (hr : rnd < 4) (h : ¬ inwardDir rnd neg) : overflowTo f rnd neg = f.inf neg := by
  obtain rfl | rfl | rfl | rfl : rnd = 0 ∨ rnd = 1 ∨ rnd = 2 ∨ rnd = 3 := by omega
  · rfl
  · exact absurd (.inl rfl) h
  · cases neg with
    | false => rfl
    | true => exact absurd (.inr (.inl ⟨rfl, rfl⟩)) h
  · cases neg with
    | false => exact absurd (.inr (.inr ⟨rfl, rfl⟩)) h
    | true => rfl
theorem overflow_inward (hf : f.Proper) (h : inwardDir rnd neg) :
    (overflowTo f rnd neg, fOF ||| fNX ||| fIf (overflowTo f rnd neg == f.inf neg) fNFP) = (f.maxFin neg, fOF ||| fNX) := by
  rw [overflowTo_inward h, beq_false_of_ne (inf_ne_maxFin hf neg)]
  rfl
theorem overflow_outward (hr : rnd < 4) (h : ¬ inwardDir rnd neg) :
    (overflowTo f rnd neg, fOF ||| fNX ||| fIf (overflowTo f rnd neg == f.inf neg) fNFP) = (f.inf neg, fOF ||| fNX ||| fNFP) := by
  rw [overflowTo_outward hr h, beq_self_eq_true]
  rfl

/-- A rounded magnitude below the exponent's end is at most the largest finite one. -/
theorem roundMag_lt_iff_le_most (ha : 0 ≤ a) :
    roundMag f.fb f.qmin rnd neg a < 2 ^ (f.bias + 1) ↔ roundMag f.fb f.qmin rnd neg a ≤ f.most := by
  have hsum := most_add_topStep f
  have hpos := topStep_pos f
  have hnot := (roundMag_isFloat (p := f.fb) (least := f.qmin) (rnd := rnd) (neg := neg) ha).le_or_le (m := 2 ^ (f.fb + 1) - 1)
    (e := (f.bias : Int) - f.fb) (.inr (by rw [pow_succ]; have := Nat.two_pow_pos f.fb; omega))
  rw [Nat.cast_sub Nat.one_le_two_pow] at hnot
  push_cast at hnot
  rw [sub_add_cancel] at hnot
  have hmost : f.most = (2 ^ (f.fb + 1) - 1) * 2 ^ ((f.bias : Int) - f.fb) := rfl
  have hstep : f.topStep = 2 ^ ((f.bias : Int) - f.fb) := rfl
  rw [← hmost, ← hstep, show (2 : Rat) ^ (f.fb + 1) * f.topStep = f.most + f.topStep by rw [Fmt.most]; ring, hsum] at hnot
  constructor
  · intro h
    exact hnot.resolve_right (not_le.mpr h)
  · intro h
    linarith

theorem roundMag_near_over_iff (hf : f.Proper) (ha : 0 ≤ a) :
    roundMag f.fb f.qmin 0 neg a < 2 ^ (f.bias + 1) ↔ a < f.most + f.topStep / 2 := by
  obtain ⟨hall, hbias⟩ := hf.eall_eq
  have hpow := Nat.two_pow_pos f.fb
  have hodd : (2 ^ (f.fb + 1) - 1) % 2 ≠ 0 := by rw [pow_succ]; omega
  have hmid : (((2 ^ (f.fb + 1) - 1 : Nat) : Rat) + 1 / 2) * 2 ^ ((f.bias : Int) - f.fb) = f.most + f.topStep / 2 := by
    rw [Nat.cast_sub Nat.one_le_two_pow, Fmt.most, Fmt.topStep]
    push_cast
    ring
  have hmost : ((2 ^ (f.fb + 1) - 1 : Nat) : Rat) * 2 ^ ((f.bias : Int) - f.fb) = f.most := by
    rw [Nat.cast_sub Nat.one_le_two_pow, Fmt.most, Fmt.topStep]
    push_cast
    rfl
  have h := roundMag_near_le_iff (neg := neg) (m := 2 ^ (f.fb + 1) - 1) (e := (f.bias : Int) - f.fb) (p := f.fb) (least := f.qmin)
    (by rw [pow_succ]; omega) (Nat.sub_lt (Nat.two_pow_pos _) one_pos) (by simp only [Fmt.qmin, Fmt.emin]; omega) ha
  rw [hmid, hmost, or_iff_left (fun h => hodd h.2)] at h
  rw [roundMag_lt_iff_le_most ha, h]
theorem roundMag_inward_over_iff (hf : f.Proper) (h : inwardDir rnd neg) (ha : 0 ≤ a) :
    roundMag f.fb f.qmin rnd neg a < 2 ^ (f.bias + 1) ↔ a < 2 ^ (f.bias + 1) :=
  lt_iff_lt_of_le_iff_le (roundMag_inward_ge_iff h ha (overMost_isFloat hf))
theorem roundMag_outward_over_iff (hf : f.Proper) (hr : rnd < 4) (h0 : rnd ≠ 0) (h : ¬ inwardDir rnd neg) (ha : 0 ≤ a) :
    roundMag f.fb f.qmin rnd neg a < 2 ^ (f.bias + 1) ↔ a ≤ f.most := by
  rw [roundMag_lt_iff_le_most ha, roundMag_outward_le_iff hr h0 h ha (most_isFloat hf)]

-- The flags of a result that does not overflow.

theorem flags_nx_iff (i t : Bool) : (fIf i fNX ||| fIf (i && t) fUF) &&& fNX = 0 ↔ i = false := by revert i t; decide
theorem flags_uf_iff (i t : Bool) : (fIf i fNX ||| fIf (i && t) fUF) &&& fUF = 0 ↔ i = false ∨ t = false := by revert i t; decide
theorem flags_eq_ite (P Q : Prop) [Decidable P] [Decidable Q] :
    fIf (decide (¬ P)) fNX ||| fIf (decide (¬ P) && decide Q) fUF = if P then 0 else fNX ||| if Q then fUF else 0 := by
  by_cases hP : P <;> by_cases hQ : Q <;> simp [hP, hQ, fIf]
theorem flags_of (i t : Bool) : (fIf i fNX ||| fIf (i && t) fUF) &&& fOF = 0 := by revert i t; decide
end Sys2Proof.Machine
end

section
/-! THE RESULT OF ONE ROUNDING (R101, R102): its sign, its flags, and how near it is in each direction. -/
namespace Sys2Proof.Machine
variable {f : Fmt} {rnd : Nat} {neg : Bool} {a y : Rat} {p : Nat}

theorem nonneg_of_fin_mag {m : Nat} {e : Int} : (0 : Rat) ≤ m * 2 ^ e := mul_nonneg (Nat.cast_nonneg _) (two_zpow_pos _).le

/-- The result as a value: the rounded magnitude; or the largest finite one, or an infinity, beyond it. -/
theorem unpack_roundRat (hf : f.Proper) (hr : rnd < 4) (ha : 0 ≤ a) :
    (roundMag f.fb f.qmin rnd neg a < 2 ^ (f.bias + 1) ∧ ∃ m e, unpack f (roundRat f rnd neg a).1 = .fin neg m e ∧
      (m : Rat) * 2 ^ e = roundMag f.fb f.qmin rnd neg a ∧ (roundRat f rnd neg a).1 % 2 = roundCount f.fb f.qmin rnd neg a % 2 ∧
      (roundRat f rnd neg a).2 = fIf (decide (roundMag f.fb f.qmin rnd neg a ≠ a)) fNX |||
        fIf (decide (roundMag f.fb f.qmin rnd neg a ≠ a) && decide (a < 2 ^ f.emin)) fUF) ∨
    (2 ^ (f.bias + 1) ≤ roundMag f.fb f.qmin rnd neg a ∧ inwardDir rnd neg ∧ roundRat f rnd neg a = (f.maxFin neg, fOF ||| fNX) ∧
      ∃ m e, unpack f (roundRat f rnd neg a).1 = .fin neg m e ∧ (m : Rat) * 2 ^ e = f.most) ∨
    (2 ^ (f.bias + 1) ≤ roundMag f.fb f.qmin rnd neg a ∧ ¬ inwardDir rnd neg ∧
      roundRat f rnd neg a = (f.inf neg, fOF ||| fNX ||| fNFP) ∧ unpack f (roundRat f rnd neg a).1 = .inf neg) := by
  obtain ⟨hlt, hpar, hflags, m, e, hv, hmag⟩ | ⟨hge, hover⟩ := roundRat_cases (rnd := rnd) (neg := neg) hf ha
  · exact .inl ⟨hlt, m, e, hv, hmag, hpar, hflags⟩
  · refine .inr ?_
    by_cases hin : inwardDir rnd neg
    · rw [overflow_inward hf hin] at hover
      refine .inl ⟨hge, hin, hover, _, _, by rw [hover]; exact unpack_maxFin hf neg, ?_⟩
      rw [Fmt.most, Fmt.topStep, Nat.cast_sub Nat.one_le_two_pow]
      push_cast
      rfl
    · rw [overflow_outward hr hin] at hover
      exact .inr ⟨hge, hin, hover, by rw [hover]; exact unpack_inf hf neg⟩

theorem roundRat_sign (hf : f.Proper) (hr : rnd < 4) (ha : 0 ≤ a) :
    (unpack f (roundRat f rnd neg a).1).isNan = false ∧ (unpack f (roundRat f rnd neg a).1).neg? = neg := by
  obtain ⟨-, m, e, hv, -⟩ | ⟨-, -, -, m, e, hv, -⟩ | ⟨-, -, -, hv⟩ := unpack_roundRat (neg := neg) hf hr ha <;> rw [hv] <;>
    exact ⟨rfl, rfl⟩

theorem most_lt_over (f : Fmt) : f.most < 2 ^ (f.bias + 1) := by
  have := most_add_topStep f
  have := topStep_pos f
  linarith
theorem emin_lt_over (f : Fmt) : (2 : Rat) ^ f.emin ≤ 2 ^ (f.bias + 1) := by
  rw [← zpow_natCast]
  refine two_zpow_le ?_
  simp only [Fmt.emin]
  omega

theorem roundRat_exact_iff (hf : f.Proper) (hr : rnd < 4) (ha : 0 ≤ a) (h : (unpack f (roundRat f rnd neg a).1).finite = true) :
    ((roundRat f rnd neg a).2 &&& fNX = 0 ↔ (unpack f (roundRat f rnd neg a).1).rat = signOf neg * a) ∧
    ((roundRat f rnd neg a).2 &&& fUF = 0 ↔ (unpack f (roundRat f rnd neg a).1).rat = signOf neg * a ∨ 2 ^ f.emin ≤ a) := by
  obtain ⟨-, m, e, hv, hmag, -, hflags⟩ | ⟨hge, hin, hres, m, e, hv, hmag⟩ | ⟨-, -, -, hv⟩ := unpack_roundRat (neg := neg) hf hr ha
  · rw [hflags, flags_nx_iff, flags_uf_iff, hv, fin_rat, hmag, signOf_mul_inj, decide_eq_false_iff_not, not_not,
      decide_eq_false_iff_not, not_lt]
    exact ⟨Iff.rfl, Iff.rfl⟩
  · have hbig : 2 ^ (f.bias + 1) ≤ a := (roundMag_inward_ge_iff hin ha (overMost_isFloat hf)).mp hge
    have hne : f.most ≠ a := ((most_lt_over f).trans_le hbig).ne
    have hemin : 2 ^ f.emin ≤ a := (emin_lt_over f).trans hbig
    rw [hv, fin_rat, hmag, signOf_mul_inj, hres]
    exact ⟨iff_of_false (show (fOF ||| fNX) &&& fNX ≠ 0 by decide) hne, iff_of_true (show (fOF ||| fNX) &&& fUF = 0 by decide) (.inr hemin)⟩
  · rw [hv] at h
    cases h

theorem roundRat_infinite (hf : f.Proper) (hr : rnd < 4) (ha : 0 ≤ a) (h : (unpack f (roundRat f rnd neg a).1).finite = false) :
    roundRat f rnd neg a = (f.inf neg, fOF ||| fNX ||| fNFP) := by
  obtain ⟨-, m, e, hv, -⟩ | ⟨-, -, -, m, e, hv, -⟩ | ⟨-, -, hres, -⟩ := unpack_roundRat (neg := neg) hf hr ha
  · rw [hv] at h
    cases h
  · rw [hv] at h
    cases h
  · exact hres

/-- Outside the directions toward zero a finite result is the rounded magnitude, which did not overflow. -/
theorem roundRat_finite_iff (hf : f.Proper) (hr : rnd < 4) (hin : ¬ inwardDir rnd neg) (ha : 0 ≤ a) :
    (unpack f (roundRat f rnd neg a).1).finite = true ↔ roundMag f.fb f.qmin rnd neg a < 2 ^ (f.bias + 1) := by
  obtain ⟨hlt, m, e, hv, -⟩ | ⟨-, hin', -⟩ | ⟨hge, -, -, hv⟩ := unpack_roundRat (neg := neg) hf hr ha
  · exact iff_of_true (by rw [hv]; rfl) hlt
  · exact absurd hin' hin
  · exact iff_of_false (by rw [hv]; exact Bool.false_ne_true) (not_lt.mpr hge)
theorem roundRat_finite (hf : f.Proper) (hr : rnd < 4) (hin : ¬ inwardDir rnd neg) (ha : 0 ≤ a)
    (h : (unpack f (roundRat f rnd neg a).1).finite = true) :
    (unpack f (roundRat f rnd neg a).1).rat = signOf neg * roundMag f.fb f.qmin rnd neg a ∧
      (roundRat f rnd neg a).1 % 2 = roundCount f.fb f.qmin rnd neg a % 2 ∧ (roundRat f rnd neg a).2 &&& fOF = 0 := by
  obtain ⟨-, m, e, hv, hmag, hpar, hflags⟩ | ⟨-, hin', -⟩ | ⟨-, -, -, hv⟩ := unpack_roundRat (neg := neg) hf hr ha
  · rw [hv, fin_rat, hmag, hflags]
    exact ⟨rfl, hpar, flags_of _ _⟩
  · exact absurd hin' hin
  · rw [hv] at h
    cases h

theorem not_inward_near : ¬ inwardDir 0 neg := by simp [inwardDir]

theorem roundRat_near (hf : f.Proper) (ha : 0 ≤ a) (h : (unpack f (roundRat f 0 neg a).1).finite = true) {y : Nat}
    (hy : (unpack f y).finite = true) (hne : (unpack f y).rat ≠ (unpack f (roundRat f 0 neg a).1).rat) :
    |signOf neg * a - (unpack f (roundRat f 0 neg a).1).rat| ≤ |signOf neg * a - (unpack f y).rat| ∧
      (|signOf neg * a - (unpack f (roundRat f 0 neg a).1).rat| = |signOf neg * a - (unpack f y).rat| →
        (roundRat f 0 neg a).1 % 2 = 0) := by
  obtain ⟨hrat, hpar, -⟩ := roundRat_finite hf (by decide) not_inward_near ha h
  rw [hrat] at hne ⊢
  rw [hpar]
  exact roundMag_near_signed ha (abs_unpack_isFloat hf hy) hne

theorem abs_signOf_mul_roundMag {least : Int} : |signOf neg * roundMag p least rnd neg a| = roundMag p least rnd neg a := by
  rw [abs_signOf_mul, abs_of_nonneg roundMag_nonneg]

theorem roundRat_inward (hf : f.Proper) (hr : rnd < 4) (hin : inwardDir rnd neg) (ha : 0 ≤ a) :
    let v := unpack f (roundRat f rnd neg a).1
    v.finite = true ∧ |v.rat| ≤ a ∧
    (∀ y, (unpack f y).finite = true → |(unpack f y).rat| ≤ a → |(unpack f y).rat| ≤ |v.rat|) ∧
    (2 ^ (f.bias + 1) ≤ a → roundRat f rnd neg a = (f.maxFin neg, fOF ||| fNX)) ∧
    (a < 2 ^ (f.bias + 1) → (roundRat f rnd neg a).2 &&& fOF = 0) := by
  intro v
  have hlow := roundMag_inward (p := f.fb) (least := f.qmin) hin ha
  have hiff := roundMag_inward_over_iff hf hin ha
  obtain ⟨hlt, m, e, hv, hmag, -, hflags⟩ | ⟨hge, -, hres, m, e, hv, hmag⟩ | ⟨-, hout, -⟩ := unpack_roundRat (neg := neg) hf hr ha
  · have habs : |v.rat| = roundMag f.fb f.qmin rnd neg a := by rw [← hmag, ← abs_fin_rat neg, ← hv]
    refine ⟨congrArg Val.finite hv, habs.trans_le hlow.1, fun y hy hya => ?_, fun h => ?_, fun _ => by rw [hflags, flags_of]⟩
    · rw [habs]
      exact hlow.2 _ (abs_unpack_isFloat hf hy) hya
    · exact absurd (hiff.mp hlt) (not_lt.mpr h)
  · have habs : |v.rat| = f.most := by rw [← hmag, ← abs_fin_rat neg, ← hv]
    have hbig : 2 ^ (f.bias + 1) ≤ a := not_lt.mp fun h => absurd (hiff.mpr h) (not_lt.mpr hge)
    refine ⟨congrArg Val.finite hv, ?_, fun y hy _ => ?_, fun _ => hres, fun h => absurd h (not_lt.mpr hbig)⟩
    · rw [habs]
      exact (most_lt_over f).le.trans hbig
    · rw [habs]
      exact abs_unpack_le_most hf hy
  · exact absurd hin hout

theorem roundRat_outward (hf : f.Proper) (hr : rnd < 4) (h0 : rnd ≠ 0) (hin : ¬ inwardDir rnd neg) (ha : 0 ≤ a) :
    let v := unpack f (roundRat f rnd neg a).1
    (v.finite = true ↔ a ≤ f.most) ∧ (v.finite = true → (roundRat f rnd neg a).2 &&& fOF = 0 ∧ a ≤ |v.rat| ∧
      ∀ y, (unpack f y).finite = true → a ≤ |(unpack f y).rat| → |v.rat| ≤ |(unpack f y).rat|) := by
  intro v
  obtain ⟨hup, hleast⟩ := roundMag_outward (p := f.fb) (least := f.qmin) hr h0 hin ha
  refine ⟨(roundRat_finite_iff hf hr hin ha).trans (roundMag_outward_over_iff hf hr h0 hin ha), fun h => ?_⟩
  obtain ⟨hrat, -, hof⟩ := roundRat_finite hf hr hin ha h
  have habs : |v.rat| = roundMag f.fb f.qmin rnd neg a := (congrArg abs hrat).trans abs_signOf_mul_roundMag
  rw [habs]
  exact ⟨hof, hup, fun y hy => hleast _ (abs_unpack_isFloat hf hy)⟩
end Sys2Proof.Machine
end

section
/-! ONE ROUNDING INTO FP8 E4M3 (R97, R103): its patterns, its saturation, and how near it is in each direction. -/
namespace Sys2Proof.Machine
variable {rnd : Nat} {neg f8nan : Bool} {a y : Rat} {x k E F n d : Nat} {q e : Int}

/-- The fields of E4M3. -/
def e4m3 : Fmt := ⟨4, 3⟩

/-- A finite FP8 pattern. -/
theorem unpack8_finite (h : (unpack8 x).finite = true) :
    ∃ neg m e, unpack8 x = .fin neg m e ∧ m < 2 ^ (3 + 1) ∧ -9 ≤ e := by
  have hF : x % 8 < 8 := Nat.mod_lt _ (by decide)
  unfold unpack8 at h ⊢
  dsimp only at h ⊢
  split_ifs at h ⊢
  · cases h
  · exact ⟨_, _, _, rfl, by omega, le_rfl⟩
  · exact ⟨_, _, _, rfl, by omega, by omega⟩
theorem abs_unpack8_isFloat (h : (unpack8 x).finite = true) : IsFloat 3 (-9) |(unpack8 x).rat| := by
  obtain ⟨neg, m, e, hv, hm, he⟩ := unpack8_finite h
  rw [hv, abs_fin_rat]
  exact ⟨m, e, rfl, hm, he⟩

theorem unpack8_fields (hE : E < 16) (hF : F < 8) : unpack8 (e4m3.sign neg + (E * 2 ^ e4m3.fb + F)) =
    if E = 15 ∧ F = 7 then .nan else if E = 0 then .fin neg F (-9) else .fin neg (8 + F) ((E : Int) - 10) := by
  have hx : e4m3.sign neg + (E * 2 ^ e4m3.fb + F) = (if neg then 128 else 0) + (E * 8 + F) := rfl
  have hfrac : ((if neg then 128 else 0) + (E * 8 + F)) % 8 = F := by split <;> omega
  have hexp : ((if neg then 128 else 0) + (E * 8 + F)) / 8 % 16 = E := by split <;> omega
  have hneg : ((if neg then 128 else 0) + (E * 8 + F)).testBit 7 = neg := by
    rw [Nat.testBit_eq_decide_div_mod_eq]
    cases neg
    · exact decide_eq_false (by rw [if_neg Bool.false_ne_true]; omega)
    · exact decide_eq_true (by rw [if_pos rfl]; omega)
  simp only [hx, unpack8, hfrac, hexp, hneg]

theorem packAt8_eq : packAt8 neg k q = packAt e4m3 neg k q := by
  rw [packAt, show q - e4m3.qmin = q + 9 from sub_neg_eq_add q 9]
  rfl
theorem packAt8_mod_two (hk : q = -9 ∨ 8 ≤ k) : packAt8 neg k q % 2 = k % 2 :=
  packAt8_eq ▸ packAt_mod_two (f := e4m3) ⟨by decide, by decide⟩ hk

/-- The pattern of a multiple of a step, up to 448, holds it. -/
theorem unpack8_packAt8 (hq : -9 ≤ q) (hk : q = -9 ∨ 8 ≤ k) (hle : k ≤ 16) (hmax : (k : Rat) * 2 ^ q ≤ 448) :
    ∃ m e, unpack8 (packAt8 neg k q) = .fin neg m e ∧ (m : Rat) * 2 ^ e = k * 2 ^ q := by
  obtain ⟨E, F, hF, hplace, hval⟩ := placeOf_fields (f := e4m3) hq hk hle
  rw [packAt8_eq, packAt_eq (f := e4m3) hk, hplace]
  rw [hval] at hmax ⊢
  change F < 8 at hF
  rcases Nat.eq_zero_or_pos E with rfl | hpos
  · rw [unpack8_fields (by decide) hF, if_neg (by omega), if_pos rfl, if_pos rfl]
    exact ⟨_, _, rfl, rfl⟩
  rw [if_neg hpos.ne'] at hmax ⊢
  have hexp : (E : Int) - e4m3.bias - e4m3.fb = E - 10 := by
    rw [sub_sub]
    rfl
  have hm8 : (8 : Rat) ≤ (2 ^ e4m3.fb + F : Nat) := by exact_mod_cast Nat.le_add_right 8 F
  rw [hexp] at hmax ⊢
  have hE : E < 16 := by
    by_contra hge
    have h64 : (2 : Rat) ^ (6 : Int) ≤ 2 ^ ((E : Int) - 10) := two_zpow_le (by omega)
    have := mul_le_mul hm8 h64 (by positivity) (by positivity)
    exact absurd (this.trans hmax) (by norm_num)
  have hnan : ¬ (E = 15 ∧ F = 7) := by
    rintro ⟨rfl, rfl⟩
    norm_num [e4m3] at hmax
  rw [unpack8_fields hE hF, if_neg hnan, if_neg hpos.ne']
  exact ⟨_, _, rfl, rfl⟩

/-- The result of R103 where the rounded magnitude is above the largest finite one. -/
def fp8Over (f8nan neg : Bool) : Nat × Flags :=
  (if f8nan then 0x7F else if neg then 0xFE else 0x7E, fOF ||| fNX ||| if f8nan then fNFP else 0)

/-- What an FP8 rounding gives: the rounded magnitude up to 448, or the overflow result. -/
theorem satFp8Quot_cases (hd : 0 < d) (ha : a = n / d * 2 ^ e) :
    (roundMag 3 (-9) rnd neg a ≤ 448 ∧ ∃ m c, unpack8 (satFp8Quot rnd f8nan neg n d e).1 = .fin neg m c ∧
      (m : Rat) * 2 ^ c = roundMag 3 (-9) rnd neg a ∧
      (satFp8Quot rnd f8nan neg n d e).1 % 2 = roundCount 3 (-9) rnd neg a % 2 ∧
      (satFp8Quot rnd f8nan neg n d e).2 =
        if roundMag 3 (-9) rnd neg a = a then 0 else fNX ||| if a < 2 ^ (-6 : Int) then fUF else 0) ∨
    (448 < roundMag 3 (-9) rnd neg a ∧ satFp8Quot rnd f8nan neg n d e = fp8Over f8nan neg) := by
  rcases Nat.eq_zero_or_pos n with rfl | hn
  · have ha0 : a = 0 := by rw [ha]; simp
    have hcount : roundCount 3 (-9) rnd neg 0 = 0 := (roundNat_exact (by simp)).trans (by simp)
    rw [ha0, roundMag_zero, hcount, satFp8Quot, if_pos rfl]
    refine .inl ⟨by norm_num, 0, -9, ?_, by simp, by cases neg <;> rfl, (if_pos rfl).symm⟩
    cases neg <;> rfl
  have hq := least_le_stepExp (p := 3) (least := -9) (a := a)
  have ha0 : 0 ≤ a := by rw [ha]; exact (quot_pos hn hd e).le
  have hk := roundCount_least_or_normal (p := 3) (least := -9) (rnd := rnd) (neg := neg) ha0
  have hle := roundCount_le (p := 3) (least := -9) (rnd := rnd) (neg := neg) ha0
  have hover : scaleUp (roundCount 3 (-9) rnd neg a) (stepExp 3 (-9) a + 9) > 448 * 512 ↔ 448 < roundMag 3 (-9) rnd neg a := by
    have h9 : (2 : Rat) ^ (stepExp 3 (-9) a + 9).toNat = 2 ^ stepExp 3 (-9) a * 512 := by
      rw [← zpow_natCast, Int.toNat_of_nonneg (by omega), zpow_add₀ two_ne_zero]
      norm_num
    rw [gt_iff_lt, ← Nat.cast_lt (α := Rat), scaleUp_cast, h9, ← mul_assoc, Nat.cast_mul]
    exact mul_lt_mul_iff_left₀ (by norm_num)
  have hres : satFp8Quot rnd f8nan neg n d e = if 448 < roundMag 3 (-9) rnd neg a then fp8Over f8nan neg
      else (packAt8 neg (roundCount 3 (-9) rnd neg a) (stepExp 3 (-9) a), fIf (decide (roundMag 3 (-9) rnd neg a ≠ a)) fNX |||
        fIf (decide (roundMag 3 (-9) rnd neg a ≠ a) && decide (a < 2 ^ (-6 : Int))) fUF) := by
    have hstep := stepExp_quot hn hd e 3 (-9)
    have hround := roundAt_stepExp (rnd := rnd) (neg := neg) (n := n) (e := e) hd 3 (-9)
    rw [← ha] at hstep hround
    simp only [satFp8Quot, if_neg hn.ne', Nat.cast_ofNat] at hstep ⊢
    rw [hstep, hround]
    simp only [hover, log2Quot_lt_iff hn hd, ← ha]
    refine if_congr Iff.rfl ?_ rfl
    cases f8nan <;> cases neg <;> rfl
  rcases le_or_gt (roundMag 3 (-9) rnd neg a) 448 with hmax | hmax
  · rw [if_neg (not_lt.mpr hmax)] at hres
    obtain ⟨m, c, hv, hmag⟩ := unpack8_packAt8 (neg := neg) hq hk hle hmax
    refine .inl ⟨hmax, m, c, by rw [hres]; exact hv, hmag, by rw [hres]; exact packAt8_mod_two hk, ?_⟩
    rw [hres]
    exact flags_eq_ite _ _
  · rw [if_pos hmax] at hres
    exact .inr ⟨hmax, hres⟩

-- When a magnitude rounds beyond 448 = 14 * 2^5, the neighbour of 480.

theorem fp8_near_iff (ha : 0 ≤ a) : roundMag 3 (-9) 0 neg a ≤ 448 ↔ a ≤ 464 := by
  have h := roundMag_near_le_iff (neg := neg) (m := 14) (e := 5) (p := 3) (least := -9) (by decide) (by decide) (by decide) ha
  norm_num at h
  rw [h, le_iff_lt_or_eq]
theorem fp8_inward_iff (h : inwardDir rnd neg) (ha : 0 ≤ a) : roundMag 3 (-9) rnd neg a ≤ 448 ↔ a < 480 := by
  have hgap := (roundMag_isFloat (p := 3) (least := -9) (rnd := rnd) (neg := neg) ha).le_or_le (m := 14) (e := 5) (.inr (by decide))
  have hiff := roundMag_inward_ge_iff (p := 3) (least := -9) h ha (y := 480) ⟨15, 5, by norm_num, by decide, by decide⟩
  norm_num at hgap
  rw [← not_le, ← hiff, not_le]
  exact ⟨fun hle => hle.trans_lt (by norm_num), fun hlt => hgap.resolve_right (not_le.mpr hlt)⟩
theorem fp8_outward_iff (hr : rnd < 4) (h0 : rnd ≠ 0) (h : ¬ inwardDir rnd neg) (ha : 0 ≤ a) :
    roundMag 3 (-9) rnd neg a ≤ 448 ↔ a ≤ 448 :=
  roundMag_outward_le_iff hr h0 h ha ⟨14, 5, by norm_num, by decide, by decide⟩
/-- When an FP8 rounding overflows, by the direction. -/
theorem fp8_exceeds_iff (hr : rnd < 4) (ha : 0 ≤ a) :
    (if rnd = 0 then 464 < a else (inwardDir rnd neg ∧ 480 ≤ a) ∨ (¬ inwardDir rnd neg ∧ 448 < a)) ↔
      448 < roundMag 3 (-9) rnd neg a := by
  rw [← not_le (a := roundMag _ _ _ _ _)]
  by_cases h0 : rnd = 0
  · subst h0
    rw [if_pos rfl, fp8_near_iff ha, not_le]
  · rw [if_neg h0]
    by_cases hin : inwardDir rnd neg
    · simp [hin, fp8_inward_iff hin ha]
    · simp [hin, fp8_outward_iff hr h0 hin ha]
end Sys2Proof.Machine
end

section
/-! WHAT ROUNDS ONCE (R147, R177, R404, R104, R149): sums, products and conversions of finite values as the rounding of the exact result. -/
namespace Sys2Proof.Machine
variable {f g : Fmt} {rnd : Nat} {neg : Bool} {q : Rat} {r : Nat × Flags} {u v w : Val}

/-- A result is the one rounding of an exact value; of zero, a zero without flags. -/
def RoundsTo (f : Fmt) (rnd : Nat) (q : Rat) (r : Nat × Flags) : Prop :=
  (q ≠ 0 → r = roundQuot f rnd (decide (q < 0)) q.num.natAbs q.den 0) ∧ (q = 0 → (unpack f r.1).isZero = true ∧ r.2 = 0)

theorem natAbs_num_div_den (q : Rat) : (q.num.natAbs / q.den : Rat) = |q| := by
  rw [Nat.cast_natAbs, Int.cast_abs, ← abs_of_pos (Nat.cast_pos (α := Rat).mpr q.den_pos), ← abs_div, Rat.num_div_den]
theorem roundQuot_num_den (f : Fmt) (rnd : Nat) (neg : Bool) (q : Rat) :
    roundQuot f rnd neg q.num.natAbs q.den 0 = roundRat f rnd neg |q| := by
  rw [roundQuot_eq q.den_pos, natAbs_num_div_den, zpow_zero, mul_one]
theorem roundVal_fin (m : Nat) (e : Int) : roundVal f rnd (.fin neg m e) = roundRat f rnd neg (m * 2 ^ e) := by
  rw [roundVal, roundQuot_eq one_pos, Nat.cast_one, div_one]

theorem finite_iff : v.finite = true ↔ ∃ neg m e, v = .fin neg m e := by
  cases v with
  | fin neg m e => exact iff_of_true rfl ⟨_, _, _, rfl⟩
  | nan => exact iff_of_false Bool.false_ne_true (by rintro ⟨_, _, _, h⟩; cases h)
  | inf n => exact iff_of_false Bool.false_ne_true (by rintro ⟨_, _, _, h⟩; cases h)
theorem isNan_iff : v.isNan = true ↔ v = .nan := by cases v <;> simp [Val.isNan]

theorem fin_rat_eq_zero {m : Nat} {e : Int} (h : (Val.fin neg m e).rat = 0) : m = 0 := by
  have := abs_fin_rat neg m e
  rw [h, abs_zero, eq_comm, mul_eq_zero, or_iff_left (two_zpow_pos e).ne'] at this
  exact_mod_cast this
theorem fin_rat_neg {m : Nat} {e : Int} (h : (Val.fin neg m e).rat ≠ 0) : decide ((Val.fin neg m e).rat < 0) = neg := by
  have hpos : (0 : Rat) < m * 2 ^ e := by
    rw [← abs_fin_rat neg]
    exact abs_pos.mpr h
  cases neg with
  | false => exact decide_eq_false (by rw [fin_rat, signOf, if_neg Bool.false_ne_true]; linarith)
  | true => exact decide_eq_true (by rw [fin_rat, signOf, if_pos rfl]; linarith)

theorem roundsTo_roundVal (hf : f.Proper) (hv : v.finite = true) : RoundsTo f rnd v.rat (roundVal f rnd v) := by
  obtain ⟨neg, m, e, rfl⟩ := finite_iff.mp hv
  rw [roundVal_fin]
  refine ⟨fun h => ?_, fun h => ?_⟩
  · rw [roundQuot_num_den, fin_rat_neg h, abs_fin_rat]
  · rw [fin_rat_eq_zero h, Nat.cast_zero, zero_mul, roundRat, if_pos rfl, unpack_sign hf]
    exact ⟨rfl, rfl⟩
theorem roundVal_neg (hf : f.Proper) (hr : rnd < 4) (hv : v.finite = true) : (unpack f (roundVal f rnd v).1).neg? = v.neg? := by
  obtain ⟨neg, m, e, rfl⟩ := finite_iff.mp hv
  rw [roundVal_fin]
  exact (roundRat_sign hf hr nonneg_of_fin_mag).2

/-- Of finite operands the flags are those of the rounding alone. -/
theorem finish_finite (hf : f.Proper) (hr : rnd < 4) {ops : List Val} (hops : ops.all Val.finite = true) (hv : v.finite = true) :
    finish f rnd ops (v, 0) = roundVal f rnd v := by
  obtain ⟨neg, m, e, rfl⟩ := finite_iff.mp hv
  rw [finish, opFlags, hops]
  refine Prod.ext rfl ?_
  rw [roundVal_fin]
  cases hfin : (unpack f (roundRat f rnd neg (m * 2 ^ e)).1).finite with
  | true => simp [fIf]
  | false =>
    have hnfp : fOF ||| fNX ||| fNFP ||| 0 ||| (fIf (!true) fNFC ||| fIf (true && !false) fNFP) = fOF ||| fNX ||| fNFP := by decide
    rw [roundRat_infinite hf hr nonneg_of_fin_mag hfin]
    exact hnfp
theorem finish_nan {ops : List Val} (hops : ops.all Val.finite = false) : finish f rnd ops (.nan, 0) = (f.nan, fNFC) := by
  rw [finish, opFlags, hops]
  have hflags : (0 : Flags) ||| 0 ||| (fIf true fNFC ||| fIf false fNFP) = fNFC := by decide
  exact Prod.ext rfl hflags
theorem finish_nan_fst {ops : List Val} {fl : Flags} : (finish f rnd ops (.nan, fl)).1 = f.nan := rfl

-- Exact results.

theorem alignInt_rat {m : Nat} {e q : Int} (h : q ≤ e) : (alignInt neg m e q : Rat) * 2 ^ q = (Val.fin neg m e).rat := by
  have hcast : ((scaleUp m (e - q) : Nat) : Rat) * 2 ^ q = m * 2 ^ e := by
    rw [scaleUp_cast, mul_assoc, ← zpow_natCast, Int.toNat_of_nonneg (by omega), ← zpow_add₀ two_ne_zero, sub_add_cancel]
  rw [fin_rat, ← hcast]
  cases neg <;> simp [alignInt, signOf]

theorem signed_natAbs (x : Int) : signOf (decide (x < 0)) * (x.natAbs : Rat) = x := by
  rw [Nat.cast_natAbs, signOf]
  split_ifs with h
  · rw [abs_of_neg (of_decide_eq_true h)]
    push_cast
    ring
  · rw [abs_of_nonneg (not_lt.mp (of_decide_eq_false (Bool.eq_false_iff.mpr h))), one_mul]

/-- Two values of one sign sum to zero only when both are zero. -/
theorem fin_add_eq_zero {m1 m2 : Nat} {e1 e2 : Int} (h : (Val.fin neg m1 e1).rat + (Val.fin neg m2 e2).rat = 0) :
    m1 = 0 ∧ m2 = 0 := by
  have hsum : (m1 : Rat) * 2 ^ e1 + m2 * 2 ^ e2 = 0 := by
    rwa [fin_rat, fin_rat, ← mul_add, ← mul_zero (signOf neg), signOf_mul_inj] at h
  obtain ⟨h1, h2⟩ := (add_eq_zero_iff_of_nonneg nonneg_of_fin_mag nonneg_of_fin_mag).mp hsum
  rw [mul_eq_zero, or_iff_left (two_zpow_pos _).ne'] at h1 h2
  exact ⟨by exact_mod_cast h1, by exact_mod_cast h2⟩

theorem addVal_finite (hu : u.finite = true) (hv : v.finite = true) : ∃ x, addVal rnd u v = (x, 0) ∧ x.finite = true ∧
    x.rat = u.rat + v.rat ∧ (u.rat + v.rat = 0 → x.neg? = if u.neg? = v.neg? then u.neg? else rnd == 3) := by
  obtain ⟨n1, m1, e1, rfl⟩ := finite_iff.mp hu
  obtain ⟨n2, m2, e2, rfl⟩ := finite_iff.mp hv
  have hsum : ((alignInt n1 m1 e1 (min e1 e2) + alignInt n2 m2 e2 (min e1 e2) : Int) : Rat) * 2 ^ min e1 e2 =
      (Val.fin n1 m1 e1).rat + (Val.fin n2 m2 e2).rat := by
    rw [Int.cast_add, add_mul, alignInt_rat (min_le_left ..), alignInt_rat (min_le_right ..)]
  refine ⟨addFin rnd n1 m1 e1 n2 m2 e2, rfl, ?_⟩
  by_cases h0 : alignInt n1 m1 e1 (min e1 e2) + alignInt n2 m2 e2 (min e1 e2) = 0
  · have hzero : (Val.fin n1 m1 e1).rat + (Val.fin n2 m2 e2).rat = 0 := by rw [← hsum, h0, Int.cast_zero, zero_mul]
    rw [addFin, if_pos h0]
    refine ⟨rfl, by rw [hzero, fin_rat, Nat.cast_zero, zero_mul, mul_zero], fun _ => ?_⟩
    change (if m1 = 0 ∧ m2 = 0 ∧ n1 = n2 then n1 else rnd == 3) = if n1 = n2 then n1 else rnd == 3
    by_cases hn : n1 = n2
    · subst hn
      obtain ⟨hm1, hm2⟩ := fin_add_eq_zero hzero
      rw [if_pos ⟨hm1, hm2, rfl⟩, if_pos rfl]
    · rw [if_neg fun h => hn h.2.2, if_neg hn]
  · rw [addFin, if_neg h0]
    refine ⟨rfl, ?_, fun h => ?_⟩
    · rw [fin_rat, ← mul_assoc, signed_natAbs, hsum]
    · rw [← hsum, mul_eq_zero, or_iff_left (two_zpow_pos _).ne'] at h
      exact absurd (by exact_mod_cast h) h0

theorem mulVal_finite (hu : u.finite = true) (hv : v.finite = true) : ∃ x, mulVal u v = (x, 0) ∧ x.finite = true ∧
    x.rat = u.rat * v.rat ∧ x.neg? = (u.neg? != v.neg?) := by
  obtain ⟨n1, m1, e1, rfl⟩ := finite_iff.mp hu
  obtain ⟨n2, m2, e2, rfl⟩ := finite_iff.mp hv
  refine ⟨_, rfl, rfl, ?_, rfl⟩
  have hsign : signOf (n1 != n2) = signOf n1 * signOf n2 := by cases n1 <;> cases n2 <;> simp [signOf]
  rw [fin_rat, fin_rat, fin_rat, hsign, Nat.cast_mul, zpow_add₀ two_ne_zero]
  ring

theorem negate_rat (v : Val) : v.negate.rat = -v.rat := by
  cases v with
  | fin neg m e => cases neg <;> simp [Val.negate, Val.rat]
  | nan => simp [Val.negate, Val.rat]
  | inf n => simp [Val.negate, Val.rat]
@[simp] theorem negate_finite (v : Val) : v.negate.finite = v.finite := by cases v <;> rfl

theorem addVal_nan (h : u = .nan ∨ v = .nan) : addVal rnd u v = (.nan, 0) := by
  obtain rfl | rfl := h
  · rfl
  · cases u <;> rfl
theorem mulVal_nan (h : u = .nan ∨ v = .nan) : mulVal u v = (.nan, 0) := by
  obtain rfl | rfl := h
  · rfl
  · cases u <;> rfl

-- The operations on patterns.

variable {a b c : Nat}

theorem fAdd_finite (hf : f.Proper) (hr : rnd < 4) (ha : (unpack f a).finite = true) (hb : (unpack f b).finite = true) :
    RoundsTo f rnd ((unpack f a).rat + (unpack f b).rat) (fAdd f rnd a b) ∧
      ((unpack f a).rat + (unpack f b).rat = 0 → (unpack f (fAdd f rnd a b).1).neg? =
        if (unpack f a).neg? = (unpack f b).neg? then (unpack f a).neg? else rnd == 3) := by
  obtain ⟨x, hx, hfin, hrat, hneg⟩ := addVal_finite (rnd := rnd) ha hb
  have h : fAdd f rnd a b = roundVal f rnd x := by
    simp only [fAdd, hx]
    exact finish_finite hf hr (by simp [ha, hb]) hfin
  rw [h, ← hrat, roundVal_neg hf hr hfin, hrat]
  exact ⟨hrat ▸ roundsTo_roundVal hf hfin, hneg⟩
theorem fSub_finite (hf : f.Proper) (hr : rnd < 4) (ha : (unpack f a).finite = true) (hb : (unpack f b).finite = true) :
    RoundsTo f rnd ((unpack f a).rat - (unpack f b).rat) (fSub f rnd a b) := by
  obtain ⟨x, hx, hfin, hrat, -⟩ := addVal_finite (rnd := rnd) ha (v := (unpack f b).negate) (by rw [negate_finite, hb])
  have h : fSub f rnd a b = roundVal f rnd x := by
    simp only [fSub, hx]
    exact finish_finite hf hr (by simp [ha, hb]) hfin
  rw [h, sub_eq_add_neg, ← negate_rat, ← hrat]
  exact roundsTo_roundVal hf hfin
theorem fMul_finite (hf : f.Proper) (hr : rnd < 4) (ha : (unpack f a).finite = true) (hb : (unpack f b).finite = true) :
    RoundsTo f rnd ((unpack f a).rat * (unpack f b).rat) (fMul f rnd a b) ∧
      (unpack f (fMul f rnd a b).1).neg? = ((unpack f a).neg? != (unpack f b).neg?) := by
  obtain ⟨x, hx, hfin, hrat, hneg⟩ := mulVal_finite ha hb
  have h : fMul f rnd a b = roundVal f rnd x := by
    simp only [fMul, hx]
    exact finish_finite hf hr (by simp [ha, hb]) hfin
  rw [h, ← hrat, roundVal_neg hf hr hfin]
  exact ⟨roundsTo_roundVal hf hfin, hneg⟩

theorem ite_negate_rat (s : Bool) (v : Val) : (if s then v.negate else v).rat = signOf s * v.rat := by
  cases s <;> simp [signOf, negate_rat]
theorem ite_negate_finite (s : Bool) (v : Val) : (if s then v.negate else v).finite = v.finite := by cases s <;> simp
theorem ite_negate_nan (s : Bool) : (if s then Val.nan.negate else Val.nan) = .nan := by cases s <;> rfl

theorem fFma_finite (hf : f.Proper) (hr : rnd < 4) (ng sub : Bool) (ha : (unpack f a).finite = true)
    (hb : (unpack f b).finite = true) (hc : (unpack f c).finite = true) :
    RoundsTo f rnd (signOf ng * ((unpack f a).rat * (unpack f b).rat) + signOf sub * (unpack f c).rat) (fFma f rnd ng sub a b c) := by
  obtain ⟨p, hp, hpfin, hprat, -⟩ := mulVal_finite ha hb
  obtain ⟨x, hx, hfin, hrat, -⟩ := addVal_finite (rnd := rnd) (u := if ng then p.negate else p)
    (v := if sub then (unpack f c).negate else unpack f c) (by rw [ite_negate_finite, hpfin]) (by rw [ite_negate_finite, hc])
  have h : fFma f rnd ng sub a b c = roundVal f rnd x := by
    simp only [fFma, hp, hx]
    exact finish_finite hf hr (by simp [ha, hb, hc]) hfin
  rw [h, ← hprat, ← ite_negate_rat, ← ite_negate_rat, ← hrat]
  exact roundsTo_roundVal hf hfin

theorem cvtFmt_finite (hg : g.Proper) (hr : rnd < 4) (ha : (unpack f a).finite = true) :
    RoundsTo g rnd (unpack f a).rat (cvtFmt f g rnd a) ∧ (unpack g (cvtFmt f g rnd a).1).neg? = (unpack f a).neg? := by
  have h : cvtFmt f g rnd a = roundVal g rnd (unpack f a) := by
    simp only [cvtFmt, ha]
    exact Prod.ext rfl (BitVec.or_zero ..)
  rw [h]
  exact ⟨roundsTo_roundVal hg ha, roundVal_neg hg hr ha⟩

theorem not_all_finite_left (h : u = .nan ∨ v = .nan) : [u, v].all Val.finite = false := by
  obtain rfl | rfl := h <;> simp [Val.finite]
theorem nan_operand (h : unpack f a = .nan ∨ unpack f b = .nan) : fAdd f rnd a b = (f.nan, fNFC) ∧ fSub f rnd a b = (f.nan, fNFC) ∧
    fMul f rnd a b = (f.nan, fNFC) := by
  have hneg : unpack f a = .nan ∨ (unpack f b).negate = .nan := h.imp_right fun hb => by rw [hb]; rfl
  simp only [fAdd, fSub, fMul, addVal_nan h, addVal_nan hneg, mulVal_nan h, finish_nan (not_all_finite_left h), and_self]
theorem fFma_nan {ng sub : Bool} (h : (unpack f a = .nan ∨ unpack f b = .nan) ∨ unpack f c = .nan) :
    (fFma f rnd ng sub a b c).1 = f.nan := by
  have hop : (if ng then (mulVal (unpack f a) (unpack f b)).1.negate else (mulVal (unpack f a) (unpack f b)).1) = .nan ∨
      (if sub then (unpack f c).negate else unpack f c) = .nan := by
    refine h.imp (fun h => ?_) fun h => ?_
    · rw [mulVal_nan h, ite_negate_nan]
    · rw [h, ite_negate_nan]
  simp only [fFma, addVal_nan hop]
  exact finish_nan_fst
theorem cvtFmt_nan (h : unpack f a = .nan) : cvtFmt f g rnd a = (g.nan, fNFC) := by
  rw [cvtFmt, h]
  exact Prod.ext rfl (BitVec.zero_or ..)

theorem intToFmt_roundsTo (hf : f.Proper) (i : Int) : RoundsTo f rnd i (intToFmt f rnd i) := by
  have hlt : decide ((i : Rat) < 0) = decide (i < 0) := decide_eq_decide.mpr Int.cast_lt_zero
  refine ⟨fun _ => by rw [hlt]; rfl, fun h => ?_⟩
  have h0 : i = 0 := by exact_mod_cast h
  rw [h0, intToFmt, roundQuot, if_pos (by rfl), unpack_sign hf]
  exact ⟨rfl, rfl⟩
end Sys2Proof.Machine
end

section
/-! ONE ROUNDING, AND WHAT ROUNDS SO (R99 to R104, R147, R149, R177, R404): the statement from the lemmas about each. -/
namespace Sys2Proof.Machine
variable {rnd : Nat} {neg : Bool} {t : Rat}

-- A value becomes an integer (R104, R149).

/-- The integer to which a magnitude rounds, with its sign. -/
def roundInt (rnd : Nat) (neg : Bool) (t : Rat) : Int := if neg then -(roundNat rnd neg t : Int) else roundNat rnd neg t
theorem roundInt_cast : (roundInt rnd neg t : Rat) = signOf neg * roundNat rnd neg t := by
  cases neg <;> simp [roundInt, signOf]

theorem roundInt_near (ht : 0 ≤ t) : |signOf neg * t - roundInt 0 neg t| ≤ 1 / 2 ∧
    (|signOf neg * t - roundInt 0 neg t| = 1 / 2 → roundInt 0 neg t % 2 = 0) := by
  obtain ⟨hle, hev⟩ := roundNat_near (neg := neg) ht
  rw [roundInt_cast, ← mul_sub, abs_signOf_mul]
  refine ⟨hle, fun h => ?_⟩
  have := hev h
  rw [roundInt]
  split <;> omega
theorem roundInt_zero (ht : 0 ≤ t) : |(roundInt 1 neg t : Rat)| ≤ |signOf neg * t| ∧ |signOf neg * t - roundInt 1 neg t| < 1 := by
  have hlo := Nat.floor_le ht
  have hhi := Nat.lt_floor_add_one t
  rw [roundInt_cast, ← mul_sub, abs_signOf_mul, abs_signOf_mul, abs_signOf_mul, roundNat_inward (.inl rfl), Nat.abs_cast,
    abs_of_nonneg ht, abs_of_nonneg (sub_nonneg.mpr hlo)]
  exact ⟨hlo, by linarith⟩
theorem roundNat_ceil (hr : rnd < 4) (h0 : rnd ≠ 0) (h : ¬ inwardDir rnd neg) (ht : 0 ≤ t) :
    t ≤ roundNat rnd neg t ∧ (roundNat rnd neg t : Rat) < t + 1 := by
  have hlo := Nat.floor_le ht
  have hhi := Nat.lt_floor_add_one t
  by_cases hex : t = ⌊t⌋₊
  · rw [roundNat_exact hex, ← hex]
    exact ⟨le_rfl, lt_add_one t⟩
  · rw [roundNat_outward hr h0 h hex, Nat.cast_add_one]
    exact ⟨hhi.le, by linarith [lt_of_le_of_ne hlo (Ne.symm hex)]⟩
theorem roundInt_up (ht : 0 ≤ t) : signOf neg * t ≤ roundInt 2 neg t ∧ (roundInt 2 neg t : Rat) < signOf neg * t + 1 := by
  rw [roundInt_cast]
  cases neg with
  | false =>
    obtain ⟨hlo, hhi⟩ := roundNat_ceil (rnd := 2) (neg := false) (by decide) (by decide) (by simp [inwardDir]) ht
    simp only [signOf, Bool.false_eq_true, if_false, one_mul]
    exact ⟨hlo, hhi⟩
  | true =>
    have hlo := Nat.floor_le ht
    have hhi := Nat.lt_floor_add_one t
    rw [roundNat_inward (.inr (.inl ⟨rfl, rfl⟩)), signOf, if_pos rfl]
    constructor <;> linarith
theorem roundInt_down (ht : 0 ≤ t) : (roundInt 3 neg t : Rat) ≤ signOf neg * t ∧ signOf neg * t < roundInt 3 neg t + 1 := by
  rw [roundInt_cast]
  cases neg with
  | false =>
    have hlo := Nat.floor_le ht
    have hhi := Nat.lt_floor_add_one t
    rw [roundNat_inward (.inr (.inr ⟨rfl, rfl⟩)), signOf, if_neg Bool.false_ne_true]
    constructor <;> linarith
  | true =>
    obtain ⟨hlo, hhi⟩ := roundNat_ceil (rnd := 3) (neg := true) (by decide) (by decide) (by simp [inwardDir]) ht
    simp only [signOf, if_true]
    constructor <;> linarith

/-- A finite value becomes the integer of its direction, clamped to the range [lo, hi]. -/
theorem valToInt_fin (rnd : Nat) (signed : Bool) (w : Nat) (neg : Bool) (m : Nat) (e : Int) :
    let lo : Int := if signed then -2 ^ (w - 1) else 0
    let hi : Int := if signed then 2 ^ (w - 1) - 1 else 2 ^ w - 1
    let pat := fun x : Int => (x % 2 ^ w).toNat
    let k := roundInt rnd neg (m * 2 ^ e)
    valToInt rnd signed w (.fin neg m e) = if k < lo then (pat lo, fSAT ||| fNX) else if hi < k then (pat hi, fSAT ||| fNX)
      else (pat k, if (k : Rat) = (Val.fin neg m e).rat then 0 else fNX) := by
  intro lo hi pat k
  have hexact : (k : Rat) = (Val.fin neg m e).rat ↔ (m * 2 ^ e : Rat) = ⌊(m * 2 ^ e : Rat)⌋₊ := by
    rw [roundInt_cast, fin_rat, signOf_mul_inj, roundNat_eq_self_iff]
  have hround := roundAt_eq one_pos rnd neg m e 0
  rw [Nat.cast_one, div_one, sub_zero] at hround
  simp only [valToInt, hround, hexact]
  refine if_congr Iff.rfl rfl (if_congr Iff.rfl rfl (Prod.ext rfl ?_))
  by_cases h : (m * 2 ^ e : Rat) = ⌊(m * 2 ^ e : Rat)⌋₊
  · rw [if_pos h, decide_eq_false (not_not.mpr h)]
    rfl
  · rw [if_neg h, decide_eq_true h]
    rfl

theorem abs_signed_quot (neg : Bool) (n d : Nat) (e : Int) : |(if neg then -1 else 1) * (n / d : Rat) * 2 ^ e| = n / d * 2 ^ e := by
  rw [mul_assoc]
  exact (abs_signOf_mul neg _).trans (abs_of_nonneg (mul_nonneg (by positivity) (two_zpow_pos e).le))

/-- Settles O22: a rounding is that of the value, to a neighbour on its step; sums, products and conversions round their exact result. -/
theorem nearestEvenRounding : Obligations.NearestEvenRounding := by
  refine ⟨fun f rnd neg n d e hf hr hd => ?_, fun rnd f8nan neg n d e hr hd => ?_,
    fun f g rnd a b c ng sub hf hg hr => ?_, fun f rnd a w signed hf hr hw => ?_⟩
  · intro x ulp most inward r v
    have hp := fmt_proper hf
    have ha : (0 : Rat) ≤ n / d * 2 ^ e := mul_nonneg (by positivity) (two_zpow_pos e).le
    have hx : x = signOf neg * (n / d * 2 ^ e) := mul_assoc ..
    have habs : |x| = n / d * 2 ^ e := abs_signed_quot neg n d e
    have hr' : r = roundRat f rnd neg (n / d * 2 ^ e) := roundQuot_eq hd
    have hv : v = unpack f (roundRat f rnd neg (n / d * 2 ^ e)).1 := congrArg (fun r => unpack f r.1) hr'
    have hover : (2 : Rat) * 2 ^ f.bias = 2 ^ (f.bias + 1) := (pow_succ' 2 f.bias).symm
    rw [habs, hx, hv, hr', hover]
    obtain ⟨hnan, hneg⟩ := roundRat_sign (neg := neg) hp hr ha
    refine ⟨hnan, hneg, roundRat_exact_iff hp hr ha, roundRat_infinite hp hr ha, ?_, fun hin => roundRat_inward hp hr hin ha,
      fun h0 hin => roundRat_outward hp hr h0 hin ha⟩
    rintro rfl
    exact ⟨(roundRat_finite_iff hp hr not_inward_near ha).trans (roundMag_near_over_iff hp ha),
      fun h => (roundRat_finite hp hr not_inward_near ha h).2.2, fun h y hy hne => roundRat_near hp ha h hy hne⟩
  · intro x inward r v out exceeds
    have ha : (0 : Rat) ≤ n / d * 2 ^ e := mul_nonneg (by positivity) (two_zpow_pos e).le
    have hx : x = signOf neg * (n / d * 2 ^ e) := mul_assoc ..
    have habs : |x| = n / d * 2 ^ e := abs_signed_quot neg n d e
    have hexceeds : exceeds ↔ 448 < roundMag 3 (-9) rnd neg (n / d * 2 ^ e) := by
      simp only [exceeds, habs]
      exact fp8_exceeds_iff hr ha
    rw [hexceeds, habs, hx]
    obtain ⟨hle, m, c, hv, hmag, hpar, hflags⟩ | ⟨hgt, hout⟩ :=
      satFp8Quot_cases (rnd := rnd) (neg := neg) (f8nan := f8nan) (n := n) (e := e) hd rfl
    · refine ⟨fun h => absurd hle (not_le.mpr h), fun _ => ?_⟩
      have hrat : v.rat = signOf neg * roundMag 3 (-9) rnd neg (n / d * 2 ^ e) := by
        rw [← hmag, ← fin_rat, ← hv]
      have hvabs : |v.rat| = roundMag 3 (-9) rnd neg (n / d * 2 ^ e) := by rw [hrat, abs_signOf_mul_roundMag]
      refine ⟨congrArg Val.finite hv, congrArg Val.neg? hv, ?_, fun y hy hne => ⟨?_, fun hin => ?_, fun h0 hin => ?_⟩⟩
      · exact hflags.trans (if_congr (by rw [hrat, signOf_mul_inj]) rfl rfl)
      · rintro rfl
        rw [hrat] at hne ⊢
        rw [hpar]
        exact roundMag_near_signed ha (abs_unpack8_isFloat hy) hne
      · rw [hvabs]
        exact (roundMag_inward hin ha).imp_right fun h => h _ (abs_unpack8_isFloat hy)
      · rw [hvabs]
        exact (roundMag_outward hr h0 hin ha).imp_right fun h => h _ (abs_unpack8_isFloat hy)
    · exact ⟨fun _ => hout, fun h => absurd hgt h⟩
  · intro u v w rounds
    have hp := fmt_proper hf
    have hq := fmt_proper hg
    refine ⟨fun hu hv => ?_, fun hu => cvtFmt_finite hq hr hu, fun h => ?_, fun h => fFma_nan (.inr (isNan_iff.mp h)),
      fun h => cvtFmt_nan (isNan_iff.mp h), intToFmt_roundsTo hp⟩
    · obtain ⟨hadd, haddneg⟩ := fAdd_finite hp hr hu hv
      obtain ⟨hmul, hmulneg⟩ := fMul_finite hp hr hu hv
      exact ⟨hadd, fSub_finite hp hr hu hv, hmul, fun _ => hmulneg, haddneg, fun hw => fFma_finite hp hr ng sub hu hv hw⟩
    · have hnan := h.imp isNan_iff.mp isNan_iff.mp
      obtain ⟨hadd, hsub, hmul⟩ := nan_operand (rnd := rnd) hnan
      exact ⟨hadd, hsub, hmul, fFma_nan (.inl hnan)⟩
  · intro u lo hi pat
    refine ⟨fun h => ?_, fun neg h => ?_, fun h => ?_⟩
    · rw [isNan_iff.mp h]
      rfl
    · rw [h]
      rfl
    · obtain ⟨neg, m, e, hu⟩ := finite_iff.mp h
      have hfin := valToInt_fin rnd signed w neg m e
      have ht := nonneg_of_fin_mag (m := m) (e := e)
      rw [hu, fin_rat] at *
      refine ⟨roundInt rnd neg (m * 2 ^ e), ?_, ?_, ?_, ?_, fun hlo => ?_, fun hhi => ?_, fun hlo hhi => ?_⟩
      · rintro rfl
        exact roundInt_near ht
      · rintro rfl
        exact roundInt_zero ht
      · rintro rfl
        exact roundInt_up ht
      · rintro rfl
        exact roundInt_down ht
      · exact hfin.trans (if_pos hlo)
      · have hrange : lo ≤ hi := by
          have h1 := one_le_pow₀ (M₀ := Int) (n := w - 1) one_le_two
          have h2 := one_le_pow₀ (M₀ := Int) (n := w) one_le_two
          cases signed with
          | false => exact sub_nonneg.mpr h2
          | true =>
            change -2 ^ (w - 1) ≤ (2 : Int) ^ (w - 1) - 1
            linarith
        exact hfin.trans ((if_neg (not_lt.mpr (hrange.trans hhi.le))).trans (if_pos hhi))
      · exact hfin.trans ((if_neg (not_lt.mpr hlo)).trans (if_neg (not_lt.mpr hhi)))
end Sys2Proof.Machine
end

section
/-! PASSES ROW BY ROW (R108, R109, R112, R217, R218): a pass updates its rows one after another, each by its own elements alone. -/
namespace Sys2Proof.Machine
variable {acc x y z : Acc} {i j k n : Nat}

/-- Two accumulators agree on row i. -/
def SameRow (i : Nat) (x y : Acc) : Prop :=
  (∀ j, j < 64 → vget x.elem (64 * i + j) 0 = vget y.elem (64 * i + j) 0) ∧ vget x.exp i 0 = vget y.exp i 0 ∧
    x.written.getLsbD i = y.written.getLsbD i

theorem SameRow.refl (i : Nat) (x : Acc) : SameRow i x x := ⟨fun _ _ => rfl, rfl, rfl⟩
theorem SameRow.trans (h : SameRow i x y) (h' : SameRow i y z) : SameRow i x z :=
  ⟨fun j hj => (h.1 j hj).trans (h'.1 j hj), h.2.1.trans h'.2.1, h.2.2.trans h'.2.2⟩

/-- A step of a pass on one row: it leaves the other rows alone, and what it makes of its own rests on that row. -/
structure RowStep (g : Acc → Nat → Acc) : Prop where
  other : ∀ acc i k, i < 16 → k ≠ i → SameRow i (g acc k) acc
  own : ∀ x y i, i < 16 → SameRow i x y → SameRow i (g x i) (g y i)

variable {g g' : Acc → Nat → Acc}

theorem RowStep.twice (h : RowStep g) (h' : RowStep g') : RowStep fun acc i => g' (g acc i) i where
  other acc i k hi hk := (h'.other _ i k hi hk).trans (h.other acc i k hi hk)
  own x y i hi hxy := h'.own _ _ i hi (h.own x y i hi hxy)

theorem RowStep.foldl_other (h : RowStep g) (hi : i < 16) {l : List Nat} (hl : i ∉ l) : SameRow i (l.foldl g acc) acc := by
  induction l generalizing acc with
  | nil => exact .refl i acc
  | cons k l ih =>
    rw [List.mem_cons, not_or] at hl
    exact (ih hl.2).trans (h.other acc i k hi (Ne.symm hl.1))
/-- After all rows have had their step, a row is what its own step makes of it. -/
theorem RowStep.foldl (h : RowStep g) (hi : i < 16) {l : List Nat} (hl : l.Nodup) :
    SameRow i (l.foldl g acc) (if i ∈ l then g acc i else acc) := by
  induction l generalizing acc with
  | nil => exact .refl i acc
  | cons k l ih =>
    obtain ⟨hk, hl⟩ := List.nodup_cons.mp hl
    rw [List.foldl_cons]
    rcases eq_or_ne i k with rfl | hne
    · rw [if_pos List.mem_cons_self]
      exact h.foldl_other hi hk
    · have hother := h.other acc i k hi (Ne.symm hne)
      refine (ih hl).trans ?_
      by_cases hm : i ∈ l
      · rw [if_pos hm, if_pos (List.mem_cons_of_mem k hm)]
        exact h.own _ _ i hi hother
      · rw [if_neg hm, if_neg (by simp [hne, hm])]
        exact hother

theorem foldl_fst {α β : Type} {F : Acc × α → β → Acc × α} {G : Acc → β → Acc} (h : ∀ x b, (F x b).1 = G x.1 b) (l : List β)
    (x : Acc × α) : (l.foldl F x).1 = l.foldl G x.1 := by
  induction l generalizing x with
  | nil => rfl
  | cons b l ih => rw [List.foldl_cons, ih, h, List.foldl_cons]

-- Rows of an accumulator that is put together.

theorem elem_row (f : Nat → BitVec 36) (hi : i < 16) (hj : j < 64) :
    vget (vgen 1024 fun n => if n / 64 = k then f (n % 64) else vget acc.elem n 0) (64 * i + j) 0 =
      if i = k then f j else vget acc.elem (64 * i + j) 0 := by
  rw [vget_gen _ _ _ _ (by omega), show (64 * i + j) / 64 = i by omega, show (64 * i + j) % 64 = j by omega]
theorem written_or (w : BitVec 16) (hi : i < 16) : (w ||| BitVec.ofNat 16 (2 ^ k)).getLsbD i = (w.getLsbD i || decide (k = i)) := by
  rw [BitVec.getLsbD_or, BitVec.getLsbD_ofNat, Nat.testBit_two_pow, decide_eq_true hi, Bool.true_and]

-- Integer mode.

/-- The 36-bit saturating sum of R112. -/
def sat36 (x : Int) : Int := max (-2 ^ 35) (min x (2 ^ 35 - 1))
theorem satInt_36 (x : Int) : (satInt 36 x).1 = sat36 x := by
  simp only [satInt, sat36]
  norm_num only
  split_ifs <;> omega
theorem toInt_ofInt_sat36 (x : Int) : (BitVec.ofInt 36 (sat36 x)).toInt = sat36 x := by
  rw [BitVec.toInt_ofInt, sat36]
  refine Int.bmod_eq_of_le ?_ ?_ <;> norm_num

theorem rowUpdateInt_elem (p : List Int) (hi : i < 16) (hj : j < 64) :
    vget (rowUpdateInt acc k p).1.elem (64 * i + j) 0 =
      if i = k then BitVec.ofInt 36 (sat36 ((vget acc.elem (64 * i + j) 0).toInt + p.getD j 0)) else vget acc.elem (64 * i + j) 0 := by
  have h := elem_row (acc := acc) (k := k) (fun n => BitVec.ofInt 36 (((List.range 64).map fun j =>
    satInt 36 ((vget acc.elem (64 * k + j) 0).toInt + p.getD j 0)).getD n (0, 0)).1) hi hj
  refine h.trans ?_
  split_ifs with hk
  · subst hk
    rw [List.getD_eq_getElem _ _ (by simpa using hj), List.getElem_map, List.getElem_range, satInt_36]
  · rfl
theorem rowUpdateInt_written (p : List Int) : (rowUpdateInt acc k p).1.written = acc.written ||| BitVec.ofNat 16 (2 ^ k) := rfl
theorem rowUpdateInt_exp (p : List Int) : (rowUpdateInt acc k p).1.exp = acc.exp := by rw [rowUpdateInt]
theorem rowUpdateInt_rowStep (p : Nat → List Int) : RowStep fun acc i => (rowUpdateInt acc i (p i)).1 where
  other acc i k hi hk := by
    refine ⟨fun j hj => ?_, by rw [rowUpdateInt_exp], ?_⟩
    · rw [rowUpdateInt_elem _ hi hj, if_neg (Ne.symm hk)]
    · rw [rowUpdateInt_written, written_or _ hi, decide_eq_false hk, Bool.or_false]
  own x y i hi hxy := by
    obtain ⟨hel, hexp, hw⟩ := hxy
    refine ⟨fun j hj => ?_, by rw [rowUpdateInt_exp, rowUpdateInt_exp, hexp], ?_⟩
    · rw [rowUpdateInt_elem _ hi hj, rowUpdateInt_elem _ hi hj, hel j hj]
    · rw [rowUpdateInt_written, rowUpdateInt_written, written_or _ hi, written_or _ hi, hw]

/-- The dot product of one step of 128 of a pass in integer mode. -/
def intDot (a : AOp) (b : BOp) (c i j : Nat) : Int :=
  ((List.range 128).map fun k => toSigned 8 (a.el i (128 * c + k)) * toSigned 8 (b.el (128 * c + k) j)).sum
theorem foldl_add_eq_sum {α : Type} (f : α → Int) (l : List α) (s : Int) : l.foldl (fun s k => s + f k) s = s + (l.map f).sum := by
  induction l generalizing s with
  | nil => simp
  | cons k l ih => rw [List.foldl_cons, ih, List.map_cons, List.sum_cons, add_assoc]

theorem passInt_eq (acc : Acc) (a : AOp) (b : BOp) : (passInt acc a b).1 = a.rows.foldl (fun acc i =>
    (rowUpdateInt (rowUpdateInt acc i ((List.range 64).map (intDot a b 0 i))).1 i ((List.range 64).map (intDot a b 1 i))).1) acc := by
  refine foldl_fst (fun x i => ?_) a.rows (acc, 0)
  have hdot (c : Nat) : ((List.range 64).map fun j => (List.range 128).foldl (fun (s : Int) k =>
      s + toSigned 8 (a.el i (128 * c + k)) * toSigned 8 (b.el (128 * c + k) j)) 0) = (List.range 64).map (intDot a b c i) :=
    List.map_congr_left fun j _ => (foldl_add_eq_sum _ _ _).trans (zero_add _)
  rw [← hdot 0, ← hdot 1]
  rfl

/-- In integer mode a visited row takes two saturating steps, and the others stand. -/
theorem passInt_elem (acc : Acc) (a : AOp) (b : BOp) (hi : i < 16) (hj : j < 64) (hn : a.rows.Nodup) :
    (vget (passInt acc a b).1.elem (64 * i + j) 0).toInt =
      if i ∈ a.rows then sat36 (sat36 ((vget acc.elem (64 * i + j) 0).toInt + intDot a b 0 i j) + intDot a b 1 i j)
      else (vget acc.elem (64 * i + j) 0).toInt := by
  have hstep := (rowUpdateInt_rowStep fun i => (List.range 64).map (intDot a b 0 i)).twice
    (rowUpdateInt_rowStep fun i => (List.range 64).map (intDot a b 1 i))
  have hdot (c : Nat) : ((List.range 64).map (intDot a b c i)).getD j 0 = intDot a b c i j := by
    rw [List.getD_eq_getElem _ _ (by simpa using hj), List.getElem_map, List.getElem_range]
  rw [passInt_eq, (hstep.foldl hi hn).1 j hj]
  split_ifs
  · rw [rowUpdateInt_elem _ hi hj, if_pos rfl, rowUpdateInt_elem _ hi hj, if_pos rfl, toInt_ofInt_sat36, toInt_ofInt_sat36,
      hdot, hdot]
  · rfl
end Sys2Proof.Machine
end

section
/-! AN UPDATE STEP IN BFP36 MODE (R26, R111): the exponent that holds all sums, each sum rounded once, and what infinities and NaN make. -/
namespace Sys2Proof.Machine
variable {a x y : Acc} {i j k n ex e : Nat} {v : Int × Int} {m : Int} {t : Val} {ts : List Val} {w : BitVec 36}

-- Elements.

theorem elSig_elFin (hlo : sigMin ≤ m) (hhi : m ≤ sigMax) : elSig (elFin m) = m := by
  have hfld : fld 0 34 (elFin m) = BitVec.ofInt 34 m := by
    ext i hi
    simp [elFin, fld, hi]
    omega
  rw [elSig, hfld, BitVec.toInt_ofInt]
  simp only [sigMin, sigMax] at hlo hhi
  norm_num at hlo hhi
  exact Int.bmod_eq_of_le (by norm_num; omega) (by norm_num; omega)
theorem elClass_elFin (m : Int) : elClass (elFin m) = 0 := by
  have hfld : (elFin m).extractLsb' 34 2 = 0 := by
    ext i hi
    simp [elFin]
  rw [elClass, fldN, hfld]
  rfl

-- Exact sums on a grid.

/-- The step of an exponent (R26), and the value of an exact sum. -/
def gridOf (e : Nat) : Rat := 2 ^ ((e : Int) - 160)
def sumVal (v : Int × Int) : Rat := v.1 * 2 ^ v.2
theorem gridOf_pos (e : Nat) : 0 < gridOf e := two_zpow_pos _

theorem exactAdd_val (m : Int) (ex : Nat) (h : t.finite = true) : sumVal (exactAdd m ex t) = m * gridOf ex + t.rat := by
  obtain ⟨neg, tm, te, rfl⟩ := finite_iff.mp h
  simp only [exactAdd]
  split_ifs with h0
  · rw [sumVal, fin_rat, h0, Nat.cast_zero, zero_mul, mul_zero, add_zero]
    rfl
  · have hpow : (2 : Rat) ^ ((ex : Int) - 160 - min ((ex : Int) - 160) te).toNat * 2 ^ min ((ex : Int) - 160) te = gridOf ex := by
      rw [← zpow_natCast, Int.toNat_of_nonneg (by omega), ← zpow_add₀ two_ne_zero, sub_add_cancel]
      rfl
    rw [sumVal, Int.cast_add, add_mul, alignInt_rat (min_le_right ..), ← hpow]
    push_cast
    ring

theorem onGrid_eq (v : Int × Int) (e : Nat) : onGrid v e = roundInt 0 (decide (v.1 < 0)) (v.1.natAbs * 2 ^ (v.2 - ((e : Int) - 160))) := by
  have hround := roundAt_eq one_pos 0 (decide (v.1 < 0)) v.1.natAbs v.2 ((e : Int) - 160)
  rw [Nat.cast_one, div_one] at hround
  simp only [onGrid, hround, roundInt, decide_eq_true_eq]

/-- A sum goes to the nearest multiple of the step, of two as near to the even one. -/
theorem onGrid_near (v : Int × Int) (e : Nat) : |sumVal v - onGrid v e * gridOf e| ≤ gridOf e / 2 ∧
    (|sumVal v - onGrid v e * gridOf e| = gridOf e / 2 → onGrid v e % 2 = 0) := by
  have hg := gridOf_pos e
  have hnonneg : (0 : Rat) ≤ v.1.natAbs * 2 ^ (v.2 - ((e : Int) - 160)) := mul_nonneg (Nat.cast_nonneg _) (two_zpow_pos _).le
  obtain ⟨hle, hev⟩ := roundInt_near (neg := decide (v.1 < 0)) hnonneg
  have hval : signOf (decide (v.1 < 0)) * (v.1.natAbs * 2 ^ (v.2 - ((e : Int) - 160))) * gridOf e = sumVal v := by
    rw [← mul_assoc, signed_natAbs, mul_assoc, gridOf, ← zpow_add₀ two_ne_zero, sub_add_cancel]
    rfl
  rw [← onGrid_eq] at hle hev
  have habs : |sumVal v - onGrid v e * gridOf e| =
      |signOf (decide (v.1 < 0)) * (v.1.natAbs * 2 ^ (v.2 - ((e : Int) - 160))) - onGrid v e| * gridOf e := by
    rw [← hval, ← sub_mul, abs_mul, abs_of_pos hg]
  rw [habs, show gridOf e / 2 = 1 / 2 * gridOf e by ring, mul_le_mul_iff_left₀ hg, mul_left_inj' hg.ne']
  exact ⟨hle, hev⟩

/-- Does a sum round into the 34 bits of a significand? -/
def InGrid (e : Nat) (q : Rat) : Prop := -(2 ^ 33 + 1 / 2) * gridOf e ≤ q ∧ q < (2 ^ 33 - 1 / 2) * gridOf e

theorem onGrid_le_max_iff : onGrid v e ≤ sigMax ↔ sumVal v < (2 ^ 33 - 1 / 2) * gridOf e := by
  obtain ⟨hle, hev⟩ := onGrid_near v e
  have hg := gridOf_pos e
  have hmax : sigMax = 2 ^ 33 - 1 := rfl
  obtain ⟨hlo, hhi⟩ := abs_le.mp hle
  constructor
  · intro h
    have hc : (onGrid v e : Rat) ≤ 2 ^ 33 - 1 := by exact_mod_cast h
    have hmul := mul_le_mul_of_nonneg_right hc hg.le
    refine lt_of_le_of_ne (by linarith) fun heq => ?_
    have heq' : (onGrid v e : Rat) * gridOf e = (2 ^ 33 - 1) * gridOf e := by linarith
    have hodd : onGrid v e = 2 ^ 33 - 1 := by exact_mod_cast mul_right_cancel₀ hg.ne' heq'
    have hhalf := hev (by rw [heq, heq', abs_of_nonneg] <;> linarith)
    rw [hodd] at hhalf
    omega
  · intro h
    by_contra hgt
    have hc : (2 ^ 33 : Rat) ≤ onGrid v e := by exact_mod_cast (by omega : (2 : Int) ^ 33 ≤ onGrid v e)
    have hmul := mul_le_mul_of_nonneg_right hc hg.le
    linarith
theorem min_le_onGrid_iff : sigMin ≤ onGrid v e ↔ -(2 ^ 33 + 1 / 2) * gridOf e ≤ sumVal v := by
  obtain ⟨hle, hev⟩ := onGrid_near v e
  have hg := gridOf_pos e
  have hmin : sigMin = -2 ^ 33 := rfl
  obtain ⟨hlo, hhi⟩ := abs_le.mp hle
  constructor
  · intro h
    have hc : (-2 ^ 33 : Rat) ≤ onGrid v e := by exact_mod_cast h
    have hmul := mul_le_mul_of_nonneg_right hc hg.le
    linarith
  · intro h
    by_contra hlt
    have hc : (onGrid v e : Rat) ≤ -2 ^ 33 - 1 := by exact_mod_cast (by omega : onGrid v e ≤ -2 ^ 33 - 1)
    have hmul := mul_le_mul_of_nonneg_right hc hg.le
    have heq' : (onGrid v e : Rat) * gridOf e = (-2 ^ 33 - 1) * gridOf e := by linarith
    have hodd : onGrid v e = -2 ^ 33 - 1 := by exact_mod_cast mul_right_cancel₀ hg.ne' heq'
    have hhalf := hev (by rw [heq', abs_of_nonneg] <;> linarith)
    rw [hodd] at hhalf
    omega
theorem fitsGrid_iff : fitsGrid e v = true ↔ InGrid e (sumVal v) := by
  simp only [fitsGrid, Bool.and_eq_true, decide_eq_true_eq, min_le_onGrid_iff, onGrid_le_max_iff, InGrid]

theorem satSig_range (m : Int) : sigMin ≤ satSig m ∧ satSig m ≤ sigMax := by
  have : sigMin ≤ sigMax := by decide
  unfold satSig
  split_ifs <;> omega
theorem satSig_of_inGrid (h : InGrid e (sumVal v)) : satSig (onGrid v e) = onGrid v e := by
  have hlo := min_le_onGrid_iff.mpr h.1
  have hhi := onGrid_le_max_iff.mpr h.2
  rw [satSig, if_neg (by omega), if_neg (by omega)]
theorem satSig_above (h : (2 ^ 33 - 1 / 2) * gridOf e ≤ sumVal v) : satSig (onGrid v e) = sigMax := by
  have hgt := not_le.mp fun hle => absurd (onGrid_le_max_iff.mp hle) (not_lt.mpr h)
  have : sigMin ≤ sigMax := by decide
  rw [satSig, if_neg (by omega), if_pos hgt]
theorem satSig_below (h : sumVal v < -(2 ^ 33 + 1 / 2) * gridOf e) : satSig (onGrid v e) = sigMin :=
  if_pos (not_le.mp fun hle => absurd (min_le_onGrid_iff.mp hle) (not_le.mpr h))

-- The parts of an update step.

/-- Element j of a row. -/
def rowEl (a : Acc) (i j : Nat) : BitVec 36 := vget a.elem (64 * i + j) 0
/-- The elements of a row beside the values that are added; which of these pairs are finite. -/
def rowPairs (a : Acc) (i : Nat) (ts : List Val) : List (BitVec 36 × Val) :=
  ((List.range 64).map (rowEl a i)).zip ts
def livePair (p : BitVec 36 × Val) : Bool := elClass p.1 == 0 && p.2.finite
/-- The least exponent that holds every sum. -/
def leastExp (ex : Nat) (ps : List (BitVec 36 × Val)) : Option Nat :=
  (span ex 256).find? fun e => ((ps.filter livePair).map fun p => exactAdd (elSig p.1) ex p.2).all (fitsGrid e)
/-- A pair's new element, with its flag. -/
def newEl (ex ex' : Nat) (p : BitVec 36 × Val) : BitVec 36 × Flags :=
  if livePair p then (elFin (satSig (onGrid (exactAdd (elSig p.1) ex p.2) ex')), 0) else combine (elClass p.1) p.2
def rowEx (a : Acc) (i : Nat) : Nat := (vget a.exp i 0).toNat
def newEx (a : Acc) (i : Nat) (ts : List Val) : Nat := (leastExp (rowEx a i) (rowPairs a i ts)).getD 255
def newRow (a : Acc) (i : Nat) (ts : List Val) : List (BitVec 36 × Flags) :=
  (rowPairs a i ts).map (newEl (rowEx a i) (newEx a i ts))

theorem rowUpdate_eq (a : Acc) (i : Nat) (ts : List Val) : rowUpdate a i ts = ({ a with
    elem := vgen 1024 fun n => if n / 64 = i then ((newRow a i ts).map Prod.fst).getD (n % 64) 0 else vget a.elem n 0,
    exp := vput a.exp i (BitVec.ofNat 8 (newEx a i ts)),
    written := a.written ||| BitVec.ofNat 16 (2 ^ i),
    overflow := if (leastExp (rowEx a i) (rowPairs a i ts)).isNone then a.overflow ||| BitVec.ofNat 16 (2 ^ i) else a.overflow },
    (newRow a i ts).foldl (fun f x => f ||| x.2) (fIf (leastExp (rowEx a i) (rowPairs a i ts)).isNone fAOV)) := by
  rw [rowUpdate]
  rfl

theorem rowUpdate_elem (hi : i < 16) (hj : j < 64) : vget (rowUpdate a k ts).1.elem (64 * i + j) 0 =
    if i = k then ((newRow a k ts).map Prod.fst).getD j 0 else vget a.elem (64 * i + j) 0 := by
  rw [rowUpdate_eq]
  exact elem_row (fun j => ((newRow a k ts).map Prod.fst).getD j 0) hi hj
theorem rowUpdate_written : (rowUpdate a k ts).1.written = a.written ||| BitVec.ofNat 16 (2 ^ k) := by rw [rowUpdate_eq]
theorem rowUpdate_exp : (rowUpdate a k ts).1.exp = vput a.exp k (BitVec.ofNat 8 (newEx a k ts)) := by rw [rowUpdate_eq]

theorem rowUpdate_rowStep (ts : Nat → List Val) : RowStep fun acc i => (rowUpdate acc i (ts i)).1 where
  other acc i k hi hk := by
    refine ⟨fun j hj => ?_, ?_, ?_⟩
    · rw [rowUpdate_elem hi hj, if_neg (Ne.symm hk)]
    · rw [rowUpdate_exp, vget_put_other _ _ _ _ _ (Ne.symm hk)]
    · rw [rowUpdate_written, written_or _ hi, decide_eq_false hk, Bool.or_false]
  own x y i hi hxy := by
    obtain ⟨hel, hexp, hw⟩ := hxy
    have hpairs : rowPairs x i (ts i) = rowPairs y i (ts i) :=
      congrArg (List.zip · (ts i)) (List.map_congr_left fun j hj => hel j (List.mem_range.mp hj))
    have hex : rowEx x i = rowEx y i := congrArg BitVec.toNat hexp
    have hnew : newEx x i (ts i) = newEx y i (ts i) := by rw [newEx, newEx, hpairs, hex]
    have hrow : newRow x i (ts i) = newRow y i (ts i) := by rw [newRow, newRow, hpairs, hex, hnew]
    refine ⟨fun j hj => ?_, ?_, ?_⟩
    · rw [rowUpdate_elem hi hj, rowUpdate_elem hi hj, if_pos rfl, if_pos rfl, hrow]
    · rw [rowUpdate_exp, rowUpdate_exp, vget_put_self _ _ _ _ hi, vget_put_self _ _ _ _ hi, hnew]
    · rw [rowUpdate_written, rowUpdate_written, written_or _ hi, written_or _ hi, hw]

/-- Element j of a row of 64 values, beside the value that is added. -/
theorem newRow_getD (ht : ts.length = 64) (hj : j < 64) : ((newRow a i ts).map Prod.fst).getD j 0 =
    (newEl (rowEx a i) (newEx a i ts) (rowEl a i j, ts.getD j .nan)).1 := by
  have hlen : (rowPairs a i ts).length = 64 := by simp [rowPairs, ht]
  rw [List.getD_eq_getElem _ _ (by simpa [newRow, hlen]), List.getD_eq_getElem _ _ (by rwa [ht])]
  simp [newRow, rowPairs]
theorem mem_rowPairs (ht : ts.length = 64) {p : BitVec 36 × Val} :
    p ∈ rowPairs a i ts ↔ ∃ j, j < 64 ∧ p = (rowEl a i j, ts.getD j .nan) := by
  have hlen : (rowPairs a i ts).length = 64 := by simp [rowPairs, ht]
  rw [List.mem_iff_getElem]
  constructor
  · rintro ⟨j, hj, rfl⟩
    rw [hlen] at hj
    refine ⟨j, hj, ?_⟩
    rw [List.getD_eq_getElem _ _ (by rwa [ht])]
    simp [rowPairs]
  · rintro ⟨j, hj, rfl⟩
    refine ⟨j, by rwa [hlen], ?_⟩
    rw [List.getD_eq_getElem _ _ (by rwa [ht])]
    simp [rowPairs]

theorem livePair_iff (x : BitVec 36) (t : Val) : livePair (x, t) = true ↔ elClass x = 0 ∧ t.finite = true := by
  rw [livePair, Bool.and_eq_true, beq_iff_eq]
theorem newEl_live (h : elClass w = 0 ∧ t.finite = true) :
    newEl ex e (w, t) = (elFin (satSig (onGrid (exactAdd (elSig w) ex t) e)), 0) := if_pos ((livePair_iff w t).mpr h)
theorem newEl_not_live (h : ¬ (elClass w = 0 ∧ t.finite = true)) : newEl ex e (w, t) = combine (elClass w) t :=
  if_neg (mt (livePair_iff w t).mp h)

-- The exponent.

/-- The exact sum of a finite pair. -/
def pairSum (ex : Nat) (p : BitVec 36 × Val) : Rat := elSig p.1 * gridOf ex + p.2.rat
/-- Do the sums of all finite pairs fit under an exponent? -/
def AllFit (ex : Nat) (ps : List (BitVec 36 × Val)) (e : Nat) : Prop :=
  ∀ p ∈ ps, livePair p = true → InGrid e (pairSum ex p)
theorem all_fitsGrid_iff {ps : List (BitVec 36 × Val)} :
    ((ps.filter livePair).map fun p => exactAdd (elSig p.1) ex p.2).all (fitsGrid e) = true ↔ AllFit ex ps e := by
  simp only [List.all_eq_true, List.mem_map, List.mem_filter, AllFit]
  constructor
  · intro h p hp hlive
    have hfin : p.2.finite = true := (Bool.and_eq_true_iff.mp hlive).2
    rw [pairSum, ← exactAdd_val _ _ hfin]
    exact fitsGrid_iff.mp (h _ ⟨p, ⟨hp, hlive⟩, rfl⟩)
  · rintro h _ ⟨p, ⟨hp, hlive⟩, rfl⟩
    have hfin : p.2.finite = true := (Bool.and_eq_true_iff.mp hlive).2
    rw [fitsGrid_iff, exactAdd_val _ _ hfin]
    exact h p hp hlive

theorem leastExp_some {ps : List (BitVec 36 × Val)} (h : leastExp ex ps = some e) :
    ex ≤ e ∧ e < 256 ∧ AllFit ex ps e ∧ ∀ c, ex ≤ c → c < e → ¬ AllFit ex ps c := by
  simp only [leastExp, span, List.find?_map, Option.map_eq_some_iff, List.find?_range_eq_some, Function.comp_apply,
    all_fitsGrid_iff, List.mem_range] at h
  obtain ⟨n, ⟨hfit, hn, hless⟩, rfl⟩ := h
  refine ⟨Nat.le_add_right .., by omega, hfit, fun c hc hlt hfitc => ?_⟩
  have := hless (c - ex) (by omega)
  rw [Nat.add_sub_cancel' hc, all_fitsGrid_iff.mpr hfitc] at this
  cases this
theorem leastExp_none {ps : List (BitVec 36 × Val)} (h : leastExp ex ps = none) (hlo : ex ≤ e) (hhi : e < 256) :
    ¬ AllFit ex ps e := fun hfit => by
  have := List.find?_eq_none.mp h e (List.mem_map.mpr ⟨e - ex, List.mem_range.mpr (by omega), Nat.add_sub_cancel' hlo⟩)
  exact this (all_fitsGrid_iff.mpr hfit)

theorem rowEx_lt (a : Acc) (i : Nat) : rowEx a i < 256 := (vget a.exp i 0).isLt
/-- The new exponent: not below the old, the least that holds all sums, or 255 where none does. -/
theorem newEx_spec (a : Acc) (i : Nat) (ts : List Val) :
    rowEx a i ≤ newEx a i ts ∧ newEx a i ts < 256 ∧
    (∀ e, rowEx a i ≤ e → e < newEx a i ts → ¬ AllFit (rowEx a i) (rowPairs a i ts) e) ∧
    ((leastExp (rowEx a i) (rowPairs a i ts)).isNone = true → newEx a i ts = 255 ∧ ¬ AllFit (rowEx a i) (rowPairs a i ts) 255) ∧
    ((leastExp (rowEx a i) (rowPairs a i ts)).isNone = false → AllFit (rowEx a i) (rowPairs a i ts) (newEx a i ts)) := by
  have hlt := rowEx_lt a i
  cases h : leastExp (rowEx a i) (rowPairs a i ts) with
  | none =>
    have h255 : newEx a i ts = 255 := by rw [newEx, h]; rfl
    rw [h255]
    exact ⟨by omega, by omega, fun e hlo hhi => leastExp_none h hlo (by omega),
      fun _ => ⟨rfl, leastExp_none h (by omega) (by omega)⟩, fun h => nomatch h⟩
  | some e =>
    have he : newEx a i ts = e := by rw [newEx, h]; rfl
    obtain ⟨hlo, hhi, hfit, hless⟩ := leastExp_some h
    rw [he]
    exact ⟨hlo, hhi, hless, fun h => (nomatch h), fun _ => hfit⟩

theorem rowEx_rowUpdate (hi : i < 16) : rowEx (rowUpdate a i ts).1 i = newEx a i ts := by
  rw [rowEx, rowUpdate_exp, vget_put_self _ _ _ _ hi, BitVec.toNat_ofNat, Nat.mod_eq_of_lt (newEx_spec a i ts).2.1]

-- The flags.

theorem foldl_or_bit {α : Type} (l : List (α × Flags)) (f : Flags) (k : Nat) :
    (l.foldl (fun f x => f ||| x.2) f).getLsbD k = (f.getLsbD k || l.any fun x => x.2.getLsbD k) := by
  induction l generalizing f with
  | nil => simp
  | cons x l ih => rw [List.foldl_cons, ih, BitVec.getLsbD_or, List.any_cons, Bool.or_assoc]
theorem and_fAOV (f : Flags) : f &&& fAOV = if f.getLsbD 8 then fAOV else 0 := BitVec.and_twoPow f 8
theorem and_fNV (f : Flags) : f &&& fNV = if f.getLsbD 0 then fNV else 0 := BitVec.and_twoPow f 0

theorem combine_flags (c : Nat) (t : Val) : (combine c t).2 = 0 ∨ (combine c t).2 = fNV := by
  cases t with
  | nan => exact .inl rfl
  | fin neg m e => exact .inl rfl
  | inf neg =>
    simp only [combine]
    generalize (if neg = true then 2 else 1) = tc
    split_ifs
    · exact .inl rfl
    · exact .inl rfl
    · exact .inr rfl
theorem newEl_no_aov (p : BitVec 36 × Val) : (newEl ex e p).2.getLsbD 8 = false := by
  have hflags : (newEl ex e p).2 = 0 ∨ (newEl ex e p).2 = fNV := by
    unfold newEl
    split_ifs
    · exact .inl rfl
    · exact combine_flags _ _
  obtain h | h := hflags <;> rw [h] <;> decide
theorem rowUpdate_aov : (rowUpdate a i ts).2 &&& fAOV =
    if (leastExp (rowEx a i) (rowPairs a i ts)).isNone then fAOV else 0 := by
  have hany : ((newRow a i ts).any fun x => x.2.getLsbD 8) = false := by
    simp only [newRow, List.any_map, List.any_eq_false, Function.comp_apply, newEl_no_aov]
    exact fun _ _ => Bool.false_ne_true
  rw [rowUpdate_eq, and_fAOV, foldl_or_bit, hany, Bool.or_false]
  cases (leastExp (rowEx a i) (rowPairs a i ts)).isNone <;> rfl
end Sys2Proof.Machine
end

section
/-! WHAT AN UPDATE STEP MAKES OF EACH ELEMENT (R111), AND A PASS OF EACH ROW (R108, R109, R117, R218). -/
namespace Sys2Proof.Machine
variable {a : Acc} {i j e : Nat} {t : Val} {ts : List Val}

/-- A finite element to which a finite value is added; their exact sum. -/
def LiveAt (a : Acc) (i : Nat) (ts : List Val) (j : Nat) : Prop :=
  j < 64 ∧ elClass (rowEl a i j) = 0 ∧ (ts.getD j .nan).finite = true
def sumAt (a : Acc) (i : Nat) (ts : List Val) (j : Nat) : Rat := pairSum (rowEx a i) (rowEl a i j, ts.getD j .nan)

theorem allFit_iff (ht : ts.length = 64) :
    AllFit (rowEx a i) (rowPairs a i ts) e ↔ ∀ j, LiveAt a i ts j → InGrid e (sumAt a i ts j) := by
  constructor
  · rintro h j ⟨hj, hlive⟩
    exact h _ ((mem_rowPairs ht).mpr ⟨j, hj, rfl⟩) ((livePair_iff _ _).mpr hlive)
  · intro h p hp hlive
    obtain ⟨j, hj, rfl⟩ := (mem_rowPairs ht).mp hp
    exact h j ⟨hj, (livePair_iff _ _).mp hlive⟩

theorem rowEl_rowUpdate (hi : i < 16) (ht : ts.length = 64) (hj : j < 64) : rowEl (rowUpdate a i ts).1 i j =
    (newEl (rowEx a i) (newEx a i ts) (rowEl a i j, ts.getD j .nan)).1 := by
  rw [rowEl, rowUpdate_elem hi hj, if_pos rfl, newRow_getD ht hj]

/-- A finite element: the sum, rounded once on the new step, or the end of the range that it is beyond. -/
theorem rowUpdate_live (hi : i < 16) (ht : ts.length = 64) (h : LiveAt a i ts j) :
    let m := elSig (rowEl (rowUpdate a i ts).1 i j)
    let g := gridOf (newEx a i ts)
    elClass (rowEl (rowUpdate a i ts).1 i j) = 0 ∧
    (InGrid (newEx a i ts) (sumAt a i ts j) →
      |sumAt a i ts j - m * g| ≤ g / 2 ∧ (|sumAt a i ts j - m * g| = g / 2 → m % 2 = 0)) ∧
    ((2 ^ 33 - 1 / 2) * g ≤ sumAt a i ts j → m = 2 ^ 33 - 1) ∧ (sumAt a i ts j < -(2 ^ 33 + 1 / 2) * g → m = -2 ^ 33) := by
  obtain ⟨hj, hclass, hfin⟩ := h
  have hel : rowEl (rowUpdate a i ts).1 i j =
      elFin (satSig (onGrid (exactAdd (elSig (rowEl a i j)) (rowEx a i) (ts.getD j .nan)) (newEx a i ts))) := by
    rw [rowEl_rowUpdate hi ht hj, newEl_live ⟨hclass, hfin⟩]
  have hsum : sumVal (exactAdd (elSig (rowEl a i j)) (rowEx a i) (ts.getD j .nan)) = sumAt a i ts j := exactAdd_val _ _ hfin
  obtain ⟨hlo, hhi⟩ := satSig_range (onGrid (exactAdd (elSig (rowEl a i j)) (rowEx a i) (ts.getD j .nan)) (newEx a i ts))
  rw [hel, elSig_elFin hlo hhi, ← hsum]
  refine ⟨elClass_elFin _, fun hin => ?_, satSig_above, satSig_below⟩
  rw [satSig_of_inGrid hin]
  exact onGrid_near _ _

theorem rowEl_not_live (hi : i < 16) (ht : ts.length = 64) (hj : j < 64) (h : ¬ LiveAt a i ts j) :
    rowEl (rowUpdate a i ts).1 i j = (combine (elClass (rowEl a i j)) (ts.getD j .nan)).1 := by
  rw [rowEl_rowUpdate hi ht hj, newEl_not_live fun hl => h ⟨hj, hl⟩]
/-- Infinities and NaN (R111). -/
theorem combine_nan {c : Nat} (h : c = 3 ∨ t = .nan) : (combine c t).1 = elOf 3 := by
  obtain rfl | rfl := h
  · cases t with
    | nan => rfl
    | fin neg m e => rfl
    | inf neg => rfl
  · rfl
theorem combine_inf {c : Nat} {neg : Bool} (h : c = 0 ∨ c = if neg then 2 else 1) :
    (combine c (.inf neg)).1 = elOf (if neg then 2 else 1) := by
  have h3 : c ≠ 3 := by cases neg <;> simp at h <;> omega
  simp only [combine, if_neg h3, if_pos h]
theorem combine_unlike {c : Nat} {neg : Bool} (h : c = if neg then 1 else 2) : combine c (.inf neg) = (elOf 3, fNV) := by
  subst h
  cases neg <;> rfl
theorem combine_finite {c : Nat} (h : t.finite = true) : (combine c t).1 = elOf c := by
  obtain ⟨neg, m, e, rfl⟩ := finite_iff.mp h
  rfl

theorem rowUpdate_nv (ht : ts.length = 64) (hj : j < 64) (h : ¬ LiveAt a i ts j)
    (hc : (combine (elClass (rowEl a i j)) (ts.getD j .nan)).2 = fNV) : (rowUpdate a i ts).2 &&& fNV = fNV := by
  have hel : newEl (rowEx a i) (newEx a i ts) (rowEl a i j, ts.getD j .nan) =
      combine (elClass (rowEl a i j)) (ts.getD j .nan) := newEl_not_live fun hl => h ⟨hj, hl⟩
  have hmem : ((newRow a i ts).any fun x => x.2.getLsbD 0) = true := by
    refine List.any_eq_true.mpr ⟨_, List.mem_map.mpr ⟨_, (mem_rowPairs ht).mpr ⟨j, hj, rfl⟩, rfl⟩, ?_⟩
    rw [hel, hc]
    rfl
  rw [rowUpdate_eq, and_fNV, foldl_or_bit, hmem, Bool.or_true, if_pos rfl]

theorem rowUpdate_tag : (rowUpdate a i ts).1.tag = a.tag := by rw [rowUpdate_eq]
theorem rowUpdate_imode : (rowUpdate a i ts).1.imode = a.imode := by rw [rowUpdate_eq]
theorem rowUpdate_overflow : (rowUpdate a i ts).1.overflow =
    if (leastExp (rowEx a i) (rowPairs a i ts)).isNone then a.overflow ||| BitVec.ofNat 16 (2 ^ i) else a.overflow := by
  rw [rowUpdate_eq]
/-- Is there no exponent that holds all sums? Then the new one, 255, does not. -/
theorem leastExp_isNone_iff : (leastExp (rowEx a i) (rowPairs a i ts)).isNone = true ↔
    ¬ AllFit (rowEx a i) (rowPairs a i ts) (newEx a i ts) := by
  obtain ⟨-, -, -, hnone, hsome⟩ := newEx_spec a i ts
  constructor
  · intro h
    rw [(hnone h).1]
    exact (hnone h).2
  · intro h
    by_contra hn
    exact h (hsome (Bool.eq_false_iff.mpr hn))
theorem rowUpdate_elem_other {n : Nat} (hn : n < 1024) (hne : n / 64 ≠ i) :
    vget (rowUpdate a i ts).1.elem n 0 = vget a.elem n 0 := by
  have h := rowUpdate_elem (a := a) (ts := ts) (k := i) (i := n / 64) (j := n % 64) (by omega) (by omega)
  rwa [if_neg hne, Nat.div_add_mod] at h

-- Passes.

variable {acc : Acc} {a : AOp} {b : BOp}

/-- The values that a step of a pass adds to a row: of FP8 chunk c, of a BF16 chunk, of a Haar chunk. -/
def vals8 (a : AOp) (b : BOp) (c i : Nat) : List Val := ((List.range 64).map fun j =>
  chunk8 ((List.range 128).map fun k => (unpack8 (a.el i (128 * c + k)), unpack8 (b.el (128 * c + k) j)))
    (a.scale i c) (b.scale c j)).map Prod.fst
def vals16 (a : AOp) (b : BOp) (i : Nat) : List Val := ((List.range 64).map fun j =>
  chunk16 ((List.range 128).map fun k => ((unpack bf16 (a.el i k), unpack bf16 (b.el k j)), 0))).map Prod.fst
def valsHaar (levels : Nat) (a : AOp) (b : BOp) (i : Nat) : List Val := ((List.range 64).map fun j =>
  chunk16 (a.rows.map fun k => ((unpack bf16 (a.el k i), unpack bf16 (b.el k j)), rowWeight levels k))).map Prod.fst

theorem pass8_eq : (pass8 acc a b).1 = a.rows.foldl (fun acc i =>
    (rowUpdate (rowUpdate acc i (vals8 a b 0 i)).1 i (vals8 a b 1 i)).1) acc := by
  refine foldl_fst (fun _ _ => ?_) a.rows (acc, 0)
  rfl
theorem pass16_eq : (pass16 acc a b).1 = a.rows.foldl (fun acc i => (rowUpdate acc i (vals16 a b i)).1) acc := by
  refine foldl_fst (fun _ _ => ?_) a.rows (acc, 0)
  rfl
theorem passHaar_eq (levels : Nat) :
    (passHaar acc levels a b).1 = (List.range 16).foldl (fun acc i => (rowUpdate acc i (valsHaar levels a b i)).1) acc := by
  refine foldl_fst (fun _ _ => ?_) (List.range 16) (acc, 0)
  rfl

/-- Of FP8 a visited row takes the steps of two chunks, and the others stand. -/
theorem pass8_row (hi : i < 16) (hn : a.rows.Nodup) : SameRow i (pass8 acc a b).1
    (if i ∈ a.rows then (rowUpdate (rowUpdate acc i (vals8 a b 0 i)).1 i (vals8 a b 1 i)).1 else acc) := by
  rw [pass8_eq]
  exact ((rowUpdate_rowStep (vals8 a b 0)).twice (rowUpdate_rowStep (vals8 a b 1))).foldl hi hn
/-- Of BF16 a visited row takes the step of one chunk. -/
theorem pass16_row (hi : i < 16) (hn : a.rows.Nodup) : SameRow i (pass16 acc a b).1
    (if i ∈ a.rows then (rowUpdate acc i (vals16 a b i)).1 else acc) := by
  rw [pass16_eq]
  exact (rowUpdate_rowStep (vals16 a b)).foldl hi hn
/-- In the Haar domain all 16 rows take the step of one chunk, the sum over the rows of A. -/
theorem passHaar_row (hi : i < 16) (levels : Nat) :
    SameRow i (passHaar acc levels a b).1 (rowUpdate acc i (valsHaar levels a b i)).1 := by
  rw [passHaar_eq]
  have h := (rowUpdate_rowStep (valsHaar levels a b)).foldl (acc := acc) hi List.nodup_range (l := List.range 16)
  rwa [if_pos (List.mem_range.mpr hi)] at h

theorem rowWeight_eq (levels : Nat) {k : Nat} (hk : k < 16) : rowWeight levels k = if levels = 0 then 0
    else if k < 16 / 2 ^ levels then levels else if k < 2 then 4 else if k < 4 then 3 else if k < 8 then 2 else 1 := by
  have hlevel : rowLevel k = if k < 2 then 4 else if k < 4 then 3 else if k < 8 then 2 else 1 := by
    revert k
    decide
  rw [rowWeight, hlevel, approxRows, Nat.shiftRight_eq_div_pow]
end Sys2Proof.Machine
end

section
/-! BYTES AND FIELDS (R3): a list read byte by byte, numbers within a range that is read, and fields as quotients. -/
namespace Sys2Proof
variable {n o w p : Nat} {l r : List Byte}

theorem takeBytes_eq (n : Nat) (l : List Byte) : takeBytes n l = (List.range n).map fun i => l.getD i 0 := by
  induction n generalizing l with
  | zero => rfl
  | succ n ih =>
    rw [List.range_succ_eq_map, List.map_cons, List.map_map]
    cases l with
    | nil =>
      rw [takeBytes, ih]
      rfl
    | cons b l =>
      rw [takeBytes, ih]
      rfl
theorem bytesAt_eq (o n : Nat) (l : List Byte) : bytesAt o n l = (List.range n).map fun i => l.getD (o + i) 0 := by
  rw [bytesAt, takeBytes_eq]
  exact List.map_congr_left fun i _ => by simp [List.getD_eq_getElem?_getD, List.getElem?_drop]
@[simp] theorem bytesAt_length (o n : Nat) (l : List Byte) : (bytesAt o n l).length = n := by simp [bytesAt_eq]
theorem bytesAt_getD {i : Nat} (hi : i < n) : (bytesAt o n l).getD i 0 = l.getD (o + i) 0 := by
  simp [bytesAt_eq, hi]
theorem numAt_congr (h : ∀ i, i < n → l.getD (o + i) 0 = r.getD (p + i) 0) : numAt o n l = numAt p n r := by
  rw [numAt, numAt, bytesAt_eq, bytesAt_eq]
  exact congrArg ofBytes (List.map_congr_left fun i hi => h i (List.mem_range.mp hi))
theorem numAt_bytesAt (h : o + n ≤ w) : numAt o n (bytesAt p w l) = numAt (p + o) n l :=
  numAt_congr fun i hi => by rw [bytesAt_getD (by omega), add_assoc]

theorem fldN_eq {m : Nat} (lo len : Nat) (x : BitVec m) : fldN lo len x = x.toNat / 2 ^ lo % 2 ^ len := by
  rw [fldN, BitVec.extractLsb'_toNat, Nat.shiftRight_eq_div_pow]
end Sys2Proof

namespace Sys2Proof.Machine
theorem slRead_getD (cl : Cluster) {a n i : Nat} (hi : i < n) : (slRead cl a n).getD i 0 = slGet cl (a + i) := by
  simp [slRead_eq, hi]
theorem numAt_slRead (cl : Cluster) {a o n w : Nat} (h : o + n ≤ w) : numAt o n (slRead cl a w) = slNum cl (a + o) n := by
  rw [slNum, numAt, bytesAt_eq, slRead_eq cl (a + o)]
  exact congrArg ofBytes (List.map_congr_left fun i hi => by
    rw [slRead_getD cl (by have := List.mem_range.mp hi; omega), add_assoc])
end Sys2Proof.Machine
end

section
/-! WHAT A PASS MULTIPLIES (R205, R209, R215, R216, R218): its elements and scales, from the tile, the Slate rows, the images and the
buffer. -/
namespace Sys2Proof.Machine
variable {job : MJob} {cl : Cluster} {t : Tile} {o : Bool} {rows : List (List Byte)} {i k c : Nat}

/-- The address of the rows of a pass, and of its images (R209). -/
def passBase (job : MJob) : Int := ((job.s1.toNat % 2 ^ 23 : Nat) : Int) + (job.next : Int) * (job.s2.setWidth 32).toInt
def passPitch (job : MJob) : Nat := 16 * (job.s1.toNat / 2 ^ 32 % 2 ^ 16)
def passScales (job : MJob) : Nat := 8 * (job.s2.toNat / 2 ^ 35 % 2 ^ 20)
def passRow (cl : Cluster) (job : MJob) (row at' width : Nat) : Nat :=
  slNum cl ((passBase job + (passPitch job * row : Nat)).toNat + at') width
def passScale (cl : Cluster) (job : MJob) (at' : Nat) : BitVec 32 :=
  if passScales job = 0 then 0x3F800000 else BitVec.ofNat 32 (slNum cl (passScales job + at') 4)

theorem passBase_eq (job : MJob) : (mBase job.s1 : Int) + (job.next : Int) * mTpitch job.s2 = passBase job := by
  rw [mBase, fldN_eq, pow_zero, Nat.div_one, passBase, mTpitch, fld]
  congr 3
theorem passPitch_eq (job : MJob) : mPitch job.s1 = passPitch job := by rw [mPitch, fldN_eq, passPitch]
theorem passScales_eq (job : MJob) : mScb job.s2 = passScales job := by rw [mScb, fldN_eq, passScales]

theorem readRows_getD {b : Int} {pitch w K : Nat} (hk : k < K) :
    (readRows cl (rowRanges b pitch w K)).getD k [] = slRead cl (b + (pitch * k : Nat)).toNat w := by
  simp [readRows, rowRanges, hk]
/-- The rows of bytes that a pass reads, of a width and a number. -/
def slateRows (cl : Cluster) (job : MJob) (w K : Nat) : List (List Byte) :=
  readRows cl (rowRanges (passBase job) (passPitch job) w K)
theorem numAt_slateRows {w K at' width : Nat} (hk : k < K) (h : at' + width ≤ w) :
    numAt at' width ((slateRows cl job w K).getD k []) = passRow cl job k at' width := by
  rw [slateRows, readRows_getD hk, numAt_slRead cl h, passRow]

/-- B from Slate rows, as MMA, MMAT and MLDB read it. -/
def slateB (cl : Cluster) (job : MJob) (o : Bool) : List (List Byte) :=
  if o then slateRows cl job 128 128 else slateRows cl job 64 256
theorem bRows_slate (scales : List (BitVec 32)) (hk : k < if o then 128 else 256) (hc : c < 64) :
    (bRows (slateB cl job o) o scales).el k c = if o then passRow cl job k (2 * c) 2 else passRow cl job k c 1 := by
  cases o with
  | true => exact numAt_slateRows hk (by omega)
  | false => exact numAt_slateRows hk (by omega)
theorem aSlate_el (img : Option (List Byte)) (hi : i < 16) (hk : k < if o then 128 else 256) :
    (aSlate (slateRows cl job 256 16) o img).el i k = if o then passRow cl job i (2 * k) 2 else passRow cl job i k 1 := by
  cases o with
  | true => exact numAt_slateRows hi (by simp at hk; omega)
  | false => exact numAt_slateRows hi (by simp at hk; omega)
theorem bRows_buffer (bs : List Byte) (scales : List (BitVec 32)) (hk : k < if o then 128 else 256) (hc : c < 64) :
    (bRows ((List.range (if o then 128 else 256)).map fun k => bytesAt ((if o then 128 else 64) * k) (if o then 128 else 64) bs) o
      scales).el k c = if o then numAt (128 * k + 2 * c) 2 bs else numAt (64 * k + c) 1 bs := by
  have hrow : ((List.range (if o then 128 else 256)).map fun k => bytesAt ((if o then 128 else 64) * k) (if o then 128 else 64) bs).getD
      k [] = bytesAt ((if o then 128 else 64) * k) (if o then 128 else 64) bs := by simp [hk]
  simp only [bRows, hrow]
  cases o with
  | true => exact numAt_bytesAt (by simp; omega)
  | false => exact numAt_bytesAt (by simp; omega)

-- Scales.

/-- The scales of a B image, at an offset of the images. -/
def bScales (cl : Cluster) (job : MJob) (off : Nat) : List (BitVec 32) :=
  if passScales job = 0 then [] else imgScales cl (passScales job + off)
theorem bScales_getD {off : Nat} (hc : c < 2) (hk : k < 64) :
    (bScales cl job off).getD (64 * c + k) 0x3F800000 = passScale cl job (off + 8 + 256 * c + 4 * k) := by
  have hlt : 64 * c + k < 128 := by omega
  unfold bScales passScale
  split_ifs
  · rfl
  · rw [List.getD_eq_getElem _ _ (by simpa [imgScales] using hlt)]
    simp only [imgScales, List.getElem_map, List.getElem_range]
    congr 2
    omega
/-- The scale (i, c) of an A image, at an offset of the images. -/
def aImage (cl : Cluster) (job : MJob) (off : Nat) : Option (List Byte) :=
  if passScales job = 0 then none else some (slRead cl (passScales job + off) 136)
theorem aImage_scale {off : Nat} (hi : i < 16) (hc : c < 2) :
    (match aImage cl job off with | some b => BitVec.ofNat 32 (numAt (8 + 8 * i + 4 * c) 4 b) | none => 0x3F800000) =
      passScale cl job (off + 8 + 8 * i + 4 * c) := by
  unfold aImage passScale
  split_ifs
  · rfl
  · simp only [numAt_slRead cl (show 8 + 8 * i + 4 * c + 4 ≤ 136 by omega)]
    congr 2
    omega

-- Passes.

/-- The arithmetic of a pass (R205). -/
def runPass (acc : Acc) (o : Bool) (a : AOp) (b : BOp) : Acc × Flags :=
  if o then pass16 acc a b else if acc.imode then passInt acc a b else pass8 acc a b

variable {acc : Acc} {bbuf : Option BBuf} {p n : BitVec 3} {v : BitVec 5} {s1 s2 : BitVec 6}

/-- The slate rows of a B operand, as a pass reads them. -/
theorem readRows_slateB : readRows cl (if o then rowRanges (passBase job) (passPitch job) 128 128
    else rowRanges (passBase job) (passPitch job) 64 256) = slateB cl job o := by cases o <;> rfl

/-- The scales of the first image of a list. -/
def firstScales (cl : Cluster) (imgs : List (Nat × Nat × List Nat)) : List (BitVec 32) :=
  match imgs with
  | x :: _ => imgScales cl x.1
  | [] => []
/-- Is the pass in FP8 mode? Its images then. -/
def passF8Images (job : MJob) (acc : Acc) (o : Bool) : List (Nat × Nat × List Nat) :=
  passImages job.i job.s2 (!o && !acc.imode) job.next

theorem passResult_mma (h : job.i = .mma p n v s1 s2 o) : passResult job acc t bbuf cl =
    runPass acc o (aTile t o) (bRows (slateB cl job o) o (firstScales cl (passF8Images job acc o))) := by
  simp only [passResult, h, mf, passRows, passBase_eq, passPitch_eq, readRows_slateB, runPass, firstScales, passF8Images] <;> rfl
theorem passResult_mmat (h : job.i = .mmat p n v s1 s2 o) : passResult job acc t bbuf cl =
    runPass acc o (aTileT t o (((passF8Images job acc o)[1]?).map fun x => slRead cl x.1 136))
      (bRows (slateB cl job o) o (firstScales cl (passF8Images job acc o))) := by
  simp only [passResult, h, mf, passRows, passBase_eq, passPitch_eq, readRows_slateB, runPass, firstScales, passF8Images] <;> rfl
theorem passResult_mmas_none (h : job.i = .mmas p n s1 s2 o) : passResult job acc t none cl = (acc, 0) := by
  simp only [passResult, h]
theorem passResult_mmas (h : job.i = .mmas p n s1 s2 o) (buf : BBuf) : passResult job acc t (some buf) cl =
    runPass acc o (aSlate (slateRows cl job 256 16) o ((passF8Images job acc o).head?.map fun x => slRead cl x.1 136))
      (bRows ((List.range (if o then 128 else 256)).map fun k =>
        bytesAt ((if o then 128 else 64) * k) (if o then 128 else 64) buf.rows) o buf.scales) := by
  simp only [passResult, h, mf, passRows, passBase_eq, passPitch_eq, slateRows, runPass, passF8Images]
theorem passResult_mmah (h : job.i = .mmah p n v s1 s2 o) : passResult job acc t bbuf cl =
    passHaar acc (if isHaar t.tag then tagLevels t.tag else 0)
      { aTile t true with el := fun k i => t.elem 1 k (16 * (mCb job.s2 + job.next) + i) }
      (bRows (slateRows cl job 128 16) true []) := by
  simp only [passResult, h, passRows, passBase_eq, passPitch_eq, slateRows]

-- The images of a pass in FP8 mode.

theorem mma_scales (h : job.i = .mma p n v s1 s2 o) (ho : o = false) (hm : acc.imode = false) :
    firstScales cl (passF8Images job acc o) = bScales cl job (520 * job.next) := by
  simp only [passF8Images, passImages, h, ho, hm, passScales_eq, bScales]
  by_cases h0 : passScales job = 0 <;> simp [h0, firstScales]
theorem mmat_scales (h : job.i = .mmat p n v s1 s2 o) (ho : o = false) (hm : acc.imode = false) :
    firstScales cl (passF8Images job acc o) = bScales cl job (656 * job.next) ∧
      (((passF8Images job acc o)[1]?).map fun x => slRead cl x.1 136) = aImage cl job (656 * job.next + 520) := by
  simp only [passF8Images, passImages, h, ho, hm, passScales_eq, bScales, aImage, ← add_assoc]
  by_cases h0 : passScales job = 0 <;> simp [h0, firstScales]
theorem mmas_scales (h : job.i = .mmas p n s1 s2 o) (ho : o = false) (hm : acc.imode = false) :
    ((passF8Images job acc o).head?.map fun x => slRead cl x.1 136) = aImage cl job (136 * job.next) := by
  simp only [passF8Images, passImages, h, ho, hm, passScales_eq, aImage]
  by_cases h0 : passScales job = 0 <;> simp [h0]
end Sys2Proof.Machine
end

section
/-! WHAT A CHUNK ADDS (R108 to R110, R117): operands that are not finite, the exact FP8 sum, and the truncated BF16 sum. -/
namespace Sys2Proof.Machine
variable {u v : Val} {neg : Bool} {ps : List (Val × Val)} {r : Val × Flags}

-- Operands that are not finite (R110).

/-- A product with an infinity, and one of an infinity with zero. -/
theorem mulVal_inf_iff : (mulVal u v).1 = .inf neg ↔ u.isNan = false ∧ v.isNan = false ∧ (u.finite && v.finite) = false ∧
    (u.isZero || v.isZero) = false ∧ (u.neg? != v.neg?) = neg := by
  cases u with
  | nan => simp [mulVal, Val.isNan]
  | inf n1 => cases v with
    | nan => simp [mulVal, Val.isNan]
    | inf n2 => simp [mulVal, Val.isNan, Val.finite, Val.isZero, Val.neg?]
    | fin n2 m2 e2 => by_cases h : m2 = 0 <;> simp [mulVal, Val.isNan, Val.finite, Val.isZero, Val.neg?, h]
  | fin n1 m1 e1 => cases v with
    | nan => simp [mulVal, Val.isNan]
    | inf n2 => by_cases h : m1 = 0 <;> simp [mulVal, Val.isNan, Val.finite, Val.isZero, Val.neg?, h]
    | fin n2 m2 e2 => simp [mulVal, Val.finite]
theorem mulVal_nv_iff : (mulVal u v).2 = fNV ↔ u.isNan = false ∧ v.isNan = false ∧ (u.finite && v.finite) = false ∧
    (u.isZero || v.isZero) = true := by
  have h0 : ¬ 0#10 = fNV := by decide
  cases u with
  | nan => simp [mulVal, Val.isNan, h0]
  | inf n1 => cases v with
    | nan => simp [mulVal, Val.isNan, h0]
    | inf n2 => simp [mulVal, Val.isNan, Val.finite, Val.isZero, h0]
    | fin n2 m2 e2 => by_cases h : m2 = 0 <;> simp [mulVal, Val.isNan, Val.finite, Val.isZero, h, h0]
  | fin n1 m1 e1 => cases v with
    | nan => simp [mulVal, Val.isNan, h0]
    | inf n2 => by_cases h : m1 = 0 <;> simp [mulVal, Val.isNan, Val.finite, Val.isZero, h, h0]
    | fin n2 m2 e2 => simp [mulVal, Val.finite, h0]

/-- The operands of a chunk: finite, with a NaN, with a product of zero and infinity, with an infinite product of a sign. -/
def AllFinite (ps : List (Val × Val)) : Prop := ∀ p ∈ ps, p.1.finite = true ∧ p.2.finite = true
def HasNan (ps : List (Val × Val)) : Prop := ∃ p ∈ ps, p.1 = .nan ∨ p.2 = .nan
def HasNone (ps : List (Val × Val)) : Prop := ∃ p ∈ ps, (mulVal p.1 p.2).2 = fNV
def HasInf (ps : List (Val × Val)) (neg : Bool) : Prop := ∃ p ∈ ps, (mulVal p.1 p.2).1 = .inf neg

theorem allFinite_iff : (ps.all fun p => p.1.finite && p.2.finite) = true ↔ AllFinite ps := by
  simp [AllFinite]
theorem hasNan_iff : (ps.any fun p => p.1.isNan || p.2.isNan) = true ↔ HasNan ps := by
  simp only [List.any_eq_true, Bool.or_eq_true, isNan_iff, HasNan]
/-- The pairs with an operand that is not finite. -/
def infPairs (ps : List (Val × Val)) : List (Val × Val) := ps.filter fun p => !p.1.finite || !p.2.finite
theorem mem_infPairs {p : Val × Val} : p ∈ infPairs ps ↔ p ∈ ps ∧ (p.1.finite && p.2.finite) = false := by
  rw [infPairs, List.mem_filter, Bool.and_eq_false_iff]
  simp
theorem hasNone_iff (hn : ¬ HasNan ps) : ((infPairs ps).any fun p => p.1.isZero || p.2.isZero) = true ↔ HasNone ps := by
  simp only [List.any_eq_true, mem_infPairs, HasNone, mulVal_nv_iff]
  constructor
  · rintro ⟨p, ⟨hp, hinf⟩, hz⟩
    refine ⟨p, hp, ?_, ?_, hinf, hz⟩
    · exact Bool.eq_false_iff.mpr fun h => hn ⟨p, hp, .inl (isNan_iff.mp h)⟩
    · exact Bool.eq_false_iff.mpr fun h => hn ⟨p, hp, .inr (isNan_iff.mp h)⟩
  · rintro ⟨p, hp, -, -, hinf, hz⟩
    exact ⟨p, ⟨hp, hinf⟩, hz⟩
theorem hasInf_iff (hn : ¬ HasNan ps) (h0 : ¬ HasNone ps) (neg : Bool) :
    HasInf ps neg ↔ ∃ p ∈ infPairs ps, (p.1.neg? != p.2.neg?) = neg := by
  simp only [HasInf, mulVal_inf_iff, mem_infPairs]
  constructor
  · rintro ⟨p, hp, -, -, hinf, -, hneg⟩
    exact ⟨p, ⟨hp, hinf⟩, hneg⟩
  · rintro ⟨p, ⟨hp, hinf⟩, hneg⟩
    refine ⟨p, hp, ?_, ?_, hinf, ?_, hneg⟩
    · exact Bool.eq_false_iff.mpr fun h => hn ⟨p, hp, .inl (isNan_iff.mp h)⟩
    · exact Bool.eq_false_iff.mpr fun h => hn ⟨p, hp, .inr (isNan_iff.mp h)⟩
    · exact Bool.eq_false_iff.mpr fun hz => h0 ((hasNone_iff hn).mp (List.any_eq_true.mpr ⟨p, mem_infPairs.mpr ⟨hp, hinf⟩, hz⟩))

theorem chunkSpecial_eq (ps : List (Val × Val)) : chunkSpecial ps =
    if (ps.all fun p => p.1.finite && p.2.finite) = true then none
    else if (ps.any fun p => p.1.isNan || p.2.isNan) = true then some (.nan, fNFC)
    else if (((infPairs ps).any fun p => p.1.isZero || p.2.isZero) ||
        ((infPairs ps).any (fun p => p.1.neg? != p.2.neg?) && (infPairs ps).any fun p => !(p.1.neg? != p.2.neg?))) = true then
      some (.nan, fNFC ||| fNV)
    else some (.inf ((infPairs ps).any fun p => p.1.neg? != p.2.neg?), fNFC) := rfl

theorem chunkSpecial_finite (h : AllFinite ps) : chunkSpecial ps = none := by
  rw [chunkSpecial_eq, if_pos (allFinite_iff.mpr h)]
theorem not_allFinite_of_nan (h : HasNan ps) : ¬ AllFinite ps := by
  obtain ⟨p, hp, h⟩ := h
  intro hfin
  obtain ⟨h1, h2⟩ := hfin p hp
  obtain h | h := h
  · rw [h] at h1
    cases h1
  · rw [h] at h2
    cases h2
theorem not_allFinite_of_mul {p : Val × Val} (hp : p ∈ ps) (h : (p.1.finite && p.2.finite) = false) : ¬ AllFinite ps := fun hfin => by
  obtain ⟨h1, h2⟩ := hfin p hp
  rw [h1, h2] at h
  cases h
theorem chunkSpecial_nan (h : HasNan ps) : chunkSpecial ps = some (.nan, fNFC) := by
  rw [chunkSpecial_eq, if_neg (mt allFinite_iff.mp (not_allFinite_of_nan h)), if_pos (hasNan_iff.mpr h)]
theorem chunkSpecial_none (hn : ¬ HasNan ps) (h : HasNone ps ∨ (HasInf ps true ∧ HasInf ps false)) :
    chunkSpecial ps = some (.nan, fNFC ||| fNV) := by
  have hfin : ¬ AllFinite ps := by
    obtain ⟨p, hp, h⟩ | ⟨⟨p, hp, h⟩, -⟩ := h
    · exact not_allFinite_of_mul hp (mulVal_nv_iff.mp h).2.2.1
    · exact not_allFinite_of_mul hp (mulVal_inf_iff.mp h).2.2.1
  rw [chunkSpecial_eq, if_neg (mt allFinite_iff.mp hfin), if_neg (mt hasNan_iff.mp hn), if_pos]
  by_cases h0 : HasNone ps
  · rw [(hasNone_iff hn).mpr h0, Bool.true_or]
  · obtain ⟨htrue, hfalse⟩ := h.resolve_left h0
    obtain ⟨p, hp, hpn⟩ := (hasInf_iff hn h0 _).mp htrue
    obtain ⟨p', hp', hpn'⟩ := (hasInf_iff hn h0 _).mp hfalse
    have hneg : ((infPairs ps).any fun p => p.1.neg? != p.2.neg?) = true := List.any_eq_true.mpr ⟨p, hp, hpn⟩
    have hpos : ((infPairs ps).any fun p => !(p.1.neg? != p.2.neg?)) = true :=
      List.any_eq_true.mpr ⟨p', hp', by rw [hpn']; rfl⟩
    rw [hneg, hpos, Bool.and_self, Bool.or_true]
theorem chunkSpecial_inf (hn : ¬ HasNan ps) (h0 : ¬ HasNone ps) (h : HasInf ps neg) (h' : ¬ HasInf ps (!neg)) :
    chunkSpecial ps = some (.inf neg, fNFC) := by
  have hfin : ¬ AllFinite ps := by
    obtain ⟨p, hp, h⟩ := h
    exact not_allFinite_of_mul hp (mulVal_inf_iff.mp h).2.2.1
  obtain ⟨p, hp, hpn⟩ := (hasInf_iff hn h0 _).mp h
  have hall : ∀ p ∈ infPairs ps, (p.1.neg? != p.2.neg?) = neg := fun p hp => by
    by_contra hne
    exact h' ((hasInf_iff hn h0 _).mpr ⟨p, hp, Bool.eq_not.mpr hne⟩)
  have hzero : ((infPairs ps).any fun p => p.1.isZero || p.2.isZero) = false := Bool.eq_false_iff.mpr (mt (hasNone_iff hn).mp h0)
  have hneg : ((infPairs ps).any fun p => p.1.neg? != p.2.neg?) = neg := by
    cases neg with
    | true => exact List.any_eq_true.mpr ⟨p, hp, hpn⟩
    | false => exact List.any_eq_false.mpr fun p hp => by rw [hall p hp]; exact Bool.false_ne_true
  have hpos : ((infPairs ps).any fun p => !(p.1.neg? != p.2.neg?)) = !neg := by
    cases neg with
    | true => exact List.any_eq_false.mpr fun p hp => by rw [hall p hp]; exact Bool.false_ne_true
    | false => exact List.any_eq_true.mpr ⟨p, hp, by rw [hpn]; rfl⟩
  rw [chunkSpecial_eq, if_neg (mt allFinite_iff.mp hfin), if_neg (mt hasNan_iff.mp hn), hzero, hneg, hpos, if_neg (by simp)]

/-- What R110 makes of a chunk with an operand that is not finite. -/
def SpecialOf (ps : List (Val × Val)) (r : Val × Flags) : Prop :=
  (HasNan ps → r = (.nan, fNFC)) ∧ (¬ HasNan ps → HasNone ps ∨ (HasInf ps true ∧ HasInf ps false) → r = (.nan, fNFC ||| fNV)) ∧
    ∀ neg, ¬ HasNan ps → ¬ HasNone ps → HasInf ps neg → ¬ HasInf ps (!neg) → r = (.inf neg, fNFC)
theorem specialOf_of (h : ∀ x, chunkSpecial ps = some x → r = x) : SpecialOf ps r :=
  ⟨fun hn => h _ (chunkSpecial_nan hn), fun hn h0 => h _ (chunkSpecial_none hn h0),
    fun _ hn h0 hi hi' => h _ (chunkSpecial_inf hn h0 hi hi')⟩
theorem chunk8_special (sa sb : BitVec 32) : SpecialOf ps (chunk8 ps sa sb) :=
  specialOf_of fun x h => by rw [chunk8, h]
theorem chunk16_special (ws : List ((Val × Val) × Nat)) : SpecialOf (ws.map Prod.fst) (chunk16 ws) :=
  specialOf_of fun x h => by rw [chunk16, h]

-- Sums.

/-- A fold that adds a value to each element's measure adds up their sum. -/
theorem foldl_measure {α : Type} {F : Int → α → Int} {val : α → Rat} {c : Rat} {l : List α}
    (h : ∀ x ∈ l, ∀ s : Int, (F s x : Rat) * c = s * c + val x) (s : Int) :
    ((l.foldl F s : Int) : Rat) * c = s * c + (l.map val).sum := by
  induction l generalizing s with
  | nil => simp
  | cons x l ih =>
    rw [List.foldl_cons, ih (fun y hy => h y (List.mem_cons_of_mem x hy)), h x List.mem_cons_self, List.map_cons, List.sum_cons, add_assoc]

/-- A rounding of an integer on a step is that of its value. -/
theorem roundQuot_int (f : Fmt) (rnd : Nat) (s q : Int) : roundQuot f rnd (decide (s < 0)) s.natAbs 1 q =
    roundQuot f rnd (decide ((s : Rat) * 2 ^ q < 0)) ((s : Rat) * 2 ^ q).num.natAbs ((s : Rat) * 2 ^ q).den 0 := by
  have hsign : decide ((s : Rat) * 2 ^ q < 0) = decide (s < 0) := decide_eq_decide.mpr (by
    rw [mul_neg_iff, or_iff_right fun h => absurd h.2 (not_lt.mpr (two_zpow_pos q).le)]
    simp [two_zpow_pos q])
  rw [roundQuot_num_den, hsign, roundQuot_eq one_pos, abs_mul, abs_of_pos (two_zpow_pos q), Nat.cast_one, div_one,
    Nat.cast_natAbs, Int.cast_abs]

theorem signOf_bne (n1 n2 : Bool) : signOf (n1 != n2) = signOf n1 * signOf n2 := by cases n1 <;> cases n2 <;> simp [signOf]
theorem ite_sub_add (b : Bool) (s m : Int) : ((if b then s - m else s + m : Int) : Rat) = s + signOf b * m := by
  cases b <;> simp [signOf, sub_eq_add_neg]

/-- Of FP8 the sum of the products is exact, in units of 2^-18. -/
theorem sum8_rat (hsmall : ∀ p ∈ ps, (∃ n m e, p.1 = .fin n m e ∧ -9 ≤ e) ∧ ∃ n m e, p.2 = .fin n m e ∧ -9 ≤ e) :
    (sum8 ps : Rat) * 2 ^ (-18 : Int) = (ps.map fun p => p.1.rat * p.2.rat).sum := by
  refine (foldl_measure (fun p hp s => ?_) 0).trans (by rw [Int.cast_zero, zero_mul, zero_add])
  obtain ⟨⟨n1, m1, e1, h1, he1⟩, n2, m2, e2, h2, he2⟩ := hsmall p hp
  obtain ⟨p1, p2⟩ := p
  dsimp only at h1 h2
  subst h1 h2
  have hm : (((m1 * m2) <<< (e1 + e2 + 18).toNat : Nat) : Rat) * 2 ^ (-18 : Int) = m1 * 2 ^ e1 * (m2 * 2 ^ e2) := by
    rw [Nat.shiftLeft_eq, Nat.cast_mul, Nat.cast_mul, Nat.cast_pow, Nat.cast_ofNat, ← zpow_natCast, Int.toNat_of_nonneg (by omega),
      mul_assoc, ← zpow_add₀ two_ne_zero, add_neg_cancel_right, zpow_add₀ two_ne_zero]
    ring
  dsimp only
  rw [ite_sub_add, add_mul, signOf_bne, fin_rat, fin_rat, Int.cast_natCast, mul_assoc, hm]
  ring

theorem chunk8_finite (sa sb : BitVec 32) (hfin : AllFinite ps)
    (hsmall : ∀ p ∈ ps, (∃ n m e, p.1 = .fin n m e ∧ -9 ≤ e) ∧ ∃ n m e, p.2 = .fin n m e ∧ -9 ≤ e) :
    let q := (ps.map fun p => p.1.rat * p.2.rat).sum
    (chunk8 ps sa sb).1 = unpack fp32 (fMul fp32 0 (roundQuot fp32 0 (decide (q < 0)) q.num.natAbs q.den 0).1
      (fMul fp32 0 sa.toNat sb.toNat).1).1 := by
  intro q
  have hround := roundQuot_int fp32 0 (sum8 ps) (-18)
  rw [sum8_rat hsmall] at hround
  rw [chunk8, chunkSpecial_finite hfin]
  dsimp only
  rw [hround]
  rfl

-- The truncated sum of a BF16 chunk (R109, R117).

variable {ws : List ((Val × Val) × Nat)} {x : (Val × Val) × Nat} {y : Bool × Nat × Int}

/-- A weighted product, as a value; a product that is not zero, as sign, magnitude and exponent, and its leading exponent. -/
def termVal (x : (Val × Val) × Nat) : Rat := x.1.1.rat * x.1.2.rat * 2 ^ x.2
def prodVal (y : Bool × Nat × Int) : Rat := (Val.fin y.1 y.2.1 y.2.2).rat
def prodTop (y : Bool × Nat × Int) : Int := y.2.1.log2 + y.2.2
/-- A value truncated toward zero to a multiple of a step. -/
def cutTo (g q : Rat) : Rat := if 0 ≤ q then (⌊q / g⌋ : Rat) * g else (⌈q / g⌉ : Rat) * g

theorem cutTo_zero (g : Rat) : cutTo g 0 = 0 := by simp [cutTo]
theorem cutTo_signed (neg : Bool) {t g : Rat} (ht : 0 ≤ t) (hg : 0 < g) : cutTo g (signOf neg * t) = signOf neg * (⌊t / g⌋₊ * g) := by
  have hfloor : ((⌊t / g⌋₊ : Int) : Rat) = (⌊t / g⌋ : Int) := by rw [Int.natCast_floor_eq_floor (div_nonneg ht hg.le)]
  rw [Int.cast_natCast] at hfloor
  cases neg with
  | false => rw [signOf, if_neg Bool.false_ne_true, one_mul, one_mul, cutTo, if_pos ht, hfloor]
  | true =>
    rcases ht.eq_or_lt with rfl | hpos
    · simp [cutTo]
    · rw [signOf, if_pos rfl, neg_one_mul, neg_one_mul, cutTo, if_neg (by linarith), neg_div, Int.ceil_neg, hfloor]
      push_cast
      ring

/-- The products that are kept: those that are not zero. -/
theorem prod16_spec (h : x.1.1.finite = true ∧ x.1.2.finite = true) :
    (prod16 x = none ∧ termVal x = 0) ∨ ∃ y, prod16 x = some y ∧ y.2.1 ≠ 0 ∧ prodVal y = termVal x := by
  obtain ⟨⟨u, v⟩, w⟩ := x
  obtain ⟨n1, m1, e1, rfl⟩ := finite_iff.mp h.1
  obtain ⟨n2, m2, e2, rfl⟩ := finite_iff.mp h.2
  have hval : prodVal (n1 != n2, m1 * m2, e1 + e2 + (w : Int)) = termVal ((.fin n1 m1 e1, .fin n2 m2 e2), w) := by
    rw [prodVal, termVal, fin_rat, fin_rat, fin_rat, signOf_bne, Nat.cast_mul, zpow_add₀ two_ne_zero, zpow_add₀ two_ne_zero,
      zpow_natCast]
    ring
  by_cases h0 : m1 * m2 = 0
  · refine .inl ⟨if_pos h0, ?_⟩
    rw [← hval, prodVal, fin_rat, h0, Nat.cast_zero, zero_mul, mul_zero]
  · exact .inr ⟨_, if_neg h0, h0, hval⟩
theorem sum_filterMap {α β : Type} {f : α → Option β} {val : α → Rat} {val' : β → Rat} {l : List α}
    (h : ∀ x ∈ l, (f x = none ∧ val x = 0) ∨ ∃ y, f x = some y ∧ val' y = val x) :
    ((l.filterMap f).map val').sum = (l.map val).sum := by
  induction l with
  | nil => rfl
  | cons x l ih =>
    have ih := ih fun y hy => h y (List.mem_cons_of_mem x hy)
    obtain ⟨hf, hv⟩ | ⟨y, hf, hv⟩ := h x List.mem_cons_self
    · rw [List.filterMap_cons_none hf, ih, List.map_cons, List.sum_cons, hv, zero_add]
    · rw [List.filterMap_cons_some hf, List.map_cons, List.sum_cons, ih, List.map_cons, List.sum_cons, hv]

theorem prodTop_bounds (h : y.2.1 ≠ 0) : (2 : Rat) ^ prodTop y ≤ |prodVal y| ∧ |prodVal y| < 2 ^ (prodTop y + 1) := by
  have hlo : (2 : Rat) ^ y.2.1.log2 ≤ y.2.1 := by exact_mod_cast Nat.log2_self_le h
  have hhi : (y.2.1 : Rat) < 2 ^ (y.2.1.log2 + 1) := by exact_mod_cast Nat.lt_log2_self (n := y.2.1)
  rw [prodVal, abs_fin_rat, prodTop, two_zpow_add_nat, show (y.2.1.log2 : Int) + y.2.2 + 1 = (y.2.1.log2 + 1 : Nat) + y.2.2 by
    push_cast; ring, two_zpow_add_nat]
  exact ⟨mul_le_mul_of_nonneg_right hlo (two_zpow_pos _).le, mul_lt_mul_of_pos_right hhi (two_zpow_pos _)⟩

theorem foldl_max_eq {α : Type} {f : α → Int} {T : Int} {p : α} {r : List α} (hle : ∀ x ∈ p :: r, f x ≤ T)
    (hmem : ∃ x ∈ p :: r, f x = T) : r.foldl (fun m x => max m (f x)) (f p) = T := by
  have h (r : List α) (m : Int) (hm : m ≤ T) (hr : ∀ x ∈ r, f x ≤ T) (hT : m = T ∨ ∃ x ∈ r, f x = T) :
      r.foldl (fun m x => max m (f x)) m = T := by
    induction r generalizing m with
    | nil => exact hT.resolve_right (by simp)
    | cons x r ih =>
      refine ih _ (max_le hm (hr x List.mem_cons_self)) (fun y hy => hr y (List.mem_cons_of_mem x hy)) ?_
      obtain rfl | ⟨y, hy, hyT⟩ := hT
      · exact .inl (max_eq_left (hr x List.mem_cons_self))
      · obtain rfl | hy := List.mem_cons.mp hy
        · exact .inl ((congrArg (max m) hyT).trans (max_eq_right hm))
        · exact .inr ⟨y, hy, hyT⟩
  refine h r _ (hle p List.mem_cons_self) (fun x hx => hle x (List.mem_cons_of_mem p hx)) ?_
  obtain ⟨x, hx, hxT⟩ := hmem
  obtain rfl | hx := List.mem_cons.mp hx
  · exact .inl hxT
  · exact .inr ⟨x, hx, hxT⟩

/-- The whole multiple of a step in a magnitude. -/
theorem scaleUp_div_eq_floor (m : Nat) (e q : Int) : scaleUp m (e - q) / 2 ^ (q - e).toNat = ⌊(m * 2 ^ e : Rat) / 2 ^ q⌋₊ := by
  have h := scaleUp_div m 1 (e - q)
  have h1 : scaleUp 1 (-(e - q)) = 2 ^ (q - e).toNat := by rw [scaleUp, Nat.one_shiftLeft, neg_sub]
  rw [h1, Nat.cast_one, div_one, zpow_sub₀ two_ne_zero, ← mul_div_assoc] at h
  rw [← h, Nat.floor_div_eq_div]

theorem chunk16_zero (hfin : AllFinite (ws.map Prod.fst)) (h : ∀ x ∈ ws, termVal x = 0) : (chunk16 ws).1.isZero = true := by
  have hnone : ws.filterMap prod16 = [] := List.filterMap_eq_nil_iff.mpr fun x hx => by
    obtain ⟨hf, -⟩ | ⟨y, -, hy, hv⟩ := prod16_spec (hfin _ (List.mem_map_of_mem hx))
    · exact hf
    · have := (prodTop_bounds hy).1
      rw [hv, h x hx, abs_zero] at this
      exact absurd this (not_le.mpr (two_zpow_pos _))
  rw [chunk16, chunkSpecial_finite hfin]
  dsimp only
  rw [hnone]
  rfl

/-- Each product is truncated to a multiple of 2^(top - 40), and the sum is rounded once. -/
theorem chunk16_finite (hfin : AllFinite (ws.map Prod.fst)) {top : Int} (hex : ∃ x ∈ ws, (2 : Rat) ^ top ≤ |termVal x|)
    (hall : ∀ x ∈ ws, |termVal x| < (2 : Rat) ^ (top + 1)) :
    let q := (ws.map fun x => cutTo (2 ^ (top - 40)) (termVal x)).sum
    (chunk16 ws).1 = unpack fp32 (roundQuot fp32 0 (decide (q < 0)) q.num.natAbs q.den 0).1 := by
  intro q
  have hspec : ∀ x ∈ ws, (prod16 x = none ∧ termVal x = 0) ∨ ∃ y, prod16 x = some y ∧ y.2.1 ≠ 0 ∧ prodVal y = termVal x :=
    fun x hx => prod16_spec (hfin _ (List.mem_map_of_mem hx))
  have hmem : ∀ y ∈ ws.filterMap prod16, y.2.1 ≠ 0 ∧ |prodVal y| < 2 ^ (top + 1) := fun y hy => by
    obtain ⟨x, hx, hxy⟩ := List.mem_filterMap.mp hy
    obtain ⟨hf, -⟩ | ⟨y', hf, hy0, hv⟩ := hspec x hx
    · rw [hf] at hxy
      cases hxy
    · rw [hf, Option.some.injEq] at hxy
      rw [← hxy, hv]
      exact ⟨hy0, hall x hx⟩
  have htop : ∃ y ∈ ws.filterMap prod16, prodTop y = top := by
    obtain ⟨x, hx, hge⟩ := hex
    obtain ⟨-, h0⟩ | ⟨y, hf, hy0, hv⟩ := hspec x hx
    · rw [h0, abs_zero] at hge
      exact absurd hge (not_le.mpr (two_zpow_pos _))
    · have hy := List.mem_filterMap.mpr ⟨x, hx, hf⟩
      obtain ⟨hlo, hhi⟩ := prodTop_bounds hy0
      rw [← hv] at hge
      have h1 := (zpow_lt_zpow_iff_right₀ (one_lt_two (α := Rat))).mp (hge.trans_lt hhi)
      have h2 := (zpow_lt_zpow_iff_right₀ (one_lt_two (α := Rat))).mp (hlo.trans_lt (hmem y hy).2)
      exact ⟨y, hy, by omega⟩
  have hle : ∀ y ∈ ws.filterMap prod16, prodTop y ≤ top := fun y hy => by
    have h := (zpow_lt_zpow_iff_right₀ (one_lt_two (α := Rat))).mp ((prodTop_bounds (hmem y hy).1).1.trans_lt (hmem y hy).2)
    omega
  have hsum : q = ((ws.filterMap prod16).map fun y => cutTo (2 ^ (top - 40)) (prodVal y)).sum := by
    refine (sum_filterMap fun x hx => ?_).symm
    obtain ⟨hf, hv⟩ | ⟨y, hf, -, hv⟩ := hspec x hx
    · exact .inl ⟨hf, by rw [hv, cutTo_zero]⟩
    · exact .inr ⟨y, hf, by rw [hv]⟩
  rw [chunk16, chunkSpecial_finite hfin]
  dsimp only
  cases hprods : ws.filterMap prod16 with
  | nil =>
    obtain ⟨y, hy, -⟩ := htop
    rw [hprods] at hy
    cases hy
  | cons p r =>
    rw [hprods] at htop hle hsum
    dsimp only
    have hq : r.foldl (fun m x => max m ((x.2.1.log2 : Int) + x.2.2)) ((p.2.1.log2 : Int) + p.2.2) = top := foldl_max_eq hle htop
    rw [hq, roundQuot_int]
    have hfold := foldl_measure (l := p :: r) (c := 2 ^ (top - 40)) (val := fun y => cutTo (2 ^ (top - 40)) (prodVal y))
      (F := fun acc x => if x.1 then acc - ((scaleUp x.2.1 (x.2.2 - (top - 40)) / 2 ^ (top - 40 - x.2.2).toNat : Nat) : Int)
        else acc + ((scaleUp x.2.1 (x.2.2 - (top - 40)) / 2 ^ (top - 40 - x.2.2).toNat : Nat) : Int)) (fun y _ s => by
          rw [ite_sub_add, add_mul, prodVal, fin_rat, cutTo_signed _ nonneg_of_fin_mag (two_zpow_pos _), Int.cast_natCast,
            scaleUp_div_eq_floor, mul_assoc]) 0
    rw [Int.cast_zero, zero_mul, zero_add, ← hsum] at hfold
    rw [hfold]
    rfl
end Sys2Proof.Machine
end

section
/-! DRAINS (R28, R113, R115, R224): an element that is drained, and a tile of them. -/
namespace Sys2Proof.Machine
variable {acc : Acc} {toInt thr : Bool} {i j : Nat} {h : BitVec 128}

theorem getD_map_range {α : Type} (f : Nat → α) {n : Nat} (hi : i < n) (d : α) : ((List.range n).map f).getD i d = f i := by
  simp [hi]

-- Elements (R113).

theorem drainEl_unwritten (hw : acc.written.getLsbD i = false) : drainEl acc toInt i j = (0, 0) := by
  simp [drainEl, bitAt, hw]
theorem drainEl_int (hw : acc.written.getLsbD i = true) (hm : acc.imode = true) : drainEl acc toInt i j =
    if toInt then (((satInt 32 (vget acc.elem (64 * i + j) 0).toInt).1 % (2 : Int) ^ 32).toNat,
      (satInt 32 (vget acc.elem (64 * i + j) 0).toInt).2) else intToFmt fp32 0 (vget acc.elem (64 * i + j) 0).toInt := by
  simp [drainEl, bitAt, hw, hm]
theorem drainEl_fin (hw : acc.written.getLsbD i = true) (hm : acc.imode = false) {n : Bool} {m : Nat} {x : Int}
    (hv : elVal (vget acc.elem (64 * i + j) 0) (vget acc.exp i 0).toNat = .fin n m x) :
    drainEl acc toInt i j = if m = 0 then (0, 0) else roundQuot fp32 0 n m 1 x := by
  simp only [drainEl, bitAt, hw, hm, hv, Bool.not_true, Bool.false_eq_true, if_false]
/-- An element of class infinity or NaN. -/
theorem drainEl_class (hw : acc.written.getLsbD i = true) (hm : acc.imode = false) {v : Val} (hf : v.finite = false)
    (hv : elVal (vget acc.elem (64 * i + j) 0) (vget acc.exp i 0).toNat = v) : drainEl acc toInt i j = roundVal fp32 0 v := by
  cases v with
  | fin n m x => cases hf
  | nan => simp only [drainEl, bitAt, hw, hm, hv, Bool.not_true, Bool.false_eq_true, if_false]
  | inf n => simp only [drainEl, bitAt, hw, hm, hv, Bool.not_true, Bool.false_eq_true, if_false]

theorem satInt_32 (x : Int) : satInt 32 x = (max (-2 ^ 31) (min x (2 ^ 31 - 1)),
    if max (-2 ^ 31) (min x (2 ^ 31 - 1)) = x then 0 else fSAT) := by
  rcases lt_or_ge x (-2 ^ 31) with hlo | hlo
  · rw [satInt, show max (-2 ^ 31) (min x (2 ^ 31 - 1)) = -2 ^ 31 by omega, if_pos hlo, if_neg (by omega)]
  rcases lt_or_ge (2 ^ 31 - 1) x with hhi | hhi
  · rw [satInt, show max (-2 ^ 31) (min x (2 ^ 31 - 1)) = 2 ^ 31 - 1 by omega, if_neg (not_lt.mpr hlo), if_pos hhi, if_neg (by omega)]
  · rw [satInt, show max (-2 ^ 31) (min x (2 ^ 31 - 1)) = x by omega, if_neg (not_lt.mpr hlo), if_neg (not_lt.mpr hhi), if_pos rfl]

theorem elVal_class (x : BitVec 36) (ex : Nat) :
    (elClass x = 0 → elVal x ex = .fin (decide (elSig x < 0)) (elSig x).natAbs ((ex : Int) - 160)) ∧
    (elClass x = 1 → elVal x ex = .inf false) ∧ (elClass x = 2 → elVal x ex = .inf true) ∧ (elClass x = 3 → elVal x ex = .nan) := by
  unfold elVal
  refine ⟨fun h => ?_, fun h => ?_, fun h => ?_, fun h => ?_⟩ <;> rw [h] <;> rfl

/-- A finite element rounds once to the nearest even. -/
theorem drainEl_finite (hw : acc.written.getLsbD i = true) (hm : acc.imode = false)
    (hc : elClass (vget acc.elem (64 * i + j) 0) = 0) :
    let q := (elSig (vget acc.elem (64 * i + j) 0) : Rat) * 2 ^ (((vget acc.exp i 0).toNat : Int) - 160)
    drainEl acc toInt i j = roundQuot fp32 0 (decide (q < 0)) q.num.natAbs q.den 0 := by
  intro q
  rw [← roundQuot_int, drainEl_fin hw hm ((elVal_class _ _).1 hc)]
  split_ifs with h0
  · rw [Int.natAbs_eq_zero.mp h0]
    rfl
  · rfl

-- Masks.

theorem maskOf_testBit (n : Nat) (f : Nat → Bool) :
    (List.range n).foldl (fun acc i => if f i then acc + 2 ^ i else acc) 0 < 2 ^ n ∧
    ∀ i, ((List.range n).foldl (fun acc i => if f i then acc + 2 ^ i else acc) 0).testBit i = (decide (i < n) && f i) := by
  induction n with
  | zero => exact ⟨one_pos, fun i => by simp⟩
  | succ n ih =>
    obtain ⟨hlt, hbit⟩ := ih
    rw [List.range_succ, List.foldl_append, List.foldl_cons, List.foldl_nil]
    generalize (List.range n).foldl (fun acc i => if f i then acc + 2 ^ i else acc) 0 = x at *
    have hpow : 2 ^ (n + 1) = 2 ^ n + 2 ^ n := by rw [pow_succ]; ring
    refine ⟨by split <;> omega, fun i => ?_⟩
    rcases lt_trichotomy i n with h | rfl | h
    · rw [show decide (i < n + 1) = decide (i < n) from decide_eq_decide.mpr (by omega), ← hbit i]
      split
      · rw [add_comm, Nat.testBit_two_pow_add_gt h]
      · rfl
    · rw [decide_eq_true (by omega), Bool.true_and]
      have hx : x.testBit i = false := Nat.testBit_lt_two_pow hlt
      split
      case isTrue hf => rw [add_comm, Nat.testBit_two_pow_add_eq, hx, hf]; rfl
      case isFalse hf => rw [hx, Bool.eq_false_iff.mpr hf]
    · rw [decide_eq_false (by omega), Bool.false_and]
      refine Nat.testBit_lt_two_pow (lt_of_lt_of_le ?_ (Nat.pow_le_pow_right two_pos h))
      split <;> omega
theorem maskOf_getLsbD {n : Nat} (f : Nat → Bool) {i : Nat} (hi : i < n) : (maskOf n f).getLsbD i = f i := by
  rw [maskOf, BitVec.getLsbD_ofNat, (maskOf_testBit n f).2, decide_eq_true hi, Bool.true_and, Bool.true_and]
/-- The rows that survive (R115): the approximation rows, and those with a coefficient that is not zero. -/
theorem survival_iff {levels : Nat} {cols : List (List Nat)} (hi : i < 16) : (survival levels cols).getLsbD i = true ↔
    i < 16 / 2 ^ levels ∨ ∃ c ∈ cols, c.getD i 0 % 2 ^ 31 ≠ 0 := by
  rw [survival, maskOf_getLsbD _ hi, Bool.or_eq_true, decide_eq_true_eq, List.any_eq_true, approxRows, Nat.shiftRight_eq_div_pow]
  simp only [bne_iff_ne]

-- Tiles (R224).

/-- Column j of an accumulator that is drained. -/
def drainCol (acc : Acc) (toInt : Bool) (j : Nat) : List Nat := (List.range 16).map fun i => (drainEl acc toInt i j).1
theorem drainCols_fst (acc : Acc) (toInt : Bool) : (drainCols acc toInt).1 = (List.range 64).map (drainCol acc toInt) := by
  simp [drainCols, drainCol, Function.comp_def]

theorem lanesOfCols_toNat (f : Nat → List Nat) (hi : i < 16) (hj : j < 64) :
    (vget (lanesOfCols ((List.range 64).map f)) (64 * i + j) 0).toNat = (f j).getD i 0 % 2 ^ 32 := by
  rw [lanesOfCols, vget_gen _ _ _ _ (by omega), show (64 * i + j) / 64 = i by omega, show (64 * i + j) % 64 = j by omega,
    getD_map_range _ hj, BitVec.toNat_ofNat]

/-- A column as MDRN writes it, after the threshold where it asks for one. -/
def drainTileCol (acc : Acc) (toInt thr : Bool) (h : BitVec 128) (j : Nat) : List Nat :=
  if isHaar acc.tag = true ∧ thr = true then thresholdCol h (tagLevels acc.tag) (drainCol acc toInt j) else drainCol acc toInt j

theorem drainTile_eq (acc : Acc) (toInt thr : Bool) (h : BitVec 128) : (drainTile acc toInt thr h).1 =
    { lanes := lanesOfCols ((List.range 64).map (drainTileCol acc toInt thr h)),
      tag := if isHaar acc.tag then (if thr then acc.tag ||| 0x20 else acc.tag) else 0,
      mask := if isHaar acc.tag then survival (tagLevels acc.tag) ((List.range 64).map (drainTileCol acc toInt thr h)) else 0xFFFF,
      side := sideOnes } := by
  have hcols : (List.range 64).map (drainTileCol acc toInt thr h) = if isHaar acc.tag = true ∧ thr = true then
      ((List.range 64).map (drainCol acc toInt)).map (thresholdCol h (tagLevels acc.tag))
      else (List.range 64).map (drainCol acc toInt) := by
    unfold drainTileCol
    split_ifs <;> simp
  rw [hcols, drainTile, drainCols_fst]
  cases isHaar acc.tag <;> cases thr <;> rfl
end Sys2Proof.Machine
end

section
/-! THATCH RECORDS (R120, R121): the fields of a record that is put together, its entries, and its padding. -/
namespace Sys2Proof
variable {n o k x : Nat} {l r : List Byte}

theorem numAt_drop (o k n : Nat) (l : List Byte) : numAt (o + k) n l = numAt k n (l.drop o) :=
  numAt_congr fun i _ => by rw [List.getD_eq_getElem?_getD, List.getD_eq_getElem?_getD, List.getElem?_drop, add_assoc]
theorem getD_drop (o i : Nat) (l : List Byte) : l.getD (o + i) 0 = (l.drop o).getD i 0 := by
  rw [List.getD_eq_getElem?_getD, List.getD_eq_getElem?_getD, List.getElem?_drop]
theorem numAt_append_left (h : o + n ≤ l.length) : numAt o n (l ++ r) = numAt o n l :=
  numAt_congr fun i hi => List.getD_append _ _ _ _ (by omega)
theorem numAt_bytesOf (n x : Nat) : numAt 0 n (bytesOf n x) = x % 256 ^ n := by
  rw [← ofBytes_bytesOf, numAt]
  have h : bytesAt 0 n (bytesOf n x) = bytesOf n x := by
    refine List.ext_getElem (by simp) fun i h1 h2 => ?_
    have hi : i < n := by simpa using h1
    have h := bytesAt_getD (o := 0) (l := bytesOf n x) hi
    rwa [zero_add, List.getD_eq_getElem _ _ h1, List.getD_eq_getElem _ _ h2] at h
  rw [h]
/-- A number at the head of other bytes, and what stands behind it. -/
theorem numAt_head (n x : Nat) (r : List Byte) : numAt 0 n (bytesOf n x ++ r) = x % 256 ^ n := by
  rw [numAt_append_left (by simp), numAt_bytesOf]
theorem numAt_skip {w : Nat} (h : w ≤ o) : numAt o n (bytesOf w x ++ r) = numAt (o - w) n r := by
  obtain ⟨k, rfl⟩ := Nat.exists_eq_add_of_le h
  rw [numAt_drop, Nat.add_sub_cancel_left, List.drop_left' (bytesOf_length w x)]

theorem popcount_eq (n x : Nat) : popcount n x = ((List.range n).filter x.testBit).length := by
  have h (l : List Nat) (s : Nat) : l.foldl (fun s i => if x.testBit i then s + 1 else s) s = s + (l.filter x.testBit).length := by
    induction l generalizing s with
    | nil => rfl
    | cons i l ih =>
      rw [List.foldl_cons, ih, List.filter_cons]
      split
      · rw [List.length_cons]
        omega
      · rfl
  rw [popcount, h, zero_add]
theorem popcount_le (n x : Nat) : popcount n x ≤ n := by
  rw [popcount_eq]
  exact (List.length_filter_le ..).trans_eq List.length_range
/-- The place of a set bit among the set bits. -/
theorem filter_testBit_place {n i x : Nat} (hi : i < n) (hx : x.testBit i = true) :
    ((List.range n).filter x.testBit)[popcount i x]? = some i := by
  have hsplit : List.range n = List.range i ++ (List.range (n - i)).map (i + ·) := by
    rw [← List.range_add, Nat.add_sub_cancel' hi.le]
  obtain ⟨m, hm⟩ : ∃ m, n - i = m + 1 := ⟨n - i - 1, by omega⟩
  rw [hsplit, hm, List.range_succ_eq_map, List.map_cons, add_zero, List.filter_append, popcount_eq,
    List.getElem?_append_right le_rfl, Nat.sub_self, List.filter_cons_of_pos hx, List.getElem?_cons_zero]
end Sys2Proof

namespace Sys2Proof.Machine
variable {tag : BitVec 8} {surv : BitVec 16} {efmt : Nat} {set : Option (Nat × BitVec 128)} {scale : Nat → Nat → BitVec 32}
  {row : Nat → List Byte} {i k n : Nat}

/-- The rows that a mask holds. -/
def liveRows (surv : BitVec 16) : List Nat := (List.range 16).filter surv.toNat.testBit
/-- An entry of a record: a row's two scales and its bytes. -/
def recEntryBytes (efmt : Nat) (scale : Nat → Nat → BitVec 32) (row : Nat → List Byte) (i : Nat) : List Byte :=
  bytesOf 4 (if efmt = 3 then scale i 0 else 0x3F800000).toNat ++
    (bytesOf 4 (if efmt = 3 then scale i 1 else 0x3F800000).toNat ++ bytesAt 0 256 (row i))
/-- The set that a record's header names: its number, 128 without one, and its bytes. -/
def setNumber (set : Option (Nat × BitVec 128)) : Nat := match set with | some (k, _) => k | none => 128
def setBytes (set : Option (Nat × BitVec 128)) : Nat := match set with | some (_, h) => h.toNat | none => 0
/-- Header and entries of a record, before its padding. -/
def recContent (tag : BitVec 8) (surv : BitVec 16) (efmt : Nat) (set : Option (Nat × BitVec 128)) (scale : Nat → Nat → BitVec 32)
    (row : Nat → List Byte) : List Byte :=
  bytesOf 1 tag.toNat ++ (bytesOf 1 (tagLevels tag) ++ (bytesOf 2 surv.toNat ++ (bytesOf 1 efmt ++ (bytesOf 1 (setNumber set) ++
    (bytesOf 2 (liveRows surv).length ++ (bytesOf 4 (recLength (liveRows surv).length) ++ (bytesOf 4 0 ++ (bytesOf 16 (setBytes set) ++
      (liveRows surv).flatMap (recEntryBytes efmt scale row)))))))))

theorem recBytes_eq : recBytes tag surv efmt set scale row =
    bytesAt 0 (recLength (liveRows surv).length) (recContent tag surv efmt set scale row) := by
  simp only [recBytes, recContent, List.append_assoc] <;> rfl

theorem liveRows_length : (liveRows surv).length = popcount 16 surv.toNat := (popcount_eq ..).symm
theorem recEntryBytes_length : (recEntryBytes efmt scale row i).length = 264 := by simp [recEntryBytes]
theorem recContent_length : (recContent tag surv efmt set scale row).length = 32 + 264 * popcount 16 surv.toNat := by
  have hbody : ((liveRows surv).flatMap (recEntryBytes efmt scale row)).length = 264 * popcount 16 surv.toNat := by
    rw [List.length_flatMap, ← liveRows_length]
    simp [recEntryBytes_length, mul_comm]
  simp only [recContent, List.length_append, bytesOf_length, hbody]
  omega
theorem recLength_ge (n : Nat) : 32 + 264 * n ≤ recLength n := by
  unfold recLength ceilDiv
  omega
theorem recBytes_length : (recBytes tag surv efmt set scale row).length = recLength (popcount 16 surv.toNat) := by
  rw [recBytes_eq, bytesAt_length, liveRows_length]

theorem recBytes_getD (hn : n < 32 + 264 * popcount 16 surv.toNat) :
    (recBytes tag surv efmt set scale row).getD n 0 = (recContent tag surv efmt set scale row).getD n 0 := by
  rw [recBytes_eq, bytesAt_getD (by rw [liveRows_length]; exact hn.trans_le (recLength_ge _)), zero_add]
theorem recBytes_numAt {o w : Nat} (h : o + w ≤ 32 + 264 * popcount 16 surv.toNat) :
    numAt o w (recBytes tag surv efmt set scale row) = numAt o w (recContent tag surv efmt set scale row) :=
  numAt_congr fun i hi => recBytes_getD (by omega)
theorem recBytes_padding (h : 32 + 264 * popcount 16 surv.toNat ≤ n) : (recBytes tag surv efmt set scale row).getD n 0 = 0 := by
  rcases lt_or_ge n (recLength (popcount 16 surv.toNat)) with hlt | hge
  · rw [recBytes_eq, bytesAt_getD (by rwa [liveRows_length]), zero_add]
    exact List.getD_eq_default _ _ (by rwa [recContent_length])
  · exact List.getD_eq_default _ _ (by rwa [recBytes_length])

/-- The fields of a record's header. -/
theorem recBytes_header (he : efmt < 256) (hset : setNumber set < 256) :
    let bs := recBytes tag surv efmt set scale row
    recTag bs = tag ∧ numAt 1 1 bs = tagLevels tag ∧ recSurv bs = surv ∧ recEfmt bs = efmt ∧ numAt 5 1 bs = setNumber set ∧
      numAt 6 2 bs = popcount 16 surv.toNat ∧ recLen bs = recLength (popcount 16 surv.toNat) ∧ numAt 12 4 bs = 0 ∧
      numAt 16 16 bs = setBytes set := by
  intro bs
  have hpop := popcount_le 16 surv.toNat
  have hsurv := surv.isLt
  have htag : tagLevels tag < 8 := (tag.extractLsb' 2 3).isLt
  have hbyte := tag.isLt
  have hbytes : setBytes set < 2 ^ 128 := by
    cases set with
    | none => exact Nat.two_pow_pos 128
    | some p => exact p.2.isLt
  have hlen : recLength (popcount 16 surv.toNat) < 256 ^ 4 := by
    unfold recLength ceilDiv
    omega
  have hnum {o w : Nat} (h : o + w ≤ 32) : numAt o w bs = numAt o w (recContent tag surv efmt set scale row) :=
    recBytes_numAt (by omega)
  refine ⟨?_, ?_, ?_, ?_, ?_, ?_, ?_, ?_, ?_⟩
  · rw [recTag, recBytes_getD (by omega)]
    simp [recContent, bytesOf]
  · rw [hnum (by decide), recContent, numAt_skip (by decide), numAt_head, Nat.mod_eq_of_lt (by omega)]
  · rw [recSurv, hnum (by decide), recContent, numAt_skip (by decide), numAt_skip (by decide), numAt_head,
      Nat.mod_eq_of_lt (by omega), BitVec.ofNat_toNat, BitVec.setWidth_eq]
  · rw [recEfmt, hnum (by decide), recContent]
    simp only [numAt_skip, Nat.reduceLeDiff, Nat.reduceSub, numAt_head]
    exact Nat.mod_eq_of_lt he
  · rw [hnum (by decide), recContent]
    simp only [numAt_skip, Nat.reduceLeDiff, Nat.reduceSub, numAt_head]
    exact Nat.mod_eq_of_lt hset
  · rw [hnum (by decide), recContent, liveRows_length]
    simp only [numAt_skip, Nat.reduceLeDiff, Nat.reduceSub, numAt_head]
    exact Nat.mod_eq_of_lt (by omega)
  · rw [recLen, hnum (by decide), recContent, liveRows_length]
    simp only [numAt_skip, Nat.reduceLeDiff, Nat.reduceSub, numAt_head]
    exact Nat.mod_eq_of_lt hlen
  · rw [hnum (by decide), recContent]
    simp only [numAt_skip, Nat.reduceLeDiff, Nat.reduceSub, numAt_head]
    exact Nat.zero_mod _
  · rw [hnum (by decide), recContent]
    simp only [numAt_skip, Nat.reduceLeDiff, Nat.reduceSub, numAt_head]
    exact Nat.mod_eq_of_lt hbytes

/-- The entry of a row that a record holds: its scales, and its bytes. -/
theorem recBytes_entry (hi : i < 16) (hs : surv.getLsbD i = true) :
    let bs := recBytes tag surv efmt set scale row
    let e := 32 + 264 * popcount i surv.toNat
    (∀ k, k < 2 → numAt (e + 4 * k) 4 bs = (if efmt = 3 then scale i k else 0x3F800000).toNat) ∧
      ∀ n, n < 256 → bs.getD (e + 8 + n) 0 = (row i).getD n 0 := by
  intro bs e
  have hplace : (liveRows surv)[popcount i surv.toNat]? = some i := filter_testBit_place hi hs
  have hlt : popcount i surv.toNat < popcount 16 surv.toNat := by
    rw [← liveRows_length]
    exact (List.getElem?_eq_some_iff.mp hplace).1
  obtain ⟨q, hq⟩ := drop_flatMap (fun i => recEntryBytes_length (efmt := efmt) (scale := scale) (row := row) (i := i)) hplace []
  rw [List.append_nil] at hq
  have hdrop : (recContent tag surv efmt set scale row).drop e = recEntryBytes efmt scale row i ++ q := by
    rw [← hq, ← List.drop_drop]
    congr 1
  have hfits : e + 264 ≤ 32 + 264 * popcount 16 surv.toNat := by omega
  refine ⟨fun k hk => ?_, fun n hn => ?_⟩
  · rw [recBytes_numAt (by omega), numAt_drop, hdrop, recEntryBytes, List.append_assoc, List.append_assoc]
    obtain rfl | rfl : k = 0 ∨ k = 1 := by omega
    · exact (numAt_head 4 _ _).trans (Nat.mod_eq_of_lt (BitVec.isLt _))
    · exact (numAt_skip (by decide)).trans ((numAt_head 4 _ _).trans (Nat.mod_eq_of_lt (BitVec.isLt _)))
  · rw [recBytes_getD (by omega), add_assoc, getD_drop, hdrop,
      List.getD_append _ _ _ _ (by rw [recEntryBytes_length]; omega), recEntryBytes, ← List.append_assoc, getD_drop,
      List.drop_left' (by simp), bytesAt_getD hn, zero_add]
end Sys2Proof.Machine
end

section
/-! BLOCKS OF A ROW (R106): a quantised block has as many elements as the row gives it, since its scale is finite. -/
namespace Sys2Proof.Machine
variable {xs : List Nat} {rnd : Nat}

/-- A magnitude that FP32 holds. -/
def Fp32Mag (v : Val) : Prop := ∃ m e, v = .fin false m e ∧ (m : Rat) * 2 ^ e ≤ fp32.most

theorem fp32_proper : fp32.Proper := ⟨by decide, by decide⟩

theorem absMax_mag (xs : List Nat) : Fp32Mag (absMax xs) := by
  refine List.foldlRecOn xs _ (motive := Fp32Mag) ⟨0, 0, rfl, ?_⟩ fun acc hacc x _ => ?_
  · rw [Nat.cast_zero, zero_mul]
    exact mul_nonneg (sub_nonneg.mpr (one_le_pow₀ one_le_two)) (topStep_pos _).le
  · dsimp only
    split_ifs with h
    · obtain ⟨neg, m, e, hv⟩ : ∃ neg m e, unpack fp32 x = .fin neg m e := by
        refine finite_iff.mp ?_
        cases hx : unpack fp32 x with
        | fin => rfl
        | nan => rw [hx] at h; simp [Val.abs, Val.finite] at h
        | inf => rw [hx] at h; simp [Val.abs, Val.finite] at h
      have hle := abs_unpack_le_most fp32_proper (x := x) (by rw [hv]; rfl)
      rw [hv, abs_fin_rat] at hle
      exact ⟨m, e, by rw [hv]; rfl, hle⟩
    · exact hacc

theorem unpack_fp32_mod (x : Nat) : unpack fp32 (x % 2 ^ 32) = unpack fp32 x := by
  have hfrac : x % 2 ^ 32 % 2 ^ fp32.fb = x % 2 ^ fp32.fb := Nat.mod_mod_of_dvd x (pow_dvd_pow 2 (by decide))
  have hexp : x % 2 ^ 32 / 2 ^ fp32.fb % 2 ^ fp32.eb = x / 2 ^ fp32.fb % 2 ^ fp32.eb := by
    simp only [fp32]
    omega
  have hneg : (x % 2 ^ 32).testBit (fp32.eb + fp32.fb) = x.testBit (fp32.eb + fp32.fb) := by
    rw [Nat.testBit_mod_two_pow, decide_eq_true (by decide), Bool.true_and]
  simp only [unpack, hfrac, hexp, hneg]

/-- The scale of a block is finite. -/
theorem quantScale_finite (xs : List Nat) : (unpack fp32 (quantScale xs).toNat).finite = true := by
  obtain ⟨m, e, hmax, hle⟩ := absMax_mag xs
  have hnonneg : (0 : Rat) ≤ m * 2 ^ e := nonneg_of_fin_mag
  have hsmall : (m : Rat) / 448 * 2 ^ e ≤ m * 2 ^ e := by
    rw [div_mul_eq_mul_div]
    exact div_le_self hnonneg (by norm_num)
  have hround : (unpack fp32 (roundQuot fp32 0 false m 448 e).1).finite = true := by
    rw [roundQuot_eq (by decide), roundRat_finite_iff fp32_proper (by decide) not_inward_near (by positivity),
      roundMag_near_over_iff fp32_proper (by positivity)]
    have := topStep_pos fp32
    push_cast
    linarith
  simp only [quantScale, hmax]
  rw [BitVec.toNat_ofNat, unpack_fp32_mod]
  split_ifs
  · decide
  · exact hround

theorem quantiseBlock_length (rnd : Nat) (xs : List Nat) : (quantiseBlock rnd xs).1.length = xs.length := by
  obtain ⟨neg, m, e, h⟩ := finite_iff.mp (quantScale_finite xs)
  simp only [quantiseBlock, h, List.length_map]
end Sys2Proof.Machine
end

section
/-! MDRNS (R225): the columns of a group of accumulators, the rows of bytes that they make, and the bytes that are written. -/
namespace Sys2Proof.Machine

-- Rows of bytes.

variable {α : Type} {f : α → List Byte} {w i n k : Nat} {xs : List Nat} {ef : Nat}

/-- Byte n of blocks of w bytes each. -/
theorem flatMap_getD (hf : ∀ x, (f x).length = w) {l : List α} {x : α} (hw : 0 < w) (hx : l[n / w]? = some x) :
    (l.flatMap f).getD n 0 = (f x).getD (n % w) 0 := by
  obtain ⟨q, hq⟩ := drop_flatMap hf hx []
  rw [List.append_nil] at hq
  rw [← Nat.div_add_mod n w, getD_drop, hq, Nat.div_add_mod,
    List.getD_append _ _ _ _ (by rw [hf]; exact Nat.mod_lt n hw)]
theorem flatMap_length (hf : ∀ x, (f x).length = w) (l : List α) : (l.flatMap f).length = w * l.length := by
  rw [List.length_flatMap]
  simp [hf, mul_comm]

/-- Blocks of 128 of a row. -/
def rowBlock (xs : List Nat) (k : Nat) : List (Nat × Flags) × BitVec 32 := quantiseBlock 0 ((xs.drop (128 * k)).take 128)
/-- The byte n of a row that is stored in an element format. -/
def rowByte (ef : Nat) (xs : List Nat) (n : Nat) : Nat :=
  if ef = 0 then xs.getD (n / 4) 0 / 256 ^ (n % 4) % 256
  else if ef = 1 then (cvtFmt fp32 bf16 0 (xs.getD (n / 2) 0)).1 / 256 ^ (n % 2) % 256
  else ((rowBlock xs (n / 128)).1.getD (n % 128) (0, 0)).1 % 256

theorem drainRow_two (hx : xs.length = 256) : (drainRow 2 xs).1 =
    (((rowBlock xs 0).1 ++ (rowBlock xs 1).1).map (fun x => BitVec.ofNat 8 x.1), [(rowBlock xs 0).2, (rowBlock xs 1).2]) := by
  have h1 : (xs.drop (128 * 1)).take 128 = xs.drop 128 := List.take_of_length_le (by simp [hx])
  rw [rowBlock, rowBlock, h1]
  rfl
theorem rowBlock_length (hx : xs.length = 256) (hk : k < 2) : (rowBlock xs k).1.length = 128 := by
  rw [rowBlock, quantiseBlock_length, List.length_take, List.length_drop, hx]
  omega

theorem drainRow_bytes (hef : ef < 3) (hx : xs.length = 64 * 2 ^ ef) : (drainRow ef xs).1.1.length = 256 ∧
    ∀ n, n < 256 → ((drainRow ef xs).1.1.getD n 0).toNat = rowByte ef xs n := by
  obtain rfl | rfl | rfl : ef = 0 ∨ ef = 1 ∨ ef = 2 := by omega
  · have hrow : (drainRow 0 xs).1.1 = xs.flatMap (bytesOf 4) := rfl
    rw [hrow, flatMap_length (bytesOf_length 4), hx]
    refine ⟨rfl, fun n hn => ?_⟩
    have hlt : n / 4 < xs.length := by omega
    rw [flatMap_getD (bytesOf_length 4) (by decide) (List.getElem?_eq_getElem hlt), bytesOf_getD _ _ _ (Nat.mod_lt _ (by decide)),
      BitVec.toNat_ofNat, rowByte, if_pos rfl, List.getD_eq_getElem _ _ hlt]
  · have hrow : (drainRow 1 xs).1.1 = (xs.map (cvtFmt fp32 bf16 0)).flatMap fun x => bytesOf 2 x.1 := rfl
    have hlen := fun x : Nat × Flags => bytesOf_length 2 x.1
    rw [hrow, flatMap_length hlen, List.length_map, hx]
    refine ⟨rfl, fun n hn => ?_⟩
    have hlt : n / 2 < xs.length := by omega
    rw [flatMap_getD hlen (by decide) (List.getElem?_eq_getElem (by rwa [List.length_map])), List.getElem_map,
      bytesOf_getD _ _ _ (Nat.mod_lt _ (by decide)), BitVec.toNat_ofNat, rowByte, if_neg (by decide), if_pos rfl,
      List.getD_eq_getElem _ _ hlt]
  · have hx' : xs.length = 256 := hx
    have h0 := rowBlock_length hx' (k := 0) (by decide)
    have h1 := rowBlock_length hx' (k := 1) (by decide)
    rw [drainRow_two hx']
    refine ⟨by simp [h0, h1], fun n hn => ?_⟩
    have hget : ∀ l : List (Nat × Flags), ((l.map fun x => BitVec.ofNat 8 x.1).getD n 0).toNat = (l.getD n (0, 0)).1 % 256 := by
      intro l
      rcases lt_or_ge n l.length with hlt | hge
      · rw [List.getD_eq_getElem _ _ (by rwa [List.length_map]), List.getD_eq_getElem _ _ hlt, List.getElem_map, BitVec.toNat_ofNat]
      · rw [List.getD_eq_default _ _ (by rwa [List.length_map]), List.getD_eq_default _ _ hge]
        rfl
    rw [hget, rowByte, if_neg (by decide), if_neg (by decide)]
    rcases lt_or_ge n 128 with hlt | hge
    · rw [List.getD_append _ _ _ _ (by omega), Nat.div_eq_of_lt hlt, Nat.mod_eq_of_lt hlt]
    · rw [List.getD_append_right _ _ _ _ (by omega), h0, show n / 128 = 1 by omega, show n % 128 = n - 128 by omega]
theorem drainRow_scale (hx : xs.length = 256) (hk : k < 2) : (drainRow 2 xs).1.2.getD k 0x3F800000 = (rowBlock xs k).2 := by
  rw [drainRow_two hx]
  obtain rfl | rfl : k = 0 ∨ k = 1 := by omega
  · rfl
  · rfl

-- Columns.

variable {acc : Nat → Acc} {lv : Option Nat} {th : Option (BitVec 128)} {W : Nat}

theorem flatMap_range {β : Type} (g : Nat → Nat → β) (W : Nat) :
    ((List.range W).flatMap fun k => (List.range 64).map (g k)) = (List.range (64 * W)).map fun c => g (c / 64) (c % 64) := by
  induction W with
  | zero => rfl
  | succ W ih =>
    rw [List.range_succ (n := W), List.flatMap_append, ih, Nat.mul_succ, List.range_add, List.map_append, List.map_map]
    congr 1
    rw [List.flatMap_cons, List.flatMap_nil, List.append_nil]
    refine List.map_congr_left fun j hj => ?_
    have := List.mem_range.mp hj
    simp only [Function.comp_apply, show (64 * W + j) / 64 = W by omega, show (64 * W + j) % 64 = j by omega]

/-- The tag of a group before the threshold: of the transform, or joined from its accumulators. -/
def groupTag (acc : Nat → Acc) (W : Nat) (lv : Option Nat) : BitVec 8 :=
  match lv with
  | some l => BitVec.ofNat 8 (1 + 4 * l)
  | none => (List.range W).tail.foldl (fun t g => joinTag t (acc g).tag) (acc 0).tag
/-- The tag of what is stored. -/
def storedTag (acc : Nat → Acc) (W : Nat) (lv : Option Nat) (th : Option (BitVec 128)) : BitVec 8 :=
  if th.isSome = true ∧ isHaar (groupTag acc W lv) = true then groupTag acc W lv ||| 0x20 else groupTag acc W lv
/-- Column c of a group, transformed, and thresholded. -/
def groupCol (acc : Nat → Acc) (W : Nat) (lv : Option Nat) (th : Option (BitVec 128)) (c : Nat) : List Nat :=
  let x := drainCol (acc (c / 64)) false (c % 64)
  let y := match lv with | some l => (haarFwd l x).1 | none => x
  match th with | some h => thresholdCol h (tagLevels (groupTag acc W lv)) y | none => y

theorem groupCols_eq (acc : Nat → Acc) (W : Nat) : (((List.range W).map acc).map fun a => drainCols a false).flatMap Prod.fst =
    (List.range (64 * W)).map fun c => drainCol (acc (c / 64)) false (c % 64) := by
  rw [← flatMap_range fun g j => drainCol (acc g) false j, List.map_map, List.flatMap_map]
  exact List.flatMap_congr fun g _ => drainCols_fst (acc g) false
theorem groupTag_eq (acc : Nat → Acc) (hW : 0 < W) :
    (drainGroup ((List.range W).map acc) none none).2.1 = groupTag acc W none := by
  have hcons (a : Acc) (r : List Acc) : (drainGroup (a :: r) none none).2.1 = r.foldl (fun t a => joinTag t a.tag) a.tag := rfl
  obtain ⟨n, rfl⟩ := Nat.exists_eq_add_of_le' hW
  rw [groupTag, List.range_succ_eq_map, List.map_cons, List.tail_cons, hcons, List.foldl_map]

theorem drainGroup_plain (hW : 0 < W) : ∃ fl, drainGroup ((List.range W).map acc) lv none =
    ((List.range (64 * W)).map (groupCol acc W lv none), groupTag acc W lv, fl) := by
  cases lv with
  | none => exact ⟨_, Prod.ext (groupCols_eq acc W) (Prod.ext (groupTag_eq acc hW) rfl)⟩
  | some l =>
    have h : (drainGroup ((List.range W).map acc) (some l) none).1 =
        (((((List.range W).map acc).map fun a => drainCols a false).flatMap Prod.fst).map (haarFwd l)).map Prod.fst := rfl
    rw [groupCols_eq, List.map_map, List.map_map] at h
    exact ⟨_, Prod.ext h rfl⟩
/-- A group as columns, with the tag of what is stored. -/
theorem drainGroup_eq (hW : 0 < W) : ∃ fl, drainGroup ((List.range W).map acc) lv th =
    ((List.range (64 * W)).map (groupCol acc W lv th), storedTag acc W lv th, fl) := by
  obtain ⟨fl, hplain⟩ := drainGroup_plain (acc := acc) (lv := lv) hW
  cases th with
  | none =>
    rw [storedTag, if_neg (by simp)]
    exact ⟨fl, hplain⟩
  | some h =>
    have hthr (accs : List Acc) : drainGroup accs lv (some h) =
        let x := drainGroup accs lv none
        (x.1.map (thresholdCol h (tagLevels x.2.1)), if isHaar x.2.1 then x.2.1 ||| 0x20 else x.2.1, x.2.2) := rfl
    rw [hthr, hplain]
    refine ⟨fl, Prod.ext (List.map_map ..) (Prod.ext ?_ rfl)⟩
    simp [storedTag]

theorem tag_or_thr (t : BitVec 8) : isHaar (t ||| 0x20) = isHaar t ∧ tagLevels (t ||| 0x20) = tagLevels t := by
  revert t
  decide
theorem storedTag_fields : isHaar (storedTag acc W lv th) = isHaar (groupTag acc W lv) ∧
    tagLevels (storedTag acc W lv th) = tagLevels (groupTag acc W lv) := by
  unfold storedTag
  split_ifs
  · exact tag_or_thr _
  · exact ⟨rfl, rfl⟩

-- What a drain gives.

/-- The rows of what is stored that are not left out. -/
def GroupLive (acc : Nat → Acc) (W : Nat) (lv : Option Nat) (th : Option (BitVec 128)) (i : Nat) : Prop :=
  isHaar (storedTag acc W lv th) = false ∨ i < 16 / 2 ^ tagLevels (storedTag acc W lv th) ∨
    ∃ c, c < 64 * W ∧ (groupCol acc W lv th c).getD i 0 % 2 ^ 31 ≠ 0
/-- Row i of a group's columns. -/
def groupRow (acc : Nat → Acc) (W : Nat) (lv : Option Nat) (th : Option (BitVec 128)) (i : Nat) : List Nat :=
  (List.range (64 * W)).map fun c => (groupCol acc W lv th c).getD i 0
theorem groupRow_length : (groupRow acc W lv th i).length = 64 * W := by simp [groupRow]

theorem drainOut_spec (hW : 0 < W) (ef : Nat) :
    let d := drainOut ((List.range W).map acc) ef lv th
    d.tag = storedTag acc W lv th ∧ (∀ i, i < 16 → (d.mask.getLsbD i = true ↔ GroupLive acc W lv th i)) ∧
      d.rows = (List.range 16).map fun i => (drainRow ef (groupRow acc W lv th i)).1 := by
  obtain ⟨fl, hgroup⟩ := drainGroup_eq (acc := acc) (lv := lv) (th := th) hW
  simp only [drainOut, hgroup, List.map_map]
  refine ⟨trivial, fun i hi => ?_, rfl⟩
  rw [GroupLive]
  split_ifs with hh
  · rw [survival_iff hi, hh]
    simp
  · rw [Bool.eq_false_iff.mpr hh]
    simp only [true_or, iff_true]
    revert i
    decide
end Sys2Proof.Machine
end

section
/-! WHAT MDRNS WRITES (R225): rows at a pitch with an image of scales, or a record. -/
namespace Sys2Proof.Machine
variable {job : MJob} {u : Task} {p a : BitVec 3} {opts : BitVec 5} {s1 s2 : BitVec 6} {o : Bool} {i k n : Nat}

/-- The accumulators of a drain, its transform and its threshold, from its options (R225). -/
def drainAcc (u : Task) (a : BitVec 3) (g : Nat) : Acc := vget u.a (a.toNat + g) (Acc.clear false)
def drainLevels (job : MJob) (opts : BitVec 5) : Option Nat := if opts.getLsbD 1 then some (job.s2.toNat / 256 % 8) else none
def drainThr (job : MJob) (opts : BitVec 5) : Option (BitVec 128) := if opts.getLsbD 0 then some job.thr else none
/-- Row i of a drain, whether it is stored, and the tag. -/
def jobRow (job : MJob) (u : Task) (a : BitVec 3) (opts : BitVec 5) (i : Nat) : List Nat :=
  groupRow (drainAcc u a) (2 ^ (opts.toNat / 8)) (drainLevels job opts) (drainThr job opts) i
def JobLive (job : MJob) (u : Task) (a : BitVec 3) (opts : BitVec 5) (i : Nat) : Prop :=
  GroupLive (drainAcc u a) (2 ^ (opts.toNat / 8)) (drainLevels job opts) (drainThr job opts) i
def jobTag (job : MJob) (u : Task) (a : BitVec 3) (opts : BitVec 5) : BitVec 8 :=
  storedTag (drainAcc u a) (2 ^ (opts.toNat / 8)) (drainLevels job opts) (drainThr job opts)

theorem drainFormat_eq (opts : BitVec 5) : fldN 3 2 opts = opts.toNat / 8 := by
  have := opts.isLt
  rw [fldN_eq]
  omega

/-- The rows that a drain makes: bytes, and the scales of FP8 blocks. -/
def drainRows (job : MJob) (u : Task) (a : BitVec 3) (opts : BitVec 5) : List (List Byte × List (BitVec 32)) :=
  (List.range 16).map fun i => (drainRow (opts.toNat / 8) (jobRow job u a opts i)).1
theorem drainRows_getD (hi : i < 16) :
    (drainRows job u a opts).getD i ([], []) = (drainRow (opts.toNat / 8) (jobRow job u a opts i)).1 := getD_map_range _ hi _
/-- The number and the bytes of the set that a drain's record names. -/
def thrSet (job : MJob) (opts : BitVec 5) : Option (Nat × BitVec 128) := (drainThr job opts).map fun h => (job.s2.toNat % 8, h)

/-- A drain's writes, from a tag, a mask and rows. -/
theorem drainWrites_eq (h : job.i = .mdrns p a opts s1 s2 o) : ∃ mask : BitVec 16,
    (∀ i, i < 16 → (mask.getLsbD i = true ↔ JobLive job u a opts i)) ∧
    (drainWrites job u).1 = if opts.getLsbD 2 then
      [(job.s1.toNat % 2 ^ 23, recBytes (jobTag job u a opts) mask (efEfmt (opts.toNat / 8))
        (thrSet job opts) (fun i b => ((drainRows job u a opts).getD i ([], [])).2.getD b 0x3F800000)
        fun i => ((drainRows job u a opts).getD i ([], [])).1)]
    else ((List.range 16).map fun i => (job.s1.toNat % 2 ^ 23 + passPitch job * i,
        if mask.getLsbD i then ((drainRows job u a opts).getD i ([], [])).1 else List.replicate 256 0)) ++
      if opts.toNat / 8 = 2 ∧ passScales job ≠ 0 then
        [(passScales job, bytesOf 8 1 ++ (drainRows job u a opts).flatMap fun r => r.2.flatMap fun x => bytesOf 4 x.toNat)] else [] := by
  obtain ⟨htag, hmask, hrows⟩ := drainOut_spec (acc := drainAcc u a) (lv := drainLevels job opts) (th := drainThr job opts)
    (Nat.two_pow_pos (opts.toNat / 8)) (opts.toNat / 8)
  refine ⟨_, hmask, ?_⟩
  have hlv : (if bitAt 1 opts then some (fldN 8 3 job.s2) else none) = drainLevels job opts := by rw [fldN_eq, drainLevels]; rfl
  have hth : (if bitAt 0 opts then some job.thr else none) = drainThr job opts := rfl
  have hbase : mBase job.s1 = job.s1.toNat % 2 ^ 23 := by rw [mBase, fldN_eq, pow_zero, Nat.div_one]
  have hset : fldN 0 3 job.s2 = job.s2.toNat % 8 := by
    rw [fldN_eq, pow_zero, Nat.div_one]
    rfl
  have hrec : bitAt 2 opts = opts.getLsbD 2 := rfl
  have haccs : (List.range (2 ^ (opts.toNat / 8))).map (fun g => vget u.a (a.toNat + g) (Acc.clear false)) =
      (List.range (2 ^ (opts.toNat / 8))).map (drainAcc u a) := rfl
  simp only [drainWrites, h, drainFormat_eq, hlv, hth, hbase, hset, hrec, haccs, htag, hrows, passPitch_eq, passScales_eq]
  split_ifs <;> rfl

-- Rows at a pitch.

variable {row : Nat → List Nat}

/-- The scales of a row of FP8 blocks, as bytes. -/
def scaleBytes (row : Nat → List Nat) (i : Nat) : List Byte :=
  bytesOf 4 (rowBlock (row i) 0).2.toNat ++ bytesOf 4 (rowBlock (row i) 1).2.toNat
theorem scaleBytes_length (row : Nat → List Nat) (i : Nat) : (scaleBytes row i).length = 8 := by simp [scaleBytes]
theorem numAt_scaleBytes (hk : k < 2) (r : List Byte) : numAt (4 * k) 4 (scaleBytes row i ++ r) = (rowBlock (row i) k).2.toNat := by
  rw [scaleBytes, List.append_assoc]
  obtain rfl | rfl : k = 0 ∨ k = 1 := by omega
  · exact (numAt_head 4 _ _).trans (Nat.mod_eq_of_lt (BitVec.isLt _))
  · exact (numAt_skip (by decide)).trans ((numAt_head 4 _ _).trans (Nat.mod_eq_of_lt (BitVec.isLt _)))

/-- The image of scales that a drain writes. -/
theorem scaleImage_spec (hlen : ∀ i, (row i).length = 256) :
    let bs := bytesOf 8 1 ++ ((List.range 16).map fun i => (drainRow 2 (row i)).1).flatMap fun r =>
      r.2.flatMap fun x => bytesOf 4 x.toNat
    bs.length = 136 ∧ numAt 0 8 bs = 1 ∧
      ∀ i k, i < 16 → k < 2 → numAt (8 + 8 * i + 4 * k) 4 bs = (rowBlock (row i) k).2.toNat := by
  have hbody : (((List.range 16).map fun i => (drainRow 2 (row i)).1).flatMap fun r => r.2.flatMap fun x => bytesOf 4 x.toNat) =
      (List.range 16).flatMap (scaleBytes row) := by
    rw [List.flatMap_map]
    refine List.flatMap_congr fun i _ => ?_
    rw [drainRow_two (hlen i)]
    simp [scaleBytes]
  rw [hbody]
  refine ⟨by simp [flatMap_length (scaleBytes_length row)], numAt_head 8 1 _, fun i k hi hk => ?_⟩
  obtain ⟨q, hq⟩ := drop_flatMap (scaleBytes_length row) (List.getElem?_range hi) []
  rw [List.append_nil] at hq
  rw [add_assoc, numAt_skip (Nat.le_add_right ..), Nat.add_sub_cancel_left, numAt_drop, hq, numAt_scaleBytes hk]

variable (h : job.i = .mdrns p a opts s1 s2 o) (hef : opts.toNat / 8 < 3)

theorem jobRow_length : (jobRow job u a opts i).length = 64 * 2 ^ (opts.toNat / 8) := groupRow_length

theorem range_append_getElem? {α : Type} (f : Nat → α) (l : List α) (hi : i < n) : ((List.range n).map f ++ l)[i]? = some (f i) := by
  rw [List.getElem?_append_left (by simpa using hi), List.getElem?_map, List.getElem?_range hi, Option.map_some]
theorem range_append_getElem?_length {α : Type} (f : Nat → α) (l : List α) : ((List.range n).map f ++ l)[n]? = l[0]? := by
  rw [List.getElem?_append_right (by simp), List.length_map, List.length_range, Nat.sub_self]

include h hef in
/-- Without a record: the sixteen rows, in their places, and of FP8 the image. -/
theorem drainWrites_rows (hr : opts.getLsbD 2 = false) :
    let writes := (drainWrites job u).1
    writes.length = (if opts.toNat / 8 = 2 ∧ passScales job ≠ 0 then 17 else 16) ∧
    (∀ i, i < 16 → ∃ bs, writes[i]? = some (job.s1.toNat % 2 ^ 23 + passPitch job * i, bs) ∧ bs.length = 256 ∧
      ∀ n, n < 256 → (JobLive job u a opts i → (bs.getD n 0).toNat = rowByte (opts.toNat / 8) (jobRow job u a opts i) n) ∧
        (¬ JobLive job u a opts i → bs.getD n 0 = 0)) ∧
    (opts.toNat / 8 = 2 → passScales job ≠ 0 → ∃ bs, writes[16]? = some (passScales job, bs) ∧ bs.length = 136 ∧ numAt 0 8 bs = 1 ∧
      ∀ i k, i < 16 → k < 2 → numAt (8 + 8 * i + 4 * k) 4 bs = (rowBlock (jobRow job u a opts i) k).2.toNat) := by
  obtain ⟨mask, hmask, hwrites⟩ := drainWrites_eq (u := u) h
  intro writes
  have hw := hwrites.trans (if_neg (Bool.eq_false_iff.mp hr))
  refine ⟨?_, fun i hi => ?_, fun he himg => ?_⟩
  · rw [congrArg List.length hw, List.length_append, List.length_map, List.length_range]
    split_ifs <;> rfl
  · obtain ⟨hlen, hbytes⟩ := drainRow_bytes hef (jobRow_length (job := job) (u := u) (a := a) (i := i))
    refine ⟨_, (congrArg (·[i]?) hw).trans (range_append_getElem? _ _ hi), ?_, fun n hn => ⟨fun hl => ?_, fun hl => ?_⟩⟩
    · split_ifs
      · rw [drainRows_getD hi, hlen]
      · exact List.length_replicate
    · rw [if_pos ((hmask i hi).mpr hl), drainRows_getD hi]
      exact hbytes n hn
    · rw [if_neg (mt (hmask i hi).mp hl), List.getD_replicate]
      exact hn
  · rw [if_pos ⟨he, himg⟩] at hw
    refine ⟨_, (congrArg (·[16]?) hw).trans (range_append_getElem?_length _ _), ?_⟩
    have himage := scaleImage_spec (row := jobRow job u a opts) fun i => by rw [jobRow_length, he]; rfl
    rw [drainRows, he]
    exact himage

-- A record.

theorem thrSet_number : setNumber (thrSet job opts) = if opts.getLsbD 0 then job.s2.toNat % 8 else 128 := by
  unfold thrSet drainThr
  split_ifs <;> rfl
theorem thrSet_bytes : setBytes (thrSet job opts) = if opts.getLsbD 0 then job.thr.toNat else 0 := by
  unfold thrSet drainThr
  split_ifs <;> rfl
theorem recLength_eq (n : Nat) : recLength n = 32 * ((32 + 264 * n + 31) / 32) := by
  unfold recLength ceilDiv
  omega
theorem efEfmt_eq {ef : Nat} (hef : ef < 3) : efEfmt ef = if ef = 2 then 3 else ef := by
  obtain rfl | rfl | rfl : ef = 0 ∨ ef = 1 ∨ ef = 2 := by omega
  · rfl
  · rfl
  · rfl

include h hef in
/-- The record that is written: its header, and an entry of each row that is not left out. -/
theorem drainWrites_record (hr : opts.getLsbD 2 = true) : ∃ bs, (drainWrites job u).1 = [(job.s1.toNat % 2 ^ 23, bs)] ∧
    let rows := popcount 16 (recSurv bs).toNat
    recTag bs = jobTag job u a opts ∧ numAt 1 1 bs = tagLevels (jobTag job u a opts) ∧
    recEfmt bs = (if opts.toNat / 8 = 2 then 3 else opts.toNat / 8) ∧
    (∀ i, i < 16 → ((recSurv bs).getLsbD i = true ↔ JobLive job u a opts i)) ∧ numAt 6 2 bs = rows ∧ recLen bs = bs.length ∧
    bs.length = 32 * ((32 + 264 * rows + 31) / 32) ∧ numAt 12 4 bs = 0 ∧
    (∀ n, 32 + 264 * rows ≤ n → n < bs.length → bs.getD n 0 = 0) ∧
    numAt 5 1 bs = (if opts.getLsbD 0 then job.s2.toNat % 8 else 128) ∧
    numAt 16 16 bs = (if opts.getLsbD 0 then job.thr.toNat else 0) ∧
    ∀ i, i < 16 → JobLive job u a opts i →
      let e := 32 + 264 * popcount i (recSurv bs).toNat
      (∀ k, k < 2 → numAt (e + 4 * k) 4 bs = if opts.toNat / 8 = 2 then (rowBlock (jobRow job u a opts i) k).2.toNat else 0x3F800000) ∧
      ∀ n, n < 256 → (bs.getD (e + 8 + n) 0).toNat = rowByte (opts.toNat / 8) (jobRow job u a opts i) n := by
  obtain ⟨mask, hmask, hwrites⟩ := drainWrites_eq (u := u) h
  rw [hwrites, if_pos hr]
  refine ⟨_, rfl, ?_⟩
  have hfmt := efEfmt_eq hef
  obtain ⟨htag, hlv, hsurv, hefmt, hnum, hrows, hlen, hzero, hbytes⟩ := recBytes_header (tag := jobTag job u a opts) (surv := mask)
    (efmt := efEfmt (opts.toNat / 8)) (set := thrSet job opts)
    (scale := fun i b => ((drainRows job u a opts).getD i ([], [])).2.getD b 0x3F800000)
    (row := fun i => ((drainRows job u a opts).getD i ([], [])).1)
    (by rw [hfmt]; split_ifs <;> omega) (by rw [thrSet_number]; split_ifs <;> omega)
  rw [hsurv]
  refine ⟨htag, hlv, hefmt.trans hfmt, hmask, hrows, hlen.trans recBytes_length.symm, recBytes_length.trans (recLength_eq _), hzero,
    fun n hn _ => recBytes_padding hn, hnum.trans thrSet_number, hbytes.trans thrSet_bytes, fun i hi hl => ?_⟩
  obtain ⟨hscale, hrow⟩ := recBytes_entry (tag := jobTag job u a opts) (efmt := efEfmt (opts.toNat / 8)) (set := thrSet job opts)
    (scale := fun i b => ((drainRows job u a opts).getD i ([], [])).2.getD b 0x3F800000)
    (row := fun i => ((drainRows job u a opts).getD i ([], [])).1) hi ((hmask i hi).mpr hl)
  obtain ⟨-, hdrained⟩ := drainRow_bytes hef (jobRow_length (job := job) (u := u) (a := a) (i := i))
  refine ⟨fun k hk => (hscale k hk).trans ?_, fun n hn => ?_⟩
  · rw [hfmt, drainRows_getD hi]
    by_cases h2 : opts.toNat / 8 = 2
    · have hlen : (jobRow job u a opts i).length = 256 := by rw [jobRow_length, h2]; rfl
      rw [if_pos h2, if_pos rfl, if_pos h2, h2, drainRow_scale hlen hk]
    · rw [if_neg h2, if_neg (by omega), if_neg h2]
      rfl
  · rw [hrow n hn, drainRows_getD hi]
    exact hdrained n hn
end Sys2Proof.Machine
end

section
/-! WHAT AN UPDATE STEP ADDS TO A ROW (R26, R111): its exponent, its elements, and its flags, together. -/
namespace Sys2Proof.Machine
variable {a : Acc} {i j : Nat} {ts : List Val}

/-- Does the step of an exponent hold all sums of a row's finite elements? -/
def RowFits (a : Acc) (i : Nat) (ts : List Val) (e : Nat) : Prop := ∀ j, LiveAt a i ts j → InGrid e (sumAt a i ts j)

theorem rowUpdate_exponent (hi : i < 16) (ht : ts.length = 64) :
    let ex' := rowEx (rowUpdate a i ts).1 i
    rowEx a i ≤ ex' ∧ (∀ e, rowEx a i ≤ e → e < ex' → ¬ RowFits a i ts e) ∧ (¬ RowFits a i ts ex' → ex' = 255) := by
  intro ex'
  obtain ⟨hle, -, hless, hnone, -⟩ := newEx_spec a i ts
  have hex : ex' = newEx a i ts := rowEx_rowUpdate hi
  rw [hex]
  refine ⟨hle, fun e hlo hhi hfit => hless e hlo hhi ((allFit_iff ht).mpr hfit), fun hfit => ?_⟩
  exact (hnone (leastExp_isNone_iff.mpr fun h => hfit ((allFit_iff ht).mp h))).1

/-- An element that is not finite, or to which such a value is added. -/
theorem rowUpdate_not_live (hi : i < 16) (ht : ts.length = 64) (hj : j < 64) (h : ¬ LiveAt a i ts j) :
    let x := rowEl a i j
    let t := ts.getD j .nan
    let y := rowEl (rowUpdate a i ts).1 i j
    (elClass x = 3 ∨ t = .nan → y = elOf 3) ∧
    (∀ neg, t = .inf neg → elClass x = 0 ∨ elClass x = (if neg then 2 else 1) → y = elOf (if neg then 2 else 1)) ∧
    (∀ neg, t = .inf neg → elClass x = (if neg then 1 else 2) → y = elOf 3 ∧ (rowUpdate a i ts).2 &&& fNV = fNV) ∧
    (t.finite = true → y = elOf (elClass x)) := by
  intro x t y
  have hy : y = (combine (elClass x) t).1 := rowEl_not_live hi ht hj h
  refine ⟨fun hc => hy.trans (combine_nan hc), fun neg hinf hc => ?_, fun neg hinf hc => ?_, fun hf => hy.trans (combine_finite hf)⟩
  · rw [hy, hinf]
    exact combine_inf hc
  · have hunlike : combine (elClass x) t = (elOf 3, fNV) := by
      rw [hinf]
      exact combine_unlike hc
    exact ⟨by rw [hy, hunlike], rowUpdate_nv ht hj h (congrArg Prod.snd hunlike)⟩

/-- The overflow of a row, and its flag AOV. -/
theorem rowUpdate_overflows (hi : i < 16) (ht : ts.length = 64) :
    let r := rowUpdate a i ts
    let ex' := rowEx r.1 i
    (RowFits a i ts ex' → r.1.overflow = a.overflow ∧ r.2 &&& fAOV = 0) ∧
    (¬ RowFits a i ts ex' → r.1.overflow = a.overflow ||| BitVec.ofNat 16 (2 ^ i) ∧ r.2 &&& fAOV = fAOV) := by
  intro r ex'
  have hex : ex' = newEx a i ts := rowEx_rowUpdate hi
  have hnone : (leastExp (rowEx a i) (rowPairs a i ts)).isNone = true ↔ ¬ RowFits a i ts ex' := by
    rw [leastExp_isNone_iff, allFit_iff ht, hex]
    rfl
  refine ⟨fun hfit => ?_, fun hfit => ?_⟩
  · have hsome := mt hnone.mp (not_not_intro hfit)
    exact ⟨rowUpdate_overflow.trans (if_neg hsome), rowUpdate_aov.trans (if_neg hsome)⟩
  · have hn := hnone.mpr hfit
    exact ⟨rowUpdate_overflow.trans (if_pos hn), rowUpdate_aov.trans (if_pos hn)⟩

theorem rowUpdate_live_at (hi : i < 16) (ht : ts.length = 64) (h : LiveAt a i ts j) :
    let m := elSig (rowEl (rowUpdate a i ts).1 i j)
    let ex' := rowEx (rowUpdate a i ts).1 i
    let g := gridOf ex'
    elClass (rowEl (rowUpdate a i ts).1 i j) = 0 ∧
    (InGrid ex' (sumAt a i ts j) → |sumAt a i ts j - m * g| ≤ g / 2 ∧ (|sumAt a i ts j - m * g| = g / 2 → m % 2 = 0)) ∧
    ((2 ^ 33 - 1 / 2) * g ≤ sumAt a i ts j → m = 2 ^ 33 - 1) ∧ (sumAt a i ts j < -(2 ^ 33 + 1 / 2) * g → m = -2 ^ 33) := by
  intro m ex' g
  have hex : ex' = newEx a i ts := rowEx_rowUpdate hi
  simp only [g, hex]
  exact rowUpdate_live hi ht h
end Sys2Proof.Machine
end

section
/-! THE OPERANDS OF A PASS (R205, R215, R216, R218), instruction by instruction. -/
namespace Sys2Proof.Machine
variable {job : MJob} {acc : Acc} {t : Tile} {cl : Cluster} {bbuf : Option BBuf} {o : Bool} {p n : BitVec 3} {v : BitVec 5}
  {s1 s2 : BitVec 6} {i k c : Nat}

/-- The rows of a tile of A that a pass visits (R117). -/
def tileRows (t : Tile) : List Nat := (List.range 16).filter fun i => !(isHaar t.tag && !(t.mask.getLsbD i))
/-- The elements of a chunk, or of two of FP8. -/
def passDepth (o : Bool) : Nat := if o then 128 else 256
/-- B comes from the rows of a pass in Slate. -/
def FromSlate (cl : Cluster) (job : MJob) (o : Bool) (b : BOp) : Prop :=
  ∀ k c, k < passDepth o → c < 64 → b.el k c = if o then passRow cl job k (2 * c) 2 else passRow cl job k c 1

theorem bRows_fromSlate (scales : List (BitVec 32)) : FromSlate cl job o (bRows (slateB cl job o) o scales) :=
  fun _ _ hk hc => bRows_slate scales hk hc
theorem aTile_scale (hi : i < 16) (hc : c < 2) : (aTile t o).scale i c = vget t.side (2 * i + c) 0 := by
  have hlt : 2 * i + c < 32 := by omega
  simp [aTile, vget, hlt]

theorem mma_operands (h : job.i = .mma p n v s1 s2 o) : ∃ a b, passResult job acc t bbuf cl = runPass acc o a b ∧
    a.rows = tileRows t ∧ (∀ i k, i < 16 → k < passDepth o → a.el i k = t.elem (if o then 1 else 3) i k) ∧ FromSlate cl job o b ∧
    (o = false ∧ acc.imode = false → ∀ c, c < 2 → (∀ i, i < 16 → a.scale i c = vget t.side (2 * i + c) 0) ∧
      ∀ k, k < 64 → b.scale c k = passScale cl job (520 * job.next + 8 + 256 * c + 4 * k)) := by
  refine ⟨_, _, passResult_mma h, rfl, fun _ _ _ _ => rfl, bRows_fromSlate _, ?_⟩
  rintro ⟨ho, hm⟩ c hc
  rw [mma_scales h ho hm]
  exact ⟨fun i hi => aTile_scale hi hc, fun k hk => bScales_getD hc hk⟩
theorem mmat_operands (h : job.i = .mmat p n v s1 s2 o) : ∃ a b, passResult job acc t bbuf cl = runPass acc o a b ∧
    a.rows = List.range 16 ∧ (∀ i k, i < 16 → k < passDepth o →
      a.el i k = if o then t.elem 1 (k / 8) (16 * (k % 8) + i) else t.elem 3 (k / 16) (16 * (k % 16) + i)) ∧ FromSlate cl job o b ∧
    (o = false ∧ acc.imode = false → ∀ c, c < 2 →
      (∀ i, i < 16 → a.scale i c = passScale cl job (656 * job.next + 520 + 8 + 8 * i + 4 * c)) ∧
      ∀ k, k < 64 → b.scale c k = passScale cl job (656 * job.next + 8 + 256 * c + 4 * k)) := by
  refine ⟨_, _, passResult_mmat h, rfl, fun _ _ _ _ => rfl, bRows_fromSlate _, ?_⟩
  rintro ⟨ho, hm⟩ c hc
  obtain ⟨hb, ha⟩ := mmat_scales (cl := cl) h ho hm
  rw [hb, ha]
  exact ⟨fun i hi => aImage_scale hi hc, fun k hk => bScales_getD hc hk⟩
theorem mmas_operands (h : job.i = .mmas p n s1 s2 o) (buf : BBuf) : ∃ a b, passResult job acc t (some buf) cl = runPass acc o a b ∧
    a.rows = List.range 16 ∧
    (∀ i k, i < 16 → k < passDepth o → a.el i k = if o then passRow cl job i (2 * k) 2 else passRow cl job i k 1) ∧
    (∀ k c, k < passDepth o → c < 64 → b.el k c = if o then numAt (128 * k + 2 * c) 2 buf.rows else numAt (64 * k + c) 1 buf.rows) ∧
    (o = false ∧ acc.imode = false → ∀ c, c < 2 → (∀ i, i < 16 → a.scale i c = passScale cl job (136 * job.next + 8 + 8 * i + 4 * c)) ∧
      ∀ k, k < 64 → b.scale c k = buf.scales.getD (64 * c + k) 0x3F800000) := by
  refine ⟨_, _, passResult_mmas h buf, rfl, fun _ _ hi hk => aSlate_el _ hi hk, fun _ _ hk hc => bRows_buffer _ _ hk hc, ?_⟩
  rintro ⟨ho, hm⟩ c hc
  rw [mmas_scales h ho hm]
  exact ⟨fun i hi => aImage_scale hi hc, fun _ _ => rfl⟩
theorem mmah_operands (h : job.i = .mmah p n v s1 s2 o) : ∃ a b,
    passResult job acc t bbuf cl = passHaar acc (if isHaar t.tag then tagLevels t.tag else 0) a b ∧ a.rows = tileRows t ∧
    (∀ k i, k < 16 → i < 16 → a.el k i = t.elem 1 k (16 * (job.s2.toNat / 2 ^ 55 % 8 + job.next) + i)) ∧
    (o = true → ∀ k c, k < 16 → c < 64 → b.el k c = passRow cl job k (2 * c) 2) := by
  have hblock : mCb job.s2 = job.s2.toNat / 2 ^ 55 % 8 := fldN_eq 55 3 job.s2
  have hpass := passResult_mmah (acc := acc) (t := t) (cl := cl) (bbuf := bbuf) h
  rw [hblock] at hpass
  exact ⟨_, _, hpass, rfl, fun _ _ _ _ => rfl, fun _ k c hk hc => numAt_slateRows hk (by omega)⟩
end Sys2Proof.Machine
end

section
/-! WHAT MDRN MAKES (R113, R224): elements that are not finite, lanes, and the mask. -/
namespace Sys2Proof.Machine
variable {acc : Acc} {toInt thr : Bool} {h : BitVec 128} {i j : Nat}

theorem drainEl_special (hw : acc.written.getLsbD i = true) (hm : acc.imode = false) :
    let x := vget acc.elem (64 * i + j) 0
    let r := drainEl acc toInt i j
    (elClass x = 1 → r.1 = fp32.inf false) ∧ (elClass x = 2 → r.1 = fp32.inf true) ∧ (elClass x = 3 → r.1 = fp32.nan) := by
  intro x r
  obtain ⟨-, hinf, hninf, hnan⟩ := elVal_class x (vget acc.exp i 0).toNat
  exact ⟨fun hc => congrArg Prod.fst (drainEl_class hw hm rfl (hinf hc)), fun hc => congrArg Prod.fst (drainEl_class hw hm rfl (hninf hc)),
    fun hc => congrArg Prod.fst (drainEl_class hw hm rfl (hnan hc))⟩

theorem drainTile_lane (hi : i < 16) (hj : j < 64) : (vget (drainTile acc toInt thr h).1.lanes (64 * i + j) 0).toNat =
    (drainTileCol acc toInt thr h j).getD i 0 % 2 ^ 32 := by
  rw [drainTile_eq]
  exact lanesOfCols_toNat _ hi hj
theorem drainTile_mask_iff (hh : isHaar acc.tag = true) (hi : i < 16) :
    (drainTile acc toInt thr h).1.mask.getLsbD i = true ↔ i < 16 / 2 ^ tagLevels acc.tag ∨
      ∃ j, j < 64 ∧ (vget (drainTile acc toInt thr h).1.lanes (64 * i + j) 0).toNat % 2 ^ 31 ≠ 0 := by
  have hlane (j : Nat) (hj : j < 64) : (vget (drainTile acc toInt thr h).1.lanes (64 * i + j) 0).toNat % 2 ^ 31 =
      (drainTileCol acc toInt thr h j).getD i 0 % 2 ^ 31 := by
    rw [drainTile_lane hi hj, Nat.mod_mod_of_dvd _ (pow_dvd_pow 2 (by decide))]
  have hmask : (drainTile acc toInt thr h).1.mask =
      survival (tagLevels acc.tag) ((List.range 64).map (drainTileCol acc toInt thr h)) := by
    rw [drainTile_eq]
    exact if_pos hh
  rw [hmask, survival_iff hi]
  refine or_congr_right ⟨?_, ?_⟩
  · rintro ⟨c, hc, h0⟩
    obtain ⟨j, hj, rfl⟩ := List.mem_map.mp hc
    have hj := List.mem_range.mp hj
    exact ⟨j, hj, by rwa [hlane j hj]⟩
  · rintro ⟨j, hj, h0⟩
    exact ⟨_, List.mem_map_of_mem (List.mem_range.mpr hj), by rwa [← hlane j hj]⟩
end Sys2Proof.Machine
end

section
/-! WHAT MDRNS MAKES (R225), from its options. -/
namespace Sys2Proof.Machine
variable {job : MJob} {u : Task} {a : BitVec 3} {opts : BitVec 5} {c i n : Nat}

theorem groupTag_job (W : Nat) : groupTag (drainAcc u a) W (drainLevels job opts) =
    if opts.getLsbD 1 then BitVec.ofNat 8 (1 + 4 * (job.s2.toNat / 256 % 8))
    else (List.range W).tail.foldl (fun t g => joinTag t (drainAcc u a g).tag) (drainAcc u a 0).tag := by
  unfold groupTag drainLevels
  split_ifs <;> rfl
theorem jobTag_eq : jobTag job u a opts =
    let tag := groupTag (drainAcc u a) (2 ^ (opts.toNat / 8)) (drainLevels job opts)
    if opts.getLsbD 0 = true ∧ isHaar tag = true then tag ||| 0x20 else tag := by
  have hthr : (drainThr job opts).isSome = opts.getLsbD 0 := by
    unfold drainThr
    cases opts.getLsbD 0 <;> rfl
  rw [jobTag, storedTag, hthr]
/-- Column c of a drain. -/
def jobCol (job : MJob) (u : Task) (a : BitVec 3) (opts : BitVec 5) (c : Nat) : List Nat :=
  groupCol (drainAcc u a) (2 ^ (opts.toNat / 8)) (drainLevels job opts) (drainThr job opts) c
theorem jobCol_eq : jobCol job u a opts c =
    let x := drainCol (drainAcc u a (c / 64)) false (c % 64)
    let y := if opts.getLsbD 1 then (haarFwd (job.s2.toNat / 256 % 8) x).1 else x
    if opts.getLsbD 0 then thresholdCol job.thr (tagLevels (jobTag job u a opts)) y else y := by
  rw [jobTag, storedTag_fields.2]
  unfold jobCol groupCol drainThr drainLevels
  split_ifs <;> rfl

theorem jobRow_getD (hc : c < 64 * 2 ^ (opts.toNat / 8)) : (jobRow job u a opts i).getD c 0 = (jobCol job u a opts c).getD i 0 :=
  getD_map_range _ hc 0
/-- Byte n of row i, from its column or its block. -/
theorem rowByte_job (hn : n < 256) : rowByte (opts.toNat / 8) (jobRow job u a opts i) n =
    if opts.toNat / 8 = 0 then (jobCol job u a opts (n / 4)).getD i 0 / 256 ^ (n % 4) % 256
    else if opts.toNat / 8 = 1 then (cvtFmt fp32 bf16 0 ((jobCol job u a opts (n / 2)).getD i 0)).1 / 256 ^ (n % 2) % 256
    else ((rowBlock (jobRow job u a opts i) (n / 128)).1.getD (n % 128) (0, 0)).1 % 256 := by
  unfold rowByte
  split_ifs with h0 h1
  · rw [jobRow_getD (by rw [h0]; omega)]
  · rw [jobRow_getD (by rw [h1]; omega)]
  · rfl
end Sys2Proof.Machine
end

namespace Sys2Proof.Machine
/-- Settles O43: a pass is a fold of steps that each rest on one row alone, so a row of its result is what its own steps make of it; an
update step rounds each exact sum on the least step that holds all; a drain goes element by element, column by column, and row by row. -/
theorem integerPassAddsDotProducts : Obligations.IntegerPassAddsDotProducts := by
  unfold Obligations.IntegerPassAddsDotProducts
  refine ⟨?_, ?_, ?_, ?_, ?_, ?_, ?_, ?_, ?_⟩
  · intro acc a b i j hi hj hn
    exact passInt_elem acc a b hi hj hn
  · intro acc i ts hi ht
    obtain ⟨hle, hless, hfull⟩ := rowUpdate_exponent (a := acc) hi ht
    obtain ⟨hfits, hover⟩ := rowUpdate_overflows (a := acc) hi ht
    exact ⟨hle, hless, hfull, fun j hl => rowUpdate_live_at hi ht hl, fun j hj hl => rowUpdate_not_live hi ht hj hl,
      fun n hn hne => rowUpdate_elem_other hn hne,
      fun k _ hk => by rw [rowUpdate_exp, vget_put_other _ _ _ _ _ hk], rowUpdate_written, rowUpdate_tag, rowUpdate_imode, hfits, hover⟩
  · intro acc a b levels i hi hn
    have h8 := pass8_row (acc := acc) (b := b) hi hn
    have h16 := pass16_row (acc := acc) (b := b) hi hn
    have hhaar := passHaar_row (acc := acc) (a := a) (b := b) hi levels
    simp only [vals8, vals16, valsHaar, List.map_map] at h8 h16 hhaar
    refine ⟨fun hm => ?_, fun hm => ?_, hhaar⟩
    · rw [if_pos hm] at h8 h16
      exact ⟨h8, h16⟩
    · rw [if_neg hm] at h8 h16
      exact ⟨h8, h16⟩
  · intro job acc t bbuf cl
    exact ⟨fun p n v s1 s2 o h => mma_operands h, fun p n v s1 s2 o h => mmat_operands h,
      fun p n s1 s2 o h => ⟨fun hb => by rw [hb]; exact passResult_mmas_none h, fun buf hb => by rw [hb]; exact mmas_operands h buf⟩,
      fun p n v s1 s2 o h => mmah_operands h⟩
  · exact fun levels k hk => rowWeight_eq levels hk
  · intro ps ws sa sb
    refine ⟨chunk8_special sa sb, chunk16_special ws, fun hfin hsmall => chunk8_finite sa sb hfin hsmall, fun hfin => ?_⟩
    exact ⟨chunk16_zero hfin, fun top hex hall => congrArg Val.rat (chunk16_finite hfin hex hall)⟩
  · intro acc toInt i j hi hj
    refine ⟨drainEl_unwritten, fun hw hm => ⟨fun ht => ?_, fun ht => ?_⟩, fun hw hm => ⟨drainEl_finite hw hm, drainEl_special hw hm⟩⟩
    · rw [drainEl_int hw hm, if_pos ht, satInt_32]
    · rw [drainEl_int hw hm, if_neg (Bool.eq_false_iff.mp ht)]
  · intro acc toInt thr h
    refine ⟨fun i j hi hj => drainTile_lane hi hj, ?_, ?_, fun hh => ?_, fun hh i hi => drainTile_mask_iff hh hi⟩
    · rw [drainTile_eq]
    · rw [drainTile_eq]
    · rw [drainTile_eq]
      exact if_neg (Bool.eq_false_iff.mp hh)
  · intro job u p a opts s1 s2 o h hef ef w acc hf levels tag0 tag col live row block byte writes base image
    have htag0 : tag0 = groupTag (drainAcc u a) w (drainLevels job opts) := by
      rw [groupTag_job]
      simp only [tag0, levels]
      split_ifs <;> rfl
    have htag : tag = jobTag job u a opts := by
      simp only [tag, htag0]
      exact jobTag_eq.symm
    have hcol : col = jobCol job u a opts := by
      funext c
      rw [jobCol_eq]
      simp only [col, htag, levels]
      split_ifs <;> rfl
    have hlive : live = JobLive job u a opts := by
      simp only [live, hcol, htag]
      rfl
    have hblock : block = fun i => rowBlock (jobRow job u a opts i) := by
      simp only [block, row, hcol]
      rfl
    have hbyte (i n : Nat) (hn : n < 256) : rowByte ef (jobRow job u a opts i) n = byte i n := by
      simp only [byte, hcol, hblock]
      exact rowByte_job hn
    rw [hlive, htag, hblock]
    refine ⟨fun hr => ?_, fun hr => ?_⟩
    · obtain ⟨hlen, hrows, himg⟩ := drainWrites_rows (u := u) h hef hr
      refine ⟨hlen, fun i hi => ?_, himg⟩
      obtain ⟨bs, hbs, hl, hget⟩ := hrows i hi
      exact ⟨bs, hbs, hl, fun n hn => ⟨fun hi => ((hget n hn).1 hi).trans (hbyte i n hn), (hget n hn).2⟩⟩
    · obtain ⟨bs, hbs, htag', hlv, hfmt, hmask, hnum, hlen, hsize, hzero, hpad, hset, hthr, hentry⟩ := drainWrites_record (u := u) h hef hr
      refine ⟨bs, hbs, htag', hlv, hfmt, hmask, hnum, hlen, hsize, hzero, hpad, fun h0 => ?_, fun h0 => ?_, fun i hi hl => ?_⟩
      · exact ⟨hset.trans (if_pos h0), hthr.trans (if_pos h0)⟩
      · have hne := Bool.eq_false_iff.mp h0
        exact ⟨hset.trans (if_neg hne), hthr.trans (if_neg hne)⟩
      · obtain ⟨hscale, hget⟩ := hentry i hi hl
        exact ⟨hscale, fun n hn => (hget n hn).trans (hbyte i n hn)⟩
end Sys2Proof.Machine
section
/-! THE INTEGER INSTRUCTIONS (R129, R130): their words, as arithmetic on the operands. -/
namespace Sys2Proof.Machine
variable {x y : Word}

theorem amount_eq (y : Word) : amount y = y.toNat % 64 := by simp [amount, fldN_eq]
theorem rotateLeft_amount (x y : Word) :
    x.rotateLeft (amount y) = x <<< (y.toNat % 64) ||| x >>> (64 - y.toNat % 64) := by
  rw [amount_eq, BitVec.rotateLeft_eq_rotateLeftAux_of_lt (Nat.mod_lt _ (by decide))]
  rfl

/-- The strict and the weak comparison choose the same of two words, which are one word when neither is the less. -/
theorem ite_lt_eq_ite_le {α β : Type} [LinearOrder β] {f : α → β} (hf : f.Injective) (x y : α) :
    (if f x < f y then x else y) = if f x ≤ f y then x else y := by
  split_ifs with hlt hle hle
  · rfl
  · exact absurd hlt.le hle
  · exact hf (le_antisymm (not_lt.mp hlt) hle)
  · rfl
theorem ite_lt_eq_ite_le' {α β : Type} [LinearOrder β] {f : α → β} (hf : f.Injective) (x y : α) :
    (if f x < f y then y else x) = if f x ≤ f y then y else x := by
  split_ifs with hlt hle hle
  · rfl
  · exact absurd hlt.le hle
  · exact hf (le_antisymm hle (not_lt.mp hlt))
  · rfl
theorem toInt_injective : (BitVec.toInt : Word → Int).Injective := fun _ _ => BitVec.eq_of_toInt_eq
theorem toNat_injective : (BitVec.toNat : Word → Nat).Injective := fun _ _ => BitVec.eq_of_toNat_eq

theorem lesserS_eq (x y : Word) : lesserS x y = if x.toInt ≤ y.toInt then x else y := by
  simp only [lesserS, BitVec.slt_eq_decide, decide_eq_true_eq]
  exact ite_lt_eq_ite_le toInt_injective x y
theorem greaterS_eq (x y : Word) : greaterS x y = if x.toInt ≤ y.toInt then y else x := by
  simp only [greaterS, BitVec.slt_eq_decide, decide_eq_true_eq]
  exact ite_lt_eq_ite_le' toInt_injective x y
theorem lesserZ_eq (x y : Word) : (if x.ult y then x else y) = if x.toNat ≤ y.toNat then x else y := by
  simp only [BitVec.ult_eq_decide, decide_eq_true_eq]
  exact ite_lt_eq_ite_le toNat_injective x y
theorem greaterZ_eq (x y : Word) : (if x.ult y then y else x) = if x.toNat ≤ y.toNat then y else x := by
  simp only [BitVec.ult_eq_decide, decide_eq_true_eq]
  exact ite_lt_eq_ite_le' toNat_injective x y

/-- Settles O12: each effect is the issue of the instruction's word; rotations, lesser and greater words by their lemmas. -/
theorem integerInstructionsGiveTheirResults : Obligations.IntegerInstructionsGiveTheirResults := by
  intro s p d a b imm x y n
  have hn : amount y = n := amount_eq y
  refine ⟨does_of _ _ _ _ rfl rfl, does_of _ _ _ _ rfl rfl, does_of _ _ _ _ rfl rfl, does_of _ _ _ _ rfl rfl,
    does_of _ _ _ _ rfl rfl, does_of _ _ _ _ rfl rfl, does_of _ _ _ _ rfl rfl, does_of _ _ _ _ rfl rfl,
    does_of _ _ _ _ rfl ?shl, does_of _ _ _ _ rfl ?shrs, does_of _ _ _ _ rfl ?shrz, does_of _ _ _ _ rfl ?rotl,
    does_of _ _ _ _ rfl ?mins, does_of _ _ _ _ rfl ?minz, does_of _ _ _ _ rfl ?maxs, does_of _ _ _ _ rfl ?maxz,
    does_of _ _ _ _ rfl rfl⟩
  case shl | shrs | shrz => rw [← hn]; rfl
  case rotl => exact congrArg (s.outS d · 2) (rotateLeft_amount x y)
  case mins => exact congrArg (s.outS d · 2) (lesserS_eq x y)
  case minz => exact congrArg (s.outS d · 2) (lesserZ_eq x y)
  case maxs => exact congrArg (s.outS d · 2) (greaterS_eq x y)
  case maxz => exact congrArg (s.outS d · 2) (greaterZ_eq x y)
end Sys2Proof.Machine
end
section
/-! HIGH PRODUCTS AND BIT COUNTS (R129): the high half of a product, and the places of a word's highest and lowest one bit. -/
namespace Sys2Proof.Machine
variable {x y : Word}

theorem extractLsb'_high_ofInt (p : Int) : (BitVec.ofInt 128 p).extractLsb' 64 64 = BitVec.ofInt 64 (p / 2 ^ 64) := by
  refine BitVec.eq_of_toNat_eq ?_
  rw [BitVec.extractLsb'_toNat, BitVec.toNat_ofInt, BitVec.toNat_ofInt, Nat.shiftRight_eq_div_pow]
  omega
theorem mulHighS_eq (x y : Word) : mulHighS x y = (x.signExtend 128 * y.signExtend 128).extractLsb' 64 64 := by
  rw [BitVec.signExtend, BitVec.signExtend, ← BitVec.ofInt_mul, extractLsb'_high_ofInt]
  rfl
theorem mulHighZ_eq (x y : Word) : mulHighZ x y = (x.zeroExtend 128 * y.zeroExtend 128).extractLsb' 64 64 := by
  have hx := x.isLt
  have hy := y.isLt
  have hlt : x.toNat * y.toNat < 2 ^ 128 := by
    calc x.toNat * y.toNat < 2 ^ 64 * 2 ^ 64 := Nat.mul_lt_mul'' hx hy
      _ = 2 ^ 128 := by norm_num
  refine BitVec.eq_of_toNat_eq ?_
  rw [mulHighZ, BitVec.extractLsb'_toNat, BitVec.toNat_mul, BitVec.toNat_setWidth, BitVec.toNat_setWidth,
    Nat.mod_eq_of_lt (hx.trans (by norm_num)), Nat.mod_eq_of_lt (hy.trans (by norm_num)), Nat.mod_eq_of_lt hlt,
    Nat.shiftRight_eq_div_pow, BitVec.toNat_ofNat]

/-- The one bits of a word with its negation: its lowest one bit alone. -/
theorem and_neg_eq_twoPow {k : Nat} (hk : x.getLsbD k = true) (hlow : ∀ j, j < k → x.getLsbD j = false) :
    x &&& -x = BitVec.twoPow 64 k := by
  have hlt : k < 64 := BitVec.lt_of_getLsbD hk
  refine BitVec.eq_of_getLsbD_eq fun i hi => ?_
  rw [BitVec.getLsbD_and, BitVec.getLsbD_neg, BitVec.getLsbD_twoPow, decide_eq_true hi, decide_eq_true hlt, Bool.true_and,
    Bool.true_and]
  rcases lt_trichotomy i k with h | rfl | h
  · rw [hlow i h, decide_eq_false h.ne', Bool.false_and]
  · have hnone : ¬ ∃ j, j < i ∧ x.getLsbD j = true := fun ⟨j, hj, hx⟩ => by simp [hlow j hj] at hx
    rw [hk, decide_eq_false hnone, decide_eq_true rfl]
    rfl
  · rw [decide_eq_true ⟨k, h, hk⟩, decide_eq_false h.ne]
    cases x.getLsbD i <;> rfl

theorem leadingZeros_spec (hx : x ≠ 0) : leadingZeros x < 64 ∧ x.getLsbD (63 - leadingZeros x) = true ∧
    ∀ i, 63 - leadingZeros x < i → x.getLsbD i = false := by
  have h0 : x.toNat ≠ 0 := toNat_ne_zero hx
  have hlog : x.toNat.log2 < 64 := (Nat.log2_lt h0).mpr x.isLt
  have hlead : 63 - leadingZeros x = x.toNat.log2 := by
    rw [leadingZeros, if_neg hx]
    omega
  refine ⟨by rw [leadingZeros, if_neg hx]; omega, ?_, fun i hi => ?_⟩
  · rw [hlead]
    exact Nat.testBit_log2 h0
  · rw [hlead] at hi
    exact Nat.testBit_lt_two_pow ((Nat.log2_lt h0).mp hi)

theorem trailingZeros_spec (hx : x ≠ 0) : trailingZeros x < 64 ∧ x.getLsbD (trailingZeros x) = true ∧
    ∀ i, i < trailingZeros x → x.getLsbD i = false := by
  have hone : ∃ k, x.getLsbD k = true := by
    by_contra h
    exact hx (BitVec.eq_of_getLsbD_eq fun i _ => by simpa using fun hi => h ⟨i, hi⟩)
  have hk : x.getLsbD (Nat.find hone) = true := Nat.find_spec hone
  have hlow : ∀ j, j < Nat.find hone → x.getLsbD j = false := fun j hj => by simpa using Nat.find_min hone hj
  have hlt : Nat.find hone < 64 := BitVec.lt_of_getLsbD hk
  have htrail : trailingZeros x = Nat.find hone := by
    have hneg : 0 - x = -x := BitVec.zero_sub x
    rw [trailingZeros, if_neg hx, hneg, and_neg_eq_twoPow hk hlow, BitVec.toNat_twoPow_of_lt hlt, Nat.log2_two_pow]
  rw [htrail]
  exact ⟨hlt, hk, hlow⟩

/-- Settles O13: the high products by `mulHighS_eq` and `mulHighZ_eq`, the counts by the place of the highest and the lowest one bit. -/
theorem highProductsAndBitCounts : Obligations.HighProductsAndBitCounts := by
  refine ⟨fun s p d a b => ⟨does_of _ _ _ _ rfl (congrArg (s.outS d · 4) (mulHighS_eq _ _)),
    does_of _ _ _ _ rfl (congrArg (s.outS d · 4) (mulHighZ_eq _ _))⟩, fun s p d a => ?_⟩
  intro x
  refine ⟨leadingZeros x, trailingZeros x, popcount 64 x.toNat, does_of _ _ _ _ rfl rfl, does_of _ _ _ _ rfl rfl,
    does_of _ _ _ _ rfl rfl, fun hx => ⟨if_pos hx, if_pos hx⟩, fun hx => ?_, popcount_eq 64 x.toNat⟩
  obtain ⟨hl, hlbit, hlhigh⟩ := leadingZeros_spec hx
  obtain ⟨ht, htbit, htlow⟩ := trailingZeros_spec hx
  exact ⟨hl, hlbit, hlhigh, ht, htbit, htlow⟩
end Sys2Proof.Machine
end
section
/-! DIVISIONS (R131): quotient and remainder, their corners, and the bound of a division. -/
namespace Sys2Proof.Machine
variable {x y : Word}

theorem quotient_zero (signed : Bool) (x : Word) : quotient signed x 0 = -1 := if_pos rfl
theorem remainder_zero (signed : Bool) (x : Word) : remainder signed x 0 = x := if_pos rfl

theorem toInt_ofInt_of_natAbs {q : Int} (h : q.natAbs < 2 ^ 63 ∨ q = -2 ^ 63) : (BitVec.ofInt 64 q).toInt = q :=
  BitVec.toInt_ofInt_eq_self (by decide) (by omega) (by omega)
theorem natAbs_toInt_le (x : Word) : x.toInt.natAbs ≤ 2 ^ 63 := by
  have := BitVec.le_toInt x
  have := BitVec.toInt_lt (x := x)
  omega
theorem toInt_ne_zero (hy : y ≠ 0) : y.toInt ≠ 0 := fun h => hy (BitVec.eq_of_toInt_eq (by rw [h]; rfl))

/-- The signed quotient is below 2^63 in magnitude, or it is -2^63; but for the corner of R131. -/
theorem tdiv_bound (hy : y ≠ 0) (hc : ¬(x.toInt = -2 ^ 63 ∧ y.toInt = -1)) :
    (x.toInt.tdiv y.toInt).natAbs < 2 ^ 63 ∨ x.toInt.tdiv y.toInt = -2 ^ 63 := by
  have hx := natAbs_toInt_le x
  have hlt : x.toInt < 2 ^ 63 := BitVec.toInt_lt
  have hy0 := toInt_ne_zero hy
  by_cases h1 : y.toInt.natAbs = 1
  · rcases Int.natAbs_eq_iff.mp h1 with h | h
    · have hd : x.toInt.tdiv y.toInt = x.toInt := by rw [h]; exact Int.tdiv_one _
      omega
    · have hd : x.toInt.tdiv y.toInt = -x.toInt := by rw [h]; exact (Int.tdiv_neg _ 1).trans (by rw [Int.tdiv_one])
      omega
  · left
    rw [Int.natAbs_tdiv]
    have h2 : 2 ≤ y.toInt.natAbs := by omega
    calc x.toInt.natAbs / y.toInt.natAbs ≤ x.toInt.natAbs / 2 := Nat.div_le_div_left h2 two_pos
      _ < 2 ^ 63 := by omega
theorem toInt_quotient (hy : y ≠ 0) (hc : ¬(x.toInt = -2 ^ 63 ∧ y.toInt = -1)) :
    (quotient true x y).toInt = x.toInt.tdiv y.toInt := by
  rw [quotient, if_neg hy, if_pos rfl, toInt_ofInt_of_natAbs (tdiv_bound hy hc)]
theorem natAbs_tmod_lt (x : Int) (hy : y ≠ 0) : (x.tmod y.toInt).natAbs < y.toInt.natAbs := by
  rw [Int.natAbs_tmod]
  exact Nat.mod_lt _ (Int.natAbs_pos.mpr (toInt_ne_zero hy))
theorem toInt_remainder (hy : y ≠ 0) : (remainder true x y).toInt = x.toInt.tmod y.toInt := by
  have h := natAbs_tmod_lt x.toInt hy
  have := natAbs_toInt_le y
  rw [remainder, if_neg hy, if_pos rfl, toInt_ofInt_of_natAbs (.inl (by omega))]

/-- -2^63 by -1: the quotient does not fit, and is A again. -/
theorem quotient_corner (hx : x.toInt = -2 ^ 63) (hy : y.toInt = -1) : quotient true x y = x ∧ remainder true x y = 0 := by
  have hx' : x = BitVec.ofInt 64 (-2 ^ 63) := BitVec.eq_of_toInt_eq (by rw [hx]; decide)
  have hy' : y = BitVec.ofInt 64 (-1) := BitVec.eq_of_toInt_eq (by rw [hy]; decide)
  subst hx' hy'
  decide

/-- A remainder that is not 0 has the sign of the dividend. -/
theorem tmod_neg_iff {a b : Int} (h : a.tmod b ≠ 0) : a.tmod b < 0 ↔ a < 0 := by
  constructor
  · intro hneg
    by_contra ha
    exact absurd (Int.tmod_nonneg b (not_lt.mp ha)) (not_le.mpr hneg)
  · intro ha
    have hn : 0 ≤ (-a).tmod b := Int.tmod_nonneg b (by omega)
    rw [Int.neg_tmod] at hn
    omega

theorem divBound_of_none {s : State} (h : ∀ q ∈ s.me.inflight, q.early ≠ 2) : divBound s = 40 := by
  have hfold : ∀ (l : List Pending) (m : Nat), (∀ q ∈ l, q.early ≠ 2) →
      l.foldl (fun m q => if q.early = 2 then max m q.due else m) m = m := by
    intro l
    induction l with
    | nil => exact fun _ _ => rfl
    | cons p l ih =>
      intro m hl
      rw [List.forall_mem_cons] at hl
      rw [List.foldl_cons, if_neg hl.1, ih m hl.2]
  rw [divBound, hfold _ _ h]
  omega

/-- Settles O14: quotient and remainder are those of truncating division, which fit a word but for the corner. -/
theorem divisionsGiveQuotientAndRemainder : Obligations.DivisionsGiveQuotientAndRemainder := by
  intro s p d a b x y gives
  refine ⟨quotient true x y, remainder true x y, quotient false x y, remainder false x y,
    fun ha => ⟨divBound s, settle_acting _ _ s ha, divBound_of_none⟩, fun ha => ⟨divBound s, settle_acting _ _ s ha, divBound_of_none⟩,
    fun ha => ⟨divBound s, settle_acting _ _ s ha, divBound_of_none⟩, fun ha => ⟨divBound s, settle_acting _ _ s ha, divBound_of_none⟩,
    fun hy => ?_, quotient_corner, fun hy => ?_, fun hy hc => ?_⟩
  · rw [hy]
    exact ⟨quotient_zero _ x, quotient_zero _ x, remainder_zero _ x, remainder_zero _ x⟩
  · have hpos : 0 < y.toNat := Nat.pos_of_ne_zero (toNat_ne_zero hy)
    simp only [quotient, remainder, hy, if_false, Bool.false_eq_true, BitVec.toNat_udiv, BitVec.toNat_umod]
    exact ⟨(Nat.div_add_mod' _ _).symm, Nat.mod_lt _ hpos⟩
  · rw [toInt_quotient hy hc, toInt_remainder hy]
    refine ⟨(Int.tdiv_mul_add_tmod ..).symm, natAbs_tmod_lt _ hy, fun hr => tmod_neg_iff fun h0 => hr ?_⟩
    exact BitVec.eq_of_toInt_eq (by rw [toInt_remainder hy, h0]; rfl)
end Sys2Proof.Machine
end
section
/-! BIT FIELDS (R132, R134): which bits of a word a mask, a field and a replaced field have. -/
namespace Sys2Proof
theorem putFld_getLsbD {n lo len x i : Nat} (w : BitVec n) (hi : i < n) : (putFld lo len x w).getLsbD i =
    if lo ≤ i ∧ i < lo + len then x.testBit (i - lo) else w.getLsbD i := by
  have hn : i - lo < n := by omega
  simp only [putFld, BitVec.getLsbD_or, BitVec.getLsbD_and, BitVec.getLsbD_not, BitVec.getLsbD_shiftLeft, BitVec.getLsbD_ofNat,
    Nat.testBit_two_pow_sub_one, Nat.testBit_mod_two_pow, hi, hn, decide_true, Bool.true_and]
  by_cases hlo : i < lo
  · simp [hlo, not_le.mpr hlo]
  · have hlen : i - lo < len ↔ i < lo + len := by omega
    by_cases hin : i < lo + len
    · simp [hlo, hin, hlen, not_lt.mp hlo]
    · simp [hlo, hin, hlen]
end Sys2Proof

namespace Sys2Proof.Machine
variable {a b d : Word} {i : Nat}

theorem bfLow_eq (b : Word) : bfLow b = b.toNat % 64 := by simp [bfLow, fldN_eq]
theorem bfWidth_eq (b : Word) : bfWidth b = min (min (b.toNat / 256 % 128) 64) (64 - b.toNat % 64) := by
  simp [bfWidth, bfLow_eq, fldN_eq]
theorem ones_getLsbD {w : Nat} (hi : i < 64) : (ones w).getLsbD i = decide (i < w) := by
  rw [ones, BitVec.getLsbD_ofNat, Nat.testBit_two_pow_sub_one, decide_eq_true hi, Bool.true_and]

/-- The field of B in A, before it is extended. -/
theorem field_getLsbD (hi : i < 64) : ((a >>> bfLow b) &&& ones (bfWidth b)).getLsbD i =
    (a.getLsbD (bfLow b + i) && decide (i < bfWidth b)) := by
  rw [BitVec.getLsbD_and, BitVec.getLsbD_ushiftRight, ones_getLsbD hi]
theorem bfExtract_zero (sx : Bool) (h : bfWidth b = 0) : bfExtract a b sx = 0 := if_pos h
theorem bfExtract_getLsbD (sx : Bool) (hi : i < 64) (hw : 0 < bfWidth b) : (bfExtract a b sx).getLsbD i =
    if i < bfWidth b then a.getLsbD (bfLow b + i) else sx && a.getLsbD (bfLow b + bfWidth b - 1) := by
  have hle : bfWidth b ≤ 64 := by rw [bfWidth_eq]; omega
  have htop : bitAt (bfWidth b - 1) ((a >>> bfLow b) &&& ones (bfWidth b)) = a.getLsbD (bfLow b + bfWidth b - 1) := by
    rw [bitAt, field_getLsbD (by omega), decide_eq_true (by omega), Bool.and_true, Nat.add_sub_assoc hw]
  have hext : bfExtract a b sx = if sx && a.getLsbD (bfLow b + bfWidth b - 1) then
      ((a >>> bfLow b) &&& ones (bfWidth b)) ||| ~~~ ones (bfWidth b) else (a >>> bfLow b) &&& ones (bfWidth b) := by
    rw [← htop]
    exact if_neg hw.ne'
  rw [hext]
  cases sx && a.getLsbD (bfLow b + bfWidth b - 1)
  case true =>
    rw [if_pos rfl, BitVec.getLsbD_or, field_getLsbD hi, BitVec.getLsbD_not, ones_getLsbD hi, decide_eq_true hi]
    by_cases h : i < bfWidth b <;> simp [h]
  case false =>
    rw [if_neg Bool.false_ne_true, field_getLsbD hi]
    by_cases h : i < bfWidth b <;> simp [h]
theorem bfInsert_getLsbD (hi : i < 64) : (bfInsert d a b).getLsbD i =
    if bfLow b ≤ i ∧ i < bfLow b + bfWidth b then a.getLsbD (i - bfLow b) else d.getLsbD i := by
  simp only [bfInsert, BitVec.getLsbD_or, BitVec.getLsbD_and, BitVec.getLsbD_not, BitVec.getLsbD_shiftLeft,
    ones_getLsbD (w := bfWidth b) (show i - bfLow b < 64 by omega), decide_eq_true hi, Bool.true_and]
  by_cases hlo : i < bfLow b
  · simp [hlo, not_le.mpr hlo]
  · have hsub : i - bfLow b < bfWidth b ↔ i < bfLow b + bfWidth b := by omega
    by_cases hin : i < bfLow b + bfWidth b
    · simp [hlo, hin, hsub, not_lt.mp hlo]
    · simp [hlo, hin, hsub]
theorem bfInsert_zero (h : bfWidth b = 0) : bfInsert d a b = d :=
  BitVec.eq_of_getLsbD_eq fun i hi => by rw [bfInsert_getLsbD hi, if_neg (by omega)]

/-- Settles O15: the field bit by bit, extracted by `bfExtract_getLsbD` and inserted by `bfInsert_getLsbD`. -/
theorem bitFieldsExtractAndInsert : Obligations.BitFieldsExtractAndInsert := by
  intro s p d a b sx lo w
  have hlo : bfLow (s.rs b) = lo := bfLow_eq _
  have hw : bfWidth (s.rs b) = w := bfWidth_eq _
  refine ⟨bfExtract (s.rs a) (s.rs b) sx, bfInsert (s.rs d) (s.rs a) (s.rs b), does_of _ _ _ _ rfl rfl, does_of _ _ _ _ rfl rfl,
    fun h0 => ⟨bfExtract_zero sx (hw.trans h0), bfInsert_zero (hw.trans h0)⟩, fun i hi hpos => ?_⟩
  rw [bfExtract_getLsbD sx hi (hw ▸ hpos), bfInsert_getLsbD hi, hlo, hw]
  exact ⟨rfl, rfl⟩
end Sys2Proof.Machine
end
section
/-! MOVES, SCALED SUMS AND TENSOR INDICES (R133 to R135, R138, R139). -/
namespace Sys2Proof.Machine

theorem shiftLeft_eq_ofNat (x : Word) (n : Nat) : x <<< n = BitVec.ofNat 64 (x.toNat * 2 ^ n) :=
  BitVec.eq_of_toNat_eq (by rw [BitVec.toNat_shiftLeft, Nat.shiftLeft_eq, BitVec.toNat_ofNat])
theorem zeroExtend_fld_eq (lo len : Nat) (w : Word) :
    (fld lo len w).zeroExtend 64 = BitVec.ofNat 64 (w.toNat / 2 ^ lo % 2 ^ len) := by
  rw [← fldN_eq, fldN, BitVec.ofNat_toNat]
  rfl

/-- The coordinates of A and B, and the strides of a staging group. -/
theorem tensorIndex_eq (e : Nat → Word) (a b : Word) :
    let coord := fun n => if n < 4 then a.toNat / 65536 ^ n % 65536 else b.toNat / 65536 ^ (n - 4) % 65536
    let stride := fun n => (e (n / 2)).toNat / (2 ^ 32) ^ (n % 2) % 2 ^ 32
    tensorIndex e a b = BitVec.ofNat 64 ((e 3).toNat + ((List.range 6).map fun n => coord n * stride n).sum) := by
  simp only [tensorIndex, zeroExtend_fld_eq, ← BitVec.ofNat_mul]
  rw [show e 3 = BitVec.ofNat 64 (e 3).toNat from (by simp)]
  simp only [← BitVec.ofNat_add]
  simp [List.range_succ, add_assoc]

/-- Settles O16: MOVHI by `putFld_getLsbD`, LEA as a product, TIDX by `tensorIndex_eq`. -/
theorem movesSelectsAndScaledSums : Obligations.MovesSelectsAndScaledSums := by
  refine ⟨fun s p n d a b imm q val => ⟨does_of _ _ _ _ rfl rfl,
    ⟨putFld (16 * q.toNat) 16 val.toNat (s.rs d), does_of _ _ _ _ rfl rfl, fun i hi => putFld_getLsbD _ hi⟩,
    does_of _ _ _ _ rfl rfl, does_of _ _ _ _ rfl ?lea⟩, fun s p d a b g => does_of _ _ _ _ rfl ?tidx⟩
  case lea => exact congrArg (fun w => s.outS d (s.rs a + w) 2) (shiftLeft_eq_ofNat _ _)
  case tidx => exact congrArg (s.outS d · 2) (tensorIndex_eq (fun n => vget s.src.e (4 * g.toNat + n) 0) (s.rs a) (s.rs b))

/-- Settles O17: each comparison of `compareInt` decides its relation. -/
theorem conditionsCompareAndCombine : Obligations.ConditionsCompareAndCombine := by
  intro s p cd ca cb a b x y
  refine ⟨does_of _ _ _ _ rfl rfl, does_of _ _ _ _ rfl ?ne, does_of _ _ _ _ rfl rfl, does_of _ _ _ _ rfl rfl,
    does_of _ _ _ _ rfl rfl, does_of _ _ _ _ rfl rfl, does_of _ _ _ _ rfl ?any, does_of _ _ _ _ rfl rfl,
    does_of _ _ _ _ rfl rfl, does_of _ _ _ _ rfl rfl⟩
  case ne => exact congrArg (s.outC cd · 0 2) (decide_not (p := x = y)).symm
  case any => exact congrArg (s.outC cd · 0 2) (decide_not (p := x &&& y = 0)).symm
end Sys2Proof.Machine
end
section
/-! SLATE LOADS, STORES AND ATOMICS (R140, R142): the bytes of a word in Slate, and a load's extension. -/
namespace Sys2Proof.Machine
variable {cl : Cluster} {x : Word} {ea i n : Nat}

theorem slNum_lt (cl : Cluster) (ea n : Nat) : slNum cl ea n < 256 ^ n := by
  have h := ofBytes_lt (slRead cl ea n)
  rwa [slRead_length] at h
/-- Bit j of byte i of the number that Slate bytes hold. -/
theorem slNum_testBit {j : Nat} (hi : i < n) (hj : j < 8) : (slNum cl ea n).testBit (8 * i + j) = (slGet cl (ea + i)).getLsbD j := by
  have hbyte := ofBytes_div (slRead cl ea n) i (by rwa [slRead_length])
  rw [slRead_getD cl hi] at hbyte
  have hbit : (slGet cl (ea + i)).toNat.testBit j = (slNum cl ea n / 256 ^ i % 2 ^ 8).testBit j := by rw [← hbyte]; rfl
  rw [BitVec.getLsbD, hbit, Nat.testBit_mod_two_pow, decide_eq_true hj, Bool.true_and, show (256 : Nat) ^ i = 2 ^ (8 * i) from
    (pow_mul 2 8 i).symm, Nat.testBit_div_two_pow, add_comm]
theorem extractByte_getLsbD {j : Nat} (hj : j < 8) : (x.extractLsb' (8 * i) 8).getLsbD j = x.getLsbD (8 * i + j) := by
  rw [BitVec.getLsbD_extractLsb', decide_eq_true hj, Bool.true_and]

/-- A word of n bytes holds a byte of Slate at each of its places. -/
theorem extractByte_eq_slGet (hi : i < n) (hx : ∀ j, j < 8 * n → x.getLsbD j = (slNum cl ea n).testBit j) :
    x.extractLsb' (8 * i) 8 = slGet cl (ea + i) :=
  BitVec.eq_of_getLsbD_eq fun j hj => by rw [extractByte_getLsbD hj, hx _ (by omega), slNum_testBit hi hj]

theorem bytesOf_getD_eq (hi : i < n) : (bytesOf n x.toNat).getD i 0 = x.extractLsb' (8 * i) 8 := by
  rw [bytesOf_getD n _ i hi]
  refine BitVec.eq_of_toNat_eq ?_
  rw [BitVec.toNat_ofNat, BitVec.extractLsb'_toNat, Nat.shiftRight_eq_div_pow, pow_mul]
  norm_num
theorem slGet_slWrite_word (hi : i < n) : slGet (slWrite cl ea (bytesOf n x.toNat)) (ea + i) = x.extractLsb' (8 * i) 8 := by
  rw [slGet_write_in _ _ _ _ (by rwa [bytesOf_length]), bytesOf_getD_eq hi]
theorem slGet_slWrite_word_out {y : Nat} (h : y < ea ∨ ea + n ≤ y) : slGet (slWrite cl ea (bytesOf n x.toNat)) y = slGet cl y :=
  slGet_write_out _ _ _ _ (by rwa [bytesOf_length])

/-- A sign-extended number, as a word. -/
theorem ofInt_toSigned {k : Nat} (hk : 0 < k) (x : Nat) : BitVec.ofInt 64 (toSigned k x) = (BitVec.ofNat k x).signExtend 64 := by
  have htwo : 2 ^ k = 2 * 2 ^ (k - 1) := by rw [← pow_succ', Nat.sub_add_cancel hk]
  rw [BitVec.signExtend, BitVec.toInt, BitVec.toNat_ofNat, toSigned]
  refine congrArg (BitVec.ofInt 64) (if_congr ?_ rfl rfl)
  omega
theorem loadValue_getLsbD {sz : BitVec 2} {sx : Bool} {w : Nat} (hw : w < 256 ^ 2 ^ sz.toNat) (hi : i < 64) :
    (loadValue sz sx w).getLsbD i =
      if i < 8 * 2 ^ sz.toNat then w.testBit i else sx && w.testBit (8 * 2 ^ sz.toNat - 1) := by
  have hpos : 0 < 2 ^ sz.toNat := Nat.two_pow_pos _
  cases sx
  case true =>
    have htop : (BitVec.ofNat (8 * 2 ^ sz.toNat) w).msb = w.testBit (8 * 2 ^ sz.toNat - 1) := by
      rw [BitVec.msb_eq_getLsbD_last, BitVec.getLsbD_ofNat, decide_eq_true (by omega), Bool.true_and]
    rw [loadValue, if_pos rfl, ofInt_toSigned (by omega), BitVec.getLsbD_signExtend, decide_eq_true hi, Bool.true_and, htop,
      Bool.true_and]
    split_ifs with h
    · rw [BitVec.getLsbD_ofNat, decide_eq_true h, Bool.true_and]
    · rfl
  case false =>
    rw [loadValue, if_neg Bool.false_ne_true, BitVec.getLsbD_ofNat, decide_eq_true hi, Bool.true_and, Bool.false_and]
    split_ifs with h
    · rfl
    · refine Nat.testBit_lt_two_pow (hw.trans_le ?_)
      rw [show (256 : Nat) = 2 ^ 8 from rfl, ← pow_mul]
      exact Nat.pow_le_pow_right two_pos (not_lt.mp h)

theorem ldsAddr_eq (s : State) (a : BitVec 6) (sz : BitVec 2) (imm : BitVec 10) :
    ldsAddr s a sz imm = (s.rs a + imm.signExtend 64 * BitVec.ofNat 64 (2 ^ sz.toNat)).toNat := by
  have hshift : sext64 imm <<< sz.toNat = imm.signExtend 64 * BitVec.ofNat 64 (2 ^ sz.toNat) := by
    refine BitVec.eq_of_toNat_eq ?_
    rw [BitVec.toNat_shiftLeft, BitVec.toNat_mul, BitVec.toNat_ofNat, Nat.shiftLeft_eq, Nat.mul_mod_mod]
    rfl
  rw [ldsAddr, hshift]

/-- Settles O18: a load's bits by `loadValue_getLsbD`, a store's bytes by the laws of `slWrite`. -/
theorem slateLoadsAndStores : Obligations.SlateLoadsAndStores := by
  intro s p d a sz sx fb imm n ea k
  have hea : ldsAddr s a sz imm = ea := ldsAddr_eq s a sz imm
  have hn : 0 < n := Nat.two_pow_pos _
  refine ⟨⟨loadValue sz sx (slNum (s.cl k) ea n), does_of _ _ _ _ rfl (by rw [hea]; rfl), fun i hi => ?_, fun i hlo hi => ?_⟩,
    fun ha => ⟨slWrite (s.cl k) ea (bytesOf n (s.rs d).toNat), ?_, fun i hi => slGet_slWrite_word hi,
      fun x hx => slGet_slWrite_word_out hx, slWrite_lineEmpty .., ?_, ?_⟩⟩
  · have hsz : n ≤ 8 := Nat.pow_le_pow_right two_pos (show sz.toNat ≤ 3 by omega)
    refine extractByte_eq_slGet hi fun j hj => ?_
    rw [loadValue_getLsbD (slNum_lt ..) (by omega), if_pos hj]
  · have htop := slNum_testBit (cl := s.cl k) (ea := ea) (show n - 1 < n by omega) (show 7 < 8 by decide)
    rw [loadValue_getLsbD (slNum_lt ..) hi, if_neg (not_lt.mpr hlo), show 8 * 2 ^ sz.toNat - 1 = 8 * (n - 1) + 7 by omega, htop,
      Nat.add_sub_assoc hn]
  · rw [← hea]
    exact settle_acting _ _ s ha
  all_goals
    obtain ⟨m, u, p, hrest⟩ := slWrite_rest (s.cl k) ea (bytesOf n (s.rs d).toNat)
    rw [hrest]

/-- Settles O19: the old word is the number at the address, the new one `atomicNew` of it, written as a word. -/
theorem slateAtomics : Obligations.SlateAtomics := by
  intro s p op d a b hop ha ea k
  let old : Word := BitVec.ofNat 64 (slNum (s.cl k) ea 8)
  let new : Word := atomicNew op.toNat old (s.rs b) (s.rs d)
  refine ⟨old, new, slWrite (s.cl k) ea (bytesOf 8 new.toNat), settle_acting _ _ s ha,
    fun i hi => ⟨extractByte_eq_slGet hi fun j hj => ?_, slGet_slWrite_word hi⟩, fun x hx => slGet_slWrite_word_out hx,
    slWrite_lineEmpty .., ?_⟩
  · rw [BitVec.getLsbD_ofNat, decide_eq_true (by omega), Bool.true_and]
  · refine ⟨?_, ?_, ?_, ?_, ?_, ?_, ?_⟩ <;> rintro rfl
    case refine_2 => exact lesserS_eq _ _
    case refine_3 => exact greaterS_eq _ _
    all_goals rfl
end Sys2Proof.Machine
end
section
/-!
CONTROL REGISTERS (R30, R31, R34, R51, R144 to R146, R309): what a read rests on, and what a write makes of each register.
-/
namespace Sys2Proof.Machine
variable {t u : Task} {cycle ticks k n : Nat} {w : Word}

-- Halves of a 128-bit register.

theorem half_getLsbD (x : BitVec 128) (k : Nat) {i : Nat} (hi : i < 64) : (half x k).getLsbD i = x.getLsbD (64 * (k % 2) + i) := by
  rw [half, fld, BitVec.getLsbD_extractLsb', decide_eq_true hi, Bool.true_and]
theorem half_putHalf_self (x : BitVec 128) (k : Nat) (w : Word) : half (putHalf x k w) k = w := by
  refine BitVec.eq_of_getLsbD_eq fun i hi => ?_
  rw [half_getLsbD _ _ hi, putHalf, putFld_getLsbD _ (by omega), if_pos (by omega), Nat.add_sub_cancel_left]
  rfl
theorem half_putHalf_other (x : BitVec 128) {j k : Nat} (h : j % 2 ≠ k % 2) (w : Word) : half (putHalf x k w) j = half x j := by
  refine BitVec.eq_of_getLsbD_eq fun i hi => ?_
  rw [half_getLsbD _ _ hi, half_getLsbD _ _ hi, putHalf, putFld_getLsbD _ (by omega), if_neg (by omega)]
/-- One of the halves of some 128-bit registers is written. -/
theorem half_vput_other {r b : Nat} (v : Vector (BitVec 128) r) (x : Word) (hn : b ≤ n) (hk : b ≤ k) (hb : b % 2 = 0) (h : k ≠ n) :
    half (vget (vput v ((n - b) / 2) (putHalf (vget v ((n - b) / 2) 0) n x)) ((k - b) / 2) 0) k = half (vget v ((k - b) / 2) 0) k := by
  by_cases hreg : (k - b) / 2 = (n - b) / 2
  · by_cases hin : (n - b) / 2 < r
    · rw [hreg, vget_put_self _ _ _ _ hin, half_putHalf_other _ (by omega)]
    · rw [hreg, vget, vget, dif_neg hin, dif_neg hin]
  · rw [vget_put_other _ _ _ _ _ hreg]
theorem half_vput_self {r b : Nat} (v : Vector (BitVec 128) r) (x : Word) (hn : (n - b) / 2 < r) :
    half (vget (vput v ((n - b) / 2) (putHalf (vget v ((n - b) / 2) 0) n x)) ((n - b) / 2) 0) n = x := by
  rw [vget_put_self _ _ _ _ hn, half_putHalf_self]

-- What a read rests on.

/-- The part of a task on which the read of register k rests is the same. -/
structure SameAt (k : Nat) (t u : Task) : Prop where
  ident : (u.taskid, u.groupid, u.clusterid, u.pkgid, u.meshpos, u.prio, u.slbase, u.slsize, u.domain, u.cbells, u.pbells, u.mbells,
    u.savebase, u.crdepth, u.crlevel) = (t.taskid, t.groupid, t.clusterid, t.pkgid, t.meshpos, t.prio, t.slbase, t.slsize, t.domain,
    t.cbells, t.pbells, t.mbells, t.savebase, t.crdepth, t.crlevel) := by rfl
  flags : k = 0x10 → u.flags = t.flags := by exact fun _ => rfl
  rmode : k = 0x11 → u.rmode = t.rmode := by exact fun _ => rfl
  mrepleft : k = 0x12 → u.mrepleft = t.mrepleft := by exact fun _ => rfl
  ldepth : k = 0x13 → u.ldepth = t.ldepth := by exact fun _ => rfl
  lcount : 0x14 ≤ k → vget u.lcount (k - 0x14) 0 = vget t.lcount (k - 0x14) 0 := by exact fun _ => rfl
  lstride : 0x1A ≤ k → vget u.lstride (k - 0x1A) 0 = vget t.lstride (k - 0x1A) 0 := by exact fun _ => rfl
  lbody : 0x20 ≤ k → vget u.lbody (k - 0x20) 0 = vget t.lbody (k - 0x20) 0 := by exact fun _ => rfl
  segid : k = 0x26 → u.segid = t.segid := by exact fun _ => rfl
  segcount : k = 0x27 → u.segcount = t.segcount := by exact fun _ => rfl
  segsig : k = 0x28 → u.segsig = t.segsig := by exact fun _ => rfl
  trapcause : k = 0x30 → u.trapcause = t.trapcause := by exact fun _ => rfl
  trappc : k = 0x31 → u.trappc = t.trappc := by exact fun _ => rfl
  trapinfo : k = 0x32 → u.trapinfo = t.trapinfo := by exact fun _ => rfl
  mrx : 0x35 ≤ k → vget u.mrx (k - 0x35) 0 = vget t.mrx (k - 0x35) 0 := by exact fun _ => rfl
  h : 0x40 ≤ k → half (vget u.h ((k - 0x40) / 2) 0) k = half (vget t.h ((k - 0x40) / 2) 0) k := by exact fun _ => rfl
  m : 0x50 ≤ k → half (vget u.m ((k - 0x50) / 2) 0) k = half (vget t.m ((k - 0x50) / 2) 0) k := by exact fun _ => rfl
  e : 0x70 ≤ k → vget u.e (k - 0x70) 0 = vget t.e (k - 0x70) 0 := by exact fun _ => rfl

theorem SameAt.refl (k : Nat) (t : Task) : SameAt k t t := {}
theorem SameAt.ite {c : Prop} [Decidable c] {x y : Task} (hx : c → SameAt k t x) (hy : ¬ c → SameAt k t y) :
    SameAt k t (if c then x else y) := by
  split
  · exact hx ‹_›
  · exact hy ‹_›

theorem crRead_of_sameAt (s : SameAt k t u) (hl : k ≠ 0x2F ∧ k ≠ 0x3E ∧ k ≠ 0x3F) :
    crRead u cycle ticks k = crRead t cycle ticks k := by
  have hi := s.ident
  simp only [Prod.mk.injEq] at hi
  obtain ⟨h0, h1, h2, h3, h4, h5, h6, h7, h8, h9, h10, h11, h12, h13, h14⟩ := hi
  obtain ⟨hl1, hl2, hl3⟩ := hl
  unfold crRead
  split
  case h_27 =>
    split_ifs with c1 c2 c3 c4 c5 c6 c7 c8
    · rw [h8]
    · have hk : 0x14 ≤ k := by
        by_contra hk
        interval_cases k <;> contradiction
      rw [s.lcount hk]
    · exact s.lstride (not_lt.mp c2)
    · exact s.lbody (not_lt.mp c3)
    · rw [h14]
    · have hk : 0x35 ≤ k := by
        by_contra hk
        interval_cases k <;> contradiction
      exact s.mrx hk
    · have hk : 0x40 ≤ k := by
        by_contra hk
        interval_cases k <;> contradiction
      exact s.h hk
    · exact s.m (not_lt.mp c7)
    · exact s.e (not_lt.mp c8)
  all_goals first
    | assumption
    | simp only [Task.crhandler, h13, h14, s.flags, s.rmode, s.mrepleft, s.ldepth, s.segid, s.segcount, s.segsig, s.trapcause, s.trappc,
        s.trapinfo]

-- What a write changes.

theorem sub_ne_sub {a b c : Nat} (ha : c ≤ a) (hb : ¬ b < c) (h : a ≠ b) : a - c ≠ b - c := by omega

theorem crWrite_sameAt (h : k ≠ n) : SameAt k { t with undefC := setDel t.undefC n } (crWrite cycle n w t) := by
  unfold crWrite
  generalize ({ t with undefC := setDel t.undefC n } : Task) = u
  dsimp only
  split
  case h_11 =>
    refine .ite (fun _ => .refl k u) fun h1 => ?_
    refine .ite (fun _ => { lcount := fun hk => vget_put_other _ _ _ _ _ (sub_ne_sub hk h1 h) }) fun h2 => ?_
    refine .ite (fun _ => { lstride := fun hk => vget_put_other _ _ _ _ _ (sub_ne_sub hk h2 h) }) fun h3 => ?_
    refine .ite (fun _ => { lbody := fun hk => vget_put_other _ _ _ _ _ (sub_ne_sub hk h3 h) }) fun _ => ?_
    refine .ite (fun _ => .refl k u) fun h4 => ?_
    refine .ite (fun _ => .ite (fun _ => { mrx := fun hk => vget_put_other _ _ _ _ _ (sub_ne_sub hk h4 h) }) fun _ => .refl k u)
      fun _ => ?_
    refine .ite (fun _ => .refl k u) fun h5 => ?_
    refine .ite (fun _ => { h := fun hk => half_vput_other _ _ (not_lt.mp h5) hk rfl h }) fun h6 => ?_
    refine .ite (fun _ => { m := fun hk => half_vput_other _ _ (not_lt.mp h6) hk rfl h }) fun h7 => ?_
    exact { e := fun hk => vget_put_other _ _ _ _ _ (sub_ne_sub hk h7 h) }
  · exact { flags := fun e => absurd e h }
  · exact { rmode := fun e => absurd e h }
  · exact { mrepleft := fun e => absurd e h }
  · exact { ldepth := fun e => absurd e h }
  · exact { segid := fun e => absurd e h }
  · exact { segcount := fun e => absurd e h }
  · exact { segsig := fun e => absurd e h }
  · exact { trapcause := fun e => absurd e h }
  · exact { trappc := fun e => absurd e h }
  · exact { trapinfo := fun e => absurd e h }

/-- What a write to a control register leaves of the task beside it. -/
structure SameOutside (t u : Task) : Prop where
  pc : u.pc = t.pc := by rfl
  s : u.s = t.s := by rfl
  v : u.v = t.v := by rfl
  inflight : u.inflight = t.inflight := by rfl

theorem SameOutside.ite {c : Prop} [Decidable c] {x y : Task} (hx : SameOutside t x) (hy : SameOutside t y) :
    SameOutside t (if c then x else y) := by
  split <;> assumption
theorem crWrite_sameOutside : SameOutside { t with undefC := setDel t.undefC n } (crWrite cycle n w t) := by
  unfold crWrite
  generalize ({ t with undefC := setDel t.undefC n } : Task) = u
  dsimp only
  split
  case h_11 =>
    exact .ite {} (.ite {} (.ite {} (.ite {} (.ite {} (.ite (.ite {} {}) (.ite {} (.ite {} (.ite {} {}))))))))
  all_goals exact {}
end Sys2Proof.Machine
end
section
/-! A CONTROL REGISTER AFTER ITS WRITE (R30, R31, R34, R51, R146, R309): of each register, the bits that are not reserved. -/
namespace Sys2Proof.Machine
variable {t : Task} {cycle ticks n : Nat} {w : Word}

theorem zeroExtend_fld_zero {k : Nat} (w : Word) : (fld 0 k w).zeroExtend 64 = w &&& BitVec.ofNat 64 (2 ^ k - 1) := by
  refine BitVec.eq_of_getLsbD_eq fun i hi => ?_
  simp only [fld, BitVec.getLsbD_setWidth, BitVec.getLsbD_extractLsb', BitVec.getLsbD_and, BitVec.getLsbD_ofNat,
    Nat.testBit_two_pow_sub_one, hi, decide_true, Bool.true_and, zero_add]
  exact Bool.and_comm ..
theorem pcWordOf_eq (w : Word) : pcWordOf (fld 58 6 w) (addrOf w) = w &&& 0xFC0FFFFFFFFFFFF0 := by
  have hin : ∀ i < 64, (0x000FFFFFFFFFFFF0 : Word).getLsbD i = (decide (i < 52) && (0xFC0FFFFFFFFFFFF0 : Word).getLsbD i) := by decide
  have hmid : ∀ i < 58, 52 ≤ i → (0xFC0FFFFFFFFFFFF0 : Word).getLsbD i = false := by decide
  have hout : ∀ i < 64, 58 ≤ i → (0xFC0FFFFFFFFFFFF0 : Word).getLsbD i = true := by decide
  refine BitVec.eq_of_getLsbD_eq fun i hi => ?_
  rw [pcWordOf, addrOf, BitVec.getLsbD_and, BitVec.getLsbD_append, BitVec.getLsbD_append, fld, fld, BitVec.getLsbD_extractLsb',
    BitVec.getLsbD_extractLsb', BitVec.getLsbD_and, hin _ (by omega)]
  by_cases h52 : i < 52
  · simp [h52]
  · by_cases h58 : i < 58
    · rw [hmid i h58 (not_lt.mp h52)]
      simp [h52, show i - 52 < 6 by omega]
    · have h6 : ¬ i - 52 < 6 := by omega
      rw [hout i hi (not_lt.mp h58)]
      simp [h52, h6, show i - 52 - 6 < 6 by omega, show 58 + (i - 52 - 6) = i by omega]

-- The loop registers.

theorem crRead_of_lcount (h : 0x14 ≤ n) (h' : n < 0x1A) : crRead t cycle ticks n = (vget t.lcount (n - 0x14) 0).zeroExtend 64 := by
  interval_cases n <;> rfl
theorem crRead_of_lstride (h : 0x1A ≤ n) (h' : n < 0x20) : crRead t cycle ticks n = vget t.lstride (n - 0x1A) 0 := by
  interval_cases n <;> rfl
theorem crRead_of_lbody (h : 0x20 ≤ n) (h' : n < 0x26) : crRead t cycle ticks n = vget t.lbody (n - 0x20) 0 := by
  interval_cases n <;> rfl
theorem crWrite_lcount (h : 0x14 ≤ n) (h' : n < 0x1A) :
    (crWrite cycle n w t).lcount = vput t.lcount (n - 0x14) (fld 0 32 w) := by
  interval_cases n <;> rfl
theorem crWrite_lstride (h : 0x1A ≤ n) (h' : n < 0x20) :
    (crWrite cycle n w t).lstride = vput t.lstride (n - 0x1A) (w &&& ~~~ 3#64) := by
  interval_cases n <;> rfl
theorem crWrite_lbody (h : 0x20 ≤ n) (h' : n < 0x26) :
    (crWrite cycle n w t).lbody = vput t.lbody (n - 0x20) ((fld 0 57 w).zeroExtend 64) := by
  interval_cases n <;> rfl

theorem crRead_write_lcount (h : 0x14 ≤ n) (h' : n < 0x1A) : crRead (crWrite cycle n w t) cycle ticks n = w &&& 0xFFFFFFFF := by
  rw [crRead_of_lcount h h', crWrite_lcount h h', vget_put_self _ _ _ _ (by omega)]
  exact zeroExtend_fld_zero w
theorem crRead_write_lstride (h : 0x1A ≤ n) (h' : n < 0x20) :
    crRead (crWrite cycle n w t) cycle ticks n = w &&& 0xFFFFFFFFFFFFFFFC := by
  rw [crRead_of_lstride h h', crWrite_lstride h h', vget_put_self _ _ _ _ (by omega)]
  rfl
theorem crRead_write_lbody (h : 0x20 ≤ n) (h' : n < 0x26) :
    crRead (crWrite cycle n w t) cycle ticks n = w &&& 0x01FFFFFFFFFFFFFF := by
  rw [crRead_of_lbody h h', crWrite_lbody h h', vget_put_self _ _ _ _ (by omega)]
  exact zeroExtend_fld_zero w

-- The resume registers, and the staging registers from 0x40 on.

theorem crRead_of_mrx (h : 0x35 ≤ n) (h' : n < 0x3E) : crRead t cycle ticks n = vget t.mrx (n - 0x35) 0 := by
  interval_cases n <;> rfl
theorem crWrite_mrx (h : 0x35 ≤ n) (h' : n < 0x3E) : (crWrite cycle n w t).mrx =
    if t.restoring then vput t.mrx (n - 0x35) (w &&& mrxMask (n - 0x35)) else t.mrx := by
  have hr : ({ t with undefC := setDel t.undefC n } : Task).restoring = t.restoring := rfl
  cases ht : t.restoring
  all_goals
    rw [ht] at hr
    interval_cases n <;> simp only [crWrite, hr] <;> rfl
theorem crRead_write_mrx (h : 0x35 ≤ n) (h' : n < 0x3E) : crRead (crWrite cycle n w t) cycle ticks n =
    if t.restoring then w &&& mrxMask (n - 0x35) else crRead t cycle ticks n := by
  rw [crRead_of_mrx h h', crRead_of_mrx h h', crWrite_mrx h h']
  split_ifs
  · exact vget_put_self _ _ _ _ (by omega)
  · rfl

theorem crRead_of_staging (h : 0x40 ≤ n) : crRead t cycle ticks n =
    if n < 0x50 then half (vget t.h ((n - 0x40) / 2) 0) n
    else if n < 0x70 then half (vget t.m ((n - 0x50) / 2) 0) n
    else vget t.e (n - 0x70) 0 := by
  have hlt {b : Nat} (hb : b ≤ 0x40) : ¬ n < b := not_lt.mpr (hb.trans h)
  unfold crRead
  split
  case h_27 =>
    rw [if_neg (hlt (by decide)), if_neg (hlt (by decide)), if_neg (hlt (by decide)), if_neg (hlt (by decide)),
      if_neg (hlt (by decide)), if_neg (hlt (by decide))]
  all_goals exact absurd h (by decide)
theorem crWrite_staging (h : 0x40 ≤ n) : 
    (n < 0x50 → (crWrite cycle n w t).h = vput t.h ((n - 0x40) / 2) (putHalf (vget t.h ((n - 0x40) / 2) 0) n w)) ∧
    (0x50 ≤ n → n < 0x70 →
      (crWrite cycle n w t).m = vput t.m ((n - 0x50) / 2) (putHalf (vget t.m ((n - 0x50) / 2) 0) n (w &&& mapHalf n))) ∧
    (0x70 ≤ n → (crWrite cycle n w t).e = vput t.e (n - 0x70) w) := by
  have hlt {b : Nat} (hb : b ≤ 0x40) : ¬ n < b := not_lt.mpr (hb.trans h)
  unfold crWrite
  generalize hu : ({ t with undefC := setDel t.undefC n } : Task) = u
  have hh : u.h = t.h := by rw [← hu]
  have hm : u.m = t.m := by rw [← hu]
  have he : u.e = t.e := by rw [← hu]
  dsimp only
  split
  case h_11 =>
    rw [if_neg (hlt (by decide)), if_neg (hlt (by decide)), if_neg (hlt (by decide)), if_neg (hlt (by decide)),
      if_neg (hlt (by decide)), if_neg (hlt (by decide)), if_neg (hlt (by decide)), ← hh, ← hm, ← he]
    refine ⟨fun h1 => ?_, fun h1 h2 => ?_, fun h1 => ?_⟩
    · rw [if_pos h1]
    · rw [if_neg (not_lt.mpr h1), if_pos h2]
    · rw [if_neg (not_lt.mpr (le_trans (by decide) h1)), if_neg (not_lt.mpr h1)]
  all_goals exact absurd h (by decide)

theorem mapHalf_eq (n : Nat) : mapHalf n = if n % 2 = 1 then 0x000FFFFFFFFFFFFF else BitVec.allOnes 64 := by
  rcases Nat.mod_two_eq_zero_or_one n with h | h
  · rw [mapHalf, half, h]
    decide
  · rw [mapHalf, half, h]
    decide
theorem crRead_write_staging (h : 0x40 ≤ n) (h' : n < 0x80) : crRead (crWrite cycle n w t) cycle ticks n =
    if 0x50 ≤ n ∧ n < 0x70 ∧ n % 2 = 1 then w &&& 0x000FFFFFFFFFFFFF else w := by
  obtain ⟨hh, hm, he⟩ := crWrite_staging (cycle := cycle) (t := t) (w := w) h
  rw [crRead_of_staging h]
  by_cases h1 : n < 0x50
  · rw [if_pos h1, if_neg (fun c => absurd h1 (not_lt.mpr c.1)), hh h1, half_vput_self _ _ (by omega)]
  · by_cases h2 : n < 0x70
    · rw [if_neg h1, if_pos h2, hm (not_lt.mp h1) h2, half_vput_self _ _ (by omega), mapHalf_eq]
      by_cases h3 : n % 2 = 1
      · rw [if_pos h3, if_pos ⟨not_lt.mp h1, h2, h3⟩]
      · rw [if_neg h3, if_neg (fun c => h3 c.2.2), BitVec.and_allOnes]
    · rw [if_neg h1, if_neg h2, if_neg (fun c => h2 c.2.1), he (not_lt.mp h2), vget_put_self _ _ _ _ (by omega)]

/-- Settles O20: a write reaches one register of the file, and a read of any other rests on what it leaves. -/
theorem stagingAndControlRegisters : Obligations.StagingAndControlRegisters := by
  intro s p e d n
  refine ⟨does_of _ _ _ _ rfl rfl, does_of _ _ _ _ rfl rfl, fun _ _ ha => ?_⟩
  have hn : n.toNat < 0x80 := n.isLt
  have hrest := crWrite_sameOutside (t := s.me) (cycle := s.cycle) (n := n.toNat) (w := s.rs d)
  refine ⟨crWrite s.cycle n.toNat (s.rs d) s.me, settle_acting _ _ s ha, fun m hm hmn => ?_, hrest.pc, hrest.s, hrest.v,
    hrest.inflight, fun h => crRead_write_staging h hn, ?rmode, ?flags, ?trapinfo, ?mrepleft, ?ldepth, ?counts,
    fun h h' => crRead_write_lstride h (by omega), fun h h' => crRead_write_lbody h (by omega), ?trappc, fun h h' => ?mrx⟩
  · have hlisted : m.toNat ≠ 0x2F ∧ m.toNat ≠ 0x3E ∧ m.toNat ≠ 0x3F := by
      simpa [crListed, BitVec.toNat_eq, and_assoc] using hm
    rw [crRead_of_sameAt (crWrite_sameAt fun e => hmn (BitVec.eq_of_toNat_eq e)) hlisted]
    exact crRead_of_sameAt {} hlisted
  case rmode =>
    rintro rfl
    exact zeroExtend_fld_zero _
  case flags =>
    rintro rfl hl
    have hflags : (crWrite s.cycle 0x10 (s.rs d) s.me).flags = fld 0 10 (s.rs d) := if_neg hl
    exact (congrArg (BitVec.zeroExtend 64) hflags).trans (zeroExtend_fld_zero _)
  case trapinfo =>
    rintro rfl
    rfl
  case mrepleft => rintro (rfl | rfl) <;> exact zeroExtend_fld_zero _
  case ldepth =>
    rintro rfl
    exact zeroExtend_fld_zero _
  case counts =>
    rintro (⟨h, h'⟩ | rfl | rfl | rfl)
    · exact crRead_write_lcount h (by omega)
    all_goals exact zeroExtend_fld_zero _
  case trappc =>
    rintro rfl
    exact pcWordOf_eq _
  case mrx =>
    have h5 : n.toNat - 0x35 = 0 ↔ n = 0x35 := by rw [BitVec.toNat_eq]; simp; omega
    have h8 : n.toNat - 0x35 = 3 ↔ n = 0x38 := by rw [BitVec.toNat_eq]; simp; omega
    have hd : n.toNat - 0x35 = 8 ↔ n = 0x3D := by rw [BitVec.toNat_eq]; simp; omega
    rw [crRead_write_mrx h (by omega), mrxMask]
    simp only [h5, h8, hd]
end Sys2Proof.Machine
end
section
/-! SCALAR FP32 (R147 to R149): its operands as numbers, and FCMP as the comparison of the shared table. -/
namespace Sys2Proof.Machine
variable {s : State} {p cd : BitVec 3} {d a b : BitVec 6}

theorem rf_eq (s : State) (n : BitVec 6) : s.rf n = (s.rs n).toNat % 2 ^ 32 := by simp [State.rf, fldN_eq]

/-- FCMP of FP32 patterns x and y under a condition of R148. -/
def fcmpOf (x y : Nat) (m : BitVec 3) : Bool × Flags := fCompare fp32 (fcmpCond m) x y

theorem fcmpOf_nan {x y : Nat} (h : (unpack fp32 x).isNan = true ∨ (unpack fp32 y).isNan = true) :
    (fcmpOf x y 0).1 = false ∧ (fcmpOf x y 1).1 = true ∧ (fcmpOf x y 2).1 = false ∧ (fcmpOf x y 3).1 = false ∧
      (fcmpOf x y 4).1 = true := by
  have hun : ((unpack fp32 x).isNan || (unpack fp32 y).isNan) = true := by simpa using h
  have heq : valEq (unpack fp32 x) (unpack fp32 y) = false := by
    rcases h with h | h <;> simp [valEq, h]
  have hlt : valLt (unpack fp32 x) (unpack fp32 y) = false := by
    rcases h with h | h <;> rw [isNan_iff.mp h]
    · rfl
    · cases unpack fp32 x <;> rfl
  refine ⟨heq, ?_, hlt, ?_, hun⟩
  · exact (congrArg (· || !_) hun).trans (Bool.true_or _)
  · exact (congrArg₂ (· || ·) hlt heq).trans rfl
theorem fcmpOf_number {x y : Nat} (hx : (unpack fp32 x).isNan = false) (hy : (unpack fp32 y).isNan = false) :
    (fcmpOf x y 0).1 = valEq (unpack fp32 x) (unpack fp32 y) ∧ (fcmpOf x y 1).1 = !(valEq (unpack fp32 x) (unpack fp32 y)) ∧
      (fcmpOf x y 2).1 = valLt (unpack fp32 x) (unpack fp32 y) ∧
      (fcmpOf x y 3).1 = (valLt (unpack fp32 x) (unpack fp32 y) || valEq (unpack fp32 x) (unpack fp32 y)) ∧
      (fcmpOf x y 4).1 = false := by
  have hun : ((unpack fp32 x).isNan || (unpack fp32 y).isNan) = false := by rw [hx, hy]; rfl
  exact ⟨rfl, (congrArg (· || !_) hun).trans (Bool.false_or _), rfl, rfl, hun⟩

/-- The flags of FCMP: NV for an ordered comparison of a NaN alone. -/
theorem fcmpOf_flags {x y : Nat} {m : BitVec 3} (hm : m.toNat ≤ 4) : (fcmpOf x y m).2 =
    (if (unpack fp32 x).finite = true ∧ (unpack fp32 y).finite = true then 0 else fNFC) |||
      (if ((unpack fp32 x).isNan = true ∨ (unpack fp32 y).isNan = true) ∧ (m = 2 ∨ m = 3) then fNV else 0) := by
  have hnfc : fIf (!(unpack fp32 x).finite || !(unpack fp32 y).finite) fNFC =
      if (unpack fp32 x).finite = true ∧ (unpack fp32 y).finite = true then 0 else fNFC := by
    cases (unpack fp32 x).finite <;> cases (unpack fp32 y).finite <;> rfl
  have hnv : fIf ((unpack fp32 x).isNan || (unpack fp32 y).isNan) fNV =
      if (unpack fp32 x).isNan = true ∨ (unpack fp32 y).isNan = true then fNV else 0 := by
    cases (unpack fp32 x).isNan <;> cases (unpack fp32 y).isNan <;> rfl
  obtain rfl | rfl | rfl | rfl | rfl : m = 0 ∨ m = 1 ∨ m = 2 ∨ m = 3 ∨ m = 4 := by
    revert hm; revert m; decide
  case inr.inr.inl | inr.inr.inr.inl =>
    simp only [or_true, true_or, and_true, ← hnfc, ← hnv]
    rfl
  all_goals
    rw [← hnfc, if_neg fun h => absurd h.2 (by decide)]
    exact BitVec.or_zero.symm

/-- Settles O21: each effect is the operation of the shared arithmetic on the low 32 bits of the operands. -/
theorem scalarFloatInstructions : Obligations.ScalarFloatInstructions := by
  intro s p cd d a b sub ng x y z out
  have hx : s.rf a = x := rf_eq s a
  have hy : s.rf b = y := rf_eq s b
  have hz : s.rf d = z := rf_eq s d
  have h32 : fldN 0 32 (s.rs a) = x := hx
  have h16 : fldN 0 16 (s.rs a) = x % 65536 := by
    rw [fldN_eq]
    omega
  refine ⟨does_of _ _ _ _ rfl ?_, does_of _ _ _ _ rfl ?_, does_of _ _ _ _ rfl ?_,
    ⟨fcmpOf x y, fun m _ => does_of _ _ _ _ rfl ?_, fcmpOf_nan, fun m hm => fcmpOf_flags hm, fcmpOf_number⟩,
    ⟨fun m => scalarConvert m (s.rs a), fun m => does_of _ _ _ _ rfl rfl, ?_, ?_, rfl, rfl, ?_, ?_, ?_, ?_⟩⟩
  case refine_1 | refine_2 | refine_3 | refine_4 =>
    simp only [hx, hy, hz]
    rfl
  case refine_8 | refine_10 =>
    simp only [← h16]
    rfl
  all_goals
    simp only [← h32]
    rfl
end Sys2Proof.Machine
namespace Sys2Proof
/-- Settles O3: the decoder computes on closed words. -/
theorem printedWordsDecode : Obligations.PrintedWordsDecode := ⟨rfl, rfl, rfl, rfl, rfl, rfl, rfl⟩
end Sys2Proof
end
section
/-!
A BUNDLE ENDS (R59, R60, R153, R165): the task and the rest of the machine after a bundle of one slot that issues, when it takes a
branch, and when the sequencer goes on.
-/
namespace Sys2Proof.Machine
variable {s t u : State} {x y : Task}

/-- A change of the acting task alone: memory and the other contexts stand. -/
structure ActsAlone (s t : State) : Prop where
  mem : SameMem s t
  others : OthersSame s t
  cur : t.cur = s.cur

theorem ActsAlone.refl (s : State) : ActsAlone s s := ⟨SameMem.refl s, fun _ _ => rfl, rfl⟩
theorem ActsAlone.trans (h : ActsAlone s t) (h' : ActsAlone t u) : ActsAlone s u where
  mem := ⟨fun a => (h'.mem.1 a).trans (h.mem.1 a), fun k a =>
    ⟨(h'.mem.2 k a).1.trans (h.mem.2 k a).1, (h'.mem.2 k a).2.trans (h.mem.2 k a).2⟩⟩
  others := fun c hc => (h'.others c (by rwa [h.cur])).trans (h.others c hc)
  cur := h'.cur.trans h.cur
theorem actsAlone_setMe (s : State) (x : Task) : ActsAlone s (s.setMe x) :=
  ⟨SameMem.refl s, fun _ hc => State.ctx_setMe_other _ _ _ hc, rfl⟩
theorem actsAlone_opened (c : Bool) (s : State) : ActsAlone s (opened c s) :=
  ⟨SameMem.refl s, fun _ hc => State.ctx_setMe_other _ _ _ hc, rfl⟩
theorem actsAlone_shutBundle (s : State) (x : Task) : ActsAlone s (shutBundle s x) :=
  ⟨SameMem.refl s, fun _ hc => State.ctx_setMe_other _ _ _ hc, rfl⟩
theorem shutBundle_me (s : State) (x : Task) : (shutBundle s x).me = { x.settled with shield := false } :=
  State.me_setMe s { x.settled with shield := false }

/-- Counting a bundle changes the segment registers alone (R165). -/
theorem counted_eq (bits : BitVec 128) (taken back : Bool) (x : Task) :
    ∃ k g, x.counted bits taken back = { x with segcount := k, segsig := g } := by
  unfold Task.counted
  split
  · exact ⟨x.segcount, x.segsig, rfl⟩
  · exact ⟨_, _, rfl⟩

/-- The task as it stands when its bundle has ended: without requests, its segment registers counted. -/
def Task.over (x : Task) (pc : Word) (k g : BitVec 32) : Task :=
  { x with branch := none, loop0 := none, swTrap := none, ret := none, segSet := 0, shield := false,
           pc := pc, segcount := k, segsig := g }

/-- A bundle that takes a branch (R150). -/
theorem closeBundle_goto {a : Word} (hr : s.me.ret = none) (he : s.me.exited = false) : ActsAlone s (closeBundle (goto a s)) ∧
    ∃ k g, (closeBundle (goto a s)).me = s.me.over a k g := by
  have hme : (goto a s).me = { s.me with branch := some a } := State.me_setMe _ _
  have hclose : closeBundle (goto a s) = shutBundle (goto a s) { (goto a s).me.counted (goto a s).bits true false with pc := a } := by
    unfold closeBundle
    simp only [hme, hr, he, Bool.false_eq_true, if_false]
  refine ⟨hclose ▸ (actsAlone_setMe s _).trans (actsAlone_shutBundle _ _), ?_⟩
  obtain ⟨k, g, hc⟩ := counted_eq (goto a s).bits true false (goto a s).me
  refine ⟨k, g, ?_⟩
  rw [hclose, shutBundle_me, hc, hme]
  rfl

/-- What the sequencer makes of a task whose bundle takes no branch: the next PC, and the strides of a level that loops back. -/
def State.afterSequel (s : State) : Task :=
  match s.me.sequel.back with
  | some d => addStrides s.stamp s.cycle s.cur s.src (vget s.me.lstride d 0) { s.me.sequel.t with pc := s.me.sequel.next }
  | none => { s.me.sequel.t with pc := s.me.sequel.next }

theorem afterSequel_eq (s : State) : s.afterSequel = match s.me.sequel.back with
    | some d => addStrides s.stamp s.cycle s.cur s.src (vget s.me.lstride d 0) { s.me.sequel.t with pc := s.me.sequel.next }
    | none => { s.me.sequel.t with pc := s.me.sequel.next } := rfl
theorem closeBundle_sequel (hr : s.me.ret = none) (he : s.me.exited = false) (hb : s.me.branch = none) (ht : s.me.swTrap = none) :
    closeBundle s = shutBundle s (s.afterSequel.counted s.bits false s.me.sequel.back.isSome) := by
  unfold closeBundle
  simp only [hr, he, hb, ht, Bool.false_eq_true, if_false]
  exact congrArg (fun x : Task => shutBundle s (x.counted s.bits false s.me.sequel.back.isSome)) (afterSequel_eq s).symm

/-- An opened bundle has no request yet. -/
theorem opened_requests (c : Bool) (s : State) : (opened c s).me.ret = none ∧ (opened c s).me.branch = none ∧
    (opened c s).me.swTrap = none ∧ (opened c s).me.loop0 = none ∧ (opened c s).me.segSet = 0 := by
  obtain ⟨m, a, u, x, _, hme⟩ := opened_me c s
  rw [hme]
  exact ⟨rfl, rfl, rfl, rfl, rfl⟩
/-- What stands of a task when its bundle is opened. -/
theorem opened_keeps (c : Bool) (s : State) : (opened c s).me.SameRegs s.me ∧ (opened c s).me.SameLoops s.me ∧
    (opened c s).me.SameTraps s.me := by
  obtain ⟨m, a, u, x, _, hme⟩ := opened_me c s
  rw [hme]
  exact ⟨⟨rfl, rfl, rfl, rfl, rfl, rfl, rfl, rfl, rfl, rfl⟩, ⟨rfl, rfl, rfl, rfl, rfl⟩, rfl, rfl, rfl, rfl, rfl, rfl⟩

/-- Operands read the same in the opened bundle. -/
theorem rs_opened (c : Bool) (hb : s.before = none) (n : BitVec 6) : (opened c s).rs n = s.rs n := by
  have hsrc : (opened c s).src = s.src := by rw [opened_src, State.src, hb]; rfl
  unfold State.rs
  rw [hsrc]
  rfl
end Sys2Proof.Machine
end
section
/-!
BRANCHES (R150, R151): what a branch leaves alone, and the loop levels that a jump ends.
-/
namespace Sys2Proof.Machine
variable {s : State} {t u : Task} {l : List Nat} {target : Word}

theorem bit_getLsbD {d e : Nat} (he : e < 6) : (1#6 <<< d).getLsbD e = decide (e = d) := by
  rw [BitVec.getLsbD_shiftLeft, BitVec.getLsbD_one, Bool.eq_iff_iff]
  simp [he]
  omega
/-- The bits of FIRST when one of them is cleared. -/
theorem first_cleared {f : BitVec 6} {d e : Nat} (he : e < 6) :
    (f &&& ~~~ (1#6 <<< d)).getLsbD e = (decide (e ≠ d) && f.getLsbD e) := by
  rw [BitVec.getLsbD_and, BitVec.getLsbD_not, bit_getLsbD he, Bool.and_comm]
  simp [he]

/-- A level that a jump ends (R151). -/
def Task.leave (t : Task) (d : Nat) : Task :=
  { t with lcount := vput t.lcount d 0, first := t.first &&& ~~~ (1#6 <<< d), ldepth := t.ldepth - 1 }
/-- Task u is t without the levels of a list. -/
structure LevelsEnded (l : List Nat) (t u : Task) : Prop where
  others : u = { t with lcount := u.lcount, first := u.first, ldepth := t.ldepth - BitVec.ofNat 3 l.length }
  ended : ∀ d, d < 6 → d ∈ l → vget u.lcount d 0 = 0 ∧ u.first.getLsbD d = false
  kept : ∀ d, d < 6 → d ∉ l → vget u.lcount d 0 = vget t.lcount d 0 ∧ u.first.getLsbD d = t.first.getLsbD d

theorem leave_levels (l : List Nat) (t : Task) : LevelsEnded l t (l.foldl Task.leave t) := by
  induction l generalizing t with
  | nil => exact ⟨by simp, by simp, by simp⟩
  | cons e l ih =>
    obtain ⟨ho, he, hk⟩ := ih (t.leave e)
    have hother (d : Nat) (hd : d < 6) (hde : d ≠ e) : vget (t.leave e).lcount d 0 = vget t.lcount d 0 ∧
        (t.leave e).first.getLsbD d = t.first.getLsbD d :=
      ⟨vget_put_other _ _ _ _ _ hde, (first_cleared hd).trans (by simp [hde])⟩
    refine ⟨?_, fun d hd hm => ?_, fun d hd hm => ?_⟩
    · have hlen : t.ldepth - BitVec.ofNat 3 (e :: l).length = t.ldepth - 1 - BitVec.ofNat 3 l.length := by
        rw [List.length_cons]
        bv_omega
      rw [List.foldl_cons, ho, hlen]
      rfl
    · by_cases hdl : d ∈ l
      · exact he d hd hdl
      · obtain rfl := (List.mem_cons.mp hm).resolve_right hdl
        obtain ⟨hc, hf⟩ := hk d hd hdl
        exact ⟨hc.trans (vget_put_self _ _ _ _ hd), hf.trans ((first_cleared hd).trans (by simp))⟩
    · obtain ⟨hde, hdl⟩ := not_or.mp (mt List.mem_cons.mpr hm)
      obtain ⟨hc, hf⟩ := hk d hd hdl
      obtain ⟨hc', hf'⟩ := hother d hd hde
      exact ⟨hc.trans hc', hf.trans hf'⟩

/-- A level below LDEPTH whose body holds the task's bundle and not a target. -/
def Task.leaves (t : Task) (target : Word) (d : Nat) : Bool :=
  decide (d < t.ldepth.toNat) && t.inBody d t.pc && !(t.inBody d target)
theorem mem_levelsLeft {d : Nat} : d ∈ levelsLeft t target ↔ t.leaves target d = true := by
  simp [levelsLeft, Task.leaves, and_assoc]
theorem filter_range_of_le {p : Nat → Bool} {n m : Nat} (h : n ≤ m) :
    (List.range m).filter (fun d => decide (d < n) && p d) = (List.range n).filter p := by
  induction h with
  | refl => exact List.filter_congr fun d hd => by simp [List.mem_range.mp hd]
  | step h ih =>
    rw [List.range_succ, List.filter_append, ih]
    simp [Nat.not_lt.mpr h]
theorem length_levelsLeft : (levelsLeft t target).length = ((List.range 7).filter (t.leaves target)).length := by
  have hd : t.ldepth.toNat ≤ 7 := Nat.le_of_lt_succ t.ldepth.isLt
  have h := filter_range_of_le (p := fun d => t.inBody d t.pc && !(t.inBody d target)) hd
  simp only [← Bool.and_assoc] at h
  rw [show t.leaves target = _ from rfl, funext (Task.leaves.eq_1 t target), h, levelsLeft, List.filter_reverse,
    List.length_reverse]
theorem length_levelsLeft_le : (levelsLeft t target).length ≤ t.ldepth.toNat :=
  (List.length_filter_le ..).trans (by simp)

theorem Issues.running {i : Instr} (h : Issues i s) : s.me.exited = false := h.2.2.2
theorem opened_stands (c : Bool) (s : State) : (opened c s).me.inflight = s.me.inflight ∧ (opened c s).me.pc = s.me.pc ∧
    (opened c s).me.exited = s.me.exited := by
  obtain ⟨m, a, u, x, _, hme⟩ := opened_me c s
  rw [hme]
  exact ⟨rfl, rfl, rfl⟩

/-- A bundle that branches from a state in which only its task has changed. -/
theorem issues_goto {i : Instr} {f : State → State} {s s1 : State} {a : Word} (h : Issues i s) (hx : exec i s = settle i f s)
    (hf : f (opened (isMM i) s) = goto a s1) (h1 : ActsAlone (opened (isMM i) s) s1) (hr : s1.me.ret = none)
    (he : s1.me.exited = false) : ∃ t, exec i s = .next t ∧ ActsAlone s t ∧ ∃ k g, t.me = s1.me.over a k g := by
  obtain ⟨ha, hme⟩ := closeBundle_goto (a := a) hr he
  refine ⟨closeBundle (goto a s1), ?_, ((actsAlone_opened _ s).trans h1).trans ha, hme⟩
  rw [hx, settle_issues i f s h, hf]

/-- The levels that are left when a jump goes to a target (R151). -/
def LoopsEnded (s : State) (target : Word) (u : Task) : Prop :=
  u.lstride = s.me.lstride ∧ u.lbody = s.me.lbody ∧
    u.ldepth.toNat = s.me.ldepth.toNat - ((List.range 7).filter (s.me.leaves target)).length ∧ ∀ d, d < 6 →
    (s.me.leaves target d = true → vget u.lcount d 0 = 0 ∧ u.first.getLsbD d = false) ∧
    (s.me.leaves target d = false → vget u.lcount d 0 = vget s.me.lcount d 0 ∧ u.first.getLsbD d = s.me.first.getLsbD d)
theorem loopsEnded_over {x : Task} {pc : Word} {k g : BitVec 32} (ho : x.SameLoops s.me)
    (h : LevelsEnded (levelsLeft s.me target) x u) : LoopsEnded s target (u.over pc k g) := by
  obtain ⟨hd, hc, hs, hb, hf⟩ := ho
  obtain ⟨hother, hended, hkept⟩ := h
  have hlen := length_levelsLeft_le (t := s.me) (target := target)
  refine ⟨?_, ?_, ?_, fun d hd6 => ⟨fun hl => hended d hd6 (mem_levelsLeft.mpr hl), fun hl => ?_⟩⟩
  · rw [hother]
    exact hs
  · rw [hother]
    exact hb
  · have hdepth : u.ldepth = s.me.ldepth - BitVec.ofNat 3 (levelsLeft s.me target).length := by rw [hother, ← hd]
    rw [← length_levelsLeft]
    change u.ldepth.toNat = _
    rw [hdepth]
    bv_omega
  · rw [← hc, ← hf]
    exact hkept d hd6 (mt mem_levelsLeft.mp (by simp [hl]))

/-- A bundle that branches: what holds of its task before it ends holds after it, but of the PC. -/
theorem issues_goto_keeps {i : Instr} {f : State → State} {s s1 : State} {a : Word} {loops : Task → Prop} {q : List Pending}
    (h : Issues i s) (hx : exec i s = settle i f s) (hf : f (opened (isMM i) s) = goto a s1)
    (h1 : ActsAlone (opened (isMM i) s) s1) (hr : s1.me.ret = none) (he : s1.me.exited = false)
    (hloops : ∀ k g, loops (s1.me.over a k g)) (hq : s1.me.inflight = q) (hregs : s1.me.SameRegs s.me)
    (htraps : s1.me.SameTraps s.me) :
    ∃ t, exec i s = .next t ∧ t.me.pc = a ∧ loops t.me ∧ t.me.inflight = q ∧ t.me.SameRegs s.me ∧ t.me.SameTraps s.me ∧
      SameMem s t ∧ OthersSame s t := by
  obtain ⟨t, ht, ha, k, g, hme⟩ := issues_goto h hx hf h1 hr he
  refine ⟨t, ht, ?_, ?_, ?_, ?_, ?_, ha.mem, ha.others⟩ <;> rw [hme]
  · rfl
  · exact hloops k g
  · exact hq
  · exact hregs
  · exact htraps

/-- A bundle that jumps (R151): its levels end, and the rest of its task stands. -/
theorem issues_jump {i : Instr} {f : State → State} {target : Word} (h : Issues i s) (hx : exec i s = settle i f s)
    (hf : f (opened (isMM i) s) = jumpTo target (opened (isMM i) s)) :
    ∃ t, exec i s = .next t ∧ t.me.pc = target ∧ LoopsEnded s target t.me ∧ t.me.inflight = s.me.inflight ∧
      t.me.SameRegs s.me ∧ t.me.SameTraps s.me ∧ SameMem s t ∧ OthersSame s t := by
  obtain ⟨hr, _⟩ := opened_requests (isMM i) s
  obtain ⟨hregs, hloops, htraps⟩ := opened_keeps (isMM i) s
  obtain ⟨hq, _, he⟩ := opened_stands (isMM i) s
  have hleft := leave_levels (levelsLeft s.me target) (opened (isMM i) s).me
  have hjump : jumpTo target (opened (isMM i) s) =
    goto target ((opened (isMM i) s).setMe ((levelsLeft s.me target).foldl Task.leave (opened (isMM i) s).me)) := rfl
  generalize (levelsLeft s.me target).foldl Task.leave (opened (isMM i) s).me = x at hleft hjump
  have hme : ((opened (isMM i) s).setMe x).me = x := State.me_setMe _ _
  have hends (k g : BitVec 32) := loopsEnded_over (pc := target) (k := k) (g := g) hloops hleft
  have hother := hleft.others
  refine issues_goto_keeps h hx (hf.trans hjump) (actsAlone_setMe _ _) ?_ ?_ (fun k g => ?_) ?_ ?_ ?_ <;> rw [hme]
  case refine_3 => exact hends k g
  all_goals rw [hother]
  · exact hr
  · exact he.trans h.running
  · exact hq
  · exact hregs
  · exact htraps

/-- The rest of a task after a result: its registers, loops and modes stand until the result lands. -/
theorem inflight_outS_opened (c : Bool) (s : State) (d : BitVec 6) (w : Word) (b : Nat) :
    ((opened c s).outS d w b).me.inflight = (s.outS d w b).me.inflight := by
  obtain ⟨hq, _⟩ := opened_stands c s
  simp only [State.outS, result_me, Task.write, hq]
  rfl

theorem outS_actsAlone (s : State) (d : BitVec 6) (w : Word) (b : Nat) : ActsAlone s (s.outS d w b) ∧
    (s.outS d w b).me = { s.me with inflight := (s.outS d w b).me.inflight } := by
  have h : s.outS d w b = s.setMe { s.me with inflight := (s.outS d w b).me.inflight } := result_eq s _ _ _ _
  exact ⟨h ▸ actsAlone_setMe s _, (congrArg State.me h).trans (State.me_setMe _ _)⟩

/-- Settles O23: a taken branch ends its bundle at its target; a jump has ended levels before it, and a call has linked. -/
theorem branchesGoToTheirTargets : Obligations.BranchesGoToTheirTargets := by
  intro s c n a off bundle rel goes kept left ended
  have hregs (b : Bool) := (opened_keeps b s).1
  have hloops (b : Bool) := (opened_keeps b s).2.1
  have htraps (b : Bool) := (opened_keeps b s).2.2
  have hq (b : Bool) := (opened_stands b s).1
  have hret (b : Bool) := (opened_requests b s).1
  have hex (b : Bool) := (opened_stands b s).2.2
  refine ⟨fun h => ?_, fun h => issues_jump h rfl rfl, fun h => ?_, fun h => ?_, fun h => ?_⟩
  · exact issues_goto_keeps h rfl rfl (.refl _) (hret _) ((hex _).trans h.running) (fun _ _ => hloops _) (hq _) (hregs _) (htraps _)
  · have hgoes := issues_jump (target := addrOf ((opened (isMM (.jmpr c n a)) s).rs a)) h rfl rfl
    rwa [rs_opened _ h.1] at hgoes
  · obtain ⟨hlink, hme⟩ := outS_actsAlone (opened (isMM (.call off)) s) 62 (bundle (s.me.pc + 16)) 2
    have hlinked := inflight_outS_opened (isMM (.call off)) s 62 (bundle (s.me.pc + 16)) 2
    refine issues_goto_keeps (s1 := (opened (isMM (.call off)) s).outS 62 (bundle (s.me.pc + 16)) 2) h rfl rfl hlink
      ?_ ?_ (fun k g => ?_) hlinked ?_ ?_ <;> rw [hme]
    · exact hret _
    · exact (hex _).trans h.running
    · exact hloops _
    · exact hregs _
    · exact htraps _
  · have hgoes := issues_goto_keeps (loops := kept) (a := addrOf ((opened (isMM (.ret c n)) s).rs 62)) h rfl rfl (.refl _) (hret _)
      ((hex _).trans h.running) (fun _ _ => hloops _) (hq _) (hregs _) (htraps _)
    rwa [rs_opened _ h.1] at hgoes
end Sys2Proof.Machine
end
section
/-!
LOOPS (R34, R152 to R154): what the sequencer makes of a bundle that takes no branch, and strides.
-/
namespace Sys2Proof.Machine
variable {s : State} {t : Task}

/-- A bundle that takes no branch ends: the task of the sequencer, without its requests. -/
theorem closeBundle_next (hr : s.me.ret = none) (he : s.me.exited = false) (hb : s.me.branch = none) (ht : s.me.swTrap = none) :
    ActsAlone s (closeBundle s) ∧ ∃ k g, (closeBundle s).me = s.afterSequel.over s.afterSequel.pc k g := by
  rw [closeBundle_sequel hr he hb ht]
  obtain ⟨k, g, hc⟩ := counted_eq s.bits false s.me.sequel.back.isSome s.afterSequel
  refine ⟨actsAlone_shutBundle _ _, k, g, ?_⟩
  rw [shutBundle_me, hc]
  rfl

/-- The sequencer acts at an address where no innermost body ends. -/
theorem loopEnd_stop {fuel : Nat} {a : Word} (h : t.ldepth = 0 ∨ a ≠ t.bodyEnd (t.ldepth.toNat - 1)) :
    loopEnd (fuel + 1) a t = ⟨t, nextAddr a, none⟩ := by
  simp only [loopEnd, h, if_true]
/-- The sequencer acts at the bundle's address, or at the end of the body that a LOOP passes over. -/
theorem sequel_eq (t : Task) : t.sequel =
    if t.stub.isSome then ⟨t, nextAddr (t.loop0.getD t.pc), none⟩ else loopEnd 7 (t.loop0.getD t.pc) t := by
  unfold Task.sequel
  cases t.loop0 <;> rfl
theorem sequel_stop (h : t.stub.isSome = true ∨ t.ldepth = 0 ∨ t.loop0.getD t.pc ≠ t.bodyEnd (t.ldepth.toNat - 1)) :
    t.sequel = ⟨t, nextAddr (t.loop0.getD t.pc), none⟩ := by
  rw [sequel_eq]
  split_ifs with hs
  · rfl
  · exact loopEnd_stop (h.resolve_left hs)
theorem afterSequel_stop (h : s.me.stub.isSome = true ∨ s.me.ldepth = 0 ∨
    s.me.loop0.getD s.me.pc ≠ s.me.bodyEnd (s.me.ldepth.toNat - 1)) :
    s.afterSequel = { s.me with pc := nextAddr (s.me.loop0.getD s.me.pc) } := by
  simp only [State.afterSequel, sequel_stop h]

/-- What the sequencer makes of the levels of t at address a: levels from k on end, and level k - 1 loops back if its body
ends there too (R153). -/
structure LoopEnds (a : Word) (t : Task) (k : Nat) (q : Sequel) : Prop where
  le : k ≤ t.ldepth.toNat
  others : q.t = { t with lcount := q.t.lcount, first := q.t.first, ldepth := BitVec.ofNat 3 k }
  outside : ∀ d, d < 6 → (d + 1 < k ∨ t.ldepth.toNat ≤ d) →
    vget q.t.lcount d 0 = vget t.lcount d 0 ∧ q.t.first.getLsbD d = t.first.getLsbD d
  ended : ∀ d, k ≤ d → d < t.ldepth.toNat → t.bodyEnd d = a ∧ (vget t.lcount d 0).toNat ≤ 1 ∧
    vget q.t.lcount d 0 = 0 ∧ q.t.first.getLsbD d = false
  stops : (k = 0 ∨ t.bodyEnd (k - 1) ≠ a) ∧ q.next = nextAddr a ∧ q.back = none ∧
      (k ≠ 0 → vget q.t.lcount (k - 1) 0 = vget t.lcount (k - 1) 0 ∧ q.t.first.getLsbD (k - 1) = t.first.getLsbD (k - 1)) ∨
    k ≠ 0 ∧ t.bodyEnd (k - 1) = a ∧ 1 < (vget t.lcount (k - 1) 0).toNat ∧ q.next = t.bodyStart (k - 1) ∧ q.back = some (k - 1) ∧
      vget q.t.lcount (k - 1) 0 = vget t.lcount (k - 1) 0 - 1 ∧ q.t.first.getLsbD (k - 1) = false

theorem loopEnd_ends {fuel : Nat} (a : Word) (t : Task) (hd : t.ldepth.toNat < fuel) (h6 : t.ldepth.toNat ≤ 6) :
    ∃ k, LoopEnds a t k (loopEnd fuel a t) := by
  induction fuel generalizing t with
  | zero => omega
  | succ fuel ih =>
    have hdepth : BitVec.ofNat 3 t.ldepth.toNat = t.ldepth := BitVec.ofNat_toNat .. |>.trans (by simp)
    simp only [loopEnd]
    split_ifs with hstop hback
    · refine ⟨t.ldepth.toNat, le_refl _, by rw [hdepth], fun _ _ _ => ⟨rfl, rfl⟩, fun d h h' => absurd h' (by omega),
        .inl ⟨?_, rfl, rfl, fun _ => ⟨rfl, rfl⟩⟩⟩
      rcases hstop with h0 | ha
      · exact .inl (by rw [h0]; rfl)
      · exact .inr (Ne.symm ha)
    · obtain ⟨h0, ha⟩ := not_or.mp hstop
      have h0' : t.ldepth.toNat ≠ 0 := fun h => h0 (BitVec.eq_of_toNat_eq h)
      refine ⟨t.ldepth.toNat, le_refl _, by rw [hdepth], fun d hd6 hout => ?_, fun d h h' => absurd h' (by omega),
        .inr ⟨h0', (not_not.mp ha).symm, hback, rfl, rfl, vget_put_self _ _ _ _ (by omega), ?_⟩⟩
      · have hne : d ≠ t.ldepth.toNat - 1 := by omega
        exact ⟨vget_put_other _ _ _ _ _ hne, (first_cleared hd6).trans (by simp [hne])⟩
      · exact (first_cleared (by omega)).trans (by simp)
    · obtain ⟨h0, ha⟩ := not_or.mp hstop
      have h0' : t.ldepth.toNat ≠ 0 := fun h => h0 (BitVec.eq_of_toNat_eq h)
      generalize hlast : t.ldepth.toNat - 1 = d0 at *
      have hd0 : (t.endLevel d0).ldepth.toNat = d0 := by
        simp [Task.endLevel]
        omega
      have hkeep (d : Nat) (hd6 : d < 6) (hne : d ≠ d0) : vget (t.endLevel d0).lcount d 0 = vget t.lcount d 0 ∧
          (t.endLevel d0).first.getLsbD d = t.first.getLsbD d :=
        ⟨vget_put_other _ _ _ _ _ hne, (first_cleared hd6).trans (by simp [hne])⟩
      obtain ⟨k, hle, hother, hout, hend, hstops⟩ := ih (t.endLevel d0) (by omega) (by omega)
      rw [hd0] at hle hout hend
      generalize loopEnd fuel a (t.endLevel d0) = q at *
      refine ⟨k, by omega, hother, fun d hd6 h => ?_, fun d hk hd' => ?_, ?_⟩
      · obtain ⟨hc, hf⟩ := hout d hd6 (by omega)
        obtain ⟨hc', hf'⟩ := hkeep d hd6 (by omega)
        exact ⟨hc.trans hc', hf.trans hf'⟩
      · obtain hlt | rfl : d < d0 ∨ d = d0 := by omega
        · obtain ⟨hb, hone, hz⟩ := hend d hk hlt
          rw [(hkeep d (by omega) (by omega)).1] at hone
          exact ⟨hb, hone, hz⟩
        · obtain ⟨hc, hf⟩ := hout d (by omega) (.inr (le_refl _))
          exact ⟨(not_not.mp ha).symm, by omega, hc.trans (vget_put_self _ _ _ _ (by omega)),
            hf.trans ((first_cleared (by omega)).trans (by simp))⟩
      · rcases hstops with ⟨hb, hn, hbk, hsame⟩ | ⟨hk0, hb, hone, hn, hbk, hc, hf⟩
        · refine .inl ⟨hb, hn, hbk, fun hk0 => ?_⟩
          obtain ⟨hc, hf⟩ := hsame hk0
          obtain ⟨hc', hf'⟩ := hkeep (k - 1) (by omega) (by omega)
          exact ⟨hc.trans hc', hf.trans hf'⟩
        · obtain ⟨hc', hf'⟩ := hkeep (k - 1) (by omega) (by omega)
          rw [hc'] at hone hc
          exact .inr ⟨hk0, hb, hone, hn, hbk, hc, hf⟩

/-- Strides change the S registers, their poison marks and the results in flight alone. -/
def StridesAlone (t u : Task) : Prop := u = { t with s := u.s, poisonS := u.poisonS, inflight := u.inflight }
theorem StridesAlone.trans {t u v : Task} (h : StridesAlone t u) (h' : StridesAlone u v) : StridesAlone t v := by
  unfold StridesAlone at *
  rw [h', h]
theorem addStride_alone (stamp cycle ctx : Nat) (src : Task) (n : Nat) (x : Word) (t : Task) :
    StridesAlone t (addStride stamp cycle ctx src n x t) := by
  simp only [addStride]
  split_ifs <;> rfl
theorem addStrides_alone (stamp cycle ctx : Nat) (src : Task) (w : Word) (t : Task) :
    StridesAlone t (addStrides stamp cycle ctx src w t) := by
  have hfold (l : List (Nat × Word)) (t : Task) :
      StridesAlone t (l.foldl (fun t a => addStride stamp cycle ctx src a.1 a.2 t) t) := by
    induction l generalizing t with
    | nil => rfl
    | cons a l ih => exact (addStride_alone ..).trans (ih _)
  unfold addStrides
  split
  · split_ifs
    · exact addStride_alone ..
    · exact (addStride_alone ..).trans (addStride_alone ..)
  · exact hfold _ _

/-- A stride on a register with no write in flight (R154); one on s0 is discarded (R34). -/
theorem addStride_idle {stamp cycle ctx n r : Nat} {src : Task} {x : Word} (hsrc : src.inflight = []) (ht : t.inflight = [])
    (h64 : r < 64) : (addStride stamp cycle ctx src n x t).inflight = [] ∧
      vget (addStride stamp cycle ctx src n x t).s r 0 = if n = r ∧ 0 < r then vget src.s r 0 + x else vget t.s r 0 := by
  have hdef : src.undefd (.s n) = false := by simp [Task.undefd, Task.pendOf, hsrc]
  simp only [addStride, ht, hdef, List.filter_nil, List.isEmpty_nil, if_true, Bool.false_eq_true, if_false]
  split_ifs with h0 hn hn
  · omega
  · exact ⟨ht, rfl⟩
  · obtain ⟨rfl, _⟩ := hn
    exact ⟨ht, vget_put_self _ _ _ _ h64⟩
  · exact ⟨ht, vget_put_other _ _ _ _ _ (by omega)⟩

/-- What a stride word adds to register r by its stride of enable bit `on`, with its register at `reg` and its addend at `lo`. -/
def strideOf (w : Word) (on reg lo r : Nat) : Word :=
  if w.getLsbD on = true ∧ (w.extractLsb' reg 6).toNat = r then (w.extractLsb' lo 24).signExtend 64 else 0

/-- Both strides of a level, on registers with no write in flight. -/
theorem addStrides_idle {stamp cycle ctx r : Nat} {src : Task} {w : Word} (hsrc : src.inflight = []) (ht : t.inflight = [])
    (hs : t.s = src.s) (h64 : r < 64) : vget (addStrides stamp cycle ctx src w t).s r 0 =
      if 0 < r then vget src.s r 0 + strideOf w 2 4 16 r + strideOf w 3 10 40 r else vget src.s r 0 := by
  have hone (n : Nat) (x : Word) (u : Task) (hu : u.inflight = []) :=
    addStride_idle (stamp := stamp) (cycle := cycle) (ctx := ctx) (n := n) (x := x) (t := u) hsrc hu h64
  have hstrides : strides w = (if w.getLsbD 2 = true then [((w.extractLsb' 4 6).toNat, (w.extractLsb' 16 24).signExtend 64)] else []) ++
    if w.getLsbD 3 = true then [((w.extractLsb' 10 6).toNat, (w.extractLsb' 40 24).signExtend 64)] else [] := rfl
  simp only [strideOf]
  unfold addStrides
  generalize (w.extractLsb' 4 6).toNat = n at *
  generalize (w.extractLsb' 10 6).toNat = m at *
  generalize (w.extractLsb' 16 24).signExtend 64 = x at *
  generalize (w.extractLsb' 40 24).signExtend 64 = y at *
  cases h2 : w.getLsbD 2 <;> cases h3 : w.getLsbD 3 <;>
    simp only [h2, h3, if_true, if_false, Bool.false_eq_true, List.nil_append, List.append_nil, List.singleton_append] at hstrides <;>
    simp only [hstrides, List.foldl_nil, List.foldl_cons, true_and]
  · simp [hs]
  · rw [(hone _ _ _ ht).2, hs]
    grind
  · rw [(hone _ _ _ ht).2, hs]
    grind
  · by_cases hnm : n = m
    · rw [if_pos hnm, (hone _ _ _ ht).2, hs]
      grind
    · rw [if_neg hnm, (hone _ _ _ (hone n x t ht).1).2, (hone _ _ _ ht).2, hs]
      grind

-- The body that a LOOP starts.

theorem addrOf_getLsbD (w : Word) (i : Nat) : (addrOf w).getLsbD i = (decide (4 ≤ i ∧ i < 52) && w.getLsbD i) := by
  have hmask : (0x000FFFFFFFFFFFF0 : Word) = (BitVec.allOnes 48).zeroExtend 64 <<< 4 := by decide
  rw [addrOf, hmask, BitVec.getLsbD_and, Bool.and_comm, BitVec.getLsbD_shiftLeft, BitVec.getLsbD_setWidth,
    BitVec.getLsbD_allOnes, Bool.eq_iff_iff]
  simp
  omega
theorem addrOf_toNat (w : Word) : (addrOf w).toNat = w.toNat / 16 % 2 ^ 48 * 16 := by
  have h : addrOf w = ((w >>> 4).setWidth 48).setWidth 64 <<< 4 := by
    apply BitVec.eq_of_getLsbD_eq
    intro i hi
    rw [addrOf_getLsbD]
    by_cases h4 : 4 ≤ i
    · simp only [BitVec.getLsbD_shiftLeft, BitVec.getLsbD_setWidth, BitVec.getLsbD_ushiftRight, Nat.add_sub_cancel' h4]
      simp only [h4, hi, decide_true, not_lt_of_ge h4, decide_false, Bool.not_false, true_and, Bool.and_true, Bool.true_and]
      cases w.getLsbD i
      · simp
      · rw [Bool.eq_iff_iff]
        simp
        omega
    · simp [h4]
  rw [h]
  simp [Nat.shiftLeft_eq, Nat.shiftRight_eq_div_pow]
  omega

theorem addrOf_eq_of_toNat {w : Word} {a : Word} (h : a.toNat = w.toNat / 16 % 2 ^ 48 * 16) : addrOf w = a :=
  BitVec.eq_of_toNat_eq ((addrOf_toNat w).trans h.symm)

theorem nextAddr_ne_body {pc : Word} (len : BitVec 9) : pc ≠ addrOf (nextAddr pc + 16 * len.zeroExtend 64) := by
  intro h
  have h' := congrArg BitVec.toNat h
  rw [addrOf_toNat, BitVec.toNat_add, nextAddr, addrOf_toNat, BitVec.toNat_add] at h'
  have hlen : (16 * len.zeroExtend 64 : Word).toNat = 16 * len.toNat := by bv_omega
  rw [hlen] at h'
  have h16 : (16 : Word).toNat = 16 := rfl
  have := len.isLt
  omega
theorem bodyStart_bodyWord {d : Nat} {start : Word} (len : BitVec 9) (h : vget t.lbody d 0 = bodyWord (addrOf start) len) :
    t.bodyStart d = addrOf start := by
  have hfld : fld 0 48 (bodyWord (addrOf start) len) = fld 4 48 (addrOf start) := by
    rw [bodyWord, fld_app_lo _ _ _ _ (by decide), fld_all]
  rw [Task.bodyStart, h, hfld]
  refine addrOf_eq_of_toNat ?_
  simp [fld, Nat.shiftLeft_eq, Nat.shiftRight_eq_div_pow, addrOf_toNat]
  omega
theorem bodyEnd_bodyWord {d : Nat} {start : Word} (len : BitVec 9) (h : vget t.lbody d 0 = bodyWord (addrOf start) len) :
    t.bodyEnd d = addrOf (addrOf start + 16 * len.zeroExtend 64) := by
  have hlen : BitVec.ofNat 64 (fldN 48 9 (bodyWord (addrOf start) len)) = len.zeroExtend 64 := by
    have hfld : fld 48 9 (bodyWord (addrOf start) len) = len := by
      rw [bodyWord, fld_app_hi _ _ _ _ (by decide), fld_app_lo _ _ _ _ (by decide), fld_all]
    exact (congrArg (BitVec.ofNat 64 ·.toNat) hfld).trans (BitVec.ofNat_toNat 64 len)
  rw [Task.bodyEnd, bodyStart_bodyWord len h, h, hlen]

/-- A level that a LOOP starts (R152). -/
def Task.startLevel (t : Task) (d : Nat) (body : Word) (n : BitVec 32) : Task :=
  { t with lbody := vput t.lbody d body, lcount := vput t.lcount d n, first := t.first ||| (1#6 <<< d),
           ldepth := BitVec.ofNat 3 (d + 1) }
theorem startLoop_start {n : BitVec 32} (len : BitVec 9) (hn : n ≠ 0) (hd : s.src.ldepth.toNat < 6) : startLoop n len s =
    s.setMe (s.me.startLevel s.src.ldepth.toNat (bodyWord (nextAddr s.src.pc) len) n) := by
  have hmin : min s.src.ldepth.toNat 5 = s.src.ldepth.toNat := by omega
  simp only [startLoop, if_neg hn, hmin]
  rfl

/-- No slot of the bundle asks for another end than the sequencer's. -/
def Task.Quiet (t : Task) : Prop := t.ret = none ∧ t.exited = false ∧ t.branch = none ∧ t.swTrap = none
theorem opened_quiet {i : Instr} (c : Bool) (h : Issues i s) : (opened c s).me.Quiet := by
  obtain ⟨hr, hb, ht, _⟩ := opened_requests c s
  exact ⟨hr, (opened_stands c s).2.2.trans h.running, hb, ht⟩

/-- A bundle of one slot that issues and takes no branch. -/
theorem issues_next {i : Instr} {f : State → State} {s y : State} (h : Issues i s) (hx : exec i s = settle i f s)
    (hf : f (opened (isMM i) s) = y) (hy : ActsAlone (opened (isMM i) s) y) (hq : y.me.Quiet) :
    ∃ t, exec i s = .next t ∧ ActsAlone s t ∧ ∃ k g, t.me = y.afterSequel.over y.afterSequel.pc k g := by
  obtain ⟨hr, he, hb, ht⟩ := hq
  obtain ⟨ha, hme⟩ := closeBundle_next hr he hb ht
  exact ⟨closeBundle y, by rw [hx, settle_issues i f s h, hf], ((actsAlone_opened _ s).trans hy).trans ha, hme⟩
/-- Such a bundle changes its task to x, of which no body ends at the address where the sequencer acts. -/
theorem issues_stop {i : Instr} {f : State → State} {x : Task} (h : Issues i s) (hx : exec i s = settle i f s)
    (hf : f (opened (isMM i) s) = (opened (isMM i) s).setMe x) (hq : x.Quiet)
    (hstop : x.stub.isSome = true ∨ x.ldepth = 0 ∨ x.loop0.getD x.pc ≠ x.bodyEnd (x.ldepth.toNat - 1)) :
    ∃ t, exec i s = .next t ∧ ActsAlone s t ∧ ∃ k g, t.me = x.over (nextAddr (x.loop0.getD x.pc)) k g := by
  have hme : ((opened (isMM i) s).setMe x).me = x := State.me_setMe _ _
  obtain ⟨t, ht, ha, k, g, htme⟩ := issues_next h hx hf (actsAlone_setMe _ _) (by rwa [hme])
  refine ⟨t, ht, ha, k, g, ?_⟩
  rw [htme, afterSequel_stop (by rwa [hme]), hme]
  rfl

/-- LOOP with a count starts a level (R152). -/
theorem issues_loop {a : BitVec 6} {len : BitVec 9} (h : Issues (.loop a len) s) (hd : s.me.ldepth.toNat < 6)
    (hn : fld 0 32 (s.rs a) ≠ 0) : ∃ t, exec (.loop a len) s = .next t ∧ ActsAlone s t ∧ ∃ k g, t.me =
      ((opened (isMM (.loop a len)) s).me.startLevel s.me.ldepth.toNat (bodyWord (nextAddr s.me.pc) len) (fld 0 32 (s.rs a))).over
        (nextAddr s.me.pc) k g := by
  have hq := opened_quiet (isMM (.loop a len)) h
  obtain ⟨_, _, _, hl, _⟩ := opened_requests (isMM (.loop a len)) s
  obtain ⟨_, hpc, _⟩ := opened_stands (isMM (.loop a len)) s
  have hstart : startLoop (fld 0 32 ((opened (isMM (.loop a len)) s).rs a)) len (opened (isMM (.loop a len)) s) = _ :=
    startLoop_start len (by rwa [rs_opened _ h.1]) hd
  rw [rs_opened _ h.1, opened_src] at hstart
  generalize (opened (isMM (.loop a len)) s).me = o at hq hl hpc hstart ⊢
  have hstop : s.me.pc ≠ (o.startLevel s.me.ldepth.toNat (bodyWord (nextAddr s.me.pc) len) (fld 0 32 (s.rs a))).bodyEnd
      ((BitVec.ofNat 3 (s.me.ldepth.toNat + 1)).toNat - 1) := by
    have hlast : (BitVec.ofNat 3 (s.me.ldepth.toNat + 1)).toNat - 1 = s.me.ldepth.toNat := by
      simp
      omega
    rw [hlast, bodyEnd_bodyWord len (vget_put_self _ _ _ _ hd)]
    exact nextAddr_ne_body len
  have hat : o.loop0.getD o.pc = s.me.pc := by rw [hl, hpc]; rfl
  obtain ⟨t, ht, ha, k, g, hme⟩ :=
    issues_stop (x := o.startLevel s.me.ldepth.toNat (bodyWord (nextAddr s.me.pc) len) (fld 0 32 (s.rs a)))
      h rfl ((congrArg (startLoop · len _) (congrArg (fld 0 32) (rs_opened _ h.1 a))).trans hstart) hq
      (.inr (.inr (hat.trans_ne hstop)))
  refine ⟨t, ht, ha, k, g, hme.trans ?_⟩
  rw [← hat]
  rfl

theorem fld_low {n : Nat} (h : n ≤ 64) (w : Word) : fld 0 n w = w.setWidth n := by
  rw [fld, BitVec.setWidth_eq_extractLsb' h]
theorem first_set {f : BitVec 6} {d e : Nat} (he : e < 6) : (f ||| 1#6 <<< d).getLsbD e = (f.getLsbD e || decide (e = d)) := by
  rw [BitVec.getLsbD_or, bit_getLsbD he]
theorem bodyEnd_congr {u : Task} {d : Nat} (h : t.lbody = u.lbody) : t.bodyEnd d = u.bodyEnd d := by
  simp only [Task.bodyEnd, Task.bodyStart, h]

theorem opened_stub (c : Bool) (s : State) : (opened c s).me.stub.isSome = s.me.stub.isSome := by
  obtain ⟨m, a, u, x, hu, hme⟩ := opened_me c s
  rw [hme]
  exact hu

/-- LOOP with count 0 passes its body over (R152). -/
theorem issues_loop_zero {a : BitVec 6} {len : BitVec 9} (h : Issues (.loop a len) s) (hn : fld 0 32 (s.rs a) = 0) {last : Word}
    (hlast : last = addrOf (nextAddr s.me.pc + 16 * len.zeroExtend 64))
    (hout : s.me.ldepth = 0 ∨ last ≠ s.me.bodyEnd (s.me.ldepth.toNat - 1)) :
    ∃ t, exec (.loop a len) s = .next t ∧ ActsAlone s t ∧ ∃ k g, t.me =
      (opened (isMM (.loop a len)) s).me.over (nextAddr last) k g := by
  obtain ⟨_, ⟨hd, _, _, hb, _⟩, _⟩ := opened_keeps (isMM (.loop a len)) s
  refine issues_stop (x := { (opened (isMM (.loop a len)) s).me with loop0 := some last }) h rfl ?_ (opened_quiet _ h) (.inr ?_)
  · rw [hlast, rs_opened _ h.1, startLoop, if_pos hn]
    rfl
  · change (opened _ s).me.ldepth = 0 ∨ last ≠ (opened _ s).me.bodyEnd ((opened _ s).me.ldepth.toNat - 1)
    rwa [hd, bodyEnd_congr hb]

theorem afterSequel_none (h : s.me.sequel.back = none) : s.afterSequel = { s.me.sequel.t with pc := s.me.sequel.next } := by
  rw [State.afterSequel, h]
theorem afterSequel_some {d : Nat} (h : s.me.sequel.back = some d) : s.afterSequel =
    addStrides s.stamp s.cycle s.cur s.src (vget s.me.lstride d 0) { s.me.sequel.t with pc := s.me.sequel.next } := by
  rw [State.afterSequel, h]
theorem afterSequel_alone (s : State) : StridesAlone { s.me.sequel.t with pc := s.me.sequel.next } s.afterSequel := by
  cases h : s.me.sequel.back with
  | none => exact afterSequel_none h ▸ rfl
  | some d => exact afterSequel_some h ▸ addStrides_alone ..

/-- A NOP that issues outside a stub: the sequencer ends levels of the task, and another loops back. -/
theorem issues_nop (h : Issues .nop s) (hstub : s.me.stub = none) (hd : s.me.ldepth.toNat ≤ 6) :
    ∃ t k, exec .nop s = .next t ∧ ActsAlone s t ∧ LoopEnds s.me.pc (opened false s).me k (opened false s).me.sequel ∧
      ∃ n g, t.me = (opened false s).afterSequel.over (opened false s).afterSequel.pc n g := by
  obtain ⟨t, ht, ha, hme⟩ := issues_next h rfl rfl (.refl _) (opened_quiet _ h)
  obtain ⟨_, ⟨hdepth, _⟩, _⟩ := opened_keeps false s
  obtain ⟨_, _, _, hl, _⟩ := opened_requests false s
  obtain ⟨_, hpc, _⟩ := opened_stands false s
  have hnone : (opened false s).me.stub.isSome = false := (opened_stub false s).trans (by rw [hstub]; rfl)
  obtain ⟨k, hk⟩ := loopEnd_ends (fuel := 7) s.me.pc (opened false s).me (by rw [hdepth]; omega) (by rwa [hdepth])
  refine ⟨t, k, ht, ha, ?_, hme⟩
  rw [sequel_eq, if_neg (by rw [hnone]; exact Bool.false_ne_true), hl, hpc]
  exact hk

theorem LoopEnds.loops_back {a : Word} {k d : Nat} {q : Sequel} (h : LoopEnds a t k q) (hd : t.ldepth.toNat = d + 1)
    (hb : t.bodyEnd d = a) (hone : 1 < (vget t.lcount d 0).toNat) : q.back = some d := by
  have hle := h.le
  have hk : k = d + 1 := by
    by_contra hne
    obtain ⟨_, hlast, _⟩ := h.ended d (by omega) (by omega)
    omega
  subst hk
  rcases h.stops with ⟨hstop, _⟩ | ⟨_, _, _, _, hback, _⟩
  · rcases hstop with h0 | hne
    · omega
    · exact absurd hb hne
  · exact hback

/-- A task after its bundle, of which the sequencer has made q and the strides u: strides touch the S registers alone. -/
theorem sequel_fields {u v : Task} {k : Nat} {n g : BitVec 32} {q : Sequel} {a : Word} (hq : LoopEnds a t k q)
    (hu : StridesAlone { q.t with pc := q.next } u) (hv : v = u.over u.pc n g) : v.ldepth = BitVec.ofNat 3 k ∧ v.lcount = q.t.lcount ∧
      v.first = q.t.first ∧ v.lbody = t.lbody ∧ v.lstride = t.lstride ∧ v.pc = q.next ∧ v.s = u.s ∧ v.v = t.v ∧ v.c = t.c ∧
      v.flags = t.flags := by
  have hother := hq.others
  unfold StridesAlone at hu
  generalize u.s = us, u.poisonS = up, u.inflight = ui at hu ⊢
  generalize q.t.lcount = lc, q.t.first = lf at hother ⊢
  rw [hv, hu, hother]
  exact ⟨rfl, rfl, rfl, rfl, rfl, rfl, rfl, rfl, rfl, rfl⟩

/-- Settles O24: a LOOP's own bundle never ends the level it starts; the sequencer's levels are LoopEnds; strides add to idle registers. -/
theorem loopsAndStrides : Obligations.LoopsAndStrides := by
  refine ⟨fun s a len h hd => ⟨fun hn => ?_, fun hn hstub hout => ?_⟩, fun s h hstub hd => ?_, fun s d h hstub hin hd hd6 hb hone => ?_⟩
  · obtain ⟨t, ht, ha, k, g, hme⟩ := issues_loop h hd (by rwa [fld_low (by decide)])
    obtain ⟨hregs, ⟨_, hc, hs, hb, hf⟩, htraps⟩ := opened_keeps (isMM (.loop a len)) s
    rw [fld_low (by decide)] at hme
    generalize (opened (isMM (.loop a len)) s).me = o at *
    have hbody : vget t.me.lbody s.me.ldepth.toNat 0 = bodyWord (addrOf (s.me.pc + 16)) len := by
      rw [hme]
      exact vget_put_self _ _ _ _ hd
    refine ⟨t, ht, ?_, ?_, ?_, bodyStart_bodyWord len hbody, bodyEnd_bodyWord len hbody, ?_, fun e he hne => ⟨?_, ?_, ?_⟩, ?_, ?_, ?_,
      ha.mem, ha.others⟩ <;> rw [hme]
    · rfl
    · change (BitVec.ofNat 3 (s.me.ldepth.toNat + 1)).toNat = _
      simp
      omega
    · exact vget_put_self _ _ _ _ hd
    · exact (first_set hd).trans (by simp)
    · exact (vget_put_other _ _ _ _ _ hne).trans (congrArg (vget · e 0) hc)
    · exact (vget_put_other _ _ _ _ _ hne).trans (congrArg (vget · e 0) hb)
    · exact (first_set he).trans (by simp [hne, hf])
    · exact hs
    · exact hregs
    · exact htraps
  · have hd0 : s.me.ldepth = 0 ↔ s.me.ldepth.toNat = 0 := BitVec.toNat_eq
    obtain ⟨t, ht, ha, k, g, hme⟩ := issues_loop_zero h (by rwa [fld_low (by decide)]) rfl (hout.imp hd0.mpr Ne.symm)
    obtain ⟨hregs, hloops, htraps⟩ := opened_keeps (isMM (.loop a len)) s
    refine ⟨t, ht, ?_, ?_, ?_, ?_, ha.mem, ha.others⟩ <;> rw [hme]
    · rfl
    · exact hloops
    · exact hregs
    · exact htraps
  · obtain ⟨t, k, ht, ha, hq, n, g, hme⟩ := issues_nop h hstub hd
    obtain ⟨hregs, ⟨hdepth, hc, hs, hb, hf⟩, _⟩ := opened_keeps false s
    have halone := afterSequel_alone (opened false s)
    have hnone := afterSequel_none (s := opened false s)
    generalize (opened false s).afterSequel = u at *
    generalize (opened false s).me.sequel = q at *
    generalize (opened false s).me = o at *
    have hend (d : Nat) : o.bodyEnd d = s.me.bodyEnd d := bodyEnd_congr hb
    have hstart (d : Nat) : o.bodyStart d = s.me.bodyStart d := by simp only [Task.bodyStart, hb]
    obtain ⟨hld, hlc, hfi, hlb, hls, hpc, hus, _⟩ := sequel_fields hq halone hme
    obtain ⟨hle, hother, hout, hended, hstops⟩ := hq
    simp only [hdepth, hc, hf, hend, hstart] at hle hout hended hstops
    refine ⟨t, k, ht, hle, ?_, ?_, ?_, hlb.trans hb, hls.trans hs, ?_⟩ <;> simp only [hld, hlc, hfi, hpc, hus]
    · simp
      omega
    · exact hended
    · exact fun d hd' => hout d (by omega) (.inl hd')
    · rcases hstops with ⟨hb', hn, hbk, hsame⟩ | ⟨hk0, hb', hone, hn, hbk, hlast⟩
      · refine .inl ⟨hb', hn, hsame, ?_⟩
        rw [hnone hbk, hother]
        exact hregs.1
      · exact .inr ⟨hk0, hb', hone, hn, hlast⟩
  · obtain ⟨t, k, ht, ha, hq, n, g, hme⟩ := issues_nop h hstub (by omega)
    obtain ⟨hregs, ⟨hdepth, hc, hs, hb', hf⟩, _⟩ := opened_keeps false s
    have hback : (opened false s).me.sequel.back = some d :=
      hq.loops_back (hdepth ▸ hd) ((bodyEnd_congr hb').trans hb) (hc ▸ hone)
    have hnext := afterSequel_some hback
    obtain ⟨_, _, _, _, _, _, hus, hv, hc', hflags⟩ := sequel_fields hq (afterSequel_alone _) hme
    have hs' : (opened false s).me.sequel.t.s = s.me.s := by rw [hq.others]; exact hregs.1
    have hin' : (opened false s).me.sequel.t.inflight = [] := by rw [hq.others]; exact (opened_stands false s).1.trans hin
    have hadd (r : Nat) (hr : r < 64) : vget t.me.s r 0 = if 0 < r then
        vget s.me.s r 0 + strideOf (vget s.me.lstride d 0) 2 4 16 r + strideOf (vget s.me.lstride d 0) 3 10 40 r
        else vget s.me.s r 0 := by
      rw [hus, hnext, hs]
      exact addStrides_idle hin hin' hs' hr
    obtain ⟨_, hregc, _, hregv, _, _, _, _, hregf, _⟩ := hregs
    refine ⟨t, ht, fun r h0 hr => ?_, ?_, hv.trans hregv, hc'.trans hregc, hflags.trans hregf, ha.mem⟩
    · rw [hadd r hr, if_pos h0]
      rfl
    · rw [hadd 0 (by decide), if_neg (by decide)]
end Sys2Proof.Machine
end
section
/-!
WAIT, NOP, YIELD, EXIT (R58, R159 to R161), a software trap and its return (R162 to R164).
-/
namespace Sys2Proof.Machine
variable {s : State} {t : Task}

theorem offer_idle_of_wait {c : Nat} (hw : (s.ctx c).wait.isSome = true) (hp : (s.ctx c).pend = []) : offer s c = .idle := by
  simp only [offer, hw, hp, List.isEmpty_nil, Bool.not_true, Bool.false_and, Bool.false_eq_true, if_false, if_true, ite_self]
theorem offer_idle_of_exited {c : Nat} (h : (s.ctx c).exited = true) : offer s c = .idle := by
  simp only [offer, h, Bool.or_true, Bool.true_or, if_true]
theorem phasePassed_iff {x p : BitVec 16} : phasePassed x p = true ↔ 1 ≤ (x - p).toNat ∧ (x - p).toNat ≤ 32767 := by
  simp [phasePassed]
/-- A YIELD counts in the cycle after it (R160). -/
theorem primaryOf_yielded {k : Core} {c n : Nat} {t0 t1 : Task} : primaryOf { k with yielded := some (c, n) } (n + 1) t0 t1 = 1 - c % 2 := by
  have h : (some (c, n)).filter (fun y => y.2 + 1 == n + 1) = some (c, n) := by simp [Option.filter]
  rw [primaryOf, h]
theorem primaryOf_late {k : Core} {c n m : Nat} {t0 t1 : Task} (hm : m ≠ n + 1) :
    primaryOf { k with yielded := some (c, n) } m t0 t1 = primaryOf { k with yielded := none } m t0 t1 := by
  have h : (some (c, n)).filter (fun y => y.2 + 1 == m) = none := by simp [Option.filter, hm.symm]
  rw [primaryOf, h]
  rfl

/-- Settles O28: each effect is the state that it is said to be. -/
theorem nopYieldExitAndFillers : Obligations.NopYieldExitAndFillers := by
  intro s
  refine ⟨does_of _ _ _ _ rfl rfl, fun hb => ?_, fun h hstub => ?_, fun k t0 t1 c n m hc => ⟨?_, fun hm => primaryOf_late hm⟩, fun h => ?_⟩
  · exact congrArg Host.Outcome.next (if_neg (by simp [hb]))
  · refine (settle_acting _ _ _ h).trans (congrArg _ ?_)
    have hme : (s.setCore (coreOf s.cur) { s.core (coreOf s.cur) with yielded := some (s.cur, s.cycle) }).me.stub = none := hstub
    rw [yieldCore, hme]
  · rw [primaryOf_yielded]
    omega
  · refine ⟨_, settle_acting _ _ _ h, ?_⟩
    have hme := State.me_setMe s { s.me with exited := true, crdepth := 0, ldepth := 0 }
    obtain ⟨hmem, hothers, hcur⟩ := actsAlone_setMe s { s.me with exited := true, crdepth := 0, ldepth := 0 }
    refine ⟨?_, ?_, ?_, ?_, hmem, hothers, offer_idle_of_exited ?_⟩
    · rw [hme]
    · rw [hme]
    · rw [hme]
    · rw [hme]
      exact ⟨rfl, rfl, rfl, rfl, rfl, rfl, rfl, rfl, rfl, rfl⟩
    · exact congrArg Task.exited hme

/-- An acquire drops the clean lines of the group's cache, and nothing else (R159). -/
theorem sameMem_cacheAcquire (s : State) (k g : Nat) : SameMem s (cacheAcquire s k g) := by
  refine ⟨fun _ => rfl, fun j a => ?_⟩
  by_cases hj : j = k
  · subst hj
    rw [cacheAcquire, setGroupCache, State.cl_setCl]
    exact ⟨rfl, rfl⟩
  · rw [cacheAcquire, setGroupCache, State.cl_setCl_other _ _ _ _ hj]
    exact ⟨rfl, rfl⟩
theorem groupCache_cacheAcquire (s : State) (k g : Nat) :
    groupCache (cacheAcquire s k g) k g = (groupCache s k g).filter fun x => x.dirty != 0 := by
  rw [groupCache, cacheAcquire, setGroupCache, State.cl_setCl]
  exact tabGet_put_self ..

/-- Settles O27: whether the phase has passed decides between the acquire and the wait. -/
theorem waitGoesOnWhenThePhaseHasPassed : Obligations.WaitGoesOnWhenThePhaseHasPassed := by
  intro s a b scope h bell p n
  have hexec : exec (.wait a b scope) s = .next (waitOn bell p scope s) := by
    have ha : fld 0 16 (s.rs a) = bell := fld_low (by decide) _
    have hb : fld 0 16 (s.rs b) = p := fld_low (by decide) _
    rw [← ha, ← hb]
    exact settle_acting _ _ _ h
  refine ⟨fun hn hs => ?_, fun hn hs => ⟨_, hexec, ?_⟩, fun hn => ?_, fun u c hw hp => offer_idle_of_wait hw hp⟩
  · rw [hexec, waitOn, if_pos (phasePassed_iff.mpr hn), acquireFor, if_pos hs]
  · rw [waitOn, if_pos (phasePassed_iff.mpr hn), acquireFor, if_neg hs]
    refine ⟨rfl, ?_, sameMem_cacheAcquire .., fun _ _ => rfl⟩
    refine (groupCache_cacheAcquire s (clOf s.cur) s.me.group).trans (List.filter_congr fun x _ => ?_)
    simp [bne, beq_eq_decide]
  · rw [hexec, waitOn, if_neg (mt phasePassed_iff.mp hn)]

theorem opened_code (c : Bool) (s : State) : (opened c s).me.code = s.me.code ∧ (opened c s).me.heldWait = s.me.heldWait := by
  obtain ⟨m, a, u, x, _, hme⟩ := opened_me c s
  rw [hme]
  exact ⟨rfl, rfl⟩

/-- The end of a bundle with a TRAP: the bundle shuts, and its trap is taken (R162). -/
theorem closeBundle_trap {code : BitVec 27} (hr : s.me.ret = none) (he : s.me.exited = false) (hb : s.me.branch = none)
    (ht : s.me.swTrap = some code) : closeBundle s = takeTrap (shutBundle s s.afterSequel) s.cur cSoft (code.zeroExtend 64)
      (shutBundle s s.afterSequel).me.pcWord := by
  unfold closeBundle
  simp only [hr, he, hb, ht, Bool.false_eq_true, if_false]
  exact congrArg (fun x => takeTrap (shutBundle s x) s.cur cSoft (code.zeroExtend 64) (shutBundle s x).me.pcWord)
    (afterSequel_eq s).symm
/-- The end of a bundle with a TRET, outside a restore stub and with no wait that a trap interrupted (R164). -/
theorem closeBundle_ret {w : Word} (hr : s.me.ret = some w) (hs : s.me.stub = none) (hw : s.me.heldWait = none) : closeBundle s =
    shutBundle s { s.me.counted s.bits false false with pc := addrOf w, first := fld 58 6 w, handler := false } := by
  obtain ⟨k, g, hc⟩ := counted_eq s.bits false false s.me
  unfold closeBundle
  simp only [hr, hc]
  generalize hu : shutBundle s _ = u
  have hme : u.me = _ := hu ▸ shutBundle_me _ _
  have hend : endRestore u = u := by
    have hstub : u.me.stub = none := by rw [hme]; exact hs
    simp only [endRestore, hstub]
  have hheld : (u.ctx s.cur).heldWait = none := by
    have hcur : u.cur = s.cur := by rw [← hu]; rfl
    rw [← hcur]
    change u.me.heldWait = none
    rw [hme]
    exact hw
  rw [hend, resumeWait, hheld]

/-- A trap that is taken (R163). -/
theorem takeTrap_enters {c cause v : Nat} {info pcw : Word} (hs : (s.ctx c).stub.isSome = false)
    (hh : (s.ctx c).handler = false ∨ cause = cSoft) (hv : (s.ctx c).code.trap = some v) : takeTrap s c cause info pcw =
      s.setCtx c { s.ctx c with
        trapcause := BitVec.ofNat 16 cause, trappc := pcw, trapinfo := info, handler := true,
        wait := none, heldWait := if (s.ctx c).wait.isSome then (s.ctx c).wait else (s.ctx c).heldWait,
        pc := addrOf (BitVec.ofNat 64 v) } := by
  have hno : ((s.ctx c).handler && cause != cSoft) = false := by
    rcases hh with h | h <;> simp [h]
  simp only [takeTrap, hs, hno, hv, Bool.false_eq_true, if_false]

/-- The end of a TRAP's bundle outside stubs and loops: the task x of the bundle goes on to the next address, and into its trap. -/
theorem closeBundle_trap_enters {code : BitVec 27} {v : Nat} (hr : s.me.ret = none) (he : s.me.exited = false)
    (hb : s.me.branch = none) (ht : s.me.swTrap = some code) (hs : s.me.stub.isSome = false) (hd : s.me.ldepth = 0)
    (hl : s.me.loop0 = none) (hv : s.me.code.trap = some v) : ActsAlone s (closeBundle s) ∧ (closeBundle s).me =
      { s.me.over (addrOf (BitVec.ofNat 64 v)) s.me.segcount s.me.segsig with
        trapcause := 14, trappc := pcWordOf s.me.first (nextAddr s.me.pc), trapinfo := code.zeroExtend 64, handler := true,
        wait := none, heldWait := if s.me.wait.isSome then s.me.wait else s.me.heldWait } := by
  have hnext : s.afterSequel = { s.me with pc := nextAddr s.me.pc } := by
    rw [afterSequel_stop (.inr (.inl hd)), hl]
    rfl
  rw [closeBundle_trap hr he hb ht, hnext]
  have hz := shutBundle_me s { s.me with pc := nextAddr s.me.pc }
  have halone := actsAlone_shutBundle s { s.me with pc := nextAddr s.me.pc }
  generalize shutBundle s { s.me with pc := nextAddr s.me.pc } = z at *
  have hz' : z.ctx s.cur = z.me := by rw [← halone.cur]; rfl
  have hzs : z.me.stub.isSome = false := by rw [hz]; exact hs
  have hzv : z.me.code.trap = some v := by rw [hz]; exact hv
  rw [takeTrap_enters (by rwa [hz']) (.inr rfl) (by rwa [hz']), hz', ← halone.cur]
  refine ⟨halone.trans (actsAlone_setMe z _), (State.me_setMe z _).trans ?_⟩
  rw [hz]
  rfl

/-- A TRAP that issues outside stubs and loops (R162). -/
theorem issues_trap {code : BitVec 27} {v : Nat} (h : Issues (.trap code) s) (hs : s.me.stub = none) (hd : s.me.ldepth = 0)
    (hv : s.me.code.trap = some v) : ∃ u k g w, exec (.trap code) s = .next u ∧ ActsAlone s u ∧ u.me =
      { (opened false s).me.over (addrOf (BitVec.ofNat 64 v)) k g with
        trapcause := 14, trappc := pcWordOf (opened false s).me.first (nextAddr (opened false s).me.pc),
        trapinfo := code.zeroExtend 64, handler := true, wait := none, heldWait := w } := by
  obtain ⟨hr, hb, _, hl, _⟩ := opened_requests false s
  obtain ⟨_, ⟨hdepth, _⟩, _⟩ := opened_keeps false s
  obtain ⟨_, _, hex⟩ := opened_stands false s
  obtain ⟨hcode, _⟩ := opened_code false s
  have hstub := (opened_stub false s).trans (congrArg Option.isSome hs)
  have hme := State.me_setMe (opened false s) { (opened false s).me with swTrap := some code }
  obtain ⟨ha, ht⟩ := closeBundle_trap_enters (s := (opened false s).setMe { (opened false s).me with swTrap := some code })
    (code := code) (v := v) (by rw [hme]; exact hr) (by rw [hme]; exact hex.trans h.running) (by rw [hme]; exact hb) (by rw [hme])
    (by rw [hme]; exact hstub) (by rw [hme]; exact hdepth.trans hd) (by rw [hme]; exact hl) (by rw [hme, ← hv, ← hcode])
  rw [hme] at ht
  exact ⟨_, _, _, _, settle_issues _ _ _ h, ((actsAlone_opened false s).trans (actsAlone_setMe _ _)).trans ha, ht⟩
/-- A TRET that issues outside stubs, with no wait that a trap interrupted (R164). -/
theorem issues_tret (h : Issues .tret s) (hs : s.me.stub = none) (hw : s.me.heldWait = none) : ∃ u k g,
    exec .tret s = .next u ∧ ActsAlone s u ∧ u.me =
      { (opened false s).me.over (addrOf s.me.trappc) k g with first := fld 58 6 s.me.trappc, handler := false } := by
  obtain ⟨_, hheld⟩ := opened_code false s
  have hstub : (opened false s).me.stub = none := by
    rw [← Option.isNone_iff_eq_none, ← Option.not_isSome, opened_stub, hs]
    rfl
  have hme := State.me_setMe (opened false s) { (opened false s).me with ret := some s.me.trappc }
  have hret := closeBundle_ret (s := (opened false s).setMe { (opened false s).me with ret := some s.me.trappc })
    (by rw [hme]) (by rw [hme]; exact hstub) (by rw [hme]; exact hheld.trans hw)
  obtain ⟨k, g, hc⟩ := counted_eq ((opened false s).setMe { (opened false s).me with ret := some s.me.trappc }).bits false false
    { (opened false s).me with ret := some s.me.trappc }
  rw [hme, hc] at hret
  exact ⟨_, k, g, settle_issues _ _ _ h,
    ((actsAlone_opened false s).trans (actsAlone_setMe _ _)).trans (hret ▸ actsAlone_shutBundle _ _),
    (congrArg State.me hret).trans (shutBundle_me _ _)⟩

/-- Settles O30: the bundle of a TRAP ends as a NOP's would, and its trap is taken then; TRET's bundle ends at TRAPPC. -/
theorem softwareTrapAndReturn : Obligations.SoftwareTrapAndReturn := by
  intro s code v hstub
  obtain ⟨hregs, hloops, _, htrappc, _⟩ := opened_keeps false s
  obtain ⟨hd, hc, hst, hb, hf⟩ := hloops
  obtain ⟨_, hpc, _⟩ := opened_stands false s
  refine ⟨fun h hdepth hv => ?_, fun h hw => ?_⟩
  · obtain ⟨u, k, g, w, hexec, ha, hme⟩ := issues_trap h hstub hdepth hv
    refine ⟨u, hexec, ?_, ?_, ?_, ?_, ?_, ?_, ?_, ha.mem, ha.others⟩ <;> rewrite [hme]
    case refine_3 =>
      rw [hpc, hf]
      rfl
    case refine_6 => exact hregs
    case refine_7 => exact ⟨hd, hc, hst, hb, hf⟩
    all_goals rfl
  · obtain ⟨u, k, g, hexec, ha, hme⟩ := issues_tret h hstub hw
    refine ⟨u, hexec, ?_, ?_, ?_, ?_, ?_, ?_, ?_, ha.mem, ha.others⟩ <;> rewrite [hme]
    · rfl
    · rfl
    · rfl
    · exact htrappc
    · exact hregs
    · exact hd
    · exact hc
end Sys2Proof.Machine
end
section
/-!
SEGMENTS AND CONTAINMENT REGIONS (R165 to R167): what counts at the end of a bundle, and what opening and closing a region leave.
-/
namespace Sys2Proof.Machine
variable {s : State} {t : Task}

-- Counting.

theorem counted_once {bits : BitVec 128} {taken back : Bool} (hc : t.counts = true) (hs : t.segSet = 0) :
    t.counted bits taken back = { t with segcount := t.segcount + 1, segsig := bundleSig t.segsig bits taken back } := by
  rw [Task.counted, hc, hs]
  rfl
theorem counted_suspended {bits : BitVec 128} {taken back : Bool} (h : t.counts = false ∨ t.segSet = 3) :
    t.counted bits taken back = t := by
  rcases h with hc | hs
  · rw [Task.counted, hc]
    rfl
  · have h0 : bitAt 0 t.segSet = true := by rw [hs]; rfl
    have h1 : bitAt 1 t.segSet = true := by rw [hs]; rfl
    simp only [Task.counted, h0, h1, if_true, ite_self]
theorem counts_iff : t.counts = true ↔ t.handler = false ∧ t.stub = none := by
  simp [Task.counts]
theorem not_counts_iff : t.counts = false ↔ t.handler = true ∨ t.stub.isSome = true := by
  cases h : t.handler <;> cases h' : t.stub <;> simp [Task.counts, h, h']

-- The sequencer touches neither segments nor traps.

/-- Task u is t but for the PC, the loops in progress, the S registers and the results in flight. -/
def SequelAlone (t u : Task) : Prop := u = { t with
  lcount := u.lcount, first := u.first, ldepth := u.ldepth, pc := u.pc, s := u.s, poisonS := u.poisonS, inflight := u.inflight }
theorem SequelAlone.trans {t u v : Task} (h : SequelAlone t u) (h' : SequelAlone u v) : SequelAlone t v := by
  unfold SequelAlone at *
  rw [h', h]
theorem StridesAlone.sequelAlone {t u : Task} (h : StridesAlone t u) : SequelAlone t u := by
  unfold SequelAlone
  rw [h]
theorem loopEnd_alone (fuel : Nat) (a : Word) (t : Task) : SequelAlone t (loopEnd fuel a t).t := by
  induction fuel generalizing t with
  | zero => rfl
  | succ fuel ih =>
    simp only [loopEnd]
    split_ifs
    · rfl
    · rfl
    · exact SequelAlone.trans (u := t.endLevel (t.ldepth.toNat - 1)) rfl (ih _)
theorem afterSequel_sequelAlone (s : State) : SequelAlone s.me s.afterSequel := by
  have hseq : SequelAlone s.me s.me.sequel.t := by
    rw [sequel_eq]
    split_ifs
    · rfl
    · exact loopEnd_alone ..
  have hpc : SequelAlone s.me.sequel.t { s.me.sequel.t with pc := s.me.sequel.next } := rfl
  exact (hseq.trans hpc).trans (afterSequel_alone s).sequelAlone
/-- What the sequencer leaves alone. -/
theorem SequelAlone.keeps {t u : Task} (h : SequelAlone t u) : u.counts = t.counts ∧ u.segSet = t.segSet ∧ u.segid = t.segid ∧
    u.segcount = t.segcount ∧ u.segsig = t.segsig ∧ u.SameTraps t := by
  unfold SequelAlone at h
  rw [h]
  exact ⟨rfl, rfl, rfl, rfl, rfl, rfl, rfl, rfl, rfl, rfl, rfl⟩

/-- A bundle that takes no branch and is not counted. -/
theorem closeBundle_uncounted (hq : s.me.Quiet) (h : s.me.counts = false ∨ s.me.segSet = 3) : ActsAlone s (closeBundle s) ∧
    (closeBundle s).me = s.afterSequel.over s.afterSequel.pc s.me.segcount s.me.segsig := by
  obtain ⟨hr, he, hb, ht⟩ := hq
  obtain ⟨hc, hset, _, hn, hg, _⟩ := (afterSequel_sequelAlone s).keeps
  rw [closeBundle_sequel hr he hb ht, counted_suspended (by rwa [hc, hset]), ← hn, ← hg]
  exact ⟨actsAlone_shutBundle _ _, shutBundle_me _ _⟩
/-- A bundle that takes no branch, outside loops, handlers and stubs, and is counted (R165). -/
theorem closeBundle_counted (hq : s.me.Quiet) (hc : s.me.counts = true) (hset : s.me.segSet = 0) (hd : s.me.ldepth = 0) :
    ∃ pc, (closeBundle s).me = s.me.over pc (s.me.segcount + 1) (bundleSig s.me.segsig s.bits false false) := by
  obtain ⟨hr, he, hb, ht⟩ := hq
  have hback : s.me.sequel.back.isSome = false := by rw [sequel_stop (.inr (.inl hd))]; rfl
  obtain ⟨hc', hset', _, hn, hg, _⟩ := (afterSequel_sequelAlone s).keeps
  rw [closeBundle_sequel hr he hb ht, hback, counted_once (hc'.trans hc) (hset'.trans hset), shutBundle_me, hn, hg,
    afterSequel_stop (.inr (.inl hd))]
  exact ⟨_, rfl⟩

theorem opened_counts (c : Bool) (s : State) : (opened c s).me.counts = s.me.counts ∧ (opened c s).me.segid = s.me.segid ∧
    (opened c s).me.segcount = s.me.segcount ∧ (opened c s).me.segsig = s.me.segsig := by
  obtain ⟨m, a, u, x, hu, hme⟩ := opened_me c s
  rw [hme]
  refine ⟨?_, rfl, rfl, rfl⟩
  simp only [Task.counts, ← Option.not_isSome, hu]

theorem exec_nop (h : Issues .nop s) : exec .nop s = .next (closeBundle (opened false s)) := settle_issues .nop (fun s => s) s h

-- Regions.

theorem cmdsOf_map {f : Cmd → Cmd} {tid : Nat} {s t : State} (ht : t.engs = s.engs.map fun e => (e.1, e.2.map f))
    (hf : ∀ c, (f c).tid = c.tid ∧ (f c).marker = c.marker) : cmdsOf t tid = (cmdsOf s tid).map fun x => (x.1, f x.2) := by
  simp only [cmdsOf, ht, List.flatMap_map, List.map_flatMap, List.map_map, List.filter_map, Function.comp_def, hf]

theorem Task.SameTraps.trans {t u v : Task} (h : t.SameTraps u) (h' : u.SameTraps v) : t.SameTraps v := by
  obtain ⟨h1, h2, h3, h4, h5, h6⟩ := h
  obtain ⟨k1, k2, k3, k4, k5, k6⟩ := h'
  exact ⟨h1.trans k1, h2.trans k2, h3.trans k3, h4.trans k4, h5.trans k5, h6.trans k6⟩

theorem cmdsOf_tid {tid : Nat} {x : Nat × Cmd} (h : x ∈ cmdsOf s tid) : x.2.tid = tid := by
  simp only [cmdsOf, List.mem_flatMap, List.mem_map, List.mem_filter] at h
  obtain ⟨_, _, c, ⟨_, hc⟩, rfl⟩ := h
  rw [Bool.and_eq_true, beq_iff_eq] at hc
  exact hc.1

/-- The regions of a task when CROPEN opens one (R167). -/
def Task.openRegion (t : Task) (a : Word) : Task :=
  { t with crlevel := vput t.crlevel t.crdepth.toNat a, crdepth := BitVec.ofNat 3 (t.crdepth.toNat + 1) }
theorem openRegion_spec {a : Word} (hd : t.crdepth.toNat < 4) : (t.openRegion a).crdepth.toNat = t.crdepth.toNat + 1 ∧
    (t.openRegion a).crhandler = a ∧ ∀ d, d ≠ t.crdepth.toNat → vget (t.openRegion a).crlevel d 0 = vget t.crlevel d 0 := by
  have hdepth : (t.openRegion a).crdepth.toNat = t.crdepth.toNat + 1 := by
    simp [Task.openRegion]
    omega
  refine ⟨hdepth, ?_, fun d hne => vget_put_other _ _ _ _ _ hne⟩
  rw [Task.crhandler, if_neg (fun h => by rw [h] at hdepth; simp at hdepth), hdepth]
  exact vget_put_self _ _ _ _ hd

/-- A command of task tid after its region d is closed (R167). -/
def Cmd.passed (tid d : Nat) (c : Cmd) : Cmd :=
  if c.tid = tid ∧ c.region = some d then { c with region := if d = 0 then none else some (d - 1) } else c
theorem closeRegion_spec : (closeRegion s).me = { s.me with crdepth := BitVec.ofNat 3 (s.src.crdepth.toNat - 1) } ∧
    SameMem s (closeRegion s) ∧ OthersSame s (closeRegion s) ∧ ∀ tid, cmdsOf (closeRegion s) tid =
      (cmdsOf s tid).map fun x => (x.1, x.2.passed s.src.tid (s.src.crdepth.toNat - 1)) := by
  obtain ⟨hmem, hothers, _⟩ := actsAlone_setMe s { s.me with crdepth := BitVec.ofNat 3 (s.src.crdepth.toNat - 1) }
  refine ⟨State.me_setMe s _, hmem, hothers, fun tid => cmdsOf_map rfl fun c => ?_⟩
  unfold Cmd.passed
  split_ifs <;> exact ⟨rfl, rfl⟩

/-- SEG where bundles count: the segment starts at 0 and 0 (R166). -/
def Task.startSegment (t : Task) (id : BitVec 27) : Task :=
  { t with segid := id.zeroExtend 32, segcount := 0, segsig := 0, segSet := 3,
           undefC := t.undefC.filter fun n => n < 0x26 || 0x28 < n }
/-- A SEG that issues (R166): it starts its segment in x, or it leaves x as it is where bundles do not count. -/
theorem issues_seg {id : BitVec 27} (h : Issues (.seg id) s) : ∃ y, exec (.seg id) s = .next (closeBundle y) ∧ ActsAlone s y ∧
    y.me = if s.me.counts then (opened false s).me.startSegment id else (opened false s).me := by
  refine ⟨_, settle_issues _ _ _ h, ?_⟩
  have hsrc : (opened false s).src = s.me := opened_src false s
  change ActsAlone s (if (opened false s).src.counts then (opened false s).setMe ((opened false s).me.startSegment id) else opened false s) ∧
    (if (opened false s).src.counts then (opened false s).setMe ((opened false s).me.startSegment id) else opened false s).me = _
  rw [hsrc]
  split_ifs
  · exact ⟨(actsAlone_opened _ _).trans (actsAlone_setMe _ _), State.me_setMe _ _⟩
  · exact ⟨actsAlone_opened _ _, rfl⟩

/-- Settles O31: what the end of a bundle counts is its task's alone; regions are the depth, and the levels below it. -/
theorem segmentsAndRegions : Obligations.SegmentsAndRegions := by
  refine ⟨fun s id => ⟨fun h hh hs hd => ?_, fun h hsus => ?_, fun h => ?_⟩, fun s off => ⟨fun h hsrc hd => ?_, fun h hsrc hd => ?_⟩⟩
  · have hq := opened_quiet false h
    obtain ⟨hc, hid, hn, hg⟩ := opened_counts false s
    obtain ⟨_, ⟨hdepth, _⟩, _⟩ := opened_keeps false s
    obtain ⟨_, _, _, _, hset⟩ := opened_requests false s
    obtain ⟨pc, hme⟩ := closeBundle_counted (s := opened false s) hq (hc.trans (counts_iff.mpr ⟨hh, hs⟩)) hset (hdepth.trans hd)
    have hexec := exec_nop h
    refine ⟨_, hexec, ?_⟩
    rewrite [hme, ← hn, ← hg]
    exact ⟨rfl, rfl, hid⟩
  · have hq := opened_quiet false h
    obtain ⟨hc, _, hn, hg⟩ := opened_counts false s
    obtain ⟨_, hme⟩ := closeBundle_uncounted (s := opened false s) hq (.inl (hc.trans (not_counts_iff.mpr hsus)))
    have hexec := exec_nop h
    refine ⟨_, hexec, ?_⟩
    rewrite [hme]
    exact ⟨hn, hg⟩
  · obtain ⟨y, hexec, ha, hy⟩ := issues_seg h
    obtain ⟨hc, hid, hn, hg⟩ := opened_counts false s
    obtain ⟨hregs, hloops, htraps⟩ := opened_keeps false s
    have hq := opened_quiet false h
    have hyq : y.me.Quiet := by
      rw [hy]
      split_ifs <;> exact hq
    have hyc : y.me.counts = false ∨ y.me.segSet = 3 := by
      rw [hy]
      split_ifs with h'
      · exact .inr rfl
      · exact .inl (hc.trans (Bool.eq_false_iff.mpr h'))
    obtain ⟨hyt, hyregs, hyloops⟩ : y.me.SameTraps s.me ∧ y.me.SameRegs s.me ∧ y.me.SameLoops s.me := by
      rw [hy]
      split_ifs <;> exact ⟨htraps, hregs, hloops⟩
    obtain ⟨ha', hme⟩ := closeBundle_uncounted hyq hyc
    obtain ⟨_, _, hseg, _, _, htr⟩ := (afterSequel_sequelAlone y).keeps
    refine ⟨_, hexec, ?_, (ha.trans ha').mem, fun hd => ?_, fun hh hs => ?_, fun hsus => ?_⟩
    · rewrite [hme]
      exact htr.trans hyt
    · rewrite [hme]
      have hstop := afterSequel_stop (s := y) (.inr (.inl (hyloops.1.trans hd)))
      rw [hstop]
      exact ⟨hyregs, hyloops⟩
    · have hcounts : s.me.counts = true := counts_iff.mpr ⟨hh, hs⟩
      rewrite [hme]
      change y.afterSequel.segid = _ ∧ y.me.segcount = _ ∧ y.me.segsig = _
      rw [hseg, hy, if_pos hcounts]
      exact ⟨rfl, rfl, rfl⟩
    · have hcounts : ¬s.me.counts = true := Bool.eq_false_iff.mp (not_counts_iff.mpr hsus)
      rewrite [hme]
      change y.afterSequel.segid = _ ∧ y.me.segcount = _ ∧ y.me.segsig = _
      rw [hseg, hy, if_neg hcounts]
      exact ⟨hid, hn, hg⟩
  · have hexec : exec (.cropen off) s = .next (s.setMe (s.me.openRegion (branchTo s.me.pc (sext64 off)))) := by
      refine (settle_acting _ _ _ h).trans ?_
      change Host.Outcome.next (s.setMe { s.me with
        crlevel := vput s.me.crlevel s.src.crdepth.toNat (branchTo s.src.pc (sext64 off)),
        crdepth := BitVec.ofNat 3 (s.src.crdepth.toNat + 1) }) = _
      rw [hsrc]
      rfl
    have ha := actsAlone_setMe s (s.me.openRegion (branchTo s.me.pc (sext64 off)))
    have hme := State.me_setMe s (s.me.openRegion (branchTo s.me.pc (sext64 off)))
    obtain ⟨hdepth, hhandler, hother⟩ := openRegion_spec (a := branchTo s.me.pc (sext64 off)) hd
    refine ⟨_, hexec, ?_, ?_, fun d hd4 hne => ?_, ?_, ?_, ha.mem, ha.others⟩ <;> rewrite [hme]
    · exact hdepth
    · exact hhandler
    · exact hother d hne
    · exact ⟨rfl, rfl, rfl, rfl, rfl, rfl, rfl, rfl, rfl, rfl⟩
    · exact ⟨rfl, rfl, rfl, rfl, rfl⟩
  · have hexec : exec .crclose s = .next (closeRegion s) := settle_acting _ _ _ h
    obtain ⟨hme, hmem, hothers, hcmds⟩ := closeRegion_spec (s := s)
    rw [hsrc] at hme hcmds
    have hdepth : (BitVec.ofNat 3 (s.me.crdepth.toNat - 1)).toNat = s.me.crdepth.toNat - 1 := by
      simp
      omega
    refine ⟨_, hexec, ?_, ?_, ?_, ?_, ?_, ?_, hmem, hothers⟩
    case refine_4 =>
      refine (hcmds _).trans (List.map_congr_left fun x hx => ?_)
      have hcond : s.me.crdepth.toNat - 1 = 0 ↔ s.me.crdepth.toNat = 1 := by omega
      simp only [Cmd.passed, cmdsOf_tid hx, true_and, hcond]
      split_ifs <;> rfl
    all_goals rewrite [hme]
    · exact hdepth
    · rfl
    · change (if BitVec.ofNat 3 (s.me.crdepth.toNat - 1) = 0 then 0 else
        vget s.me.crlevel ((BitVec.ofNat 3 (s.me.crdepth.toNat - 1)).toNat - 1) 0) = _
      have hzero : BitVec.ofNat 3 (s.me.crdepth.toNat - 1) = 0 ↔ s.me.crdepth.toNat = 1 := by
        rw [BitVec.toNat_eq, hdepth]
        change _ = 0 ↔ _
        omega
      simp only [hzero, hdepth, Nat.sub_sub]
    · exact ⟨rfl, rfl, rfl, rfl, rfl, rfl, rfl, rfl, rfl, rfl⟩
    · exact ⟨rfl, rfl, rfl, rfl, rfl⟩
end Sys2Proof.Machine
end
section
/-!
AN ARM ON A MESH BELL (R385): a replica at the root with a held event. The phase completes when the bell is armed; the held ARM then is
an overrun, whose record the part writes into the job's ring. Where the ring stands over the communicator's table, the table names
another root after the ARM than at its test.
-/
namespace Sys2Proof.Machine

/-- A replica that one ARM of target 1 completes, with five early arrivals and an ARM of target 1 held. -/
def heldBell : Bell :=
  { Bell.empty with count := 1, early := 5, held := [(some (1, false), 0)], holder := some (1, some 0, none) }
/-- Job 1, with its ring of one record at address 0. -/
def ringJob : Job := { Job.empty with w := vput Job.empty.w 0 (2 ^ 63 + 1) }
/-- A task whose s1 names mesh bell 0. -/
def armingTask : Task := { Task.empty with s := vput Task.empty.s 1 0x8000 }
/-- Package 0, which is the root, and the one member, of communicator 0; its table too is at address 0. -/
def ringOverTable : State :=
  { State.reset with
    ctxs := [(0, armingTask)], before := some armingTask, bells := [(0, heldBell)], jobs := [(0, ringJob)],
    comms := [(0, BitVec.ofNat 512 (2 ^ 48))] }
/-- The state after the ARM of target 1. -/
def ringWritten : State := meshLocal ringOverTable 0 (some (1, false), 0)

theorem exec_arm_ringOverTable : exec (.arm 1 0 false 1) ringOverTable = .next ringWritten :=
  settle_acting _ _ _ ⟨rfl, by decide +kernel⟩
/-- The record stands over the table, which names package 3. -/
theorem ringWritten_root : commPkg ringWritten (commWord ringWritten 0) 0 ≠ ringWritten.pkg := by decide +kernel
/-- The phase has completed. -/
theorem ringWritten_phase : (getBell ringWritten (.mesh 0)).phase = 1 := by decide +kernel

/-- Refutes O26: MeshTested reads the root from the table as it stands after the ARM, and the record of an event that was held, which
is posted when the phase completes, may have written there; the replica then is at the next phase, and not READY for another root. -/
theorem not_armAndArriveReachTheirBell : ¬ Obligations.ArmAndArriveReachTheirBell := by
  intro h
  obtain ⟨u, hu, ⟨_, htested⟩, _⟩ := (h.2 ringOverTable 1 0 false 1 0 (by decide +kernel) rfl).1 ⟨rfl, by decide +kernel⟩
  obtain rfl : u = ringWritten := Host.Outcome.next.inj (hu.symm.trans exec_arm_ringOverTable)
  obtain ⟨hready, _⟩ := htested rfl (by decide +kernel) rfl
  have hphase := congrArg Bell.phase (hready ringWritten_root)
  rw [ringWritten_phase] at hphase
  exact absurd hphase (by decide +kernel)
end Sys2Proof.Machine
end
